-- ==== Sys2Proof/Word.lean ====
section
/-! DEFINITION. The word types of the register space and the place of a field in a register (R3, R6). -/

namespace Sys2Proof.Machine

/-- A BAR0 register (R6). -/
abbrev Word := BitVec 32

/-- A byte of a descriptor, record, table entry or buffer (R3). -/
abbrev Byte := BitVec 8

/-- Bits `hi` down to `lo` of the register at byte address `addr` of BAR0 (R3). -/
structure Field where
  addr : Nat
  hi : Nat
  lo : Nat
  deriving DecidableEq, Repr

/-- The number of bits of a field. -/
def Field.width (f : Field) : Nat := f.hi - f.lo + 1

/-- The largest value a field holds. -/
def Field.max (f : Field) : Nat := 2 ^ f.width - 1

end Sys2Proof.Machine
end

