-- ==== Sys2Proof/Syntax.lean ====
section
/-! DEFINITION. The commands the block takes from outside: one constructor of Instr for each row of
opcode_table.json. The table gives its rows no operands; a constructor carries what the rules of its row say
comes from outside the block with that step: an address and a value, a ring, the bytes read from host memory, a
measured result, a received frame. -/

namespace Sys2Proof

/-- The two fibre ports (R10). -/
inductive Port where
  | a
  | b
  deriving DecidableEq, Repr

/-- The number of a port in registers and records: 0 for A, 1 for B. -/
def Port.num : Port → Nat
  | .a => 0
  | .b => 1

/-- The other port. -/
def Port.other : Port → Port
  | .a => .b
  | .b => .a

/-- The two Flume ports, FP0 and FP1 (R318). -/
inductive EthPort where
  | fp0
  | fp1
  deriving DecidableEq, Repr

/-- The number of a Flume port in registers and records. -/
def EthPort.num : EthPort → Nat
  | .fp0 => 0
  | .fp1 => 1

/-- The ring kinds of the host interface (Rings, R296). -/
inductive RingKind where
  | cmd
  | cpl
  | evr
  | cap
  deriving DecidableEq, Repr

/-- A resource that has an ownership register (Shared resources and their ownership registers, R19). -/
inductive Resource where
  | pin (n : Fin 96)
  | rowSwitch (n : Fin 16)
  | msync
  | modulator (k : Fin 8)
  | field (n : Fin 16)
  | timer (n : Fin 16)
  | buffer (n : Fin 16)
  | context (n : Fin 4)
  deriving DecidableEq, Repr

/-- What a failed host-memory access was for (R315, R313): an item's own buffer, or an entry or write-back of a
ring. -/
inductive DmaFault where
  | item (cap : Bool) (ring : Fin 16)
  | ring (kind : RingKind) (ring : Fin 16)
  deriving DecidableEq, Repr

/-- The region of Deck that holds a faulty word (Uncorrectable Deck errors, R344). -/
inductive DeckRegion where
  | ring
  | flume (port : EthPort)
  | buffer (n : Fin 16)
  | accumulators (port : Port)
  | ringIndex
  | other
  deriving DecidableEq, Repr

/-- The area of Landing that holds a faulty sector (R362). -/
inductive LandingArea where
  | capture
  | archive
  | system
  deriving DecidableEq, Repr

/-- The compressed values of one point in one slot, X and Y complex (R63, R67), in a fixed scale, and whether a clipped or
saturated raw sample went into them (R61, R84). -/
structure Compressed where
  xr : Int
  xi : Int
  yr : Int
  yi : Int
  clip : Bool
  deriving DecidableEq, Repr

/-- What a port's receivers give for one slot: its points from 0 of its own index space, the clipped ADC samples and the
internal saturations (R61, R84), and for a borrowed slot each point's Brillouin spectrum, none where it is excluded for
clipping, with those of the positions beyond END (R91, R92). -/
structure SlotInput where
  points : List Compressed
  clipped : Nat
  saturated : Nat
  spectra : List (Option (List Nat))
  noise : List (List Nat)
  /-- Under overload, Kerf could not complete the slot's record within the bound of R65 (R82). -/
  late : Bool
  deriving DecidableEq, Repr

/-- What a completed sweep gives: E averaged over 256 sweeps and whether the end reflects (R52), the cut point C (R53), the
sums of the level over the 200 positions beyond END by band (R66), and the RMS values as KRF_Px_ADC_MON lays them out
(R62). -/
structure SweepInput where
  endPoint : Option Nat
  refl : Bool
  cut : Option Nat
  floor : List Nat
  rms : BitVec 32
  deriving DecidableEq, Repr


/-- An evaluated pulse that ends: a pin's sub-pulse or proof pulse, or a column's pixel in the row slot being scanned, with
whether PP found it present (R182). -/
inductive Pulse where
  | pin (n : Fin 96) (present : Bool)
  | pixel (col : Fin 48) (present : Bool)
  deriving DecidableEq, Repr

/-- What an overcurrent comparator watches (R180, R181): the sink of a pin or a row switch, or a bypass switch of a bank. -/
inductive OcTarget where
  | object (n : Fin 112)
  | bypass (bank : Fin 8)
  deriving DecidableEq, Repr

/-- Who converts on a Caliper unit (R200 to R202): sequence 0, sequence 1, or the urgent request that runs. -/
inductive CalSource where
  | seq0
  | seq1
  | urgent
  deriving DecidableEq, Repr

/-- What the lanes publish in a step (R212 to R214): the digests of lanes 0 to 2, a lane whose interval counter has left its
bound, and objects whose quad voter was found to have a faulty element (R238). -/
structure LaneView where
  d0 : BitVec 64
  d1 : BitVec 64
  d2 : BitVec 64
  drift : Option (Fin 3)
  voter : List (Fin 112)
  deriving DecidableEq, Repr

/-- A valid coupler frame (R283): to the field side, or from it with the raw input level, the pin's read-back comparator
(none between its two levels, R282) and the conditions OVL, OPEN and CONT since the frame before (R280). -/
inductive FieldFrame where
  | toField
  | fromField (raw : Bool) (pin : Option Bool) (ovl openWire cont : Bool)
  deriving DecidableEq, Repr

/-- A received IEEE 1588 message of the general or event kind (R386): an Announce with its PTP timescale flag and whether the best
master clock algorithm selects its sender, a Sync with its origin time t1 (none for a two-step one) and its receipt t2, a
Follow_Up, or a Delay_Resp to a Delay_Req. -/
inductive PtpMessage where
  | announce (master : BitVec 64) (ptp best : Bool)
  | sync (master : BitVec 64) (seq : BitVec 16) (t1 : Option (BitVec 64)) (t2 : BitVec 64)
  | followUp (master : BitVec 64) (seq : BitVec 16) (t1 : BitVec 64)
  | delayResp (master : BitVec 64) (seq : BitVec 16) (t4 : BitVec 64)
  deriving DecidableEq, Repr

/-- What a self-test partition comes to (R397, R399): the faults found, the elements replaced by spares, whether a fault could not
be repaired and the object it concerns, and the step's signature and coverage so far. -/
structure PartResult where
  faults : BitVec 16
  repaired : List Nat
  unrepaired : Bool
  object : BitVec 24
  sig : BitVec 32
  coverage : BitVec 16
  deriving DecidableEq, Repr

/-- The commands of the block, one constructor per row of opcode_table.json, in its order. Each carries what
comes from outside with that step. -/
inductive Instr where
  /-- REGISTER_WRITE (R4): A BAR0 write to a register without behaviour of its own sets its fields, or is ignored and counted when the access code, width, state or encoding forbids it. -/
  | registerWrite (addr : Nat) (width : Nat) (value : BitVec 64)
  /-- LO_REGISTER_SNAPSHOT_READ (R6): A read of a _LO register returns its bits and snapshots the matching _HI register. -/
  | loRegisterSnapshotRead (addr : Nat) (width : Nat)
  /-- CLAIM_HOST (R19): A write of CLAIM_HOST to an ownership register claims the resource for the host or is refused with CONFLICT. -/
  | claimHost (res : Resource)
  /-- RELEASE_HOST (R19): A write of RELEASE_HOST frees a host-owned resource, or is treated as a refused host claim. -/
  | releaseHost (res : Resource)
  /-- OWNERSHIP_CNT_CLR (R19): A write of CNT_CLR to an ownership register clears CONFLICT_CNT before any claim or release in the same write. -/
  | ownershipCntClr (res : Resource) (claim : Bool) (release : Bool)
  /-- PRESENTATION_TIMEOUT (R17): Wedge's interval counters find no presentation for 100 ms and every group enters its failure policy. -/
  | presentationTimeout
  /-- LASER_A_FAILURE (R33): Detection of a laser A failure closes the probe gates, reports failed sweeps and hands source duty to laser B in hardware, or puts the ports in NO_SOURCE. -/
  | laserAFailure
  /-- HANDOVER_SWEEP_RESTART (R33): After the optical switch has moved to laser B, each port restarts its schedule with slot 0 of a new sweep and a phase-reference restart. -/
  | handoverSweepRestart
  /-- LASER_B_FAILURE (R36): Detection of a laser B failure stops temperature profiling, or stops both ports when laser B is the source. -/
  | laserBFailure
  /-- LASER_A_RELOCK (R37): A failed laser A locks again at its original frequency and RETURN_PENDING becomes 1. -/
  | laserARelock
  /-- RETURN_HOLD_EXPIRY (R37): Laser A has stayed locked for RETURN_HOLD seconds with AUTO_RETURN = 1, which triggers the return. -/
  | returnHoldExpiry
  /-- RETURN_NOW (R37): A write of PRB_CTL.RETURN_NOW triggers the return to laser A when RETURN_PENDING = 1. -/
  | returnNow
  /-- HANDOVER_TEST (R59): A write of PRB_CTL.HANDOVER_TEST in MAINTENANCE forces a handover to laser B as if laser A had failed. -/
  | handoverTest
  /-- RETURN_SWITCH (R37): Once every held port has held for one full sweep period, duty switches back to laser A and the held ports restart together. -/
  | returnSwitch
  /-- PORT_ENABLE (R45): A write of 1 to PA_EN or PB_EN starts the port in STARTING. -/
  | portEnable (port : Port)
  /-- PORT_DISABLE (R45): A write of 0 to the enable bit stops launches at once; the slots in reception complete and the port becomes OFF. -/
  | portDisable (port : Port)
  /-- TEST_SLOT (R50): A test slot launched in STARTING every 1 ms, or in APR every 100 ms, is judged for the open-connector signature. -/
  | testSlot (port : Port) (signature : Bool)
  /-- APR_ENTRY (R49): Two consecutive slots with the open-connector signature put the port into APR and close its gate within 1 µs. -/
  | aprEntry (port : Port)
  /-- APR_RESUME (R50): A write of APR_RESUME permits the port to leave manual APR after three clean test slots. -/
  | aprResume (port : Port)
  /-- SLOT_LAUNCH (R39): A port launches a probe chirp, or Scaler's pulse on a borrowed sweep, at its slot time. -/
  | slotLaunch (port : Port)
  /-- SWEEP_BOUNDARY (R42): At the launch of slot 0 of a new sweep, settings pending for the boundary take effect and ownership, FD and loads are updated. -/
  | sweepBoundary (port : Port) (snr : List (Int × Int))
  /-- SWEEP_COMPLETE (R42): The reception of slot 3 ends; the end point, noise floors, θ offsets and cut evaluation are updated. -/
  | sweepComplete (port : Port) (input : SweepInput)
  /-- END_MEASUREMENT_DONE (R45): After 256 sweeps in MEASURING the port sets END from E and enters SWEEPING. -/
  | endMeasurementDone (port : Port) (endPoint : Option Nat) (refl : Bool)
  /-- LOOP_LENGTH_MEASURED (R55): The loop-length measurement over 256 sweeps ends, setting LEN_USED or FAILED and the loop schedule. -/
  | loopLengthMeasured (length : Option Nat)
  /-- REF_CAPTURE (R53): A write of REF_CAPTURE copies the measured E into REF_END. -/
  | refCapture (port : Port)
  /-- SLOT_RECORD_COMPLETE (R65): Kerf completes a slot record, with quality codes, bridging and clip handling, or delivers it FAILED or DROPPED. -/
  | slotRecordComplete (port : Port) (a : SlotInput) (b : SlotInput)
  /-- KRF_CNT_CLR (R85): A write of KRF_CTL.CNT_CLR clears every Kerf count register. -/
  | krfCntClr
  /-- PROFILE_PUBLISH (R99): After a set ends Scaler fits every point and publishes the port's temperature profile. -/
  | profilePublish (port : Port)
  /-- BASE_CAPTURE (R94): A write of SCL_CTL.BASE_CAPTURE arms a baseline capture of the next profile of each non-stale port. -/
  | baseCapture
  /-- PROFILE_AGE_TIMEOUT (R101): No profile has been published for 3 × T_prof, which makes the port stale. -/
  | profileAgeTimeout (port : Port)
  /-- SCL_CNT_CLR (R103): A write of SCL_CTL.CNT_CLR clears every Scaler count register. -/
  | sclCntClr
  /-- CHANNEL_RECORD_OUTPUT (R122): A Bucking set produces and delivers one channel record for an output index, after fills and filtering. -/
  | channelRecordOutput (set : Fin 64)
  /-- FPN_SWAP (R118): A write to BKG_FPn_SWAP requests a cross-fade to a bank, queued or completed at once as the rules state. -/
  | fpnSwap (profile : Fin 16) (value : BitVec 32)
  /-- BKG_CNT_CLR (R124): A write of BKG_CTL.CNT_CLR clears the Bucking counts and channel status counts. -/
  | bkgCntClr
  /-- ZONE_FRAME_EVALUATION (R130): When a frame's last output is delivered Cruiser computes band energies and makes the zone's vibration evaluation. -/
  | zoneFrameEvaluation (zone : Fin 32768)
  /-- STALE_TEMPERATURE_EVALUATION (R135): Every 16 s while a port is stale Cruiser makes unmade level and rate evaluations. -/
  | staleTemperatureEvaluation (port : Port)
  /-- TRACKER_TICK (R140): Every 50 ms the tracker associates detections with tracks and updates, confirms, stops and deletes tracks. -/
  | trackerTick
  /-- ZONE_RELOAD_EFFECT (R152): A zone or template load takes effect at the zone's next frame boundary and restarts the zone. -/
  | zoneReloadEffect (zone : Fin 32768)
  /-- CRU_ENABLE (R153): A write of CRU_CTL.EN stops all evaluation and clears state, or starts every enabled zone afresh. -/
  | cruEnable (on : Bool)
  /-- CRU_CNT_CLR (R154): A write of CRU_CTL.CNT_CLR clears every Cruiser count and zone status count. -/
  | cruCntClr
  /-- BANK_MODE_WRITE (R157): A write of BLZ_Bb_CFG sets the bank mode, claiming or releasing its twelve pins as one claim. -/
  | bankModeWrite (bank : Fin 8) (value : BitVec 32)
  /-- PWM_PERIOD_BOUNDARY (R160): At each whole millisecond new CMD, CURVE and ISET take effect and period-based proof states are decided. -/
  | pwmPeriodBoundary
  /-- SUB_PULSE_START (R162): A sub-pulse or proof pulse starts if Wedge's enable is present, with bypass changes applied. -/
  | subPulseStart (pin : Fin 96)
  /-- SUB_PULSE_END (R182): A sub-pulse's evaluation interval ends and PP finds it present or missing. -/
  | subPulseEnd (pulse : Pulse)
  /-- HEADROOM_SAMPLE (R164): 2.5 µs into a sub-pulse H is sampled and tracking sheds, limits or restores a segment. -/
  | headroomSample (bank : Fin 8) (h : Option (BitVec 8)) (volts : List Nat)
  /-- OPEN_SEARCH_RETRY (R165): Every 100 ms a STRING_OPEN string is driven once as it stands and searched again. -/
  | openSearchRetry (bank : Fin 8)
  /-- OPEN_CLR (R166): A write of BLZ_Bb_CTL.OPEN_CLR clears the bank's OPEN marks and STRING_OPEN with end records. -/
  | openClr (bank : Fin 8)
  /-- SEGTEST (R167): A write of BLZ_Bb_CTL.SEGTEST starts a segment test of the bank. -/
  | segtest (bank : Fin 8)
  /-- SEGTEST_AUTO_DUE (R167): Every 60 s with SEGTEST_AUTO = 1 a segment test falls due. -/
  | segtestAutoDue (bank : Fin 8)
  /-- MATRIX_CFG_WRITE (R169): A write of BLZ_MX_CFG enables the matrix, claiming the row switches and MSYNC, or disables it. -/
  | matrixCfgWrite (value : BitVec 32)
  /-- ROW_SLOT_START (R170): Every 100 µs a row slot starts and drives its row switch and column sinks. -/
  | rowSlotStart
  /-- FRAME_BOUNDARY (R172): At a matrix frame boundary an armed swap exchanges front and back buffers and PAGE enables take effect. -/
  | frameBoundary
  /-- SWAP (R172): A write of BLZ_MX_CTL.SWAP arms a buffer swap. -/
  | swap
  /-- MSYNC_EDGE (R173): A rising edge on MSYNC realigns the scan or arms a swap, or is ignored and counted. -/
  | msyncEdge
  /-- THERMAL_SHUTDOWN (R177): A bank or row-switch junction reaches 150 °C and stops conducting within 10 µs. -/
  | thermalShutdown (sensor : Fin 9) (temp : BitVec 8)
  /-- THERMAL_RESUME (R177): After 1 s below 135 °C drive resumes at the next period or frame. -/
  | thermalResume (sensor : Fin 9) (temp : BitVec 8)
  /-- BLZ_CNT_CLR (R179): A write of BLZ_CTL.CNT_CLR clears every Blaze count field. -/
  | blzCntClr
  /-- OVERCURRENT_TRIP (R181): An OCI or OCV comparator trips and Wedge removes gate drive within 4 ns, latching the object off. -/
  | overcurrentTrip (target : OcTarget)
  /-- LIT_UNCMD (R183): An OFFC or OFFV comparator trips or clears on an object commanded dark. -/
  | litUncmd (obj : Fin 112) (volt : Bool) (on : Bool)
  /-- PROOF_TIMEOUT (R183): 12 ms of enabled time without a present proof pulse makes a proof-regime pin DARK. -/
  | proofTimeout (pin : Fin 96)
  /-- OC_RETRY (R188): 100 ms after an overcurrent trip the object gets one test pulse or row slot. -/
  | ocRetry (obj : Fin 112) (trips : Bool)
  /-- LSUP_MONITOR_READING (R186): Every 1 ms a new LSUP reading updates CAL_LSUP, LSUP_LOW and any waiting supply test. -/
  | lsupMonitorReading (value : BitVec 12) (below : Bool) (above : Bool)
  /-- ADJACENT_PIN_TEST (R191): Every 100 ms a pin pair is tested with a 2 mA sink for 20 µs, or skipped. -/
  | adjacentPinTest (pair : Fin 95) (low : Option Bool)
  /-- CALIPER_ENTRY_COMPLETE (R201): The last word of a sequence entry or urgent request completes and merges into its accumulator. -/
  | caliperEntryComplete (unit : Fin 4) (src : CalSource) (words : List (BitVec 24))
  /-- CALIPER_OVER_RANGE (R204): An over-range word is clamped, flagged, counted and the entry re-settles on the same input. -/
  | caliperOverRange (unit : Fin 4) (src : CalSource) (words : List (BitVec 24)) (positive : Bool)
  /-- CAL_URG (R203): A write of CAL_Un_URG makes a host urgent request or is refused. -/
  | calUrg (unit : Fin 4) (value : BitVec 32)
  /-- ACC_LO_READ (R207): A read of CAL_Un_ACCn_LO returns SUM[31:0] and loads the unit's shadow registers. -/
  | accLoRead (unit : Fin 4) (n : Fin 64)
  /-- ACC_LOC_READ (R207): A read of CAL_Un_ACCn_LOC loads the shadow and clears the accumulator in the same cycle. -/
  | accLocRead (unit : Fin 4) (n : Fin 64)
  /-- ACC_CLR (R208): A write of CAL_Un_CTL.ACC_CLR clears all 64 accumulators of the unit. -/
  | accClr (unit : Fin 4)
  /-- REF_EN_WRITE (R197): A write of CAL_Un_CTL.REF_EN switches the reference buffer on or off. -/
  | refEnWrite (unit : Fin 4) (value : BitVec 32)
  /-- REF_READY (R197): The reference buffer has been enabled for 2 ms and REF_READY becomes 1. -/
  | refReady (unit : Fin 4)
  /-- CAL_CNT_CLR (R211): A write of CAL_CTL.CNT_CLR clears every Caliper count field. -/
  | calCntClr
  /-- WEDGE_STEP (R228): On any input change the lanes vote, classify, react and admit requests in the stage order. -/
  | wedgeStep (view : LaneView)
  /-- LANE_STALL_TIMEOUT (R214): A lane has not completed a step 200 µs after the other two and is isolated. -/
  | laneStallTimeout (lane : Fin 3)
  /-- LANE_REJOIN_ATTEMPT (R215): 1 s after isolation a lane reloads the image, copies state and rejoins on a matching digest. -/
  | laneRejoinAttempt (lane : Fin 3)
  /-- DWELL_EXPIRY (R229): The second lane's counter times the dwell of the present aspect, allowing the next move. -/
  | dwellExpiry (group : Fin 256) (units : BitVec 8)
  /-- FLASH_EDGE (R221): A flash phase expires and the aspect's enables turn on or off. -/
  | flashEdge (group : Fin 256)
  /-- OCCUPANCY_RELEASE (R228): 1 ms after a group leaves an aspect it stops occupying it. -/
  | occupancyRelease (group : Fin 256) (aspect : Fin 8)
  /-- CLASSIFICATION_START (R231): 40 ms of enabled time after a grant, or 15 ms for fallback, classification of the aspect begins. -/
  | classificationStart (group : Fin 256)
  /-- BLOCK_RETRY_EXPIRY (R236): RETRY minutes after blocking an aspect is unblocked. -/
  | blockRetryExpiry (group : Fin 256) (aspect : Fin 8)
  /-- WDG_UNBLOCK (R236): A write of WDG_UNBLOCK unblocks the named aspects of a group. -/
  | wdgUnblock (value : BitVec 32)
  /-- START_WAIT_TIMEOUT (R226): No presentation arrives within START_WAIT and every group enters failure policy. -/
  | startWaitTimeout
  /-- WEDGE_START (R226): At start each lane reads both image copies, repairs an invalid one and grants the initial aspects. -/
  | wedgeStart
  /-- WDG_CNT_CLR (R247): A write of WDG_CTL.CNT_CLR clears every Wedge count field. -/
  | wdgCntClr
  /-- MARKING_PASS (R243): Every 5 ms the marking table evaluates every rule, arbitrates and presents requests to Wedge. -/
  | markingPass
  /-- MRK_HREQ_SET (R242): A write of MRK_HREQ_SET sets a host request bit and restarts its lifetime. -/
  | mrkHreqSet (value : BitVec 32)
  /-- MRK_HREQ_CLR (R242): A write of MRK_HREQ_CLR clears a host request bit. -/
  | mrkHreqClr (value : BitVec 32)
  /-- HREQ_EXPIRED (R242): A host request bit not set again within HREQ_TTL clears itself. -/
  | hreqExpired (index : Fin 256)
  /-- HREQ_TTL_WRITE (R242): A write of MRK_CFG.HREQ_TTL applies the new lifetime at once to every bit already set. -/
  | hreqTtlWrite (value : BitVec 32)
  /-- MRK_LATCH_CLR (R241): A write of MRK_LATCH_CLR clears the named latch, or all, at the next pass if the trigger is not live. -/
  | mrkLatchClr (value : BitVec 32)
  /-- MRK_CNT_CLR (R248): A write of MRK_CTL.CNT_CLR clears every marking-table count field. -/
  | mrkCntClr
  /-- EXCHANGE_START (R251): At its exchange start a chain samples the voted enables and sends the down frame. -/
  | exchangeStart (chain : Fin 4) (high : Bool)
  /-- LINE_SHORT (R266): The line reads low 1 µs after a driven rising edge and the driver is switched off for the exchange. -/
  | lineShort (chain : Fin 4)
  /-- RETURN_FRAME_END (R260): A return frame ends and its statuses are mapped to heads and delivered to Wedge. -/
  | returnFrameEnd (chain : Fin 4) (cells : List (Option Bool)) (edges : List (Nat × Bool))
  /-- RETURN_FRAME_DEADLINE (R255): 500 µs before the exchange ends a return frame not yet ended is discarded as late. -/
  | returnFrameDeadline (chain : Fin 4) (edges : List (Nat × Bool))
  /-- CHAIN_RESULT_TIMEOUT (R262): Wedge receives no chain result for 2 × the exchange period + 5 ms and every output of the chain is dark. -/
  | chainResultTimeout (chain : Fin 4)
  /-- CHAIN_ENABLE (R265): A write of SKY_Cc_CFG.EN starts the chain in STARTING, or stops it after the exchange in progress. -/
  | chainEnable (chain : Fin 4) (value : BitVec 32)
  /-- TRACE (R269): A write of SKY_Cc_CTL.TRACE claims a working buffer and arms an edge trace of the next exchange. -/
  | trace (chain : Fin 4)
  /-- FLT_CLR (R256): A write of SKY_Cc_CTL.FLT_CLR sends CMD 0b10 to every head in one exchange. -/
  | fltClr (chain : Fin 4)
  /-- IDENT (R256): A write of SKY_Cc_CTL.IDENT sends CMD 0b01 to IDENT_HEAD for 3 s. -/
  | ident (chain : Fin 4) (head : Fin 64)
  /-- IDENT_EXPIRY (R256): 3 s after IDENT the identify command stops. -/
  | identExpiry (chain : Fin 4)
  /-- SKY_CNT_CLR (R270): A write of SKY_CTL.CNT_CLR clears every Skyline count field. -/
  | skyCntClr
  /-- FIELD_CFG_WRITE (R273): A write of FIO_IOn_CFG sets the channel mode and source, claiming or releasing the channel and its timer. -/
  | fieldCfgWrite (ch : Fin 16) (value : BitVec 32)
  /-- FIO_INPUT (R277): A debounced input change completes, is stamped and reaches FIO_IN and a FIO_INPUT record. -/
  | fioInput (ch : Fin 16) (on : Bool) (stamp : BitVec 64)
  /-- FIO_OUT_WRITE (R278): A write of FIO_OUT sets the commanded levels or pulse enables of outputs. -/
  | fioOutWrite (value : BitVec 32)
  /-- FIO_OUT_SET (R278): A write of FIO_OUT_SET sets FIO_OUT bits. -/
  | fioOutSet (value : BitVec 32)
  /-- FIO_OUT_CLR (R278): A write of FIO_OUT_CLR clears FIO_OUT bits. -/
  | fioOutClr (value : BitVec 32)
  /-- PULSE_PHASE_EXPIRY (R278): An output's ON_MS or OFF_MS phase ends and the pin toggles. -/
  | pulsePhaseExpiry (ch : Fin 16)
  /-- OUTPUT_DIAG_EVALUATION (R281): Every 10 ms each output diagnostic tally makes one evaluation. -/
  | outputDiagEvaluation
  /-- OUTPUT_OVERTEMP (R280): An output driver reaches its thermal limit and turns both transistors off. -/
  | outputOvertemp (ch : Fin 16)
  /-- OUTPUT_OVERTEMP_RECOVER (R280): A cooled driver resumes drive after at least 100 ms. -/
  | outputOvertempRecover (ch : Fin 16)
  /-- COUPLER_FRAME (R283): A coupler frame arrives and updates input, pin and diagnostic state or the drive command. -/
  | couplerFrame (ch : Fin 16) (frame : FieldFrame)
  /-- CHANNEL_STALE (R284): No valid field-to-logic frame for 1 ms makes the channel STALE. -/
  | channelStale (ch : Fin 16)
  /-- SILENCE_TIMEOUT (R285): No valid logic-to-field frame for SILENCE ms puts the output in its safe state. -/
  | silenceTimeout (ch : Fin 16)
  /-- FIO_SAFE_CLR (R285): A write of FIO_SAFE_CLR releases a latched safe state once frames have resumed. -/
  | fioSafeClr (value : BitVec 32)
  /-- VMAIN_LOSS (R286): The power-fail detector sees VMAIN leave its range and reset frames are sent on every channel. -/
  | vmainLoss
  /-- FSUP_HANDOVER (R287): FSUP has stayed at or above 19.2 V for 100 ms and the field side hands over to FSUP. -/
  | fsupHandover (value : BitVec 10)
  /-- FSUP_LOW (R287): FSUP below 18.0 V for 1 ms sets FSUP_LOW and returns the field side to AUX. -/
  | fsupLow (value : BitVec 10)
  /-- FIO_CNT_CLR (R289): A write of FIO_CTL.CNT_CLR clears every field I/O count field. -/
  | fioCntClr
  /-- HOST_INTERFACE_RESET (R291): An FLR, hot reset, link down or return to D0 resets HIF registers and rings and completes items LINK_LOST. -/
  | hostInterfaceReset
  /-- BUS_MASTER_DISABLE (R315): Clearing Bus Master Enable completes outstanding items LINK_LOST and holds completions. -/
  | busMasterDisable
  /-- BUS_MASTER_ENABLE (R315): Setting Bus Master Enable again delivers the held completions in order. -/
  | busMasterEnable
  /-- COMMAND_DOORBELL (R295): A write to a command-ring doorbell advances its producer count or is rejected. -/
  | commandDoorbell (offset : Nat) (width : Nat) (value : BitVec 32)
  /-- COMPLETION_DOORBELL (R295): A write to a completion-ring doorbell advances its consumer count or is rejected. -/
  | completionDoorbell (offset : Nat) (width : Nat) (value : BitVec 32)
  /-- EVENT_DOORBELL (R295): A write to an event-ring doorbell advances its consumer count or is rejected. -/
  | eventDoorbell (offset : Nat) (width : Nat) (value : BitVec 32)
  /-- CAPTURE_DOORBELL (R295): A write to a capture-ring doorbell advances its producer count or is rejected. -/
  | captureDoorbell (offset : Nat) (width : Nat) (value : BitVec 32)
  /-- DESCRIPTOR_ACCEPT (R297): A descriptor is fetched and accepted once a completion entry can be reserved for it. -/
  | descriptorAccept (cap : Bool) (ring : Fin 16) (desc : List (BitVec 8))
  /-- NOP (R299): A NOP descriptor does nothing and completes OK. -/
  | nop (ring : Fin 16)
  /-- TABLE_LOAD_CHANNEL (R106): A TABLE_LOAD of channel-table entries is checked and loaded whole. -/
  | tableLoadChannel (ring : Fin 16) (payload : List (BitVec 8))
  /-- TABLE_LOAD_SET (R115): A TABLE_LOAD of set-table entries is checked and loaded whole. -/
  | tableLoadSet (ring : Fin 16) (payload : List (BitVec 8))
  /-- TABLE_LOAD_COEFFICIENT_BANK (R116): A TABLE_LOAD of a coefficient bank loads it or completes BUSY. -/
  | tableLoadCoefficientBank (ring : Fin 16) (payload : List (BitVec 8))
  /-- TABLE_LOAD_ZONE (R126): A TABLE_LOAD of zone entries is checked and loaded whole. -/
  | tableLoadZone (ring : Fin 16) (payload : List (BitVec 8))
  /-- TABLE_LOAD_TEMPLATE (R129): A TABLE_LOAD of detector templates is checked and loaded whole. -/
  | tableLoadTemplate (ring : Fin 16) (payload : List (BitVec 8))
  /-- TABLE_LOAD_BASELINE (R94): A TABLE_LOAD of the Scaler baseline loads per-point baseline entries. -/
  | tableLoadBaseline (ring : Fin 16) (payload : List (BitVec 8))
  /-- TABLE_LOAD_COMPENSATION (R96): A TABLE_LOAD of the compensation table is checked and replaces the table. -/
  | tableLoadCompensation (ring : Fin 16) (payload : List (BitVec 8))
  /-- TABLE_LOAD_CALIPER_SEQUENCE (R200): A TABLE_LOAD of a Caliper sequence table claims modulators and restarts the unit's sequences. -/
  | tableLoadCaliperSequence (ring : Fin 16) (payload : List (BitVec 8))
  /-- TABLE_LOAD_FRAME_MEMORY (R174): A TABLE_LOAD of the matrix back buffer loads 768 bytes or completes BUSY. -/
  | tableLoadFrameMemory (ring : Fin 16) (payload : List (BitVec 8))
  /-- TABLE_LOAD_WEDGE_IMAGE (R224): A TABLE_LOAD of a Wedge image is checked and committed to both store copies. -/
  | tableLoadWedgeImage (ring : Fin 16) (payload : List (BitVec 8))
  /-- IMAGE_ACTIVATION (R225): After both copies are written every enable is withdrawn, the lanes load the image, claim pins and grant initial aspects. -/
  | imageActivation
  /-- TABLE_LOAD_MARKING_TABLE (R245): A TABLE_LOAD of a marking table is checked and written as two copies. -/
  | tableLoadMarkingTable (ring : Fin 16) (payload : List (BitVec 8))
  /-- TABLE_LOAD_STREAM (R324): A TABLE_LOAD of stream-table entries is checked, claims Chipper contexts and restarts changed streams. -/
  | tableLoadStream (ring : Fin 16) (payload : List (BitVec 8))
  /-- TABLE_LOAD_PORT (R325): A TABLE_LOAD of the Flume port table loads source addresses. -/
  | tableLoadPort (ring : Fin 16) (payload : List (BitVec 8))
  /-- TABLE_LOAD_ARCHIVE (R357): A TABLE_LOAD of the archive table sets the archived sources. -/
  | tableLoadArchive (ring : Fin 16) (payload : List (BitVec 8))
  /-- SNAPSHOT_QUALITY_MAP (R81): A SNAPSHOT of a port's quality map writes the last complete sweep's Q codes. -/
  | snapshotQualityMap (ring : Fin 16)
  /-- SNAPSHOT_LOOP_OWNERSHIP (R58): A SNAPSHOT of the loop ownership map writes 2 bits per port A point. -/
  | snapshotLoopOwnership (ring : Fin 16)
  /-- SNAPSHOT_PROFILE_BUFFER (R99): A SNAPSHOT of a port's profile buffer writes the last profile record. -/
  | snapshotProfileBuffer (ring : Fin 16)
  /-- SNAPSHOT_CHANNEL_STATUS (R123): A SNAPSHOT of channel status writes per-channel counts and FD. -/
  | snapshotChannelStatus (ring : Fin 16)
  /-- SNAPSHOT_ZONE_STATUS (R155): A SNAPSHOT of zone status writes each zone's state and counts. -/
  | snapshotZoneStatus (ring : Fin 16)
  /-- SNAPSHOT_TRACKS (R148): A SNAPSHOT of the tracks writes each track slot. -/
  | snapshotTracks (ring : Fin 16)
  /-- SNAPSHOT_ACCUMULATORS (R209): A SNAPSHOT of a Caliper unit's accumulators captures all 64, clearing them when CLEAR = 1. -/
  | snapshotAccumulators (ring : Fin 16)
  /-- SNAPSHOT_SUPERVISION (R210): A SNAPSHOT of supervision writes the proof state of each pin and row switch. -/
  | snapshotSupervision (ring : Fin 16)
  /-- SNAPSHOT_HEADS (R271): A SNAPSHOT of a chain's heads writes each head's last status and share. -/
  | snapshotHeads (ring : Fin 16)
  /-- SNAPSHOT_CAPTURE_DIRECTORY (R356): A SNAPSHOT of the capture directory writes its entries. -/
  | snapshotCaptureDirectory (ring : Fin 16)
  /-- SNAPSHOT_RESULT_RECORDS (R399): A SNAPSHOT of a self-test result record writes its 608 bytes. -/
  | snapshotResultRecords (ring : Fin 16)
  /-- CAPTURE_HOST (R307): A CAPTURE with DEST = HOST copies a pre-trigger window to a capture ring. -/
  | captureHost (ring : Fin 16)
  /-- CAPTURE_LANDING (R355): A CAPTURE with DEST = LANDING writes a pre-trigger window into the CAPTURE area. -/
  | captureLanding (ring : Fin 16)
  /-- CAPTURE_FLUME (R331): A CAPTURE with DEST = FLUME queues a pre-trigger window between CAP_START and CAP_END markers on a stream. -/
  | captureFlume (ring : Fin 16)
  /-- CAPTURE_CANCEL (R308): A CAPTURE_CANCEL stops every CAPTURE with the target tag on other rings. -/
  | captureCancel (ring : Fin 16)
  /-- BUF (R306): A BUF descriptor on a capture ring offers a buffer that records of the ring's source fill. -/
  | buf (ring : Fin 16) (desc : List (BitVec 8))
  /-- CAPTURE_BUFFER_FLUSH (R306): FLUSH_MS after its first record a capture buffer completes. -/
  | captureBufferFlush (ring : Fin 16)
  /-- RING_ENABLE (R315): A write setting a ring's CFG.EN enables it, writing or discarding held completions and gaps per RESUME. -/
  | ringEnable (kind : RingKind) (ring : Fin 16) (cfg : BitVec 32)
  /-- RING_DISABLE (R315): A write clearing a ring's CFG.EN aborts or holds its outstanding items. -/
  | ringDisable (kind : RingKind) (ring : Fin 16)
  /-- LOSS_REPORT (R312): When an event ring has room a LOSS report of the unreported gap is written. -/
  | lossReport (ring : Fin 16)
  /-- INTERRUPT_DELAY_EXPIRY (R314): INT_DLY × 4 µs after the first unsignalled entry the ring sends its MSI-X message. -/
  | interruptDelayExpiry (evr : Bool) (ring : Fin 16)
  /-- DMA_ERROR (R315): A failed host-memory access completes the item DMA_ERROR or puts the ring in HOLDING. -/
  | dmaError (fault : DmaFault)
  /-- HIF_DISCARD (R315): A write of HIF_CTL.DISCARD discards every held completion, gap and missed count. -/
  | hifDiscard
  /-- HIF_CNT_CLR (R317): A write of HIF_CTL.CNT_CLR clears the HIF counts except HIF_DISCARD_CNT. -/
  | hifCntClr
  /-- FLUME_LINK (R320): A Flume port's link goes up or down and FLUME_LINK is posted. -/
  | flumeLink (port : EthPort) (up : Bool)
  /-- PAUSE_FRAME (R320): A received PAUSE frame stops the port's transmission for its quanta under FC = PAUSE. -/
  | pauseFrame (port : EthPort) (quanta : BitVec 16)
  /-- PFC_FRAME (R320): A received PFC frame stops the named priorities for their quanta under FC = PFC. -/
  | pfcFrame (port : EthPort) (enables : BitVec 8) (quanta : BitVec 128)
  /-- PAUSE_EXPIRY (R320): A pause quanta period ends and transmission resumes. -/
  | pauseExpiry (port : EthPort) (prio : Option (Fin 8))
  /-- RX_FRAME_DISCARD (R319): A received frame other than PAUSE, PFC or PTP is discarded and counted. -/
  | rxFrameDiscard (port : EthPort)
  /-- DATAGRAM_SEND (R322): A full datagram payload is sent. -/
  | datagramSend (stream : Fin 16)
  /-- DATAGRAM_FLUSH (R322): FLUSH_MS after its first byte a partial datagram is sent. -/
  | datagramFlush (stream : Fin 16)
  /-- THIN_CHECK (R328): Every 10 ms Flume checks each port's fill and may make one thin step up or down. -/
  | thinCheck
  /-- FLM_CNT_CLR (R341): A write of FLM_CTL.CNT_CLR clears every Flume count. -/
  | flmCntClr
  /-- CHIP_ENC (R337): A CHIP_ENC job encodes host input into Chipper blocks. -/
  | chipEnc (ring : Fin 16) (input : List (BitVec 8)) (upsets : List Nat)
  /-- CHIP_DEC (R338): A CHIP_DEC job decodes Chipper blocks into raw bytes. -/
  | chipDec (ring : Fin 16) (input : List (BitVec 8))
  /-- CHIP_SAVE (R339): A CHIP_SAVE job writes a context record to the host. -/
  | chipSave (ring : Fin 16)
  /-- CHIP_RESTORE (R339): A CHIP_RESTORE job loads a context record into a context. -/
  | chipRestore (ring : Fin 16) (record : List (BitVec 8))
  /-- CHP_CNT_CLR (R341): A write of CHP_CTL.CNT_CLR clears every Chipper count. -/
  | chpCntClr
  /-- RING_CFG_WRITE (R347): A write of DCK_RING_CFG starts or stops storing and claims or releases a Chipper context. -/
  | ringCfgWrite (value : BitVec 32)
  /-- DECK_CORRECTED_ERROR (R344): A single-bit Deck error is corrected, rewritten and counted. -/
  | deckCorrectedError (region : DeckRegion) (offset : Nat)
  /-- DECK_UE (R344): An uncorrectable Deck word is counted, DECK_UE posted and the owning region reacts. -/
  | deckUe (region : DeckRegion) (offset : Nat)
  /-- DECK_WIPE_DONE (R345): The Deck wipe after reset ends and waiting descriptors may start. -/
  | deckWipeDone
  /-- DCK_READ (R349): A DCK_READ copies from a working buffer to the host. -/
  | dckRead (ring : Fin 16)
  /-- DCK_WRITE (R349): A DCK_WRITE copies from the host into a working buffer. -/
  | dckWrite (ring : Fin 16) (payload : List (BitVec 8))
  /-- DCK_CNT_CLR (R364): A write of DCK_CTL.CNT_CLR clears every Deck count. -/
  | dckCntClr
  /-- LND_UNCORR (R352): A Landing sector fails every decode step, is counted and its block retired. -/
  | lndUncorr (area : LandingArea) (obj : Nat) (record : Nat)
  /-- BLOCK_REFRESH (R353): Within 24 h of a weak finding a block is rewritten to a spare. -/
  | blockRefresh (retried : Nat)
  /-- BLOCK_PROGRAM_FAIL (R353): A block that fails to erase or program is retired as grown bad. -/
  | blockProgramFail
  /-- SCRUB_NOW (R354): A write of LND_CTL.SCRUB_NOW starts a full scrub pass. -/
  | scrubNow
  /-- SCRUB_PASS_COMPLETE (R354): A background scrub pass over all written sectors completes. -/
  | scrubPassComplete
  /-- LANDING_CAPTURE_COMPLETE (R355): A Landing capture's last record is programmed and the capture completes. -/
  | landingCaptureComplete (entry : Fin 1024)
  /-- LND_THROTTLE (R358): Hourly the management core projects life and makes at most one archive thin step. -/
  | lndThrottle (peMean : BitVec 16) (projYears : BitVec 8)
  /-- LND_READ (R359): An LND_READ writes whole records from a capture or the archive to the host. -/
  | lndRead (ring : Fin 16)
  /-- LND_DELETE (R359): An LND_DELETE deletes a capture. -/
  | lndDelete (ring : Fin 16)
  /-- LND_PART_WRITE (R351): A write of LND_PART changes CAP_GIB and erases the CAPTURE and ARCHIVE areas. -/
  | lndPartWrite (value : BitVec 32)
  /-- LANDING_READY (R360): Landing finishes mounting and replaying its journal, and becomes READY. -/
  | landingReady (retired : Nat)
  /-- LND_CNT_CLR (R364): A write of LND_CTL.CNT_CLR clears every Landing count. -/
  | lndCntClr
  /-- WARM_READY (R365): The warm oscillator runs and WARM_READY becomes 1. -/
  | warmReady
  /-- CRYSTAL_PROVEN (R365): The crystal stays within ±3 % of the warm oscillator for 4,096 cycles and XTAL_OK becomes 1. -/
  | crystalProven
  /-- XTAL_LOST (R365): The crystal monitor trips and the PLL moves to the warm oscillator. -/
  | xtalLost
  /-- REFIN_CHECK (R366): Every 10 ms REFIN is measured and REFIN_OK and the trim source updated. -/
  | refinCheck (dev : Option Int)
  /-- PLL_LOCK (R367): The root PLL locks and the domains are returned or started in order. -/
  | pllLock
  /-- PLL_UNLOCK (R371): Lock loss is detected; domains stop, the fabric moves to WARM and the ports enter NO_SOURCE. -/
  | pllUnlock
  /-- FORCED_SWITCH (R370): 1 µs after a switch request from a silent source the switch is forced. -/
  | forcedSwitch (domain : Fin 6)
  /-- DOMAIN_SWITCH_DONE (R369): A STOP switch or RAMP of a clock domain completes. -/
  | domainSwitchDone (domain : Fin 6)
  /-- START_RETRY (R370): Every 10 ms while clocked domains are held the start sequence is retried. -/
  | startRetry
  /-- CLK_GATE_WRITE (R372): A write of CLK_GATE gates blocks or restarts ungated blocks from reset values. -/
  | clkGateWrite (value : BitVec 32)
  /-- GATED_ACCESS (R372): An access to a gated block returns zero or is ignored and counted in CLK_GATED. -/
  | gatedAccess (block : Fin 19) (off : BitVec 16) (wr : Bool)
  /-- KRF_OPP_WRITE (R373): A write of CLK_KRF_OPP starts the Kerf operating-point sequencer. -/
  | krfOppWrite (value : BitVec 32)
  /-- OPP_STEP_DONE (R373): A sequencer step completes, applying any later written point. -/
  | oppStepDone
  /-- CLK_CNT_CLR (R388): A write of CLK_CTL.CNT_CLR clears the CLK counts. -/
  | clkCntClr
  /-- POWER_GOOD (R374): VMAIN has stayed in range for 10 ms with every rail regulated and the module starts. -/
  | powerGood (unpowered : Nat)
  /-- BROWN_OUT (R374): VMAIN below its range for 10 µs causes a reset of the TJ120. -/
  | brownOut
  /-- THERMAL_RESET (R375): A die junction above 135 °C for 1 ms causes a reset. -/
  | thermalReset
  /-- GEN_RESET (R376): A write of GEN_CTL.RESET requests a reset within 10 ms after completing items RESET. -/
  | genReset
  /-- TJ120_RESET (R376): A reset of the TJ120 returns registers to reset values, turns outputs off, wipes Deck and increments HIF_EPOCH. -/
  | tj120Reset
  /-- SAVE (R378): A write of GEN_CTL.SAVE stores the start set. -/
  | save
  /-- SAVE_DONE (R378): The start-set save completes with SAVE_DONE or SAVE_FAIL. -/
  | saveDone (ok : Bool)
  /-- LC_REQ_ARM (R381): A write of GEN_LC_REQ with CONFIRM = 0x00 arms a life-cycle change. -/
  | lcReqArm (target : Fin 8)
  /-- LC_REQ_CONFIRM (R381): A write of GEN_LC_REQ with CONFIRM = 0x5A makes or refuses the armed change. -/
  | lcReqConfirm (target : Fin 8)
  /-- LC_ARM_EXPIRY (R381): No confirming write within 1 s disarms the change with EXPIRED. -/
  | lcArmExpiry
  /-- PPSIN_EDGE (R385): A PPSIN rising edge measures the timebase offset and steps or slews it. -/
  | ppsinEdge
  /-- PTP_MESSAGE (R386): A received IEEE 1588 message updates the master selection and the timebase offset. -/
  | ptpMessage (port : EthPort) (v6 : Bool) (ptpDomain : BitVec 8) (msg : PtpMessage)
  /-- DELAY_REQ_SEND (R386): Once per second a Delay_Req is sent in PTP mode. -/
  | delayReqSend
  /-- TIMEBASE_HOLDOVER (R385): No PPSIN edge for 2 s or Sync for 4 s puts the timebase in HOLDOVER. -/
  | timebaseHoldover
  /-- SHUTDOWN (R389): A write of GEN_CTL.SHUTDOWN starts, defers or skips the shutdown self-test. -/
  | shutdown
  /-- SST_PARTITION_START (R391): A self-test partition starts once the power rule admits it. -/
  | sstPartitionStart (power : BitVec 10)
  /-- SST_PARTITION_COMPLETE (R390): A self-test partition ends and its step entry is written when the step ends. -/
  | sstPartitionComplete (part : Fin 9) (result : PartResult)
  /-- SST_POWER_TIMEOUT (R392): A partition waits 5 s for power and its step ends SKIPPED_POWER. -/
  | sstPowerTimeout (power : BitVec 10)
  /-- INTERLOCK (R395): The output interlock engages and completes 55 ms later. -/
  | interlock
  /-- SST_FINAL_PAGE (R399): After FUSE the final page is programmed and the TJ120 holds itself in reset. -/
  | sstFinalPage
  /-- START_CHECKS_DONE (R402): The start checks end, waiting items start and START_DONE is set. -/
  | startChecksDone
  /-- SST_VOID (R405): A write of SST_CTL.VOID voids the newest SHUTDOWN record. -/
  | sstVoid
  /-- LASER_LOCK (R31): A laser reaches lock, laser A and B at start-up or laser B relocking to its offset, so that a locked source becomes available to waiting ports and Scaler. -/
  | laserLock (b : Bool)
  /-- SCL_ENABLE (R101): A write of SCL_CTL.EN starts borrowing and profiling, or stops them, discarding the set in progress and publishing a stale marker. -/
  | sclEnable (on : Bool)
  deriving DecidableEq, Repr

end Sys2Proof
end

