-- ==== Sys2Proof/Decode.lean ====
section
/-! DEFINITION. Commands as words: the table gives its rows no bits, so no word spells one. -/

namespace Sys2Proof

/-- The command that a word spells by the bits opcode_table.json gives a row: it gives none. -/
def decodeTableWord (_nbits _w : Nat) : Option Instr := none

end Sys2Proof
end

