-- ==== Sys2Proof/Machine/Bytes.lean ====
section
/-! DEFINITION. Bytes of descriptors, table entries and records: little-endian fields (R3), signed numbers, and the
CRC-32 of R333 and R217. -/

namespace Sys2Proof.Machine

/-- The `n` bytes of a number, least significant first (R3). -/
def leBytes : Nat → Nat → List Byte
  | 0, _ => []
  | n + 1, v => BitVec.ofNat 8 v :: leBytes n (v / 256)

/-- The number that bytes spell, least significant first (R3). -/
def leVal : List Byte → Nat
  | [] => 0
  | b :: t => b.toNat + 256 * leVal t

/-- `n` bytes from offset `off`; a byte beyond the end reads as zero. -/
def slice (bs : List Byte) (off n : Nat) : List Byte :=
  let t := (bs.drop off).take n
  t ++ List.replicate (n - t.length) 0

/-- The little-endian number in `n` bytes from `off` (R3). -/
def le (bs : List Byte) (off n : Nat) : Nat := leVal (slice bs off n)

/-- Bits `hi` to `lo` of a number. -/
def bits (v hi lo : Nat) : Nat := v / 2 ^ lo % 2 ^ (hi - lo + 1)

/-- One bit of a number. -/
def bit (v i : Nat) : Bool := v / 2 ^ i % 2 == 1

/-- A number with one bit set to a truth value. -/
def putBit (v i : Nat) (b : Bool) : Nat :=
  if b then (if bit v i then v else v + 2 ^ i) else (if bit v i then v - 2 ^ i else v)

/-- 1 for true. -/
def b2n (b : Bool) : Nat := if b then 1 else 0

/-- Whether every byte from `off` for `n` bytes is zero (reserved bytes, R299). -/
def zeros (bs : List Byte) (off n : Nat) : Bool := (slice bs off n).all (· == 0)

/-- Two's complement reading of a `w`-bit number (00_scope, Numbers, units and layout). -/
def sgn (w v : Nat) : Int := if v % 2 ^ w < 2 ^ (w - 1) then (v % 2 ^ w : Nat) else (v % 2 ^ w : Nat) - (2 ^ w : Nat)

/-- The `w`-bit two's complement code of an integer. -/
def enc (w : Nat) (x : Int) : Nat := (x % (2 ^ w : Nat)).toNat

/-- An integer clamped to the `w`-bit signed range. -/
def clampS (w : Nat) (x : Int) : Int :=
  if x < -((2 ^ (w - 1) : Nat) : Int) then -((2 ^ (w - 1) : Nat) : Int)
  else if x > ((2 ^ (w - 1) : Nat) : Int) - 1 then ((2 ^ (w - 1) : Nat) : Int) - 1 else x

/-- The nearest integer to `n / d`, halves away from zero, for `d > 0`. -/
def roundDiv (n : Int) (d : Nat) : Int :=
  if n < 0 then -(((2 * n.natAbs + d) / (2 * d) : Nat) : Int) else (((2 * n.natAbs + d) / (2 * d) : Nat) : Int)

/-- The nearest integer to `n / d`, halves up, for `d > 0`. -/
def roundHalfUp (n : Int) (d : Nat) : Int := (2 * n + d) / (2 * (d : Int))

/-- A number limited to `m`. -/
def satTo (m v : Nat) : Nat := if v ≤ m then v else m

/-- One bit step of the reflected CRC-32 of polynomial 0x04C1_1DB7 (R333). -/
def crcBit (c : BitVec 32) : BitVec 32 :=
  if c.getLsbD 0 then (c >>> 1) ^^^ 0xEDB88320#32 else c >>> 1

/-- The CRC-32 register after one more byte (R333). -/
def crcByte (c : BitVec 32) (b : Byte) : BitVec 32 :=
  crcBit (crcBit (crcBit (crcBit (crcBit (crcBit (crcBit (crcBit (c ^^^ b.setWidth 32))))))))

/-- The running CRC-32 register over bytes. -/
def crcRun (c : BitVec 32) (bs : List Byte) : BitVec 32 := bs.foldl crcByte c

/-- CRC-32 of bytes: reflected, initial value and final XOR 0xFFFF_FFFF (R333). -/
def crc32 (bs : List Byte) : Nat := (crcRun 0xFFFFFFFF#32 bs ^^^ 0xFFFFFFFF#32).toNat

end Sys2Proof.Machine
end

