-- ==== Sys2Proof/Machine/Codec.lean ====
section
/-! DEFINITION. The Chipper block format: the greedy encoder and the decoder (R333 to R335, R337, R338), as
functions of bytes. -/

namespace Sys2Proof.Machine

/-- A literal or length extension: bytes of 255 each followed by another, then the rest (R334). -/
def extBytes (v : Nat) : List Byte := List.replicate (v / 255) 255 ++ [BitVec.ofNat 8 (v % 255)]

/-- A code word: literals, then a match of `len` bytes at offset `off`; `len` 0 is no match (R334). -/
def codeWord (lits : List Byte) (len off : Nat) : List Byte :=
  let l := lits.length
  let m := if len = 0 then 0 else if len ≤ 17 then len - 3 else 15
  [BitVec.ofNat 8 (satTo 15 l * 16 + m)]
    ++ (if l < 15 then [] else extBytes (l - 15))
    ++ lits
    ++ (if len = 0 then [] else leBytes 2 (off - 1))
    ++ (if m = 15 then extBytes (len - 18) else [])

/-- The number of bytes two strings share from their start. -/
def commonLen : List Byte → List Byte → Nat
  | a :: s, b :: t => if a = b then commonLen s t + 1 else 0
  | _, _ => 0

/-- The longest match at position `pos` of `whole` among offsets 1 to `n`, the nearest on a tie: length and offset
(R335). The match lies within the history and the block, and may overlap itself (R334). -/
def bestMatch (whole : List Byte) (pos : Nat) : Nat → Nat × Nat
  | 0 => (0, 0)
  | n + 1 =>
    let best := bestMatch whole pos n
    if n + 1 ≤ pos then
      let l := commonLen (whole.drop (pos - (n + 1))) (whole.drop pos)
      if best.1 < l then (l, n + 1) else best
    else best

/-- One coded word with the raw bytes it stands for. -/
structure CodedWord where
  code : List Byte
  raw : Nat
  deriving DecidableEq, Repr

/-- The greedy code words of `whole` from position `pos` to its end, with the literals gathered so far (R335). The
first argument bounds the number of positions. -/
def greedyWords : Nat → List Byte → Nat → List Byte → List CodedWord
  | 0, _, _, _ => []
  | fuel + 1, whole, pos, lits =>
    if whole.length ≤ pos then
      (if lits.isEmpty then [] else [⟨codeWord lits 0 0, lits.length⟩])
    else
      let m := bestMatch whole pos (satTo 65536 pos)
      if 4 ≤ m.1 then
        ⟨codeWord lits m.1 m.2, lits.length + m.1⟩ :: greedyWords fuel whole (pos + m.1) []
      else greedyWords fuel whole (pos + 1) (lits ++ slice whole pos 1)

/-- A block: header and code (R333). -/
def blockBytes (first stored : Bool) (raw code : List Byte) : List Byte :=
  [0x36, BitVec.ofNat 8 (b2n first + 2 * b2n stored)] ++ leBytes 3 raw.length ++ leBytes 3 code.length
    ++ leBytes 4 (crc32 raw) ++ leBytes 4 0 ++ code

/-- The last 65,536 bytes of a history (R332). -/
def trimHistory (h : List Byte) : List Byte := h.drop (h.length - 65536)

/-! ### Decoding -/

/-- The parts of a code word read from code bytes, or why none was read. -/
inductive ParsedWord where
  /-- Literals, match length, offset, code bytes taken. -/
  | word (lits : List Byte) (len off used : Nat)
  /-- The bytes end inside the word. -/
  | short
  deriving DecidableEq, Repr

/-- A run of extension bytes: its sum and how many bytes it takes; none where the bytes end first (R334). -/
def readExt : List Byte → Option (Nat × Nat)
  | [] => none
  | b :: t =>
    if b = 255 then
      match readExt t with
      | none => none
      | some (v, n) => some (v + 255, n + 1)
    else some (b.toNat, 1)

/-- The offset and length extension of a code word, after its literals; `m` is the token's length code. -/
def parseMatch (m : Nat) (lits rest : List Byte) (used : Nat) : ParsedWord :=
  if m = 0 then .word lits 0 0 used
  else if rest.length < 2 then .short
  else
    let off := le rest 0 2 + 1
    if m < 15 then .word lits (m + 3) off (used + 2)
    else match readExt (rest.drop 2) with
      | none => .short
      | some (v, n) => .word lits (18 + v) off (used + 2 + n)

/-- The first code word of code bytes (R334). -/
def parseWord (code : List Byte) : ParsedWord :=
  match code with
  | [] => .short
  | tok :: t =>
    let l0 := tok.toNat / 16
    let ext := if l0 < 15 then some (0, 0) else readExt t
    match ext with
    | none => .short
    | some (v, n) =>
      let l := l0 + v
      let rest := t.drop n
      if rest.length < l then .short
      else parseMatch (tok.toNat % 16) (rest.take l) (rest.drop l) (1 + n + l)

/-- The history with a match of `len` bytes at offset `off` copied one byte at a time (R334). -/
def copyMatch : Nat → Nat → List Byte → List Byte
  | 0, _, h => h
  | n + 1, off, h => copyMatch n off (h ++ slice h (h.length - off) 1)

/-- The raw bytes that code words spell after a history; none where a word is cut or an offset reaches beyond the
history (R334). The first argument bounds the number of words. -/
def decodeWords : Nat → List Byte → List Byte → Option (List Byte)
  | _, hist, [] => some hist
  | 0, _, _ => none
  | fuel + 1, hist, code =>
    match parseWord code with
    | .short => none
    | .word lits len off used =>
      let h := hist ++ lits
      if len = 0 then decodeWords fuel h (code.drop used)
      else if h.length < off then none
      else decodeWords fuel (copyMatch len off h) (code.drop used)

/-- Whether decoding a block's code gives its raw bytes back: the verify of R335. -/
def verifies (hist raw code : List Byte) : Bool := decodeWords code.length hist code == some (hist ++ raw)

/-! ### Encoding a block -/

/-- A block written: its bytes, the raw bytes it takes, whether it is STORED, and whether that was for a mismatch. -/
structure BlockOut where
  bytes : List Byte
  raw : Nat
  stored : Bool
  mismatch : Bool
  deriving DecidableEq, Repr

/-- The code words that fit into `room` bytes, up to the first that does not (R337). -/
def fitWords : Nat → List CodedWord → List CodedWord
  | _, [] => []
  | room, w :: t => if w.code.length ≤ room then w :: fitWords (room - w.code.length) t else []

/-- One block of at most `chunk` after the history, in at most `room` bytes of output: coded where that is shorter and
verifies, else STORED; cut at the last code word that fits (R335, R337). `upset` is a mismatch found by the verify
decoder. None where not even one stored byte fits. -/
def encodeBlock (hist chunk : List Byte) (first upset : Bool) (room : Nat) : Option BlockOut :=
  let h := if first then [] else hist
  let words := greedyWords (chunk.length + 1) (h ++ chunk) h.length []
  let code := (words.map (·.code)).flatten
  let good := !upset && verifies h chunk code
  if decide (code.length < chunk.length) && good && decide (16 + code.length ≤ room) then
    some ⟨blockBytes first false chunk code, chunk.length, false, false⟩
  else if 16 + chunk.length ≤ room then
    some ⟨blockBytes first true chunk chunk, chunk.length, true, decide (code.length < chunk.length) && !good⟩
  else
    let fit := fitWords (room - 16) words
    let cut := (fit.map (·.code)).flatten
    let raw := chunk.take ((fit.map (·.raw)).sum)
    if decide (cut.length < raw.length) && !upset && verifies h raw cut then
      some ⟨blockBytes first false raw cut, raw.length, false, false⟩
    else
      let n := if raw.isEmpty then satTo (room - 16) chunk.length else raw.length
      if n = 0 then none
      else some ⟨blockBytes first true (chunk.take n) (chunk.take n), n, true,
        decide (cut.length < raw.length) && upset⟩

/-- The blocks of a whole record, each of at most 65,536 raw bytes, the first with FIRST (R347). -/
def encodeRecord : Nat → List Byte → List Byte → Bool → List Byte
  | 0, _, _, _ => []
  | fuel + 1, hist, raw, first =>
    if raw.isEmpty then []
    else
      let chunk := raw.take 65536
      match encodeBlock hist chunk first false (16 + chunk.length) with
      | none => []
      | some b => b.bytes ++ encodeRecord fuel (trimHistory ((if first then [] else hist) ++ chunk)) (raw.drop 65536) false

end Sys2Proof.Machine
end

