-- ==== Sys2Proof/Config.lean ====
section
/-! DEFINITION. What the spec leaves open: constants without a body, so that nothing can be proved of their values.
A free value is `freeValue` applied to the counter that the state advances at each use; the other constants are functions
of the operands of the computation they stand for (log entries 4, 6 and 8). -/

namespace Sys2Proof.Machine.Config

/-- The value the spec leaves open at a use, by the count of such uses (log entry 4). -/
opaque freeValue : Nat → Nat

/-- Which neighbour a rounding takes that the spec does not fix, for a quotient of these operands (log entry 8). -/
opaque roundUp : Int → Nat → Bool

/-- A value the spec does not state for an operand, by the place of the model that asks (log entry 4). -/
opaque openOf : Nat → Int → Nat

/-- The raw gauge phase of R67: the argument of a complex number in counts of 2π/65,536, quantised (log entry 8). -/
opaque arg : Int → Int → Nat

/-- The amplitude of R68 in 0.25 dB: 10 log of a level over a noise floor, quantised, before its limits. The operands are
the level, and the floor as a quotient (log entry 8). -/
opaque ampCode : Nat → Nat → Nat → Int

/-- A power quotient in 0.01 dB, for the noise floors of R66 (log entry 8). -/
opaque centiDb : Nat → Nat → Int

/-- The fit of R92 to an accumulated spectrum and a noise spectrum: the centre in 10 kHz, whether it lies in the window,
and the SNR in 2^−16 dB (log entry 8). -/
opaque fit : List Nat → List Nat → Nat × Bool × Int

/-- The band energy of R131 in 0.1 dB, of a window of VALUEs and the bins of the band; none where the sum is zero
(log entry 8). -/
opaque bandEnergy : List Int → List Nat → Option Int

/-- 10 log of the mean of 10^(E/10) over energies in 0.1 dB, a missing one counting as zero (R133, log entry 8). -/
opaque meanDb : List (Option Int) → Option Int

/-- 10 log of the sum of 10^(E/10) over values in 0.1 dB (R133, log entry 8). -/
opaque sumDb : List Int → Option Int

/-- SHA-384 of bytes (R217, log entry 6). -/
opaque sha384 : List Byte → List Byte

/-- Whether a signature verifies over a digest under a public key (R217, R224, log entry 6). -/
opaque ecdsaVerify : List Byte → List Byte → List Byte → Bool

/-- The compaction of the signatures of a self-test, in step order (R399, log entry 8). -/
opaque sstCompact : List Nat → Nat

/-- The compaction expected of some steps, from one-time memory (R399, log entry 8). -/
opaque sstExpected : List Nat → Nat

end Sys2Proof.Machine.Config
end

