-- ==== Sys2Proof/Machine/RegMap.lean ====
section
/-! DEFINITION. The register map of BAR0: the address of every register (namespace R), the place of every
field (namespace F), each register's reset value and its masks by access code, as the register tables of
the chapters give them (R4, R19, R59, R85, R103, R124, R155, R179, R211, R247, R248, R270, R289, R317, R341,
R364, R388, R407). A register of a family takes its instance numbers as arguments, in the order of its name. -/

namespace Sys2Proof.Machine

namespace R

def PRB_CTL : Nat := 0x20000
def PRB_STAT : Nat := 0x20004
def PRB_EVT : Nat := 0x20008
def PRB_LASER_CNT : Nat := 0x2000C
def PRB_LASER_CFG : Nat := 0x20010
def PRB_LASER_MON : Nat := 0x20014
def PRB_LOOP_CFG : Nat := 0x20300
def PRB_LOOP_OWN_A : Nat := 0x20304
def PRB_LOOP_OWN_B : Nat := 0x20308
def PRB_LOOP_UNOWNED : Nat := 0x2030C
def PRB_LOOP_SPLIT : Nat := 0x20310
def PRB_LOOP_REPART_CNT : Nat := 0x20314
def PRB_LOOP_MEAS : Nat := 0x20318
def KRF_CTL : Nat := 0x30000
def KRF_STAT : Nat := 0x30004
def KRF_EVT : Nat := 0x30008
def KRF_SAT_CNT : Nat := 0x3000C
def SCL_CTL : Nat := 0x40000
def SCL_STAT : Nat := 0x40004
def SCL_EVT : Nat := 0x40008
def SCL_CFG : Nat := 0x4000C
def SCL_BASE_TEMP : Nat := 0x40010
def SCL_COMP_CFG : Nat := 0x40014
def SCL_ABORT_CNT : Nat := 0x40018
def BKG_CTL : Nat := 0x50000
def BKG_STAT : Nat := 0x50004
def BKG_EVT : Nat := 0x50008
def BKG_SAT_CNT : Nat := 0x5000C
def CRU_CTL : Nat := 0x60000
def CRU_STAT : Nat := 0x60004
def CRU_EVT : Nat := 0x60008
def CRU_LOAD : Nat := 0x6000C
def CRU_TRK_CFG : Nat := 0x60010
def CRU_TRK_CONF : Nat := 0x60014
def CRU_TRK_STAT : Nat := 0x60018
def CRU_TRK_FULL_CNT : Nat := 0x6001C
def CRU_DET_DROP_CNT : Nat := 0x60020
def CRU_MISS_CNT : Nat := 0x60024
def CRU_REC_CNT : Nat := 0x60028
def BLZ_CTL : Nat := 0x70000
def BLZ_STAT : Nat := 0x70004
def BLZ_EVT : Nat := 0x70008
def BLZ_MX_CFG : Nat := 0x70010
def BLZ_MX_CTL : Nat := 0x70014
def BLZ_MX_STAT : Nat := 0x70018
def BLZ_MX_BRIGHT : Nat := 0x7001C
def BLZ_MX_CNT : Nat := 0x70020
def BLZ_MX_CNT2 : Nat := 0x70024
def CAL_CTL : Nat := 0x80000
def CAL_STAT : Nat := 0x80004
def CAL_EVT : Nat := 0x80008
def CAL_TALLY0 : Nat := 0x80010
def CAL_TALLY1 : Nat := 0x80014
def CAL_TALLY2 : Nat := 0x80018
def CAL_LSUP : Nat := 0x8001C
def WDG_CTL : Nat := 0x90000
def WDG_STAT : Nat := 0x90004
def WDG_EVT : Nat := 0x90008
def WDG_IMG_SERIAL : Nat := 0x9000C
def WDG_IMG_ID : Nat := 0x90010
def WDG_LANE : Nat := 0x90014
def WDG_CNT : Nat := 0x90018
def WDG_CNT2 : Nat := 0x9001C
def WDG_CNT3 : Nat := 0x90020
def WDG_PRES_AGE : Nat := 0x90024
def WDG_UNBLOCK : Nat := 0x90028
def MRK_CTL : Nat := 0xA0000
def MRK_STAT : Nat := 0xA0004
def MRK_EVT : Nat := 0xA0008
def MRK_SERIAL : Nat := 0xA000C
def MRK_CFG : Nat := 0xA0010
def MRK_HREQ_SET : Nat := 0xA0014
def MRK_HREQ_CLR : Nat := 0xA0018
def MRK_LATCH_CLR : Nat := 0xA001C
def MRK_PASS_CNT : Nat := 0xA0020
def SKY_CTL : Nat := 0xB0000
def SKY_STAT : Nat := 0xB0004
def SKY_EVT : Nat := 0xB0008
def SKY_TALLY : Nat := 0xB000C
def FIO_CTL : Nat := 0xC0000
def FIO_STAT : Nat := 0xC0004
def FIO_EVT : Nat := 0xC0008
def FIO_IN : Nat := 0xC000C
def FIO_OUT : Nat := 0xC0010
def FIO_OUT_SET : Nat := 0xC0014
def FIO_OUT_CLR : Nat := 0xC0018
def FIO_RB : Nat := 0xC001C
def FIO_TALLY0 : Nat := 0xC0020
def FIO_TALLY1 : Nat := 0xC0024
def FIO_SAFE_CLR : Nat := 0xC0028
def FIO_FSUP : Nat := 0xC002C
def HIF_CTL : Nat := 0xD0000
def HIF_STAT : Nat := 0xD0004
def HIF_EVT : Nat := 0xD0008
def HIF_EPOCH : Nat := 0xD000C
def HIF_HELD : Nat := 0xD0010
def HIF_DISCARD_CNT : Nat := 0xD0014
def HIF_DB_ERR_CNT : Nat := 0xD0018
def HIF_DMA_ERR_CNT : Nat := 0xD001C
def SST_CTL : Nat := 0x120000
def SST_CFG : Nat := 0x120004
def SST_STAT : Nat := 0x120008
def SST_EVT : Nat := 0x12000C
def SST_POWER : Nat := 0x120010
def SST_LAST : Nat := 0x120014
def SST_REPAIR : Nat := 0x120018
def SST_SPARE : Nat := 0x12001C
def PRB_Px_CFG (p : Nat) : Nat := 0x20100 + 0x100 * p
def PRB_Px_POWER (p : Nat) : Nat := 0x20104 + 0x100 * p
def PRB_Px_GIC (p : Nat) : Nat := 0x20108 + 0x100 * p
def PRB_Px_TIMING (p : Nat) : Nat := 0x2010C + 0x100 * p
def PRB_Px_END_MEAS (p : Nat) : Nat := 0x20110 + 0x100 * p
def PRB_Px_CUT_CFG (p : Nat) : Nat := 0x20114 + 0x100 * p
def PRB_Px_CUT_STAT (p : Nat) : Nat := 0x20118 + 0x100 * p
def PRB_Px_FAIL_CNT (p : Nat) : Nat := 0x2011C + 0x100 * p
def PRB_Px_SWEEP_LO (p : Nat) : Nat := 0x20120 + 0x100 * p
def PRB_Px_SWEEP_HI (p : Nat) : Nat := 0x20124 + 0x100 * p
def PRB_Px_APR_STAT (p : Nat) : Nat := 0x20128 + 0x100 * p
def PRB_Px_CUT_TALLY (p : Nat) : Nat := 0x2012C + 0x100 * p
def PRB_Px_CUT_CNT (p : Nat) : Nat := 0x20130 + 0x100 * p
def KRF_Px_CFG (p : Nat) : Nat := 0x30100 + 0x100 * p
def KRF_Px_NOISE01 (p : Nat) : Nat := 0x30104 + 0x100 * p
def KRF_Px_NOISE23 (p : Nat) : Nat := 0x30108 + 0x100 * p
def KRF_Px_ADC_MON (p : Nat) : Nat := 0x3010C + 0x100 * p
def KRF_Px_CLIP_CNT (p : Nat) : Nat := 0x30110 + 0x100 * p
def KRF_Px_BRIDGED_CNT (p : Nat) : Nat := 0x30114 + 0x100 * p
def KRF_Px_HELD_CNT (p : Nat) : Nat := 0x30118 + 0x100 * p
def KRF_Px_SLEW_CNT (p : Nat) : Nat := 0x3011C + 0x100 * p
def KRF_Px_RESTART_CNT (p : Nat) : Nat := 0x30120 + 0x100 * p
def KRF_Px_DROP_CNT (p : Nat) : Nat := 0x30124 + 0x100 * p
def SCL_Px_CFG (p : Nat) : Nat := 0x40100 + 0x100 * p
def SCL_Px_PROFILE_CNT (p : Nat) : Nat := 0x40104 + 0x100 * p
def SCL_Px_AGE (p : Nat) : Nat := 0x40108 + 0x100 * p
def SCL_Px_CLIP_CNT (p : Nat) : Nat := 0x4010C + 0x100 * p
def SCL_Px_EXCL_CNT (p : Nat) : Nat := 0x40110 + 0x100 * p
def SCL_Px_PERIOD (p : Nat) : Nat := 0x40114 + 0x100 * p
def SCL_Px_OOB (p : Nat) : Nat := 0x40118 + 0x100 * p
def BKG_Px_FILL_CNT (p : Nat) : Nat := 0x50100 + 0x100 * p
def BKG_Px_DFILL_CNT (p : Nat) : Nat := 0x50104 + 0x100 * p
def BKG_Px_GAP_CNT (p : Nat) : Nat := 0x50108 + 0x100 * p
def BKG_FPn_CFG (n : Nat) : Nat := 0x51000 + 0x10 * n
def BKG_FPn_SWAP (n : Nat) : Nat := 0x51004 + 0x10 * n
def BKG_FPn_STAT (n : Nat) : Nat := 0x51008 + 0x10 * n
def BKG_FPn_CNT (n : Nat) : Nat := 0x5100C + 0x10 * n
def BKG_CSn_STAT (n : Nat) : Nat := 0x52000 + 0x8 * n
def BKG_CSn_GD (n : Nat) : Nat := 0x52004 + 0x8 * n
def BLZ_Bb_CFG (b : Nat) : Nat := 0x70100 + 0x80 * b
def BLZ_Bb_STAT (b : Nat) : Nat := 0x70104 + 0x80 * b
def BLZ_Bb_SEGVF0 (b : Nat) : Nat := 0x70108 + 0x80 * b
def BLZ_Bb_SEGVF1 (b : Nat) : Nat := 0x7010C + 0x80 * b
def BLZ_Bb_SEGVF2 (b : Nat) : Nat := 0x70110 + 0x80 * b
def BLZ_Bb_TRK (b : Nat) : Nat := 0x70114 + 0x80 * b
def BLZ_Bb_SEGMEAS0 (b : Nat) : Nat := 0x70118 + 0x80 * b
def BLZ_Bb_SEGMEAS1 (b : Nat) : Nat := 0x7011C + 0x80 * b
def BLZ_Bb_SEGMEAS2 (b : Nat) : Nat := 0x70120 + 0x80 * b
def BLZ_Bb_CTL (b : Nat) : Nat := 0x70124 + 0x80 * b
def BLZ_Bb_CNT (b : Nat) : Nat := 0x70128 + 0x80 * b
def BLZ_Bb_PINk (b k : Nat) : Nat := 0x70140 + 0x80 * b + 0x4 * k
def CAL_ADJ_STALE0 : Nat := 0x80020
def CAL_ADJ_STALE1 : Nat := 0x80024
def CAL_ADJ_STALE2 : Nat := 0x80028
def CAL_Un_CTL (u : Nat) : Nat := 0x81000 + 0x1000 * u
def CAL_Un_STAT (u : Nat) : Nat := 0x81004 + 0x1000 * u
def CAL_Un_URG_CFG (u : Nat) : Nat := 0x81008 + 0x1000 * u
def CAL_Un_URG (u : Nat) : Nat := 0x8100C + 0x1000 * u
def CAL_Un_URG_STAT (u : Nat) : Nat := 0x81010 + 0x1000 * u
def CAL_Un_SHD_HI (u : Nat) : Nat := 0x81024 + 0x1000 * u
def CAL_Un_SHD_CNT (u : Nat) : Nat := 0x81028 + 0x1000 * u
def CAL_Un_SHD_MIN (u : Nat) : Nat := 0x8102C + 0x1000 * u
def CAL_Un_SHD_MAX (u : Nat) : Nat := 0x81030 + 0x1000 * u
def CAL_Un_CNT (u : Nat) : Nat := 0x81034 + 0x1000 * u
def CAL_Un_LOOP0 (u : Nat) : Nat := 0x81038 + 0x1000 * u
def CAL_Un_LOOP1 (u : Nat) : Nat := 0x8103C + 0x1000 * u
def CAL_Un_OVRm (u m : Nat) : Nat := 0x81014 + 0x1000 * u + 0x4 * m
def CAL_Un_ACCn_LO (u n : Nat) : Nat := 0x81100 + 0x1000 * u + 0x4 * n
def CAL_Un_ACCn_LOC (u n : Nat) : Nat := 0x81200 + 0x1000 * u + 0x4 * n
def WDG_KEY_HASHk (k : Nat) : Nat := 0x90040 + 0x4 * k
def WDG_Gg (g : Nat) : Nat := 0x90100 + 0x4 * g
def MRK_HREQk (k : Nat) : Nat := 0xA0040 + 0x4 * k
def SKY_Cc_CFG (c : Nat) : Nat := 0xB0100 + 0x40 * c
def SKY_Cc_CTL (c : Nat) : Nat := 0xB0104 + 0x40 * c
def SKY_Cc_LEVEL (c : Nat) : Nat := 0xB0108 + 0x40 * c
def SKY_Cc_STAT (c : Nat) : Nat := 0xB010C + 0x40 * c
def SKY_Cc_MISS_LO (c : Nat) : Nat := 0xB0110 + 0x40 * c
def SKY_Cc_MISS_HI (c : Nat) : Nat := 0xB0114 + 0x40 * c
def SKY_Cc_EXCH (c : Nat) : Nat := 0xB0118 + 0x40 * c
def SKY_Cc_ERR (c : Nat) : Nat := 0xB011C + 0x40 * c
def SKY_Cc_ERR2 (c : Nat) : Nat := 0xB0120 + 0x40 * c
def SKY_Cc_RT (c : Nat) : Nat := 0xB0124 + 0x40 * c
def FIO_IOn_CFG (n : Nat) : Nat := 0xC0100 + 0x20 * n
def FIO_IOn_DEB (n : Nat) : Nat := 0xC0104 + 0x20 * n
def FIO_IOn_PULSE (n : Nat) : Nat := 0xC0108 + 0x20 * n
def FIO_IOn_STAT (n : Nat) : Nat := 0xC010C + 0x20 * n
def FIO_IOn_CNT (n : Nat) : Nat := 0xC0110 + 0x20 * n
def HIF_CMDn_BASE_LO (n : Nat) : Nat := 0xD1000 + 0x40 * n
def HIF_CMDn_BASE_HI (n : Nat) : Nat := 0xD1004 + 0x40 * n
def HIF_CMDn_WB_LO (n : Nat) : Nat := 0xD1008 + 0x40 * n
def HIF_CMDn_WB_HI (n : Nat) : Nat := 0xD100C + 0x40 * n
def HIF_CMDn_CFG (n : Nat) : Nat := 0xD1010 + 0x40 * n
def HIF_CMDn_PROD (n : Nat) : Nat := 0xD1014 + 0x40 * n
def HIF_CMDn_CONS (n : Nat) : Nat := 0xD1018 + 0x40 * n
def HIF_CMDn_STAT (n : Nat) : Nat := 0xD101C + 0x40 * n
def HIF_CMDn_CFG2 (n : Nat) : Nat := 0xD1020 + 0x40 * n
def HIF_CMDn_CNT (n : Nat) : Nat := 0xD1024 + 0x40 * n
def HIF_CPLn_BASE_LO (n : Nat) : Nat := 0xD1400 + 0x40 * n
def HIF_CPLn_BASE_HI (n : Nat) : Nat := 0xD1404 + 0x40 * n
def HIF_CPLn_WB_LO (n : Nat) : Nat := 0xD1408 + 0x40 * n
def HIF_CPLn_WB_HI (n : Nat) : Nat := 0xD140C + 0x40 * n
def HIF_CPLn_CFG (n : Nat) : Nat := 0xD1410 + 0x40 * n
def HIF_CPLn_PROD (n : Nat) : Nat := 0xD1414 + 0x40 * n
def HIF_CPLn_CONS (n : Nat) : Nat := 0xD1418 + 0x40 * n
def HIF_CPLn_STAT (n : Nat) : Nat := 0xD141C + 0x40 * n
def HIF_CPLn_CFG2 (n : Nat) : Nat := 0xD1420 + 0x40 * n
def HIF_CPLn_CNT (n : Nat) : Nat := 0xD1424 + 0x40 * n
def HIF_EVRn_BASE_LO (n : Nat) : Nat := 0xD1800 + 0x40 * n
def HIF_EVRn_BASE_HI (n : Nat) : Nat := 0xD1804 + 0x40 * n
def HIF_EVRn_WB_LO (n : Nat) : Nat := 0xD1808 + 0x40 * n
def HIF_EVRn_WB_HI (n : Nat) : Nat := 0xD180C + 0x40 * n
def HIF_EVRn_CFG (n : Nat) : Nat := 0xD1810 + 0x40 * n
def HIF_EVRn_PROD (n : Nat) : Nat := 0xD1814 + 0x40 * n
def HIF_EVRn_CONS (n : Nat) : Nat := 0xD1818 + 0x40 * n
def HIF_EVRn_STAT (n : Nat) : Nat := 0xD181C + 0x40 * n
def HIF_EVRn_CFG2 (n : Nat) : Nat := 0xD1820 + 0x40 * n
def HIF_EVRn_CNT (n : Nat) : Nat := 0xD1824 + 0x40 * n
def HIF_CAPn_BASE_LO (n : Nat) : Nat := 0xD1C00 + 0x40 * n
def HIF_CAPn_BASE_HI (n : Nat) : Nat := 0xD1C04 + 0x40 * n
def HIF_CAPn_WB_LO (n : Nat) : Nat := 0xD1C08 + 0x40 * n
def HIF_CAPn_WB_HI (n : Nat) : Nat := 0xD1C0C + 0x40 * n
def HIF_CAPn_CFG (n : Nat) : Nat := 0xD1C10 + 0x40 * n
def HIF_CAPn_PROD (n : Nat) : Nat := 0xD1C14 + 0x40 * n
def HIF_CAPn_CONS (n : Nat) : Nat := 0xD1C18 + 0x40 * n
def HIF_CAPn_STAT (n : Nat) : Nat := 0xD1C1C + 0x40 * n
def HIF_CAPn_CFG2 (n : Nat) : Nat := 0xD1C20 + 0x40 * n
def HIF_CAPn_CNT (n : Nat) : Nat := 0xD1C24 + 0x40 * n
def FLM_CTL : Nat := 0xE0000
def FLM_STAT : Nat := 0xE0004
def FLM_EVT : Nat := 0xE0008
def FLM_Pp_CFG (p : Nat) : Nat := 0xE0100 + 0x20 * p
def FLM_Pp_STAT (p : Nat) : Nat := 0xE0104 + 0x20 * p
def FLM_Pp_TX_CNT (p : Nat) : Nat := 0xE0108 + 0x20 * p
def FLM_Pp_PAUSE_CNT (p : Nat) : Nat := 0xE010C + 0x20 * p
def FLM_Pp_RX_DISC (p : Nat) : Nat := 0xE0110 + 0x20 * p
def FLM_Sn_STAT (n : Nat) : Nat := 0xE1000 + 0x20 * n
def FLM_Sn_SEQ (n : Nat) : Nat := 0xE1004 + 0x20 * n
def FLM_Sn_THINNED (n : Nat) : Nat := 0xE1008 + 0x20 * n
def FLM_Sn_DROP_CNT (n : Nat) : Nat := 0xE100C + 0x20 * n
def CHP_CTL : Nat := 0xF0000
def CHP_STAT : Nat := 0xF0004
def CHP_EVT : Nat := 0xF0008
def CHP_VERIFY_CNT : Nat := 0xF000C
def CHP_STORED_CNT : Nat := 0xF0010
def DCK_CTL : Nat := 0x100000
def DCK_STAT : Nat := 0x100004
def DCK_EVT : Nat := 0x100008
def DCK_PART : Nat := 0x10000C
def DCK_RING_CFG : Nat := 0x100010
def DCK_RING_STAT : Nat := 0x100014
def DCK_RING_OLD_LO : Nat := 0x100018
def DCK_RING_OLD_HI : Nat := 0x10001C
def DCK_CE_CNT : Nat := 0x100020
def DCK_UE_CNT : Nat := 0x100024
def DCK_RING_RAW_CNT : Nat := 0x100028
def LND_CTL : Nat := 0x110000
def LND_STAT : Nat := 0x110004
def LND_EVT : Nat := 0x110008
def LND_PART : Nat := 0x11000C
def LND_LIFE : Nat := 0x110010
def LND_SPARE : Nat := 0x110014
def LND_BUDGET : Nat := 0x110018
def LND_CE_CNT : Nat := 0x11001C
def LND_UE_CNT : Nat := 0x110020
def LND_REFRESH_CNT : Nat := 0x110024
def LND_SCRUB_AGE : Nat := 0x110028
def LND_ARC_OLD_LO : Nat := 0x110030
def LND_ARC_OLD_HI : Nat := 0x110034
def LND_ARCk_STAT (k : Nat) : Nat := 0x110100 + 0x4 * k
def GEN_ID : Nat := 0x0
def GEN_SERIAL_LO : Nat := 0x4
def GEN_SERIAL_HI : Nat := 0x8
def GEN_LC_STAT : Nat := 0xC
def GEN_LC_REQ : Nat := 0x10
def GEN_RESET_CAUSE : Nat := 0x14
def GEN_CTL : Nat := 0x18
def GEN_START : Nat := 0x1C
def GEN_WRERR_CNT : Nat := 0x20
def GEN_EVT : Nat := 0x24
def GEN_START_T : Nat := 0x28
def CLK_CTL : Nat := 0x10000
def CLK_STAT : Nat := 0x10004
def CLK_EVT : Nat := 0x10008
def CLK_GATE : Nat := 0x1000C
def CLK_GATED : Nat := 0x10010
def CLK_KRF_OPP : Nat := 0x10014
def CLK_CNT : Nat := 0x10018
def CLK_TB_CFG : Nat := 0x10020
def CLK_TB_STAT : Nat := 0x10024
def CLK_TB_NOW_LO : Nat := 0x10028
def CLK_TB_NOW_HI : Nat := 0x1002C
def CLK_TB_OFS : Nat := 0x10030
def CLK_TB_FREQ : Nat := 0x10034
def CLK_TB_SEC : Nat := 0x10038
def CLK_Dd (d : Nat) : Nat := 0x10100 + 0x4 * d
def HIF_MSIX_ADDR_LO (v : Nat) : Nat := 0xD8000 + 0x10 * v
def HIF_MSIX_ADDR_HI (v : Nat) : Nat := 0xD8004 + 0x10 * v
def HIF_MSIX_DATA (v : Nat) : Nat := 0xD8008 + 0x10 * v
def HIF_MSIX_CTL (v : Nat) : Nat := 0xD800C + 0x10 * v
def HIF_MSIX_PBA : Nat := 0xD9000
def BLZ_OWN_Ln (n : Nat) : Nat := 0x7F000 + 0x4 * n
def BLZ_OWN_HSn (n : Nat) : Nat := 0x7F180 + 0x4 * n
def BLZ_OWN_MSYNC : Nat := 0x7F1C0
def CAL_OWN_Mk (n : Nat) : Nat := 0x8F000 + 0x4 * n
def FIO_OWN_IOn (n : Nat) : Nat := 0xCF000 + 0x4 * n
def GEN_OWN_TMRn (n : Nat) : Nat := 0xF000 + 0x4 * n
def DCK_OWN_WBn (n : Nat) : Nat := 0x10F000 + 0x4 * n
def CHP_OWN_CTXn (n : Nat) : Nat := 0xFF000 + 0x4 * n

end R

namespace F

def PRB_CTL.PA_EN : Field := ⟨R.PRB_CTL, 0, 0⟩
def PRB_CTL.PB_EN : Field := ⟨R.PRB_CTL, 1, 1⟩
def PRB_CTL.LOOP : Field := ⟨R.PRB_CTL, 2, 2⟩
def PRB_CTL.AUTO_RETURN : Field := ⟨R.PRB_CTL, 3, 3⟩
def PRB_CTL.RETURN_NOW : Field := ⟨R.PRB_CTL, 4, 4⟩
def PRB_CTL.HANDOVER_TEST : Field := ⟨R.PRB_CTL, 5, 5⟩
def PRB_STAT.A_LOCK : Field := ⟨R.PRB_STAT, 0, 0⟩
def PRB_STAT.B_LOCK : Field := ⟨R.PRB_STAT, 1, 1⟩
def PRB_STAT.SOURCE : Field := ⟨R.PRB_STAT, 2, 2⟩
def PRB_STAT.TEMP_STALE : Field := ⟨R.PRB_STAT, 3, 3⟩
def PRB_STAT.PA_STATE : Field := ⟨R.PRB_STAT, 6, 4⟩
def PRB_STAT.PB_STATE : Field := ⟨R.PRB_STAT, 9, 7⟩
def PRB_STAT.LOOP_ACTIVE : Field := ⟨R.PRB_STAT, 10, 10⟩
def PRB_STAT.RETURN_PENDING : Field := ⟨R.PRB_STAT, 11, 11⟩
def PRB_EVT.A_FAIL : Field := ⟨R.PRB_EVT, 0, 0⟩
def PRB_EVT.B_FAIL : Field := ⟨R.PRB_EVT, 1, 1⟩
def PRB_EVT.HANDOVER : Field := ⟨R.PRB_EVT, 2, 2⟩
def PRB_EVT.RETURN : Field := ⟨R.PRB_EVT, 3, 3⟩
def PRB_EVT.APR_A : Field := ⟨R.PRB_EVT, 4, 4⟩
def PRB_EVT.APR_B : Field := ⟨R.PRB_EVT, 5, 5⟩
def PRB_EVT.CUT_A : Field := ⟨R.PRB_EVT, 6, 6⟩
def PRB_EVT.CUT_B : Field := ⟨R.PRB_EVT, 7, 7⟩
def PRB_EVT.OVERLEN_A : Field := ⟨R.PRB_EVT, 8, 8⟩
def PRB_EVT.OVERLEN_B : Field := ⟨R.PRB_EVT, 9, 9⟩
def PRB_EVT.CLAMP_A : Field := ⟨R.PRB_EVT, 10, 10⟩
def PRB_EVT.CLAMP_B : Field := ⟨R.PRB_EVT, 11, 11⟩
def PRB_LASER_CNT.HANDOVERS : Field := ⟨R.PRB_LASER_CNT, 15, 0⟩
def PRB_LASER_CNT.RETURNS : Field := ⟨R.PRB_LASER_CNT, 31, 16⟩
def PRB_LASER_CFG.RETURN_HOLD : Field := ⟨R.PRB_LASER_CFG, 7, 0⟩
def PRB_LASER_MON.A_PWR : Field := ⟨R.PRB_LASER_MON, 7, 0⟩
def PRB_LASER_MON.B_PWR : Field := ⟨R.PRB_LASER_MON, 15, 8⟩
def PRB_LASER_MON.B_OFFSET_ERR : Field := ⟨R.PRB_LASER_MON, 31, 16⟩
def PRB_LOOP_CFG.LEN : Field := ⟨R.PRB_LOOP_CFG, 16, 0⟩
def PRB_LOOP_CFG.HYST : Field := ⟨R.PRB_LOOP_CFG, 20, 17⟩
def PRB_LOOP_CFG.AVG : Field := ⟨R.PRB_LOOP_CFG, 24, 21⟩
def PRB_LOOP_OWN_A.COUNT : Field := ⟨R.PRB_LOOP_OWN_A, 17, 0⟩
def PRB_LOOP_OWN_B.COUNT : Field := ⟨R.PRB_LOOP_OWN_B, 17, 0⟩
def PRB_LOOP_UNOWNED.COUNT : Field := ⟨R.PRB_LOOP_UNOWNED, 17, 0⟩
def PRB_LOOP_SPLIT.SPLIT : Field := ⟨R.PRB_LOOP_SPLIT, 16, 0⟩
def PRB_LOOP_SPLIT.CONTIG : Field := ⟨R.PRB_LOOP_SPLIT, 17, 17⟩
def PRB_LOOP_REPART_CNT.REPART : Field := ⟨R.PRB_LOOP_REPART_CNT, 31, 0⟩
def PRB_LOOP_MEAS.LEN_USED : Field := ⟨R.PRB_LOOP_MEAS, 16, 0⟩
def PRB_LOOP_MEAS.MEASURED : Field := ⟨R.PRB_LOOP_MEAS, 17, 17⟩
def PRB_LOOP_MEAS.FAILED : Field := ⟨R.PRB_LOOP_MEAS, 18, 18⟩
def KRF_CTL.RING_FMT : Field := ⟨R.KRF_CTL, 1, 0⟩
def KRF_CTL.CNT_CLR : Field := ⟨R.KRF_CTL, 2, 2⟩
def KRF_STAT.ACTIVE_A : Field := ⟨R.KRF_STAT, 0, 0⟩
def KRF_STAT.ACTIVE_B : Field := ⟨R.KRF_STAT, 1, 1⟩
def KRF_STAT.LOAD : Field := ⟨R.KRF_STAT, 8, 2⟩
def KRF_STAT.OVERLOAD : Field := ⟨R.KRF_STAT, 9, 9⟩
def KRF_EVT.CLIP_A : Field := ⟨R.KRF_EVT, 0, 0⟩
def KRF_EVT.CLIP_B : Field := ⟨R.KRF_EVT, 1, 1⟩
def KRF_EVT.DROP_A : Field := ⟨R.KRF_EVT, 2, 2⟩
def KRF_EVT.DROP_B : Field := ⟨R.KRF_EVT, 3, 3⟩
def KRF_EVT.SAT : Field := ⟨R.KRF_EVT, 4, 4⟩
def KRF_EVT.RESTART_A : Field := ⟨R.KRF_EVT, 5, 5⟩
def KRF_EVT.RESTART_B : Field := ⟨R.KRF_EVT, 6, 6⟩
def KRF_EVT.OVERLOAD : Field := ⟨R.KRF_EVT, 7, 7⟩
def KRF_SAT_CNT.SAT : Field := ⟨R.KRF_SAT_CNT, 31, 0⟩
def SCL_CTL.EN : Field := ⟨R.SCL_CTL, 0, 0⟩
def SCL_CTL.BASE_CAPTURE : Field := ⟨R.SCL_CTL, 1, 1⟩
def SCL_CTL.CNT_CLR : Field := ⟨R.SCL_CTL, 2, 2⟩
def SCL_CTL.COMP_EN : Field := ⟨R.SCL_CTL, 3, 3⟩
def SCL_STAT.ACTIVE_A : Field := ⟨R.SCL_STAT, 0, 0⟩
def SCL_STAT.ACTIVE_B : Field := ⟨R.SCL_STAT, 1, 1⟩
def SCL_STAT.STALE_A : Field := ⟨R.SCL_STAT, 2, 2⟩
def SCL_STAT.STALE_B : Field := ⟨R.SCL_STAT, 3, 3⟩
def SCL_STAT.BASE_VALID : Field := ⟨R.SCL_STAT, 4, 4⟩
def SCL_STAT.CAPTURE_PENDING : Field := ⟨R.SCL_STAT, 5, 5⟩
def SCL_STAT.COMP_LOADED : Field := ⟨R.SCL_STAT, 6, 6⟩
def SCL_EVT.PROFILE_A : Field := ⟨R.SCL_EVT, 0, 0⟩
def SCL_EVT.PROFILE_B : Field := ⟨R.SCL_EVT, 1, 1⟩
def SCL_EVT.STALE_A : Field := ⟨R.SCL_EVT, 2, 2⟩
def SCL_EVT.STALE_B : Field := ⟨R.SCL_EVT, 3, 3⟩
def SCL_EVT.ABORT : Field := ⟨R.SCL_EVT, 4, 4⟩
def SCL_EVT.CLIP_A : Field := ⟨R.SCL_EVT, 5, 5⟩
def SCL_EVT.CLIP_B : Field := ⟨R.SCL_EVT, 6, 6⟩
def SCL_EVT.BASE_DONE : Field := ⟨R.SCL_EVT, 7, 7⟩
def SCL_CFG.N_M1 : Field := ⟨R.SCL_CFG, 3, 0⟩
def SCL_CFG.AVG_LOG2 : Field := ⟨R.SCL_CFG, 7, 4⟩
def SCL_CFG.WEAK_THR : Field := ⟨R.SCL_CFG, 13, 8⟩
def SCL_BASE_TEMP.TEMP : Field := ⟨R.SCL_BASE_TEMP, 15, 0⟩
def SCL_COMP_CFG.C_EPS : Field := ⟨R.SCL_COMP_CFG, 9, 0⟩
def SCL_ABORT_CNT.ABORT : Field := ⟨R.SCL_ABORT_CNT, 31, 0⟩
def BKG_CTL.CNT_CLR : Field := ⟨R.BKG_CTL, 0, 0⟩
def BKG_STAT.SETS : Field := ⟨R.BKG_STAT, 6, 0⟩
def BKG_STAT.CHANNELS : Field := ⟨R.BKG_STAT, 24, 7⟩
def BKG_STAT.LOOP_GRID : Field := ⟨R.BKG_STAT, 25, 25⟩
def BKG_EVT.GAP_A : Field := ⟨R.BKG_EVT, 0, 0⟩
def BKG_EVT.GAP_B : Field := ⟨R.BKG_EVT, 1, 1⟩
def BKG_EVT.SAT : Field := ⟨R.BKG_EVT, 2, 2⟩
def BKG_EVT.REPLACED : Field := ⟨R.BKG_EVT, 3, 3⟩
def BKG_EVT.NULL_SWAP : Field := ⟨R.BKG_EVT, 4, 4⟩
def BKG_EVT.FADE_DONE : Field := ⟨R.BKG_EVT, 5, 5⟩
def BKG_EVT.SET_RESTART : Field := ⟨R.BKG_EVT, 6, 6⟩
def BKG_EVT.BUSY : Field := ⟨R.BKG_EVT, 7, 7⟩
def BKG_SAT_CNT.SAT : Field := ⟨R.BKG_SAT_CNT, 31, 0⟩
def CRU_CTL.EN : Field := ⟨R.CRU_CTL, 0, 0⟩
def CRU_CTL.TRK_EN : Field := ⟨R.CRU_CTL, 1, 1⟩
def CRU_CTL.TRK_EVT_EN : Field := ⟨R.CRU_CTL, 2, 2⟩
def CRU_CTL.CNT_CLR : Field := ⟨R.CRU_CTL, 3, 3⟩
def CRU_STAT.ZONES : Field := ⟨R.CRU_STAT, 15, 0⟩
def CRU_STAT.LASTING : Field := ⟨R.CRU_STAT, 31, 16⟩
def CRU_EVT.VIB : Field := ⟨R.CRU_EVT, 0, 0⟩
def CRU_EVT.TLEV : Field := ⟨R.CRU_EVT, 1, 1⟩
def CRU_EVT.TRATE : Field := ⟨R.CRU_EVT, 2, 2⟩
def CRU_EVT.STOP : Field := ⟨R.CRU_EVT, 3, 3⟩
def CRU_EVT.BLIND : Field := ⟨R.CRU_EVT, 4, 4⟩
def CRU_EVT.SHED : Field := ⟨R.CRU_EVT, 5, 5⟩
def CRU_EVT.TRK_FULL : Field := ⟨R.CRU_EVT, 6, 6⟩
def CRU_EVT.DET_DROP : Field := ⟨R.CRU_EVT, 7, 7⟩
def CRU_EVT.SLOW : Field := ⟨R.CRU_EVT, 8, 8⟩
def CRU_LOAD.LOAD : Field := ⟨R.CRU_LOAD, 7, 0⟩
def CRU_LOAD.OVERLOAD : Field := ⟨R.CRU_LOAD, 8, 8⟩
def CRU_LOAD.SHED_FIRST : Field := ⟨R.CRU_LOAD, 24, 9⟩
def CRU_TRK_CFG.ALPHA : Field := ⟨R.CRU_TRK_CFG, 7, 0⟩
def CRU_TRK_CFG.BETA : Field := ⟨R.CRU_TRK_CFG, 15, 8⟩
def CRU_TRK_CFG.GATE : Field := ⟨R.CRU_TRK_CFG, 27, 16⟩
def CRU_TRK_CONF.CONF_UP : Field := ⟨R.CRU_TRK_CONF, 7, 0⟩
def CRU_TRK_CONF.CONF_DN : Field := ⟨R.CRU_TRK_CONF, 15, 8⟩
def CRU_TRK_CONF.CONF_ON : Field := ⟨R.CRU_TRK_CONF, 23, 16⟩
def CRU_TRK_STAT.ACTIVE : Field := ⟨R.CRU_TRK_STAT, 12, 0⟩
def CRU_TRK_STAT.CONFIRMED : Field := ⟨R.CRU_TRK_STAT, 28, 16⟩
def CRU_TRK_FULL_CNT.REFUSED : Field := ⟨R.CRU_TRK_FULL_CNT, 31, 0⟩
def CRU_DET_DROP_CNT.DROPPED : Field := ⟨R.CRU_DET_DROP_CNT, 31, 0⟩
def CRU_MISS_CNT.MISSED : Field := ⟨R.CRU_MISS_CNT, 31, 0⟩
def CRU_REC_CNT.RECORDS : Field := ⟨R.CRU_REC_CNT, 31, 0⟩
def BLZ_CTL.CNT_CLR : Field := ⟨R.BLZ_CTL, 0, 0⟩
def BLZ_STAT.TSD : Field := ⟨R.BLZ_STAT, 8, 0⟩
def BLZ_STAT.MX_ACTIVE : Field := ⟨R.BLZ_STAT, 9, 9⟩
def BLZ_EVT.THERMAL : Field := ⟨R.BLZ_EVT, 0, 0⟩
def BLZ_EVT.TRK_LIMIT : Field := ⟨R.BLZ_EVT, 1, 1⟩
def BLZ_EVT.SEG_OPEN : Field := ⟨R.BLZ_EVT, 2, 2⟩
def BLZ_EVT.SEG_SHORT : Field := ⟨R.BLZ_EVT, 3, 3⟩
def BLZ_EVT.EVICTED : Field := ⟨R.BLZ_EVT, 4, 4⟩
def BLZ_EVT.FRAME_BUSY : Field := ⟨R.BLZ_EVT, 5, 5⟩
def BLZ_EVT.MSYNC_IGN : Field := ⟨R.BLZ_EVT, 6, 6⟩
def BLZ_MX_CFG.FIRST_BANK : Field := ⟨R.BLZ_MX_CFG, 2, 0⟩
def BLZ_MX_CFG.NBANK_M1 : Field := ⟨R.BLZ_MX_CFG, 4, 3⟩
def BLZ_MX_CFG.NROW_M1 : Field := ⟨R.BLZ_MX_CFG, 8, 5⟩
def BLZ_MX_CFG.ICOL : Field := ⟨R.BLZ_MX_CFG, 16, 9⟩
def BLZ_MX_CFG.MSYNC_EN : Field := ⟨R.BLZ_MX_CFG, 17, 17⟩
def BLZ_MX_CFG.MSYNC_SWAP : Field := ⟨R.BLZ_MX_CFG, 18, 18⟩
def BLZ_MX_CFG.EN : Field := ⟨R.BLZ_MX_CFG, 19, 19⟩
def BLZ_MX_CFG.MSYNC_ALIGN : Field := ⟨R.BLZ_MX_CFG, 20, 20⟩
def BLZ_MX_CTL.SWAP : Field := ⟨R.BLZ_MX_CTL, 0, 0⟩
def BLZ_MX_STAT.FRONT : Field := ⟨R.BLZ_MX_STAT, 0, 0⟩
def BLZ_MX_STAT.ARMED : Field := ⟨R.BLZ_MX_STAT, 1, 1⟩
def BLZ_MX_STAT.LOADING : Field := ⟨R.BLZ_MX_STAT, 2, 2⟩
def BLZ_MX_STAT.ROW : Field := ⟨R.BLZ_MX_STAT, 6, 3⟩
def BLZ_MX_STAT.CONFLICT : Field := ⟨R.BLZ_MX_STAT, 7, 7⟩
def BLZ_MX_BRIGHT.CMD : Field := ⟨R.BLZ_MX_BRIGHT, 11, 0⟩
def BLZ_MX_BRIGHT.CURVE : Field := ⟨R.BLZ_MX_BRIGHT, 13, 12⟩
def BLZ_MX_CNT.SWAPS : Field := ⟨R.BLZ_MX_CNT, 15, 0⟩
def BLZ_MX_CNT.MERGED : Field := ⟨R.BLZ_MX_CNT, 31, 16⟩
def BLZ_MX_CNT2.ALIGN : Field := ⟨R.BLZ_MX_CNT2, 15, 0⟩
def BLZ_MX_CNT2.MSYNC_IGN : Field := ⟨R.BLZ_MX_CNT2, 31, 16⟩
def CAL_CTL.CNT_CLR : Field := ⟨R.CAL_CTL, 0, 0⟩
def CAL_STAT.LSUP_LOW : Field := ⟨R.CAL_STAT, 0, 0⟩
def CAL_STAT.PROOF_PINS : Field := ⟨R.CAL_STAT, 7, 1⟩
def CAL_STAT.UNCMD : Field := ⟨R.CAL_STAT, 14, 8⟩
def CAL_STAT.LATCHED : Field := ⟨R.CAL_STAT, 21, 15⟩
def CAL_EVT.PIN_FAULT : Field := ⟨R.CAL_EVT, 0, 0⟩
def CAL_EVT.ADJ_SHORT : Field := ⟨R.CAL_EVT, 1, 1⟩
def CAL_EVT.NODE_FAULT : Field := ⟨R.CAL_EVT, 2, 2⟩
def CAL_EVT.OVR : Field := ⟨R.CAL_EVT, 3, 3⟩
def CAL_EVT.LSUP_LOW : Field := ⟨R.CAL_EVT, 4, 4⟩
def CAL_EVT.URG_DONE : Field := ⟨R.CAL_EVT, 5, 5⟩
def CAL_EVT.LOAD_CONFLICT : Field := ⟨R.CAL_EVT, 6, 6⟩
def CAL_TALLY0.OC : Field := ⟨R.CAL_TALLY0, 15, 0⟩
def CAL_TALLY0.OFF : Field := ⟨R.CAL_TALLY0, 31, 16⟩
def CAL_TALLY1.LOWCUR : Field := ⟨R.CAL_TALLY1, 15, 0⟩
def CAL_TALLY1.ADJ : Field := ⟨R.CAL_TALLY1, 31, 16⟩
def CAL_TALLY2.NODE : Field := ⟨R.CAL_TALLY2, 15, 0⟩
def CAL_LSUP.VAL : Field := ⟨R.CAL_LSUP, 11, 0⟩
def WDG_CTL.CNT_CLR : Field := ⟨R.WDG_CTL, 0, 0⟩
def WDG_CTL.GRANT_EVT : Field := ⟨R.WDG_CTL, 1, 1⟩
def WDG_STAT.IMG : Field := ⟨R.WDG_STAT, 1, 0⟩
def WDG_STAT.VOTE : Field := ⟨R.WDG_STAT, 3, 2⟩
def WDG_STAT.PRESENTING : Field := ⟨R.WDG_STAT, 4, 4⟩
def WDG_STAT.START_WAIT : Field := ⟨R.WDG_STAT, 5, 5⟩
def WDG_STAT.COPY0_VALID : Field := ⟨R.WDG_STAT, 6, 6⟩
def WDG_STAT.COPY1_VALID : Field := ⟨R.WDG_STAT, 7, 7⟩
def WDG_STAT.TRIMMED : Field := ⟨R.WDG_STAT, 8, 8⟩
def WDG_EVT.LANE : Field := ⟨R.WDG_EVT, 0, 0⟩
def WDG_EVT.NONE : Field := ⟨R.WDG_EVT, 1, 1⟩
def WDG_EVT.FAILSAFE : Field := ⟨R.WDG_EVT, 2, 2⟩
def WDG_EVT.FALLBACK : Field := ⟨R.WDG_EVT, 3, 3⟩
def WDG_EVT.DEGRADED : Field := ⟨R.WDG_EVT, 4, 4⟩
def WDG_EVT.HELD : Field := ⟨R.WDG_EVT, 5, 5⟩
def WDG_EVT.UNCMD : Field := ⟨R.WDG_EVT, 6, 6⟩
def WDG_EVT.COMMIT : Field := ⟨R.WDG_EVT, 7, 7⟩
def WDG_EVT.STORE : Field := ⟨R.WDG_EVT, 8, 8⟩
def WDG_EVT.VOTER : Field := ⟨R.WDG_EVT, 9, 9⟩
def WDG_IMG_SERIAL.SERIAL : Field := ⟨R.WDG_IMG_SERIAL, 31, 0⟩
def WDG_IMG_ID.BUILD_ID : Field := ⟨R.WDG_IMG_ID, 31, 0⟩
def WDG_LANE.L0 : Field := ⟨R.WDG_LANE, 1, 0⟩
def WDG_LANE.L1 : Field := ⟨R.WDG_LANE, 3, 2⟩
def WDG_LANE.L2 : Field := ⟨R.WDG_LANE, 5, 4⟩
def WDG_CNT.ISOLATIONS : Field := ⟨R.WDG_CNT, 15, 0⟩
def WDG_CNT.FAILSAFES : Field := ⟨R.WDG_CNT, 31, 16⟩
def WDG_CNT2.HELD : Field := ⟨R.WDG_CNT2, 15, 0⟩
def WDG_CNT2.REFUSED : Field := ⟨R.WDG_CNT2, 31, 16⟩
def WDG_CNT3.FALLBACKS : Field := ⟨R.WDG_CNT3, 15, 0⟩
def WDG_CNT3.VOTER : Field := ⟨R.WDG_CNT3, 31, 16⟩
def WDG_PRES_AGE.AGE : Field := ⟨R.WDG_PRES_AGE, 31, 0⟩
def WDG_UNBLOCK.GROUP : Field := ⟨R.WDG_UNBLOCK, 7, 0⟩
def WDG_UNBLOCK.MASK : Field := ⟨R.WDG_UNBLOCK, 15, 8⟩
def MRK_CTL.CNT_CLR : Field := ⟨R.MRK_CTL, 0, 0⟩
def MRK_CTL.RULE_EVT : Field := ⟨R.MRK_CTL, 1, 1⟩
def MRK_STAT.RULES : Field := ⟨R.MRK_STAT, 13, 0⟩
def MRK_STAT.LOADED : Field := ⟨R.MRK_STAT, 14, 14⟩
def MRK_STAT.COPY0_VALID : Field := ⟨R.MRK_STAT, 15, 15⟩
def MRK_STAT.COPY1_VALID : Field := ⟨R.MRK_STAT, 16, 16⟩
def MRK_STAT.INERT : Field := ⟨R.MRK_STAT, 30, 17⟩
def MRK_EVT.LOAD : Field := ⟨R.MRK_EVT, 0, 0⟩
def MRK_EVT.HREQ_EXP : Field := ⟨R.MRK_EVT, 1, 1⟩
def MRK_SERIAL.SERIAL : Field := ⟨R.MRK_SERIAL, 31, 0⟩
def MRK_CFG.HREQ_TTL : Field := ⟨R.MRK_CFG, 7, 0⟩
def MRK_HREQ_SET.INDEX : Field := ⟨R.MRK_HREQ_SET, 7, 0⟩
def MRK_HREQ_CLR.INDEX : Field := ⟨R.MRK_HREQ_CLR, 7, 0⟩
def MRK_LATCH_CLR.RULE : Field := ⟨R.MRK_LATCH_CLR, 12, 0⟩
def MRK_LATCH_CLR.ALL : Field := ⟨R.MRK_LATCH_CLR, 13, 13⟩
def MRK_PASS_CNT.PASSES : Field := ⟨R.MRK_PASS_CNT, 31, 0⟩
def SKY_CTL.CNT_CLR : Field := ⟨R.SKY_CTL, 0, 0⟩
def SKY_STAT.STATE : Field := ⟨R.SKY_STAT, 7, 0⟩
def SKY_EVT.HEAD_STATUS : Field := ⟨R.SKY_EVT, 0, 0⟩
def SKY_EVT.CHAIN : Field := ⟨R.SKY_EVT, 1, 1⟩
def SKY_EVT.TRACE_DONE : Field := ⟨R.SKY_EVT, 2, 2⟩
def SKY_EVT.CONFLICT : Field := ⟨R.SKY_EVT, 3, 3⟩
def SKY_TALLY.TALLY : Field := ⟨R.SKY_TALLY, 15, 0⟩
def FIO_CTL.CNT_CLR : Field := ⟨R.FIO_CTL, 0, 0⟩
def FIO_STAT.SRC : Field := ⟨R.FIO_STAT, 0, 0⟩
def FIO_STAT.FSUP_LOW : Field := ⟨R.FIO_STAT, 1, 1⟩
def FIO_STAT.SAFE : Field := ⟨R.FIO_STAT, 31, 16⟩
def FIO_EVT.FAULT : Field := ⟨R.FIO_EVT, 0, 0⟩
def FIO_EVT.EDGE : Field := ⟨R.FIO_EVT, 1, 1⟩
def FIO_EVT.SAFE : Field := ⟨R.FIO_EVT, 2, 2⟩
def FIO_EVT.STALE : Field := ⟨R.FIO_EVT, 3, 3⟩
def FIO_EVT.FSUP_LOW : Field := ⟨R.FIO_EVT, 4, 4⟩
def FIO_EVT.CONFLICT : Field := ⟨R.FIO_EVT, 5, 5⟩
def FIO_IN.STATE : Field := ⟨R.FIO_IN, 15, 0⟩
def FIO_IN.STALE : Field := ⟨R.FIO_IN, 31, 16⟩
def FIO_OUT.OUT : Field := ⟨R.FIO_OUT, 15, 0⟩
def FIO_OUT_SET.SET : Field := ⟨R.FIO_OUT_SET, 15, 0⟩
def FIO_OUT_CLR.CLR : Field := ⟨R.FIO_OUT_CLR, 15, 0⟩
def FIO_RB.RB : Field := ⟨R.FIO_RB, 15, 0⟩
def FIO_RB.DRIVE : Field := ⟨R.FIO_RB, 31, 16⟩
def FIO_TALLY0.OVL : Field := ⟨R.FIO_TALLY0, 15, 0⟩
def FIO_TALLY0.OPEN : Field := ⟨R.FIO_TALLY0, 31, 16⟩
def FIO_TALLY1.OTEMP : Field := ⟨R.FIO_TALLY1, 15, 0⟩
def FIO_TALLY1.CONT : Field := ⟨R.FIO_TALLY1, 31, 16⟩
def FIO_SAFE_CLR.CLR : Field := ⟨R.FIO_SAFE_CLR, 15, 0⟩
def FIO_FSUP.VAL : Field := ⟨R.FIO_FSUP, 9, 0⟩
def HIF_CTL.CNT_CLR : Field := ⟨R.HIF_CTL, 0, 0⟩
def HIF_CTL.ERR_VEC : Field := ⟨R.HIF_CTL, 5, 1⟩
def HIF_CTL.ERR_INT : Field := ⟨R.HIF_CTL, 6, 6⟩
def HIF_CTL.DISCARD : Field := ⟨R.HIF_CTL, 7, 7⟩
def HIF_STAT.SPEED : Field := ⟨R.HIF_STAT, 2, 0⟩
def HIF_STAT.WIDTH : Field := ⟨R.HIF_STAT, 5, 3⟩
def HIF_STAT.SELFTEST : Field := ⟨R.HIF_STAT, 6, 6⟩
def HIF_STAT.BME : Field := ⟨R.HIF_STAT, 7, 7⟩
def HIF_EVT.DB_ERR : Field := ⟨R.HIF_EVT, 0, 0⟩
def HIF_EVT.DMA_ERR : Field := ⟨R.HIF_EVT, 1, 1⟩
def HIF_EVT.LINK_LOST : Field := ⟨R.HIF_EVT, 2, 2⟩
def HIF_EVT.DISCARD : Field := ⟨R.HIF_EVT, 3, 3⟩
def HIF_EVT.LOSS : Field := ⟨R.HIF_EVT, 4, 4⟩
def HIF_EVT.MISSED : Field := ⟨R.HIF_EVT, 5, 5⟩
def HIF_EPOCH.EPOCH : Field := ⟨R.HIF_EPOCH, 31, 0⟩
def HIF_HELD.COUNT : Field := ⟨R.HIF_HELD, 23, 0⟩
def HIF_DISCARD_CNT.DISCARDED : Field := ⟨R.HIF_DISCARD_CNT, 31, 0⟩
def HIF_DB_ERR_CNT.DB_ERR : Field := ⟨R.HIF_DB_ERR_CNT, 31, 0⟩
def HIF_DMA_ERR_CNT.DMA_ERR : Field := ⟨R.HIF_DMA_ERR_CNT, 31, 0⟩
def SST_CTL.VOID : Field := ⟨R.SST_CTL, 0, 0⟩
def SST_CFG.FUSE_EN : Field := ⟨R.SST_CFG, 0, 0⟩
def SST_STAT.RUNNING : Field := ⟨R.SST_STAT, 0, 0⟩
def SST_STAT.KIND : Field := ⟨R.SST_STAT, 2, 1⟩
def SST_STAT.STEP : Field := ⟨R.SST_STAT, 6, 3⟩
def SST_STAT.INTERLOCK : Field := ⟨R.SST_STAT, 7, 7⟩
def SST_STAT.SECRETS_CLR : Field := ⟨R.SST_STAT, 8, 8⟩
def SST_STAT.PARTS : Field := ⟨R.SST_STAT, 12, 9⟩
def SST_EVT.STEP_FAIL : Field := ⟨R.SST_EVT, 0, 0⟩
def SST_EVT.START_DONE : Field := ⟨R.SST_EVT, 1, 1⟩
def SST_EVT.VOID : Field := ⟨R.SST_EVT, 2, 2⟩
def SST_POWER.NOW : Field := ⟨R.SST_POWER, 9, 0⟩
def SST_POWER.PEAK : Field := ⟨R.SST_POWER, 25, 16⟩
def SST_LAST.VERDICT : Field := ⟨R.SST_LAST, 2, 0⟩
def SST_LAST.AGE_DAYS : Field := ⟨R.SST_LAST, 10, 3⟩
def SST_LAST.DONE : Field := ⟨R.SST_LAST, 14, 11⟩
def SST_REPAIR.SOFT : Field := ⟨R.SST_REPAIR, 15, 0⟩
def SST_REPAIR.FUSED : Field := ⟨R.SST_REPAIR, 31, 16⟩
def SST_SPARE.LOW_PCT : Field := ⟨R.SST_SPARE, 7, 0⟩
def SST_SPARE.MEM : Field := ⟨R.SST_SPARE, 15, 8⟩
def PRB_Px_CFG.END (p : Nat) : Field := ⟨R.PRB_Px_CFG p, 16, 0⟩
def PRB_Px_CFG.AUTO_END (p : Nat) : Field := ⟨R.PRB_Px_CFG p, 17, 17⟩
def PRB_Px_POWER.PEAK (p : Nat) : Field := ⟨R.PRB_Px_POWER p, 7, 0⟩
def PRB_Px_POWER.APR_MANUAL (p : Nat) : Field := ⟨R.PRB_Px_POWER p, 8, 8⟩
def PRB_Px_POWER.APR_RESUME (p : Nat) : Field := ⟨R.PRB_Px_POWER p, 9, 9⟩
def PRB_Px_GIC.GIC (p : Nat) : Field := ⟨R.PRB_Px_GIC p, 15, 0⟩
def PRB_Px_TIMING.PERIOD (p : Nat) : Field := ⟨R.PRB_Px_TIMING p, 9, 0⟩
def PRB_Px_TIMING.EFF_PEAK (p : Nat) : Field := ⟨R.PRB_Px_TIMING p, 17, 10⟩
def PRB_Px_TIMING.CLAMPED (p : Nat) : Field := ⟨R.PRB_Px_TIMING p, 18, 18⟩
def PRB_Px_END_MEAS.E (p : Nat) : Field := ⟨R.PRB_Px_END_MEAS p, 16, 0⟩
def PRB_Px_END_MEAS.VALID (p : Nat) : Field := ⟨R.PRB_Px_END_MEAS p, 17, 17⟩
def PRB_Px_END_MEAS.REFL (p : Nat) : Field := ⟨R.PRB_Px_END_MEAS p, 18, 18⟩
def PRB_Px_END_MEAS.OVERLEN (p : Nat) : Field := ⟨R.PRB_Px_END_MEAS p, 19, 19⟩
def PRB_Px_CUT_CFG.REF_END (p : Nat) : Field := ⟨R.PRB_Px_CUT_CFG p, 16, 0⟩
def PRB_Px_CUT_CFG.MARGIN (p : Nat) : Field := ⟨R.PRB_Px_CUT_CFG p, 26, 17⟩
def PRB_Px_CUT_CFG.REF_CAPTURE (p : Nat) : Field := ⟨R.PRB_Px_CUT_CFG p, 27, 27⟩
def PRB_Px_CUT_STAT.POS (p : Nat) : Field := ⟨R.PRB_Px_CUT_STAT p, 16, 0⟩
def PRB_Px_CUT_STAT.EXCEED (p : Nat) : Field := ⟨R.PRB_Px_CUT_STAT p, 17, 17⟩
def PRB_Px_CUT_STAT.LASTING (p : Nat) : Field := ⟨R.PRB_Px_CUT_STAT p, 18, 18⟩
def PRB_Px_FAIL_CNT.FAILED (p : Nat) : Field := ⟨R.PRB_Px_FAIL_CNT p, 31, 0⟩
def PRB_Px_SWEEP_LO.SWEEP_LO (p : Nat) : Field := ⟨R.PRB_Px_SWEEP_LO p, 31, 0⟩
def PRB_Px_SWEEP_HI.SWEEP_HI (p : Nat) : Field := ⟨R.PRB_Px_SWEEP_HI p, 31, 0⟩
def PRB_Px_APR_STAT.APR_CNT (p : Nat) : Field := ⟨R.PRB_Px_APR_STAT p, 15, 0⟩
def PRB_Px_APR_STAT.ACTIVE (p : Nat) : Field := ⟨R.PRB_Px_APR_STAT p, 16, 16⟩
def PRB_Px_APR_STAT.WAIT_RESUME (p : Nat) : Field := ⟨R.PRB_Px_APR_STAT p, 17, 17⟩
def PRB_Px_CUT_TALLY.TALLY (p : Nat) : Field := ⟨R.PRB_Px_CUT_TALLY p, 15, 0⟩
def PRB_Px_CUT_CNT.TRANSIENT (p : Nat) : Field := ⟨R.PRB_Px_CUT_CNT p, 15, 0⟩
def PRB_Px_CUT_CNT.MISSED (p : Nat) : Field := ⟨R.PRB_Px_CUT_CNT p, 31, 16⟩
def KRF_Px_CFG.GAUGE (p : Nat) : Field := ⟨R.KRF_Px_CFG p, 6, 0⟩
def KRF_Px_CFG.FADE_THR (p : Nat) : Field := ⟨R.KRF_Px_CFG p, 13, 8⟩
def KRF_Px_CFG.OFS_SHIFT (p : Nat) : Field := ⟨R.KRF_Px_CFG p, 19, 16⟩
def KRF_Px_CFG.RX_GAIN (p : Nat) : Field := ⟨R.KRF_Px_CFG p, 22, 20⟩
def KRF_Px_NOISE01.BAND0 (p : Nat) : Field := ⟨R.KRF_Px_NOISE01 p, 15, 0⟩
def KRF_Px_NOISE01.BAND1 (p : Nat) : Field := ⟨R.KRF_Px_NOISE01 p, 31, 16⟩
def KRF_Px_NOISE23.BAND2 (p : Nat) : Field := ⟨R.KRF_Px_NOISE23 p, 15, 0⟩
def KRF_Px_NOISE23.BAND3 (p : Nat) : Field := ⟨R.KRF_Px_NOISE23 p, 31, 16⟩
def KRF_Px_ADC_MON.XI_RMS (p : Nat) : Field := ⟨R.KRF_Px_ADC_MON p, 7, 0⟩
def KRF_Px_ADC_MON.XQ_RMS (p : Nat) : Field := ⟨R.KRF_Px_ADC_MON p, 15, 8⟩
def KRF_Px_ADC_MON.YI_RMS (p : Nat) : Field := ⟨R.KRF_Px_ADC_MON p, 23, 16⟩
def KRF_Px_ADC_MON.YQ_RMS (p : Nat) : Field := ⟨R.KRF_Px_ADC_MON p, 31, 24⟩
def KRF_Px_CLIP_CNT.CLIP (p : Nat) : Field := ⟨R.KRF_Px_CLIP_CNT p, 31, 0⟩
def KRF_Px_BRIDGED_CNT.BRIDGED (p : Nat) : Field := ⟨R.KRF_Px_BRIDGED_CNT p, 31, 0⟩
def KRF_Px_HELD_CNT.HELD (p : Nat) : Field := ⟨R.KRF_Px_HELD_CNT p, 31, 0⟩
def KRF_Px_SLEW_CNT.SLEW (p : Nat) : Field := ⟨R.KRF_Px_SLEW_CNT p, 31, 0⟩
def KRF_Px_RESTART_CNT.RESTART (p : Nat) : Field := ⟨R.KRF_Px_RESTART_CNT p, 31, 0⟩
def KRF_Px_DROP_CNT.DROP (p : Nat) : Field := ⟨R.KRF_Px_DROP_CNT p, 31, 0⟩
def SCL_Px_CFG.BRX_GAIN (p : Nat) : Field := ⟨R.SCL_Px_CFG p, 2, 0⟩
def SCL_Px_PROFILE_CNT.PROFILES (p : Nat) : Field := ⟨R.SCL_Px_PROFILE_CNT p, 31, 0⟩
def SCL_Px_AGE.AGE (p : Nat) : Field := ⟨R.SCL_Px_AGE p, 31, 0⟩
def SCL_Px_CLIP_CNT.CLIP (p : Nat) : Field := ⟨R.SCL_Px_CLIP_CNT p, 31, 0⟩
def SCL_Px_EXCL_CNT.EXCL (p : Nat) : Field := ⟨R.SCL_Px_EXCL_CNT p, 31, 0⟩
def SCL_Px_PERIOD.T_PROF (p : Nat) : Field := ⟨R.SCL_Px_PERIOD p, 31, 0⟩
def SCL_Px_OOB.COUNT (p : Nat) : Field := ⟨R.SCL_Px_OOB p, 17, 0⟩
def BKG_Px_FILL_CNT.FILL (p : Nat) : Field := ⟨R.BKG_Px_FILL_CNT p, 31, 0⟩
def BKG_Px_DFILL_CNT.DFILL (p : Nat) : Field := ⟨R.BKG_Px_DFILL_CNT p, 31, 0⟩
def BKG_Px_GAP_CNT.GAP (p : Nat) : Field := ⟨R.BKG_Px_GAP_CNT p, 31, 0⟩
def BKG_FPn_CFG.FSET (n : Nat) : Field := ⟨R.BKG_FPn_CFG n, 2, 0⟩
def BKG_FPn_SWAP.TARGET (n : Nat) : Field := ⟨R.BKG_FPn_SWAP n, 0, 0⟩
def BKG_FPn_SWAP.XF_M1 (n : Nat) : Field := ⟨R.BKG_FPn_SWAP n, 31, 16⟩
def BKG_FPn_STAT.ACTIVE (n : Nat) : Field := ⟨R.BKG_FPn_STAT n, 0, 0⟩
def BKG_FPn_STAT.FADING (n : Nat) : Field := ⟨R.BKG_FPn_STAT n, 1, 1⟩
def BKG_FPn_STAT.QUEUED (n : Nat) : Field := ⟨R.BKG_FPn_STAT n, 2, 2⟩
def BKG_FPn_STAT.Q_TARGET (n : Nat) : Field := ⟨R.BKG_FPn_STAT n, 3, 3⟩
def BKG_FPn_STAT.MIX (n : Nat) : Field := ⟨R.BKG_FPn_STAT n, 31, 16⟩
def BKG_FPn_CNT.REPLACED (n : Nat) : Field := ⟨R.BKG_FPn_CNT n, 15, 0⟩
def BKG_FPn_CNT.NULL (n : Nat) : Field := ⟨R.BKG_FPn_CNT n, 31, 16⟩
def BKG_CSn_STAT.D (n : Nat) : Field := ⟨R.BKG_CSn_STAT n, 12, 0⟩
def BKG_CSn_STAT.EN (n : Nat) : Field := ⟨R.BKG_CSn_STAT n, 13, 13⟩
def BKG_CSn_STAT.WARM (n : Nat) : Field := ⟨R.BKG_CSn_STAT n, 14, 14⟩
def BKG_CSn_STAT.FADING (n : Nat) : Field := ⟨R.BKG_CSn_STAT n, 15, 15⟩
def BKG_CSn_GD.GD (n : Nat) : Field := ⟨R.BKG_CSn_GD n, 17, 0⟩
def BLZ_Bb_CFG.MODE (b : Nat) : Field := ⟨R.BLZ_Bb_CFG b, 1, 0⟩
def BLZ_Bb_CFG.CURVE (b : Nat) : Field := ⟨R.BLZ_Bb_CFG b, 3, 2⟩
def BLZ_Bb_CFG.SHED_MASK (b : Nat) : Field := ⟨R.BLZ_Bb_CFG b, 14, 4⟩
def BLZ_Bb_CFG.SEGTEST_AUTO (b : Nat) : Field := ⟨R.BLZ_Bb_CFG b, 15, 15⟩
def BLZ_Bb_STAT.MODE_ST (b : Nat) : Field := ⟨R.BLZ_Bb_STAT b, 1, 0⟩
def BLZ_Bb_STAT.CONFLICT (b : Nat) : Field := ⟨R.BLZ_Bb_STAT b, 2, 2⟩
def BLZ_Bb_STAT.EVICTED (b : Nat) : Field := ⟨R.BLZ_Bb_STAT b, 3, 3⟩
def BLZ_Bb_STAT.TSD (b : Nat) : Field := ⟨R.BLZ_Bb_STAT b, 4, 4⟩
def BLZ_Bb_STAT.TRK_LIMIT (b : Nat) : Field := ⟨R.BLZ_Bb_STAT b, 5, 5⟩
def BLZ_Bb_STAT.STRING_OPEN (b : Nat) : Field := ⟨R.BLZ_Bb_STAT b, 6, 6⟩
def BLZ_Bb_STAT.OPEN_MASK (b : Nat) : Field := ⟨R.BLZ_Bb_STAT b, 17, 7⟩
def BLZ_Bb_STAT.SHORT_MASK (b : Nat) : Field := ⟨R.BLZ_Bb_STAT b, 28, 18⟩
def BLZ_Bb_SEGVF0.VF0_to_VF3 (b : Nat) : Field := ⟨R.BLZ_Bb_SEGVF0 b, 31, 0⟩
def BLZ_Bb_SEGVF1.VF4_to_VF7 (b : Nat) : Field := ⟨R.BLZ_Bb_SEGVF1 b, 31, 0⟩
def BLZ_Bb_SEGVF2.VF8_to_VF10 (b : Nat) : Field := ⟨R.BLZ_Bb_SEGVF2 b, 23, 0⟩
def BLZ_Bb_TRK.H (b : Nat) : Field := ⟨R.BLZ_Bb_TRK b, 7, 0⟩
def BLZ_Bb_TRK.NOCUR (b : Nat) : Field := ⟨R.BLZ_Bb_TRK b, 8, 8⟩
def BLZ_Bb_TRK.TRK_BYP (b : Nat) : Field := ⟨R.BLZ_Bb_TRK b, 19, 9⟩
def BLZ_Bb_TRK.SEL (b : Nat) : Field := ⟨R.BLZ_Bb_TRK b, 30, 20⟩
def BLZ_Bb_SEGMEAS0.M0_to_M3 (b : Nat) : Field := ⟨R.BLZ_Bb_SEGMEAS0 b, 31, 0⟩
def BLZ_Bb_SEGMEAS1.M4_to_M7 (b : Nat) : Field := ⟨R.BLZ_Bb_SEGMEAS1 b, 31, 0⟩
def BLZ_Bb_SEGMEAS2.M8_to_M10 (b : Nat) : Field := ⟨R.BLZ_Bb_SEGMEAS2 b, 23, 0⟩
def BLZ_Bb_CTL.SEGTEST (b : Nat) : Field := ⟨R.BLZ_Bb_CTL b, 0, 0⟩
def BLZ_Bb_CTL.OPEN_CLR (b : Nat) : Field := ⟨R.BLZ_Bb_CTL b, 1, 1⟩
def BLZ_Bb_CNT.TSD (b : Nat) : Field := ⟨R.BLZ_Bb_CNT b, 15, 0⟩
def BLZ_Bb_CNT.SEARCH (b : Nat) : Field := ⟨R.BLZ_Bb_CNT b, 31, 16⟩
def BLZ_Bb_PINk.CMD (b k : Nat) : Field := ⟨R.BLZ_Bb_PINk b k, 11, 0⟩
def BLZ_Bb_PINk.ISET (b k : Nat) : Field := ⟨R.BLZ_Bb_PINk b k, 18, 12⟩
def CAL_ADJ_STALE0.PAIRS : Field := ⟨R.CAL_ADJ_STALE0, 31, 0⟩
def CAL_ADJ_STALE1.PAIRS : Field := ⟨R.CAL_ADJ_STALE1, 31, 0⟩
def CAL_ADJ_STALE2.PAIRS : Field := ⟨R.CAL_ADJ_STALE2, 30, 0⟩
def CAL_Un_CTL.REF_EN (u : Nat) : Field := ⟨R.CAL_Un_CTL u, 0, 0⟩
def CAL_Un_CTL.ACC_CLR (u : Nat) : Field := ⟨R.CAL_Un_CTL u, 1, 1⟩
def CAL_Un_STAT.REF_READY (u : Nat) : Field := ⟨R.CAL_Un_STAT u, 0, 0⟩
def CAL_Un_STAT.ARR (u : Nat) : Field := ⟨R.CAL_Un_STAT u, 1, 1⟩
def CAL_Un_STAT.NSEQ (u : Nat) : Field := ⟨R.CAL_Un_STAT u, 3, 2⟩
def CAL_Un_STAT.SEQ0_ENTRY (u : Nat) : Field := ⟨R.CAL_Un_STAT u, 10, 4⟩
def CAL_Un_STAT.SEQ1_ENTRY (u : Nat) : Field := ⟨R.CAL_Un_STAT u, 17, 11⟩
def CAL_Un_STAT.URG (u : Nat) : Field := ⟨R.CAL_Un_STAT u, 19, 18⟩
def CAL_Un_STAT.CONFLICT (u : Nat) : Field := ⟨R.CAL_Un_STAT u, 20, 20⟩
def CAL_Un_STAT.WQ (u : Nat) : Field := ⟨R.CAL_Un_STAT u, 25, 21⟩
def CAL_Un_URG_CFG.SETTLE (u : Nat) : Field := ⟨R.CAL_Un_URG_CFG u, 9, 0⟩
def CAL_Un_URG_CFG.IOW (u : Nat) : Field := ⟨R.CAL_Un_URG_CFG u, 12, 10⟩
def CAL_Un_URG_CFG.OSR (u : Nat) : Field := ⟨R.CAL_Un_URG_CFG u, 15, 13⟩
def CAL_Un_URG.INPUT (u : Nat) : Field := ⟨R.CAL_Un_URG u, 6, 0⟩
def CAL_Un_URG.ACC (u : Nat) : Field := ⟨R.CAL_Un_URG u, 13, 8⟩
def CAL_Un_URG.REPEAT_M1 (u : Nat) : Field := ⟨R.CAL_Un_URG u, 27, 16⟩
def CAL_Un_URG_STAT.BUSY (u : Nat) : Field := ⟨R.CAL_Un_URG_STAT u, 0, 0⟩
def CAL_Un_URG_STAT.DONE (u : Nat) : Field := ⟨R.CAL_Un_URG_STAT u, 1, 1⟩
def CAL_Un_URG_STAT.RESULT (u : Nat) : Field := ⟨R.CAL_Un_URG_STAT u, 3, 2⟩
def CAL_Un_URG_STAT.OVR (u : Nat) : Field := ⟨R.CAL_Un_URG_STAT u, 4, 4⟩
def CAL_Un_SHD_HI.SUM_HI (u : Nat) : Field := ⟨R.CAL_Un_SHD_HI u, 15, 0⟩
def CAL_Un_SHD_HI.IDX (u : Nat) : Field := ⟨R.CAL_Un_SHD_HI u, 21, 16⟩
def CAL_Un_SHD_HI.SAT (u : Nat) : Field := ⟨R.CAL_Un_SHD_HI u, 22, 22⟩
def CAL_Un_SHD_HI.OVR (u : Nat) : Field := ⟨R.CAL_Un_SHD_HI u, 23, 23⟩
def CAL_Un_SHD_HI.VALID (u : Nat) : Field := ⟨R.CAL_Un_SHD_HI u, 24, 24⟩
def CAL_Un_SHD_CNT.COUNT (u : Nat) : Field := ⟨R.CAL_Un_SHD_CNT u, 31, 0⟩
def CAL_Un_SHD_MIN.MIN (u : Nat) : Field := ⟨R.CAL_Un_SHD_MIN u, 23, 0⟩
def CAL_Un_SHD_MIN.SIGN (u : Nat) : Field := ⟨R.CAL_Un_SHD_MIN u, 31, 24⟩
def CAL_Un_SHD_MAX.MAX (u : Nat) : Field := ⟨R.CAL_Un_SHD_MAX u, 23, 0⟩
def CAL_Un_SHD_MAX.SIGN (u : Nat) : Field := ⟨R.CAL_Un_SHD_MAX u, 31, 24⟩
def CAL_Un_CNT.PREEMPT (u : Nat) : Field := ⟨R.CAL_Un_CNT u, 15, 0⟩
def CAL_Un_CNT.OVRWORDS (u : Nat) : Field := ⟨R.CAL_Un_CNT u, 31, 16⟩
def CAL_Un_LOOP0.LOOP (u : Nat) : Field := ⟨R.CAL_Un_LOOP0 u, 31, 0⟩
def CAL_Un_LOOP1.LOOP (u : Nat) : Field := ⟨R.CAL_Un_LOOP1 u, 31, 0⟩
def CAL_Un_OVRm.FLAGS (u m : Nat) : Field := ⟨R.CAL_Un_OVRm u m, 31, 0⟩
def CAL_Un_ACCn_LO.SUM_LO (u n : Nat) : Field := ⟨R.CAL_Un_ACCn_LO u n, 31, 0⟩
def CAL_Un_ACCn_LOC.SUM_LO (u n : Nat) : Field := ⟨R.CAL_Un_ACCn_LOC u n, 31, 0⟩
def WDG_KEY_HASHk.HASH (k : Nat) : Field := ⟨R.WDG_KEY_HASHk k, 31, 0⟩
def WDG_Gg.CUR (g : Nat) : Field := ⟨R.WDG_Gg g, 2, 0⟩
def WDG_Gg.CUR_VALID (g : Nat) : Field := ⟨R.WDG_Gg g, 3, 3⟩
def WDG_Gg.REQ (g : Nat) : Field := ⟨R.WDG_Gg g, 6, 4⟩
def WDG_Gg.REQ_LIVE (g : Nat) : Field := ⟨R.WDG_Gg g, 7, 7⟩
def WDG_Gg.NEXT (g : Nat) : Field := ⟨R.WDG_Gg g, 10, 8⟩
def WDG_Gg.MODE (g : Nat) : Field := ⟨R.WDG_Gg g, 13, 11⟩
def WDG_Gg.LIT (g : Nat) : Field := ⟨R.WDG_Gg g, 15, 14⟩
def WDG_Gg.FB (g : Nat) : Field := ⟨R.WDG_Gg g, 16, 16⟩
def WDG_Gg.BLOCKED (g : Nat) : Field := ⟨R.WDG_Gg g, 24, 17⟩
def WDG_Gg.PRIO (g : Nat) : Field := ⟨R.WDG_Gg g, 28, 25⟩
def MRK_HREQk.BITS (k : Nat) : Field := ⟨R.MRK_HREQk k, 31, 0⟩
def SKY_Cc_CFG.EN (c : Nat) : Field := ⟨R.SKY_Cc_CFG c, 0, 0⟩
def SKY_Cc_CFG.NHEADS_M1 (c : Nat) : Field := ⟨R.SKY_Cc_CFG c, 6, 1⟩
def SKY_Cc_CFG.GRACE (c : Nat) : Field := ⟨R.SKY_Cc_CFG c, 7, 7⟩
def SKY_Cc_CFG.TRACE_WB (c : Nat) : Field := ⟨R.SKY_Cc_CFG c, 11, 8⟩
def SKY_Cc_CTL.TRACE (c : Nat) : Field := ⟨R.SKY_Cc_CTL c, 0, 0⟩
def SKY_Cc_CTL.FLT_CLR (c : Nat) : Field := ⟨R.SKY_Cc_CTL c, 1, 1⟩
def SKY_Cc_CTL.IDENT (c : Nat) : Field := ⟨R.SKY_Cc_CTL c, 2, 2⟩
def SKY_Cc_CTL.IDENT_HEAD (c : Nat) : Field := ⟨R.SKY_Cc_CTL c, 8, 3⟩
def SKY_Cc_LEVEL.LEVEL (c : Nat) : Field := ⟨R.SKY_Cc_LEVEL c, 3, 0⟩
def SKY_Cc_STAT.STATE (c : Nat) : Field := ⟨R.SKY_Cc_STAT c, 1, 0⟩
def SKY_Cc_STAT.PERIOD (c : Nat) : Field := ⟨R.SKY_Cc_STAT c, 2, 2⟩
def SKY_Cc_STAT.SEEN (c : Nat) : Field := ⟨R.SKY_Cc_STAT c, 9, 3⟩
def SKY_Cc_STAT.BREAK (c : Nat) : Field := ⟨R.SKY_Cc_STAT c, 10, 10⟩
def SKY_Cc_STAT.BREAK_AT (c : Nat) : Field := ⟨R.SKY_Cc_STAT c, 16, 11⟩
def SKY_Cc_STAT.LINE_SHORT (c : Nat) : Field := ⟨R.SKY_Cc_STAT c, 17, 17⟩
def SKY_Cc_STAT.LINE_HIGH (c : Nat) : Field := ⟨R.SKY_Cc_STAT c, 18, 18⟩
def SKY_Cc_STAT.CONFLICT (c : Nat) : Field := ⟨R.SKY_Cc_STAT c, 19, 19⟩
def SKY_Cc_STAT.TRACE_BUSY (c : Nat) : Field := ⟨R.SKY_Cc_STAT c, 20, 20⟩
def SKY_Cc_STAT.TRACE_TRUNC (c : Nat) : Field := ⟨R.SKY_Cc_STAT c, 21, 21⟩
def SKY_Cc_MISS_LO.MISS (c : Nat) : Field := ⟨R.SKY_Cc_MISS_LO c, 31, 0⟩
def SKY_Cc_MISS_HI.MISS (c : Nat) : Field := ⟨R.SKY_Cc_MISS_HI c, 31, 0⟩
def SKY_Cc_EXCH.EXCH (c : Nat) : Field := ⟨R.SKY_Cc_EXCH c, 31, 0⟩
def SKY_Cc_ERR.CRC (c : Nat) : Field := ⟨R.SKY_Cc_ERR c, 15, 0⟩
def SKY_Cc_ERR.FRAMING (c : Nat) : Field := ⟨R.SKY_Cc_ERR c, 31, 16⟩
def SKY_Cc_ERR2.LATE (c : Nat) : Field := ⟨R.SKY_Cc_ERR2 c, 15, 0⟩
def SKY_Cc_ERR2.LINE (c : Nat) : Field := ⟨R.SKY_Cc_ERR2 c, 31, 16⟩
def SKY_Cc_RT.LAST (c : Nat) : Field := ⟨R.SKY_Cc_RT c, 15, 0⟩
def SKY_Cc_RT.MAX (c : Nat) : Field := ⟨R.SKY_Cc_RT c, 31, 16⟩
def FIO_IOn_CFG.MODE (n : Nat) : Field := ⟨R.FIO_IOn_CFG n, 1, 0⟩
def FIO_IOn_CFG.ITYPE (n : Nat) : Field := ⟨R.FIO_IOn_CFG n, 2, 2⟩
def FIO_IOn_CFG.PULSED (n : Nat) : Field := ⟨R.FIO_IOn_CFG n, 3, 3⟩
def FIO_IOn_CFG.STALE_VAL (n : Nat) : Field := ⟨R.FIO_IOn_CFG n, 4, 4⟩
def FIO_IOn_CFG.EVT_EN (n : Nat) : Field := ⟨R.FIO_IOn_CFG n, 5, 5⟩
def FIO_IOn_CFG.OSRC (n : Nat) : Field := ⟨R.FIO_IOn_CFG n, 7, 6⟩
def FIO_IOn_CFG.TMR (n : Nat) : Field := ⟨R.FIO_IOn_CFG n, 11, 8⟩
def FIO_IOn_CFG.SAFE (n : Nat) : Field := ⟨R.FIO_IOn_CFG n, 12, 12⟩
def FIO_IOn_CFG.SAFE_LATCH (n : Nat) : Field := ⟨R.FIO_IOn_CFG n, 13, 13⟩
def FIO_IOn_CFG.OW_EN (n : Nat) : Field := ⟨R.FIO_IOn_CFG n, 14, 14⟩
def FIO_IOn_CFG.SILENCE (n : Nat) : Field := ⟨R.FIO_IOn_CFG n, 24, 15⟩
def FIO_IOn_DEB.DEB (n : Nat) : Field := ⟨R.FIO_IOn_DEB n, 15, 0⟩
def FIO_IOn_PULSE.ON_MS (n : Nat) : Field := ⟨R.FIO_IOn_PULSE n, 15, 0⟩
def FIO_IOn_PULSE.OFF_MS (n : Nat) : Field := ⟨R.FIO_IOn_PULSE n, 31, 16⟩
def FIO_IOn_STAT.CONFLICT (n : Nat) : Field := ⟨R.FIO_IOn_STAT n, 0, 0⟩
def FIO_IOn_STAT.RAW (n : Nat) : Field := ⟨R.FIO_IOn_STAT n, 1, 1⟩
def FIO_IOn_STAT.OVL (n : Nat) : Field := ⟨R.FIO_IOn_STAT n, 2, 2⟩
def FIO_IOn_STAT.OPEN (n : Nat) : Field := ⟨R.FIO_IOn_STAT n, 3, 3⟩
def FIO_IOn_STAT.OTEMP (n : Nat) : Field := ⟨R.FIO_IOn_STAT n, 4, 4⟩
def FIO_IOn_STAT.CONT (n : Nat) : Field := ⟨R.FIO_IOn_STAT n, 5, 5⟩
def FIO_IOn_STAT.LASTING (n : Nat) : Field := ⟨R.FIO_IOn_STAT n, 9, 6⟩
def FIO_IOn_STAT.STALE (n : Nat) : Field := ⟨R.FIO_IOn_STAT n, 10, 10⟩
def FIO_IOn_STAT.SAFE (n : Nat) : Field := ⟨R.FIO_IOn_STAT n, 11, 11⟩
def FIO_IOn_CNT.EDGES (n : Nat) : Field := ⟨R.FIO_IOn_CNT n, 15, 0⟩
def FIO_IOn_CNT.SILENCES (n : Nat) : Field := ⟨R.FIO_IOn_CNT n, 31, 16⟩
def HIF_CMDn_BASE_LO.ADDR (n : Nat) : Field := ⟨R.HIF_CMDn_BASE_LO n, 31, 12⟩
def HIF_CMDn_BASE_HI.ADDR (n : Nat) : Field := ⟨R.HIF_CMDn_BASE_HI n, 31, 0⟩
def HIF_CMDn_WB_LO.ADDR (n : Nat) : Field := ⟨R.HIF_CMDn_WB_LO n, 31, 3⟩
def HIF_CMDn_WB_HI.ADDR (n : Nat) : Field := ⟨R.HIF_CMDn_WB_HI n, 31, 0⟩
def HIF_CMDn_CFG.EN (n : Nat) : Field := ⟨R.HIF_CMDn_CFG n, 0, 0⟩
def HIF_CMDn_CFG.SIZE_LOG2 (n : Nat) : Field := ⟨R.HIF_CMDn_CFG n, 5, 1⟩
def HIF_CMDn_CFG.RESUME (n : Nat) : Field := ⟨R.HIF_CMDn_CFG n, 6, 6⟩
def HIF_CMDn_CFG.CQ (n : Nat) : Field := ⟨R.HIF_CMDn_CFG n, 10, 7⟩
def HIF_CMDn_PROD.PROD (n : Nat) : Field := ⟨R.HIF_CMDn_PROD n, 31, 0⟩
def HIF_CMDn_CONS.CONS (n : Nat) : Field := ⟨R.HIF_CMDn_CONS n, 31, 0⟩
def HIF_CMDn_STAT.STATE (n : Nat) : Field := ⟨R.HIF_CMDn_STAT n, 1, 0⟩
def HIF_CMDn_STAT.ITEMS (n : Nat) : Field := ⟨R.HIF_CMDn_STAT n, 18, 2⟩
def HIF_CPLn_BASE_LO.ADDR (n : Nat) : Field := ⟨R.HIF_CPLn_BASE_LO n, 31, 12⟩
def HIF_CPLn_BASE_HI.ADDR (n : Nat) : Field := ⟨R.HIF_CPLn_BASE_HI n, 31, 0⟩
def HIF_CPLn_WB_LO.ADDR (n : Nat) : Field := ⟨R.HIF_CPLn_WB_LO n, 31, 3⟩
def HIF_CPLn_WB_HI.ADDR (n : Nat) : Field := ⟨R.HIF_CPLn_WB_HI n, 31, 0⟩
def HIF_CPLn_CFG.EN (n : Nat) : Field := ⟨R.HIF_CPLn_CFG n, 0, 0⟩
def HIF_CPLn_CFG.SIZE_LOG2 (n : Nat) : Field := ⟨R.HIF_CPLn_CFG n, 5, 1⟩
def HIF_CPLn_CFG.RESUME (n : Nat) : Field := ⟨R.HIF_CPLn_CFG n, 6, 6⟩
def HIF_CPLn_CFG.VEC (n : Nat) : Field := ⟨R.HIF_CPLn_CFG n, 11, 7⟩
def HIF_CPLn_PROD.PROD (n : Nat) : Field := ⟨R.HIF_CPLn_PROD n, 31, 0⟩
def HIF_CPLn_CONS.CONS (n : Nat) : Field := ⟨R.HIF_CPLn_CONS n, 31, 0⟩
def HIF_CPLn_STAT.STATE (n : Nat) : Field := ⟨R.HIF_CPLn_STAT n, 1, 0⟩
def HIF_CPLn_STAT.ITEMS (n : Nat) : Field := ⟨R.HIF_CPLn_STAT n, 18, 2⟩
def HIF_CPLn_CFG2.INT_CNT (n : Nat) : Field := ⟨R.HIF_CPLn_CFG2 n, 7, 0⟩
def HIF_CPLn_CFG2.INT_DLY (n : Nat) : Field := ⟨R.HIF_CPLn_CFG2 n, 15, 8⟩
def HIF_EVRn_BASE_LO.ADDR (n : Nat) : Field := ⟨R.HIF_EVRn_BASE_LO n, 31, 12⟩
def HIF_EVRn_BASE_HI.ADDR (n : Nat) : Field := ⟨R.HIF_EVRn_BASE_HI n, 31, 0⟩
def HIF_EVRn_WB_LO.ADDR (n : Nat) : Field := ⟨R.HIF_EVRn_WB_LO n, 31, 3⟩
def HIF_EVRn_WB_HI.ADDR (n : Nat) : Field := ⟨R.HIF_EVRn_WB_HI n, 31, 0⟩
def HIF_EVRn_CFG.EN (n : Nat) : Field := ⟨R.HIF_EVRn_CFG n, 0, 0⟩
def HIF_EVRn_CFG.SIZE_LOG2 (n : Nat) : Field := ⟨R.HIF_EVRn_CFG n, 5, 1⟩
def HIF_EVRn_CFG.RESUME (n : Nat) : Field := ⟨R.HIF_EVRn_CFG n, 6, 6⟩
def HIF_EVRn_CFG.VEC (n : Nat) : Field := ⟨R.HIF_EVRn_CFG n, 11, 7⟩
def HIF_EVRn_PROD.PROD (n : Nat) : Field := ⟨R.HIF_EVRn_PROD n, 31, 0⟩
def HIF_EVRn_CONS.CONS (n : Nat) : Field := ⟨R.HIF_EVRn_CONS n, 31, 0⟩
def HIF_EVRn_STAT.STATE (n : Nat) : Field := ⟨R.HIF_EVRn_STAT n, 1, 0⟩
def HIF_EVRn_STAT.ITEMS (n : Nat) : Field := ⟨R.HIF_EVRn_STAT n, 18, 2⟩
def HIF_EVRn_CFG2.INT_CNT (n : Nat) : Field := ⟨R.HIF_EVRn_CFG2 n, 7, 0⟩
def HIF_EVRn_CFG2.INT_DLY (n : Nat) : Field := ⟨R.HIF_EVRn_CFG2 n, 15, 8⟩
def HIF_EVRn_CFG2.MASK (n : Nat) : Field := ⟨R.HIF_EVRn_CFG2 n, 31, 16⟩
def HIF_EVRn_CNT.LOST (n : Nat) : Field := ⟨R.HIF_EVRn_CNT n, 31, 0⟩
def HIF_CAPn_BASE_LO.ADDR (n : Nat) : Field := ⟨R.HIF_CAPn_BASE_LO n, 31, 12⟩
def HIF_CAPn_BASE_HI.ADDR (n : Nat) : Field := ⟨R.HIF_CAPn_BASE_HI n, 31, 0⟩
def HIF_CAPn_WB_LO.ADDR (n : Nat) : Field := ⟨R.HIF_CAPn_WB_LO n, 31, 3⟩
def HIF_CAPn_WB_HI.ADDR (n : Nat) : Field := ⟨R.HIF_CAPn_WB_HI n, 31, 0⟩
def HIF_CAPn_CFG.EN (n : Nat) : Field := ⟨R.HIF_CAPn_CFG n, 0, 0⟩
def HIF_CAPn_CFG.SIZE_LOG2 (n : Nat) : Field := ⟨R.HIF_CAPn_CFG n, 5, 1⟩
def HIF_CAPn_CFG.RESUME (n : Nat) : Field := ⟨R.HIF_CAPn_CFG n, 6, 6⟩
def HIF_CAPn_CFG.CQ (n : Nat) : Field := ⟨R.HIF_CAPn_CFG n, 10, 7⟩
def HIF_CAPn_CFG.SRC (n : Nat) : Field := ⟨R.HIF_CAPn_CFG n, 13, 11⟩
def HIF_CAPn_CFG.SRC_INDEX (n : Nat) : Field := ⟨R.HIF_CAPn_CFG n, 19, 14⟩
def HIF_CAPn_PROD.PROD (n : Nat) : Field := ⟨R.HIF_CAPn_PROD n, 31, 0⟩
def HIF_CAPn_CONS.CONS (n : Nat) : Field := ⟨R.HIF_CAPn_CONS n, 31, 0⟩
def HIF_CAPn_STAT.STATE (n : Nat) : Field := ⟨R.HIF_CAPn_STAT n, 1, 0⟩
def HIF_CAPn_STAT.ITEMS (n : Nat) : Field := ⟨R.HIF_CAPn_STAT n, 18, 2⟩
def HIF_CAPn_CFG2.FLUSH_MS (n : Nat) : Field := ⟨R.HIF_CAPn_CFG2 n, 9, 0⟩
def HIF_CAPn_CNT.MISSED (n : Nat) : Field := ⟨R.HIF_CAPn_CNT n, 31, 0⟩
def FLM_CTL.CNT_CLR : Field := ⟨R.FLM_CTL, 0, 0⟩
def FLM_STAT.LINK0 : Field := ⟨R.FLM_STAT, 0, 0⟩
def FLM_STAT.LINK1 : Field := ⟨R.FLM_STAT, 1, 1⟩
def FLM_STAT.ACTIVE : Field := ⟨R.FLM_STAT, 17, 2⟩
def FLM_EVT.LINK : Field := ⟨R.FLM_EVT, 0, 0⟩
def FLM_EVT.THIN : Field := ⟨R.FLM_EVT, 1, 1⟩
def FLM_EVT.DROP : Field := ⟨R.FLM_EVT, 2, 2⟩
def FLM_Pp_CFG.EN (p : Nat) : Field := ⟨R.FLM_Pp_CFG p, 0, 0⟩
def FLM_Pp_CFG.FC (p : Nat) : Field := ⟨R.FLM_Pp_CFG p, 2, 1⟩
def FLM_Pp_CFG.FEC (p : Nat) : Field := ⟨R.FLM_Pp_CFG p, 4, 3⟩
def FLM_Pp_CFG.MTU (p : Nat) : Field := ⟨R.FLM_Pp_CFG p, 18, 5⟩
def FLM_Pp_CFG.TTL (p : Nat) : Field := ⟨R.FLM_Pp_CFG p, 26, 19⟩
def FLM_Pp_STAT.LINK (p : Nat) : Field := ⟨R.FLM_Pp_STAT p, 0, 0⟩
def FLM_Pp_STAT.PAUSED (p : Nat) : Field := ⟨R.FLM_Pp_STAT p, 1, 1⟩
def FLM_Pp_STAT.PFC_PAUSED (p : Nat) : Field := ⟨R.FLM_Pp_STAT p, 9, 2⟩
def FLM_Pp_STAT.FILL (p : Nat) : Field := ⟨R.FLM_Pp_STAT p, 16, 10⟩
def FLM_Pp_TX_CNT.DATAGRAMS (p : Nat) : Field := ⟨R.FLM_Pp_TX_CNT p, 31, 0⟩
def FLM_Pp_PAUSE_CNT.FRAMES (p : Nat) : Field := ⟨R.FLM_Pp_PAUSE_CNT p, 31, 0⟩
def FLM_Pp_RX_DISC.FRAMES (p : Nat) : Field := ⟨R.FLM_Pp_RX_DISC p, 31, 0⟩
def FLM_Sn_STAT.EN (n : Nat) : Field := ⟨R.FLM_Sn_STAT n, 0, 0⟩
def FLM_Sn_STAT.T (n : Nat) : Field := ⟨R.FLM_Sn_STAT n, 3, 1⟩
def FLM_Sn_STAT.WAITING (n : Nat) : Field := ⟨R.FLM_Sn_STAT n, 4, 4⟩
def FLM_Sn_STAT.STEPS (n : Nat) : Field := ⟨R.FLM_Sn_STAT n, 20, 5⟩
def FLM_Sn_SEQ.SEQ (n : Nat) : Field := ⟨R.FLM_Sn_SEQ n, 31, 0⟩
def FLM_Sn_THINNED.RECORDS (n : Nat) : Field := ⟨R.FLM_Sn_THINNED n, 31, 0⟩
def FLM_Sn_DROP_CNT.RECORDS (n : Nat) : Field := ⟨R.FLM_Sn_DROP_CNT n, 31, 0⟩
def CHP_CTL.CNT_CLR : Field := ⟨R.CHP_CTL, 0, 0⟩
def CHP_STAT.LOAD : Field := ⟨R.CHP_STAT, 7, 0⟩
def CHP_STAT.MODE : Field := ⟨R.CHP_STAT, 15, 8⟩
def CHP_EVT.VERIFY : Field := ⟨R.CHP_EVT, 0, 0⟩
def CHP_EVT.CTX_LOST : Field := ⟨R.CHP_EVT, 1, 1⟩
def CHP_VERIFY_CNT.BLOCKS : Field := ⟨R.CHP_VERIFY_CNT, 31, 0⟩
def CHP_STORED_CNT.BLOCKS : Field := ⟨R.CHP_STORED_CNT, 31, 0⟩
def DCK_CTL.CNT_CLR : Field := ⟨R.DCK_CTL, 0, 0⟩
def DCK_STAT.WIPING : Field := ⟨R.DCK_STAT, 0, 0⟩
def DCK_STAT.RING_ACTIVE : Field := ⟨R.DCK_STAT, 1, 1⟩
def DCK_STAT.RING_ACT : Field := ⟨R.DCK_STAT, 8, 2⟩
def DCK_STAT.FLUME_ACT : Field := ⟨R.DCK_STAT, 14, 9⟩
def DCK_STAT.WB_MIB : Field := ⟨R.DCK_STAT, 24, 15⟩
def DCK_STAT.PART_PENDING : Field := ⟨R.DCK_STAT, 25, 25⟩
def DCK_STAT.CONFLICT : Field := ⟨R.DCK_STAT, 26, 26⟩
def DCK_EVT.CE : Field := ⟨R.DCK_EVT, 0, 0⟩
def DCK_EVT.UE : Field := ⟨R.DCK_EVT, 1, 1⟩
def DCK_EVT.RING_RESTART : Field := ⟨R.DCK_EVT, 2, 2⟩
def DCK_PART.RING : Field := ⟨R.DCK_PART, 6, 0⟩
def DCK_PART.FLUME : Field := ⟨R.DCK_PART, 12, 7⟩
def DCK_RING_CFG.EN : Field := ⟨R.DCK_RING_CFG, 0, 0⟩
def DCK_RING_CFG.CHIP : Field := ⟨R.DCK_RING_CFG, 1, 1⟩
def DCK_RING_CFG.CTX : Field := ⟨R.DCK_RING_CFG, 3, 2⟩
def DCK_RING_STAT.SPAN_MS : Field := ⟨R.DCK_RING_STAT, 19, 0⟩
def DCK_RING_STAT.RATIO : Field := ⟨R.DCK_RING_STAT, 28, 20⟩
def DCK_RING_OLD_LO.LAUNCH : Field := ⟨R.DCK_RING_OLD_LO, 31, 0⟩
def DCK_RING_OLD_HI.LAUNCH : Field := ⟨R.DCK_RING_OLD_HI, 31, 0⟩
def DCK_CE_CNT.WORDS : Field := ⟨R.DCK_CE_CNT, 31, 0⟩
def DCK_UE_CNT.WORDS : Field := ⟨R.DCK_UE_CNT, 31, 0⟩
def DCK_RING_RAW_CNT.RECORDS : Field := ⟨R.DCK_RING_RAW_CNT, 31, 0⟩
def LND_CTL.CNT_CLR : Field := ⟨R.LND_CTL, 0, 0⟩
def LND_CTL.SCRUB_NOW : Field := ⟨R.LND_CTL, 1, 1⟩
def LND_STAT.STATE : Field := ⟨R.LND_STAT, 1, 0⟩
def LND_STAT.SCRUB : Field := ⟨R.LND_STAT, 2, 2⟩
def LND_STAT.OVER_BUDGET : Field := ⟨R.LND_STAT, 3, 3⟩
def LND_EVT.UNCORR : Field := ⟨R.LND_EVT, 0, 0⟩
def LND_EVT.THROTTLE : Field := ⟨R.LND_EVT, 1, 1⟩
def LND_EVT.SPARE_LOW : Field := ⟨R.LND_EVT, 2, 2⟩
def LND_EVT.READ_ONLY : Field := ⟨R.LND_EVT, 3, 3⟩
def LND_PART.CAP_GIB : Field := ⟨R.LND_PART, 7, 0⟩
def LND_LIFE.PE_MEAN : Field := ⟨R.LND_LIFE, 15, 0⟩
def LND_LIFE.PROJ_YEARS : Field := ⟨R.LND_LIFE, 23, 16⟩
def LND_SPARE.SPARES : Field := ⟨R.LND_SPARE, 15, 0⟩
def LND_SPARE.BAD_GROWN : Field := ⟨R.LND_SPARE, 31, 16⟩
def LND_BUDGET.ALLOW : Field := ⟨R.LND_BUDGET, 15, 0⟩
def LND_BUDGET.AVG : Field := ⟨R.LND_BUDGET, 31, 16⟩
def LND_CE_CNT.SECTORS : Field := ⟨R.LND_CE_CNT, 31, 0⟩
def LND_UE_CNT.SECTORS : Field := ⟨R.LND_UE_CNT, 31, 0⟩
def LND_REFRESH_CNT.BLOCKS : Field := ⟨R.LND_REFRESH_CNT, 31, 0⟩
def LND_SCRUB_AGE.HOURS : Field := ⟨R.LND_SCRUB_AGE, 15, 0⟩
def LND_ARC_OLD_LO.TIME : Field := ⟨R.LND_ARC_OLD_LO, 31, 0⟩
def LND_ARC_OLD_HI.TIME : Field := ⟨R.LND_ARC_OLD_HI, 31, 0⟩
def LND_ARCk_STAT.EN (k : Nat) : Field := ⟨R.LND_ARCk_STAT k, 0, 0⟩
def LND_ARCk_STAT.T (k : Nat) : Field := ⟨R.LND_ARCk_STAT k, 3, 1⟩
def LND_ARCk_STAT.THINNED (k : Nat) : Field := ⟨R.LND_ARCk_STAT k, 31, 4⟩
def GEN_ID.DEVICE : Field := ⟨R.GEN_ID, 15, 0⟩
def GEN_ID.REV : Field := ⟨R.GEN_ID, 23, 16⟩
def GEN_SERIAL_LO.SERIAL : Field := ⟨R.GEN_SERIAL_LO, 31, 0⟩
def GEN_SERIAL_HI.SERIAL : Field := ⟨R.GEN_SERIAL_HI, 31, 0⟩
def GEN_LC_STAT.STATE : Field := ⟨R.GEN_LC_STAT, 2, 0⟩
def GEN_LC_STAT.TARGET : Field := ⟨R.GEN_LC_STAT, 5, 3⟩
def GEN_LC_STAT.ARMED : Field := ⟨R.GEN_LC_STAT, 6, 6⟩
def GEN_LC_STAT.RESULT : Field := ⟨R.GEN_LC_STAT, 9, 8⟩
def GEN_LC_REQ.TARGET : Field := ⟨R.GEN_LC_REQ, 2, 0⟩
def GEN_LC_REQ.CONFIRM : Field := ⟨R.GEN_LC_REQ, 15, 8⟩
def GEN_RESET_CAUSE.CAUSE : Field := ⟨R.GEN_RESET_CAUSE, 3, 0⟩
def GEN_CTL.RESET : Field := ⟨R.GEN_CTL, 0, 0⟩
def GEN_CTL.SHUTDOWN : Field := ⟨R.GEN_CTL, 1, 1⟩
def GEN_CTL.SAVE : Field := ⟨R.GEN_CTL, 2, 2⟩
def GEN_CTL.AUTO_START : Field := ⟨R.GEN_CTL, 3, 3⟩
def GEN_START.KIND : Field := ⟨R.GEN_START, 1, 0⟩
def GEN_START.RESTORED : Field := ⟨R.GEN_START, 2, 2⟩
def GEN_START.FAILS : Field := ⟨R.GEN_START, 10, 3⟩
def GEN_START.AGE_DAYS : Field := ⟨R.GEN_START, 18, 11⟩
def GEN_WRERR_CNT.COUNT : Field := ⟨R.GEN_WRERR_CNT, 31, 0⟩
def GEN_EVT.LC : Field := ⟨R.GEN_EVT, 0, 0⟩
def GEN_EVT.START : Field := ⟨R.GEN_EVT, 1, 1⟩
def GEN_EVT.SAVE_DONE : Field := ⟨R.GEN_EVT, 2, 2⟩
def GEN_EVT.SAVE_FAIL : Field := ⟨R.GEN_EVT, 3, 3⟩
def GEN_START_T.MS : Field := ⟨R.GEN_START_T, 31, 0⟩
def CLK_CTL.CNT_CLR : Field := ⟨R.CLK_CTL, 0, 0⟩
def CLK_STAT.WARM_READY : Field := ⟨R.CLK_STAT, 0, 0⟩
def CLK_STAT.XTAL_OK : Field := ⟨R.CLK_STAT, 1, 1⟩
def CLK_STAT.PLL_LOCK : Field := ⟨R.CLK_STAT, 2, 2⟩
def CLK_STAT.PLL_REF : Field := ⟨R.CLK_STAT, 3, 3⟩
def CLK_STAT.TRIM_SRC : Field := ⟨R.CLK_STAT, 5, 4⟩
def CLK_STAT.REFIN_OK : Field := ⟨R.CLK_STAT, 6, 6⟩
def CLK_EVT.XTAL_LOST : Field := ⟨R.CLK_EVT, 0, 0⟩
def CLK_EVT.PLL_UNLOCK : Field := ⟨R.CLK_EVT, 1, 1⟩
def CLK_EVT.FORCED : Field := ⟨R.CLK_EVT, 2, 2⟩
def CLK_EVT.START_RETRY : Field := ⟨R.CLK_EVT, 3, 3⟩
def CLK_EVT.GATED : Field := ⟨R.CLK_EVT, 4, 4⟩
def CLK_EVT.TB_STEP : Field := ⟨R.CLK_EVT, 5, 5⟩
def CLK_EVT.TB_STATE : Field := ⟨R.CLK_EVT, 6, 6⟩
def CLK_GATE.EN : Field := ⟨R.CLK_GATE, 18, 0⟩
def CLK_GATED.COUNT : Field := ⟨R.CLK_GATED, 15, 0⟩
def CLK_GATED.LAST : Field := ⟨R.CLK_GATED, 20, 16⟩
def CLK_KRF_OPP.OPP : Field := ⟨R.CLK_KRF_OPP, 1, 0⟩
def CLK_KRF_OPP.LEGACY : Field := ⟨R.CLK_KRF_OPP, 2, 2⟩
def CLK_KRF_OPP.CUR : Field := ⟨R.CLK_KRF_OPP, 4, 3⟩
def CLK_KRF_OPP.BUSY : Field := ⟨R.CLK_KRF_OPP, 5, 5⟩
def CLK_CNT.FORCED : Field := ⟨R.CLK_CNT, 7, 0⟩
def CLK_CNT.RETRY : Field := ⟨R.CLK_CNT, 15, 8⟩
def CLK_CNT.XTAL_LOST : Field := ⟨R.CLK_CNT, 23, 16⟩
def CLK_CNT.UNLOCK : Field := ⟨R.CLK_CNT, 31, 24⟩
def CLK_TB_CFG.SRC : Field := ⟨R.CLK_TB_CFG, 1, 0⟩
def CLK_TB_CFG.REFIN_EN : Field := ⟨R.CLK_TB_CFG, 2, 2⟩
def CLK_TB_CFG.PTP_PORT : Field := ⟨R.CLK_TB_CFG, 3, 3⟩
def CLK_TB_CFG.PTP_IPV6 : Field := ⟨R.CLK_TB_CFG, 4, 4⟩
def CLK_TB_CFG.DOMAIN : Field := ⟨R.CLK_TB_CFG, 12, 5⟩
def CLK_TB_CFG.STEP_EN : Field := ⟨R.CLK_TB_CFG, 13, 13⟩
def CLK_TB_STAT.STATE : Field := ⟨R.CLK_TB_STAT, 1, 0⟩
def CLK_TB_STAT.LABELLED : Field := ⟨R.CLK_TB_STAT, 2, 2⟩
def CLK_TB_NOW_LO.NS : Field := ⟨R.CLK_TB_NOW_LO, 31, 0⟩
def CLK_TB_NOW_HI.NS : Field := ⟨R.CLK_TB_NOW_HI, 31, 0⟩
def CLK_TB_OFS.OFS : Field := ⟨R.CLK_TB_OFS, 31, 0⟩
def CLK_TB_FREQ.PPB : Field := ⟨R.CLK_TB_FREQ, 31, 0⟩
def CLK_TB_SEC.SEC : Field := ⟨R.CLK_TB_SEC, 31, 0⟩
def CLK_Dd.DIV (d : Nat) : Field := ⟨R.CLK_Dd d, 9, 0⟩
def CLK_Dd.SRC (d : Nat) : Field := ⟨R.CLK_Dd d, 10, 10⟩
def CLK_Dd.STATE (d : Nat) : Field := ⟨R.CLK_Dd d, 12, 11⟩
def HIF_MSIX_ADDR_LO.ADDR (v : Nat) : Field := ⟨R.HIF_MSIX_ADDR_LO v, 31, 2⟩
def HIF_MSIX_ADDR_HI.ADDR (v : Nat) : Field := ⟨R.HIF_MSIX_ADDR_HI v, 31, 0⟩
def HIF_MSIX_DATA.DATA (v : Nat) : Field := ⟨R.HIF_MSIX_DATA v, 31, 0⟩
def HIF_MSIX_CTL.MASK (v : Nat) : Field := ⟨R.HIF_MSIX_CTL v, 0, 0⟩
def HIF_MSIX_PBA.PENDING : Field := ⟨R.HIF_MSIX_PBA, 31, 0⟩
def BLZ_OWN_Ln.OWNER (n : Nat) : Field := ⟨R.BLZ_OWN_Ln n, 3, 0⟩
def BLZ_OWN_Ln.LAST_LOSER (n : Nat) : Field := ⟨R.BLZ_OWN_Ln n, 7, 4⟩
def BLZ_OWN_Ln.CLAIM_HOST (n : Nat) : Field := ⟨R.BLZ_OWN_Ln n, 8, 8⟩
def BLZ_OWN_Ln.RELEASE_HOST (n : Nat) : Field := ⟨R.BLZ_OWN_Ln n, 9, 9⟩
def BLZ_OWN_Ln.CONFLICT_CNT (n : Nat) : Field := ⟨R.BLZ_OWN_Ln n, 23, 16⟩
def BLZ_OWN_Ln.CNT_CLR (n : Nat) : Field := ⟨R.BLZ_OWN_Ln n, 24, 24⟩
def BLZ_OWN_HSn.OWNER (n : Nat) : Field := ⟨R.BLZ_OWN_HSn n, 3, 0⟩
def BLZ_OWN_HSn.LAST_LOSER (n : Nat) : Field := ⟨R.BLZ_OWN_HSn n, 7, 4⟩
def BLZ_OWN_HSn.CLAIM_HOST (n : Nat) : Field := ⟨R.BLZ_OWN_HSn n, 8, 8⟩
def BLZ_OWN_HSn.RELEASE_HOST (n : Nat) : Field := ⟨R.BLZ_OWN_HSn n, 9, 9⟩
def BLZ_OWN_HSn.CONFLICT_CNT (n : Nat) : Field := ⟨R.BLZ_OWN_HSn n, 23, 16⟩
def BLZ_OWN_HSn.CNT_CLR (n : Nat) : Field := ⟨R.BLZ_OWN_HSn n, 24, 24⟩
def BLZ_OWN_MSYNC.OWNER : Field := ⟨R.BLZ_OWN_MSYNC, 3, 0⟩
def BLZ_OWN_MSYNC.LAST_LOSER : Field := ⟨R.BLZ_OWN_MSYNC, 7, 4⟩
def BLZ_OWN_MSYNC.CLAIM_HOST : Field := ⟨R.BLZ_OWN_MSYNC, 8, 8⟩
def BLZ_OWN_MSYNC.RELEASE_HOST : Field := ⟨R.BLZ_OWN_MSYNC, 9, 9⟩
def BLZ_OWN_MSYNC.CONFLICT_CNT : Field := ⟨R.BLZ_OWN_MSYNC, 23, 16⟩
def BLZ_OWN_MSYNC.CNT_CLR : Field := ⟨R.BLZ_OWN_MSYNC, 24, 24⟩
def CAL_OWN_Mk.OWNER (n : Nat) : Field := ⟨R.CAL_OWN_Mk n, 3, 0⟩
def CAL_OWN_Mk.LAST_LOSER (n : Nat) : Field := ⟨R.CAL_OWN_Mk n, 7, 4⟩
def CAL_OWN_Mk.CLAIM_HOST (n : Nat) : Field := ⟨R.CAL_OWN_Mk n, 8, 8⟩
def CAL_OWN_Mk.RELEASE_HOST (n : Nat) : Field := ⟨R.CAL_OWN_Mk n, 9, 9⟩
def CAL_OWN_Mk.CONFLICT_CNT (n : Nat) : Field := ⟨R.CAL_OWN_Mk n, 23, 16⟩
def CAL_OWN_Mk.CNT_CLR (n : Nat) : Field := ⟨R.CAL_OWN_Mk n, 24, 24⟩
def FIO_OWN_IOn.OWNER (n : Nat) : Field := ⟨R.FIO_OWN_IOn n, 3, 0⟩
def FIO_OWN_IOn.LAST_LOSER (n : Nat) : Field := ⟨R.FIO_OWN_IOn n, 7, 4⟩
def FIO_OWN_IOn.CLAIM_HOST (n : Nat) : Field := ⟨R.FIO_OWN_IOn n, 8, 8⟩
def FIO_OWN_IOn.RELEASE_HOST (n : Nat) : Field := ⟨R.FIO_OWN_IOn n, 9, 9⟩
def FIO_OWN_IOn.CONFLICT_CNT (n : Nat) : Field := ⟨R.FIO_OWN_IOn n, 23, 16⟩
def FIO_OWN_IOn.CNT_CLR (n : Nat) : Field := ⟨R.FIO_OWN_IOn n, 24, 24⟩
def GEN_OWN_TMRn.OWNER (n : Nat) : Field := ⟨R.GEN_OWN_TMRn n, 3, 0⟩
def GEN_OWN_TMRn.LAST_LOSER (n : Nat) : Field := ⟨R.GEN_OWN_TMRn n, 7, 4⟩
def GEN_OWN_TMRn.CLAIM_HOST (n : Nat) : Field := ⟨R.GEN_OWN_TMRn n, 8, 8⟩
def GEN_OWN_TMRn.RELEASE_HOST (n : Nat) : Field := ⟨R.GEN_OWN_TMRn n, 9, 9⟩
def GEN_OWN_TMRn.CONFLICT_CNT (n : Nat) : Field := ⟨R.GEN_OWN_TMRn n, 23, 16⟩
def GEN_OWN_TMRn.CNT_CLR (n : Nat) : Field := ⟨R.GEN_OWN_TMRn n, 24, 24⟩
def DCK_OWN_WBn.OWNER (n : Nat) : Field := ⟨R.DCK_OWN_WBn n, 3, 0⟩
def DCK_OWN_WBn.LAST_LOSER (n : Nat) : Field := ⟨R.DCK_OWN_WBn n, 7, 4⟩
def DCK_OWN_WBn.CLAIM_HOST (n : Nat) : Field := ⟨R.DCK_OWN_WBn n, 8, 8⟩
def DCK_OWN_WBn.RELEASE_HOST (n : Nat) : Field := ⟨R.DCK_OWN_WBn n, 9, 9⟩
def DCK_OWN_WBn.CONFLICT_CNT (n : Nat) : Field := ⟨R.DCK_OWN_WBn n, 23, 16⟩
def DCK_OWN_WBn.CNT_CLR (n : Nat) : Field := ⟨R.DCK_OWN_WBn n, 24, 24⟩
def CHP_OWN_CTXn.OWNER (n : Nat) : Field := ⟨R.CHP_OWN_CTXn n, 3, 0⟩
def CHP_OWN_CTXn.LAST_LOSER (n : Nat) : Field := ⟨R.CHP_OWN_CTXn n, 7, 4⟩
def CHP_OWN_CTXn.CLAIM_HOST (n : Nat) : Field := ⟨R.CHP_OWN_CTXn n, 8, 8⟩
def CHP_OWN_CTXn.RELEASE_HOST (n : Nat) : Field := ⟨R.CHP_OWN_CTXn n, 9, 9⟩
def CHP_OWN_CTXn.CONFLICT_CNT (n : Nat) : Field := ⟨R.CHP_OWN_CTXn n, 23, 16⟩
def CHP_OWN_CTXn.CNT_CLR (n : Nat) : Field := ⟨R.CHP_OWN_CTXn n, 24, 24⟩

end F

/-- One row of the register map: where the registers of a family stand, the bits of each access code (R4),
and the value after reset. Bits 15:13 of a TALLY word are reserved wherever it stands (R25). -/
structure RegRow where
  base : Nat
  count1 : Nat
  stride1 : Nat
  count2 : Nat
  stride2 : Nat
  rw : Word
  w1c : Word
  wo : Word
  rwl : Word
  reset : Word
  deriving DecidableEq, Repr

/-- The registers of the GEN window. -/
def rowsGEN : List RegRow := [
  ⟨0x0, 1, 0x0, 1, 0x0, 0x0, 0x0, 0x0, 0x0, 0x10120⟩,
  ⟨0x4, 1, 0x0, 1, 0x0, 0x0, 0x0, 0x0, 0x0, 0x0⟩,
  ⟨0x8, 1, 0x0, 1, 0x0, 0x0, 0x0, 0x0, 0x0, 0x0⟩,
  ⟨0xC, 1, 0x0, 1, 0x0, 0x0, 0x0, 0x0, 0x0, 0x0⟩,
  ⟨0x10, 1, 0x0, 1, 0x0, 0x0, 0x0, 0xFF07, 0x0, 0x0⟩,
  ⟨0x14, 1, 0x0, 1, 0x0, 0x0, 0x0, 0x0, 0x0, 0x0⟩,
  ⟨0x18, 1, 0x0, 1, 0x0, 0x8, 0x0, 0x7, 0x0, 0x0⟩,
  ⟨0x1C, 1, 0x0, 1, 0x0, 0x0, 0x0, 0x0, 0x0, 0x7F800⟩,
  ⟨0x20, 1, 0x0, 1, 0x0, 0x0, 0x0, 0x0, 0x0, 0x0⟩,
  ⟨0x24, 1, 0x0, 1, 0x0, 0x0, 0xF, 0x0, 0x0, 0x0⟩,
  ⟨0x28, 1, 0x0, 1, 0x0, 0x0, 0x0, 0x0, 0x0, 0x0⟩,
  ⟨0xF000, 16, 0x4, 1, 0x0, 0x0, 0x0, 0x1000300, 0x0, 0x0⟩]

/-- The registers of the CLK window. -/
def rowsCLK : List RegRow := [
  ⟨0x10000, 1, 0x0, 1, 0x0, 0x0, 0x0, 0x1, 0x0, 0x0⟩,
  ⟨0x10004, 1, 0x0, 1, 0x0, 0x0, 0x0, 0x0, 0x0, 0x0⟩,
  ⟨0x10008, 1, 0x0, 1, 0x0, 0x0, 0x7F, 0x0, 0x0, 0x0⟩,
  ⟨0x1000C, 1, 0x0, 1, 0x0, 0x7FFFF, 0x0, 0x0, 0x0, 0x7FFFF⟩,
  ⟨0x10010, 1, 0x0, 1, 0x0, 0x0, 0x0, 0x0, 0x0, 0x0⟩,
  ⟨0x10014, 1, 0x0, 1, 0x0, 0x7, 0x0, 0x0, 0x0, 0x0⟩,
  ⟨0x10018, 1, 0x0, 1, 0x0, 0x0, 0x0, 0x0, 0x0, 0x0⟩,
  ⟨0x10020, 1, 0x0, 1, 0x0, 0x3FFF, 0x0, 0x0, 0x0, 0x2004⟩,
  ⟨0x10024, 1, 0x0, 1, 0x0, 0x0, 0x0, 0x0, 0x0, 0x0⟩,
  ⟨0x10028, 1, 0x0, 1, 0x0, 0x0, 0x0, 0x0, 0x0, 0x0⟩,
  ⟨0x1002C, 1, 0x0, 1, 0x0, 0x0, 0x0, 0x0, 0x0, 0x0⟩,
  ⟨0x10030, 1, 0x0, 1, 0x0, 0x0, 0x0, 0x0, 0x0, 0x0⟩,
  ⟨0x10034, 1, 0x0, 1, 0x0, 0x0, 0x0, 0x0, 0x0, 0x0⟩,
  ⟨0x10038, 1, 0x0, 1, 0x0, 0xFFFFFFFF, 0x0, 0x0, 0x0, 0x0⟩,
  ⟨0x10100, 6, 0x4, 1, 0x0, 0x0, 0x0, 0x0, 0x0, 0x0⟩]

/-- The registers of the PRB window. -/
def rowsPRB : List RegRow := [
  ⟨0x20000, 1, 0x0, 1, 0x0, 0xF, 0x0, 0x30, 0x0, 0x8⟩,
  ⟨0x20004, 1, 0x0, 1, 0x0, 0x0, 0x0, 0x0, 0x0, 0x8⟩,
  ⟨0x20008, 1, 0x0, 1, 0x0, 0x0, 0xFFF, 0x0, 0x0, 0x0⟩,
  ⟨0x2000C, 1, 0x0, 1, 0x0, 0x0, 0x0, 0x0, 0x0, 0x0⟩,
  ⟨0x20010, 1, 0x0, 1, 0x0, 0xFF, 0x0, 0x0, 0x0, 0xA⟩,
  ⟨0x20014, 1, 0x0, 1, 0x0, 0x0, 0x0, 0x0, 0x0, 0x0⟩,
  ⟨0x20300, 1, 0x0, 1, 0x0, 0x1FFFFFF, 0x0, 0x0, 0x0, 0xC80000⟩,
  ⟨0x20304, 1, 0x0, 1, 0x0, 0x0, 0x0, 0x0, 0x0, 0x0⟩,
  ⟨0x20308, 1, 0x0, 1, 0x0, 0x0, 0x0, 0x0, 0x0, 0x0⟩,
  ⟨0x2030C, 1, 0x0, 1, 0x0, 0x0, 0x0, 0x0, 0x0, 0x0⟩,
  ⟨0x20310, 1, 0x0, 1, 0x0, 0x0, 0x0, 0x0, 0x0, 0x0⟩,
  ⟨0x20314, 1, 0x0, 1, 0x0, 0x0, 0x0, 0x0, 0x0, 0x0⟩,
  ⟨0x20318, 1, 0x0, 1, 0x0, 0x0, 0x0, 0x0, 0x0, 0x0⟩,
  ⟨0x20100, 2, 0x100, 1, 0x0, 0x3FFFF, 0x0, 0x0, 0x0, 0x3FFFF⟩,
  ⟨0x20104, 2, 0x100, 1, 0x0, 0x1FF, 0x0, 0x200, 0x0, 0x64⟩,
  ⟨0x20108, 2, 0x100, 1, 0x0, 0xFFFF, 0x0, 0x0, 0x0, 0x8000⟩,
  ⟨0x2010C, 2, 0x100, 1, 0x0, 0x0, 0x0, 0x0, 0x0, 0x0⟩,
  ⟨0x20110, 2, 0x100, 1, 0x0, 0x0, 0x0, 0x0, 0x0, 0x0⟩,
  ⟨0x20114, 2, 0x100, 1, 0x0, 0x7FFFFFF, 0x0, 0x8000000, 0x0, 0x500000⟩,
  ⟨0x20118, 2, 0x100, 1, 0x0, 0x0, 0x0, 0x0, 0x0, 0x0⟩,
  ⟨0x2011C, 2, 0x100, 1, 0x0, 0x0, 0x0, 0x0, 0x0, 0x0⟩,
  ⟨0x20120, 2, 0x100, 1, 0x0, 0x0, 0x0, 0x0, 0x0, 0x0⟩,
  ⟨0x20124, 2, 0x100, 1, 0x0, 0x0, 0x0, 0x0, 0x0, 0x0⟩,
  ⟨0x20128, 2, 0x100, 1, 0x0, 0x0, 0x0, 0x0, 0x0, 0x0⟩,
  ⟨0x2012C, 2, 0x100, 1, 0x0, 0x1FFF, 0x0, 0x0, 0x0, 0x1000⟩,
  ⟨0x20130, 2, 0x100, 1, 0x0, 0x0, 0x0, 0x0, 0x0, 0x0⟩]

/-- The registers of the KRF window. -/
def rowsKRF : List RegRow := [
  ⟨0x30000, 1, 0x0, 1, 0x0, 0x3, 0x0, 0x4, 0x0, 0x0⟩,
  ⟨0x30004, 1, 0x0, 1, 0x0, 0x0, 0x0, 0x0, 0x0, 0x0⟩,
  ⟨0x30008, 1, 0x0, 1, 0x0, 0x0, 0xFF, 0x0, 0x0, 0x0⟩,
  ⟨0x3000C, 1, 0x0, 1, 0x0, 0x0, 0x0, 0x0, 0x0, 0x0⟩,
  ⟨0x30100, 2, 0x100, 1, 0x0, 0x7F3F7F, 0x0, 0x0, 0x0, 0x480C14⟩,
  ⟨0x30104, 2, 0x100, 1, 0x0, 0x0, 0x0, 0x0, 0x0, 0x80008000⟩,
  ⟨0x30108, 2, 0x100, 1, 0x0, 0x0, 0x0, 0x0, 0x0, 0x80008000⟩,
  ⟨0x3010C, 2, 0x100, 1, 0x0, 0x0, 0x0, 0x0, 0x0, 0xFFFFFFFF⟩,
  ⟨0x30110, 2, 0x100, 1, 0x0, 0x0, 0x0, 0x0, 0x0, 0x0⟩,
  ⟨0x30114, 2, 0x100, 1, 0x0, 0x0, 0x0, 0x0, 0x0, 0x0⟩,
  ⟨0x30118, 2, 0x100, 1, 0x0, 0x0, 0x0, 0x0, 0x0, 0x0⟩,
  ⟨0x3011C, 2, 0x100, 1, 0x0, 0x0, 0x0, 0x0, 0x0, 0x0⟩,
  ⟨0x30120, 2, 0x100, 1, 0x0, 0x0, 0x0, 0x0, 0x0, 0x0⟩,
  ⟨0x30124, 2, 0x100, 1, 0x0, 0x0, 0x0, 0x0, 0x0, 0x0⟩]

/-- The registers of the SCL window. -/
def rowsSCL : List RegRow := [
  ⟨0x40000, 1, 0x0, 1, 0x0, 0x9, 0x0, 0x6, 0x0, 0x0⟩,
  ⟨0x40004, 1, 0x0, 1, 0x0, 0x0, 0x0, 0x0, 0x0, 0xC⟩,
  ⟨0x40008, 1, 0x0, 1, 0x0, 0x0, 0xFF, 0x0, 0x0, 0x0⟩,
  ⟨0x4000C, 1, 0x0, 1, 0x0, 0x3FFF, 0x0, 0x0, 0x0, 0xCC3⟩,
  ⟨0x40010, 1, 0x0, 1, 0x0, 0xFFFF, 0x0, 0x0, 0x0, 0x7D0⟩,
  ⟨0x40014, 1, 0x0, 1, 0x0, 0x3FF, 0x0, 0x0, 0x0, 0x1E3⟩,
  ⟨0x40018, 1, 0x0, 1, 0x0, 0x0, 0x0, 0x0, 0x0, 0x0⟩,
  ⟨0x40100, 2, 0x100, 1, 0x0, 0x7, 0x0, 0x0, 0x0, 0x4⟩,
  ⟨0x40104, 2, 0x100, 1, 0x0, 0x0, 0x0, 0x0, 0x0, 0x0⟩,
  ⟨0x40108, 2, 0x100, 1, 0x0, 0x0, 0x0, 0x0, 0x0, 0xFFFFFFFF⟩,
  ⟨0x4010C, 2, 0x100, 1, 0x0, 0x0, 0x0, 0x0, 0x0, 0x0⟩,
  ⟨0x40110, 2, 0x100, 1, 0x0, 0x0, 0x0, 0x0, 0x0, 0x0⟩,
  ⟨0x40114, 2, 0x100, 1, 0x0, 0x0, 0x0, 0x0, 0x0, 0x0⟩,
  ⟨0x40118, 2, 0x100, 1, 0x0, 0x0, 0x0, 0x0, 0x0, 0x0⟩]

/-- The registers of the BKG window. -/
def rowsBKG : List RegRow := [
  ⟨0x50000, 1, 0x0, 1, 0x0, 0x0, 0x0, 0x1, 0x0, 0x0⟩,
  ⟨0x50004, 1, 0x0, 1, 0x0, 0x0, 0x0, 0x0, 0x0, 0x0⟩,
  ⟨0x50008, 1, 0x0, 1, 0x0, 0x0, 0xFF, 0x0, 0x0, 0x0⟩,
  ⟨0x5000C, 1, 0x0, 1, 0x0, 0x0, 0x0, 0x0, 0x0, 0x0⟩,
  ⟨0x50100, 2, 0x100, 1, 0x0, 0x0, 0x0, 0x0, 0x0, 0x0⟩,
  ⟨0x50104, 2, 0x100, 1, 0x0, 0x0, 0x0, 0x0, 0x0, 0x0⟩,
  ⟨0x50108, 2, 0x100, 1, 0x0, 0x0, 0x0, 0x0, 0x0, 0x0⟩,
  ⟨0x51000, 16, 0x10, 1, 0x0, 0x7, 0x0, 0x0, 0x0, 0x0⟩,
  ⟨0x51004, 16, 0x10, 1, 0x0, 0x0, 0x0, 0xFFFF0001, 0x0, 0x0⟩,
  ⟨0x51008, 16, 0x10, 1, 0x0, 0x0, 0x0, 0x0, 0x0, 0x0⟩,
  ⟨0x5100C, 16, 0x10, 1, 0x0, 0x0, 0x0, 0x0, 0x0, 0x0⟩,
  ⟨0x52000, 64, 0x8, 1, 0x0, 0x0, 0x0, 0x0, 0x0, 0x0⟩,
  ⟨0x52004, 64, 0x8, 1, 0x0, 0x0, 0x0, 0x0, 0x0, 0x0⟩]

/-- The registers of the CRU window. -/
def rowsCRU : List RegRow := [
  ⟨0x60000, 1, 0x0, 1, 0x0, 0x7, 0x0, 0x8, 0x0, 0x0⟩,
  ⟨0x60004, 1, 0x0, 1, 0x0, 0x0, 0x0, 0x0, 0x0, 0x0⟩,
  ⟨0x60008, 1, 0x0, 1, 0x0, 0x0, 0x1FF, 0x0, 0x0, 0x0⟩,
  ⟨0x6000C, 1, 0x0, 1, 0x0, 0x0, 0x0, 0x0, 0x0, 0x1000000⟩,
  ⟨0x60010, 1, 0x0, 1, 0x0, 0xFFFFFFF, 0x0, 0x0, 0x0, 0x282080⟩,
  ⟨0x60014, 1, 0x0, 1, 0x0, 0xFFFFFF, 0x0, 0x0, 0x0, 0x600420⟩,
  ⟨0x60018, 1, 0x0, 1, 0x0, 0x0, 0x0, 0x0, 0x0, 0x0⟩,
  ⟨0x6001C, 1, 0x0, 1, 0x0, 0x0, 0x0, 0x0, 0x0, 0x0⟩,
  ⟨0x60020, 1, 0x0, 1, 0x0, 0x0, 0x0, 0x0, 0x0, 0x0⟩,
  ⟨0x60024, 1, 0x0, 1, 0x0, 0x0, 0x0, 0x0, 0x0, 0x0⟩,
  ⟨0x60028, 1, 0x0, 1, 0x0, 0x0, 0x0, 0x0, 0x0, 0x0⟩]

/-- The registers of the BLZ window. -/
def rowsBLZ : List RegRow := [
  ⟨0x70000, 1, 0x0, 1, 0x0, 0x0, 0x0, 0x1, 0x0, 0x0⟩,
  ⟨0x70004, 1, 0x0, 1, 0x0, 0x0, 0x0, 0x0, 0x0, 0x0⟩,
  ⟨0x70008, 1, 0x0, 1, 0x0, 0x0, 0x7F, 0x0, 0x0, 0x0⟩,
  ⟨0x70010, 1, 0x0, 1, 0x0, 0x1FFFFF, 0x0, 0x0, 0x0, 0x100A00⟩,
  ⟨0x70014, 1, 0x0, 1, 0x0, 0x0, 0x0, 0x1, 0x0, 0x0⟩,
  ⟨0x70018, 1, 0x0, 1, 0x0, 0x0, 0x0, 0x0, 0x0, 0x0⟩,
  ⟨0x7001C, 1, 0x0, 1, 0x0, 0x3FFF, 0x0, 0x0, 0x0, 0x0⟩,
  ⟨0x70020, 1, 0x0, 1, 0x0, 0x0, 0x0, 0x0, 0x0, 0x0⟩,
  ⟨0x70024, 1, 0x0, 1, 0x0, 0x0, 0x0, 0x0, 0x0, 0x0⟩,
  ⟨0x70100, 8, 0x80, 1, 0x0, 0xFFFF, 0x0, 0x0, 0x0, 0x0⟩,
  ⟨0x70104, 8, 0x80, 1, 0x0, 0x0, 0x0, 0x0, 0x0, 0x0⟩,
  ⟨0x70108, 8, 0x80, 1, 0x0, 0xFFFFFFFF, 0x0, 0x0, 0x0, 0x0⟩,
  ⟨0x7010C, 8, 0x80, 1, 0x0, 0xFFFFFFFF, 0x0, 0x0, 0x0, 0x0⟩,
  ⟨0x70110, 8, 0x80, 1, 0x0, 0xFFFFFF, 0x0, 0x0, 0x0, 0x0⟩,
  ⟨0x70114, 8, 0x80, 1, 0x0, 0x0, 0x0, 0x0, 0x0, 0x0⟩,
  ⟨0x70118, 8, 0x80, 1, 0x0, 0x0, 0x0, 0x0, 0x0, 0xFFFFFFFF⟩,
  ⟨0x7011C, 8, 0x80, 1, 0x0, 0x0, 0x0, 0x0, 0x0, 0xFFFFFFFF⟩,
  ⟨0x70120, 8, 0x80, 1, 0x0, 0x0, 0x0, 0x0, 0x0, 0xFFFFFF⟩,
  ⟨0x70124, 8, 0x80, 1, 0x0, 0x0, 0x0, 0x3, 0x0, 0x0⟩,
  ⟨0x70128, 8, 0x80, 1, 0x0, 0x0, 0x0, 0x0, 0x0, 0x0⟩,
  ⟨0x70140, 8, 0x80, 12, 0x4, 0x7FFFF, 0x0, 0x0, 0x0, 0x0⟩,
  ⟨0x7F000, 96, 0x4, 1, 0x0, 0x0, 0x0, 0x1000300, 0x0, 0x0⟩,
  ⟨0x7F180, 16, 0x4, 1, 0x0, 0x0, 0x0, 0x1000300, 0x0, 0x0⟩,
  ⟨0x7F1C0, 1, 0x0, 1, 0x0, 0x0, 0x0, 0x1000300, 0x0, 0x0⟩]

/-- The registers of the CAL window. -/
def rowsCAL : List RegRow := [
  ⟨0x80000, 1, 0x0, 1, 0x0, 0x0, 0x0, 0x1, 0x0, 0x0⟩,
  ⟨0x80004, 1, 0x0, 1, 0x0, 0x0, 0x0, 0x0, 0x0, 0x0⟩,
  ⟨0x80008, 1, 0x0, 1, 0x0, 0x0, 0x7F, 0x0, 0x0, 0x0⟩,
  ⟨0x80010, 1, 0x0, 1, 0x0, 0x0, 0x0, 0x0, 0x0, 0x10001087⟩,
  ⟨0x80014, 1, 0x0, 1, 0x0, 0x0, 0x0, 0x0, 0x0, 0x10431043⟩,
  ⟨0x80018, 1, 0x0, 1, 0x0, 0x0, 0x0, 0x0, 0x0, 0x1087⟩,
  ⟨0x8001C, 1, 0x0, 1, 0x0, 0x0, 0x0, 0x0, 0x0, 0x0⟩,
  ⟨0x80020, 1, 0x0, 1, 0x0, 0x0, 0x0, 0x0, 0x0, 0x0⟩,
  ⟨0x80024, 1, 0x0, 1, 0x0, 0x0, 0x0, 0x0, 0x0, 0x0⟩,
  ⟨0x80028, 1, 0x0, 1, 0x0, 0x0, 0x0, 0x0, 0x0, 0x0⟩,
  ⟨0x81000, 4, 0x1000, 1, 0x0, 0x1, 0x0, 0x2, 0x0, 0x1⟩,
  ⟨0x81004, 4, 0x1000, 1, 0x0, 0x0, 0x0, 0x0, 0x0, 0x0⟩,
  ⟨0x81008, 4, 0x1000, 1, 0x0, 0xFFFF, 0x0, 0x0, 0x0, 0x0⟩,
  ⟨0x8100C, 4, 0x1000, 1, 0x0, 0x0, 0x0, 0xFFF3F7F, 0x0, 0x0⟩,
  ⟨0x81010, 4, 0x1000, 1, 0x0, 0x0, 0x12, 0x0, 0x0, 0x0⟩,
  ⟨0x81024, 4, 0x1000, 1, 0x0, 0x0, 0x0, 0x0, 0x0, 0x0⟩,
  ⟨0x81028, 4, 0x1000, 1, 0x0, 0x0, 0x0, 0x0, 0x0, 0x0⟩,
  ⟨0x8102C, 4, 0x1000, 1, 0x0, 0x0, 0x0, 0x0, 0x0, 0x7FFFFF⟩,
  ⟨0x81030, 4, 0x1000, 1, 0x0, 0x0, 0x0, 0x0, 0x0, 0xFF800000⟩,
  ⟨0x81034, 4, 0x1000, 1, 0x0, 0x0, 0x0, 0x0, 0x0, 0x0⟩,
  ⟨0x81038, 4, 0x1000, 1, 0x0, 0x0, 0x0, 0x0, 0x0, 0x0⟩,
  ⟨0x8103C, 4, 0x1000, 1, 0x0, 0x0, 0x0, 0x0, 0x0, 0x0⟩,
  ⟨0x81014, 4, 0x1000, 4, 0x4, 0x0, 0xFFFFFFFF, 0x0, 0x0, 0x0⟩,
  ⟨0x81100, 4, 0x1000, 64, 0x4, 0x0, 0x0, 0x0, 0x0, 0x0⟩,
  ⟨0x81200, 4, 0x1000, 64, 0x4, 0x0, 0x0, 0x0, 0x0, 0x0⟩,
  ⟨0x8F000, 8, 0x4, 1, 0x0, 0x0, 0x0, 0x1000300, 0x0, 0x0⟩]

/-- The registers of the WDG window. -/
def rowsWDG : List RegRow := [
  ⟨0x90000, 1, 0x0, 1, 0x0, 0x2, 0x0, 0x1, 0x0, 0x2⟩,
  ⟨0x90004, 1, 0x0, 1, 0x0, 0x0, 0x0, 0x0, 0x0, 0x20⟩,
  ⟨0x90008, 1, 0x0, 1, 0x0, 0x0, 0x3FF, 0x0, 0x0, 0x0⟩,
  ⟨0x9000C, 1, 0x0, 1, 0x0, 0x0, 0x0, 0x0, 0x0, 0x0⟩,
  ⟨0x90010, 1, 0x0, 1, 0x0, 0x0, 0x0, 0x0, 0x0, 0x0⟩,
  ⟨0x90014, 1, 0x0, 1, 0x0, 0x0, 0x0, 0x0, 0x0, 0x0⟩,
  ⟨0x90018, 1, 0x0, 1, 0x0, 0x0, 0x0, 0x0, 0x0, 0x0⟩,
  ⟨0x9001C, 1, 0x0, 1, 0x0, 0x0, 0x0, 0x0, 0x0, 0x0⟩,
  ⟨0x90020, 1, 0x0, 1, 0x0, 0x0, 0x0, 0x0, 0x0, 0x0⟩,
  ⟨0x90024, 1, 0x0, 1, 0x0, 0x0, 0x0, 0x0, 0x0, 0xFFFFFFFF⟩,
  ⟨0x90028, 1, 0x0, 1, 0x0, 0x0, 0x0, 0xFFFF, 0x0, 0x0⟩,
  ⟨0x90040, 12, 0x4, 1, 0x0, 0x0, 0x0, 0x0, 0xFFFFFFFF, 0x0⟩,
  ⟨0x90100, 256, 0x4, 1, 0x0, 0x0, 0x0, 0x0, 0x0, 0x0⟩]

/-- The registers of the MRK window. -/
def rowsMRK : List RegRow := [
  ⟨0xA0000, 1, 0x0, 1, 0x0, 0x2, 0x0, 0x1, 0x0, 0x0⟩,
  ⟨0xA0004, 1, 0x0, 1, 0x0, 0x0, 0x0, 0x0, 0x0, 0x0⟩,
  ⟨0xA0008, 1, 0x0, 1, 0x0, 0x0, 0x3, 0x0, 0x0, 0x0⟩,
  ⟨0xA000C, 1, 0x0, 1, 0x0, 0x0, 0x0, 0x0, 0x0, 0x0⟩,
  ⟨0xA0010, 1, 0x0, 1, 0x0, 0xFF, 0x0, 0x0, 0x0, 0x0⟩,
  ⟨0xA0014, 1, 0x0, 1, 0x0, 0x0, 0x0, 0xFF, 0x0, 0x0⟩,
  ⟨0xA0018, 1, 0x0, 1, 0x0, 0x0, 0x0, 0xFF, 0x0, 0x0⟩,
  ⟨0xA001C, 1, 0x0, 1, 0x0, 0x0, 0x0, 0x3FFF, 0x0, 0x0⟩,
  ⟨0xA0020, 1, 0x0, 1, 0x0, 0x0, 0x0, 0x0, 0x0, 0x0⟩,
  ⟨0xA0040, 8, 0x4, 1, 0x0, 0x0, 0x0, 0x0, 0x0, 0x0⟩]

/-- The registers of the SKY window. -/
def rowsSKY : List RegRow := [
  ⟨0xB0000, 1, 0x0, 1, 0x0, 0x0, 0x0, 0x1, 0x0, 0x0⟩,
  ⟨0xB0004, 1, 0x0, 1, 0x0, 0x0, 0x0, 0x0, 0x0, 0x0⟩,
  ⟨0xB0008, 1, 0x0, 1, 0x0, 0x0, 0xF, 0x0, 0x0, 0x0⟩,
  ⟨0xB000C, 1, 0x0, 1, 0x0, 0x1FFF, 0x0, 0x0, 0x0, 0x1043⟩,
  ⟨0xB0100, 4, 0x40, 1, 0x0, 0xFFF, 0x0, 0x0, 0x0, 0x0⟩,
  ⟨0xB0104, 4, 0x40, 1, 0x0, 0x0, 0x0, 0x1FF, 0x0, 0x0⟩,
  ⟨0xB0108, 4, 0x40, 1, 0x0, 0xF, 0x0, 0x0, 0x0, 0x0⟩,
  ⟨0xB010C, 4, 0x40, 1, 0x0, 0x0, 0x0, 0x0, 0x0, 0x0⟩,
  ⟨0xB0110, 4, 0x40, 1, 0x0, 0x0, 0x0, 0x0, 0x0, 0x0⟩,
  ⟨0xB0114, 4, 0x40, 1, 0x0, 0x0, 0x0, 0x0, 0x0, 0x0⟩,
  ⟨0xB0118, 4, 0x40, 1, 0x0, 0x0, 0x0, 0x0, 0x0, 0x0⟩,
  ⟨0xB011C, 4, 0x40, 1, 0x0, 0x0, 0x0, 0x0, 0x0, 0x0⟩,
  ⟨0xB0120, 4, 0x40, 1, 0x0, 0x0, 0x0, 0x0, 0x0, 0x0⟩,
  ⟨0xB0124, 4, 0x40, 1, 0x0, 0x0, 0x0, 0x0, 0x0, 0x0⟩]

/-- The registers of the FIO window. -/
def rowsFIO : List RegRow := [
  ⟨0xC0000, 1, 0x0, 1, 0x0, 0x0, 0x0, 0x1, 0x0, 0x0⟩,
  ⟨0xC0004, 1, 0x0, 1, 0x0, 0x0, 0x0, 0x0, 0x0, 0x2⟩,
  ⟨0xC0008, 1, 0x0, 1, 0x0, 0x0, 0x3F, 0x0, 0x0, 0x0⟩,
  ⟨0xC000C, 1, 0x0, 1, 0x0, 0x0, 0x0, 0x0, 0x0, 0x0⟩,
  ⟨0xC0010, 1, 0x0, 1, 0x0, 0xFFFF, 0x0, 0x0, 0x0, 0x0⟩,
  ⟨0xC0014, 1, 0x0, 1, 0x0, 0x0, 0x0, 0xFFFF, 0x0, 0x0⟩,
  ⟨0xC0018, 1, 0x0, 1, 0x0, 0x0, 0x0, 0xFFFF, 0x0, 0x0⟩,
  ⟨0xC001C, 1, 0x0, 1, 0x0, 0x0, 0x0, 0x0, 0x0, 0x0⟩,
  ⟨0xC0020, 1, 0x0, 1, 0x0, 0x1FFF1FFF, 0x0, 0x0, 0x0, 0x10431043⟩,
  ⟨0xC0024, 1, 0x0, 1, 0x0, 0x1FFF1FFF, 0x0, 0x0, 0x0, 0x10431043⟩,
  ⟨0xC0028, 1, 0x0, 1, 0x0, 0x0, 0x0, 0xFFFF, 0x0, 0x0⟩,
  ⟨0xC002C, 1, 0x0, 1, 0x0, 0x0, 0x0, 0x0, 0x0, 0x0⟩,
  ⟨0xC0100, 16, 0x20, 1, 0x0, 0x1FFFFFF, 0x0, 0x0, 0x0, 0x320000⟩,
  ⟨0xC0104, 16, 0x20, 1, 0x0, 0xFFFF, 0x0, 0x0, 0x0, 0x3E8⟩,
  ⟨0xC0108, 16, 0x20, 1, 0x0, 0xFFFFFFFF, 0x0, 0x0, 0x0, 0x640064⟩,
  ⟨0xC010C, 16, 0x20, 1, 0x0, 0x0, 0x0, 0x0, 0x0, 0x0⟩,
  ⟨0xC0110, 16, 0x20, 1, 0x0, 0x0, 0x0, 0x0, 0x0, 0x0⟩,
  ⟨0xCF000, 16, 0x4, 1, 0x0, 0x0, 0x0, 0x1000300, 0x0, 0x0⟩]

/-- The registers of the HIF window. -/
def rowsHIF : List RegRow := [
  ⟨0xD0000, 1, 0x0, 1, 0x0, 0x7E, 0x0, 0x81, 0x0, 0x0⟩,
  ⟨0xD0004, 1, 0x0, 1, 0x0, 0x0, 0x0, 0x0, 0x0, 0x0⟩,
  ⟨0xD0008, 1, 0x0, 1, 0x0, 0x0, 0x3F, 0x0, 0x0, 0x0⟩,
  ⟨0xD000C, 1, 0x0, 1, 0x0, 0x0, 0x0, 0x0, 0x0, 0x0⟩,
  ⟨0xD0010, 1, 0x0, 1, 0x0, 0x0, 0x0, 0x0, 0x0, 0x0⟩,
  ⟨0xD0014, 1, 0x0, 1, 0x0, 0x0, 0x0, 0x0, 0x0, 0x0⟩,
  ⟨0xD0018, 1, 0x0, 1, 0x0, 0x0, 0x0, 0x0, 0x0, 0x0⟩,
  ⟨0xD001C, 1, 0x0, 1, 0x0, 0x0, 0x0, 0x0, 0x0, 0x0⟩,
  ⟨0xD1000, 16, 0x40, 1, 0x0, 0xFFFFF000, 0x0, 0x0, 0x0, 0x0⟩,
  ⟨0xD1004, 16, 0x40, 1, 0x0, 0xFFFFFFFF, 0x0, 0x0, 0x0, 0x0⟩,
  ⟨0xD1008, 16, 0x40, 1, 0x0, 0xFFFFFFF8, 0x0, 0x0, 0x0, 0x0⟩,
  ⟨0xD100C, 16, 0x40, 1, 0x0, 0xFFFFFFFF, 0x0, 0x0, 0x0, 0x0⟩,
  ⟨0xD1010, 16, 0x40, 1, 0x0, 0x7BF, 0x0, 0x0, 0x0, 0xC⟩,
  ⟨0xD1014, 16, 0x40, 1, 0x0, 0x0, 0x0, 0x0, 0x0, 0x0⟩,
  ⟨0xD1018, 16, 0x40, 1, 0x0, 0x0, 0x0, 0x0, 0x0, 0x0⟩,
  ⟨0xD101C, 16, 0x40, 1, 0x0, 0x0, 0x0, 0x0, 0x0, 0x0⟩,
  ⟨0xD1020, 16, 0x40, 1, 0x0, 0x0, 0x0, 0x0, 0x0, 0x0⟩,
  ⟨0xD1024, 16, 0x40, 1, 0x0, 0x0, 0x0, 0x0, 0x0, 0x0⟩,
  ⟨0xD1400, 16, 0x40, 1, 0x0, 0xFFFFF000, 0x0, 0x0, 0x0, 0x0⟩,
  ⟨0xD1404, 16, 0x40, 1, 0x0, 0xFFFFFFFF, 0x0, 0x0, 0x0, 0x0⟩,
  ⟨0xD1408, 16, 0x40, 1, 0x0, 0xFFFFFFF8, 0x0, 0x0, 0x0, 0x0⟩,
  ⟨0xD140C, 16, 0x40, 1, 0x0, 0xFFFFFFFF, 0x0, 0x0, 0x0, 0x0⟩,
  ⟨0xD1410, 16, 0x40, 1, 0x0, 0xFFF, 0x0, 0x0, 0x0, 0xC⟩,
  ⟨0xD1414, 16, 0x40, 1, 0x0, 0x0, 0x0, 0x0, 0x0, 0x0⟩,
  ⟨0xD1418, 16, 0x40, 1, 0x0, 0x0, 0x0, 0x0, 0x0, 0x0⟩,
  ⟨0xD141C, 16, 0x40, 1, 0x0, 0x0, 0x0, 0x0, 0x0, 0x0⟩,
  ⟨0xD1420, 16, 0x40, 1, 0x0, 0xFFFF, 0x0, 0x0, 0x0, 0x1⟩,
  ⟨0xD1424, 16, 0x40, 1, 0x0, 0x0, 0x0, 0x0, 0x0, 0x0⟩,
  ⟨0xD1800, 16, 0x40, 1, 0x0, 0xFFFFF000, 0x0, 0x0, 0x0, 0x0⟩,
  ⟨0xD1804, 16, 0x40, 1, 0x0, 0xFFFFFFFF, 0x0, 0x0, 0x0, 0x0⟩,
  ⟨0xD1808, 16, 0x40, 1, 0x0, 0xFFFFFFF8, 0x0, 0x0, 0x0, 0x0⟩,
  ⟨0xD180C, 16, 0x40, 1, 0x0, 0xFFFFFFFF, 0x0, 0x0, 0x0, 0x0⟩,
  ⟨0xD1810, 16, 0x40, 1, 0x0, 0xFFF, 0x0, 0x0, 0x0, 0xC⟩,
  ⟨0xD1814, 16, 0x40, 1, 0x0, 0x0, 0x0, 0x0, 0x0, 0x0⟩,
  ⟨0xD1818, 16, 0x40, 1, 0x0, 0x0, 0x0, 0x0, 0x0, 0x0⟩,
  ⟨0xD181C, 16, 0x40, 1, 0x0, 0x0, 0x0, 0x0, 0x0, 0x0⟩,
  ⟨0xD1820, 16, 0x40, 1, 0x0, 0xFFFFFFFF, 0x0, 0x0, 0x0, 0xFFFF0001⟩,
  ⟨0xD1824, 16, 0x40, 1, 0x0, 0x0, 0x0, 0x0, 0x0, 0x0⟩,
  ⟨0xD1C00, 16, 0x40, 1, 0x0, 0xFFFFF000, 0x0, 0x0, 0x0, 0x0⟩,
  ⟨0xD1C04, 16, 0x40, 1, 0x0, 0xFFFFFFFF, 0x0, 0x0, 0x0, 0x0⟩,
  ⟨0xD1C08, 16, 0x40, 1, 0x0, 0xFFFFFFF8, 0x0, 0x0, 0x0, 0x0⟩,
  ⟨0xD1C0C, 16, 0x40, 1, 0x0, 0xFFFFFFFF, 0x0, 0x0, 0x0, 0x0⟩,
  ⟨0xD1C10, 16, 0x40, 1, 0x0, 0xFFFFF, 0x0, 0x0, 0x0, 0xC⟩,
  ⟨0xD1C14, 16, 0x40, 1, 0x0, 0x0, 0x0, 0x0, 0x0, 0x0⟩,
  ⟨0xD1C18, 16, 0x40, 1, 0x0, 0x0, 0x0, 0x0, 0x0, 0x0⟩,
  ⟨0xD1C1C, 16, 0x40, 1, 0x0, 0x0, 0x0, 0x0, 0x0, 0x0⟩,
  ⟨0xD1C20, 16, 0x40, 1, 0x0, 0x3FF, 0x0, 0x0, 0x0, 0x64⟩,
  ⟨0xD1C24, 16, 0x40, 1, 0x0, 0x0, 0x0, 0x0, 0x0, 0x0⟩,
  ⟨0xD8000, 32, 0x10, 1, 0x0, 0xFFFFFFFC, 0x0, 0x0, 0x0, 0x0⟩,
  ⟨0xD8004, 32, 0x10, 1, 0x0, 0xFFFFFFFF, 0x0, 0x0, 0x0, 0x0⟩,
  ⟨0xD8008, 32, 0x10, 1, 0x0, 0xFFFFFFFF, 0x0, 0x0, 0x0, 0x0⟩,
  ⟨0xD800C, 32, 0x10, 1, 0x0, 0x1, 0x0, 0x0, 0x0, 0x1⟩,
  ⟨0xD9000, 1, 0x0, 1, 0x0, 0x0, 0x0, 0x0, 0x0, 0x0⟩]

/-- The registers of the FLM window. -/
def rowsFLM : List RegRow := [
  ⟨0xE0000, 1, 0x0, 1, 0x0, 0x0, 0x0, 0x1, 0x0, 0x0⟩,
  ⟨0xE0004, 1, 0x0, 1, 0x0, 0x0, 0x0, 0x0, 0x0, 0x0⟩,
  ⟨0xE0008, 1, 0x0, 1, 0x0, 0x0, 0x7, 0x0, 0x0, 0x0⟩,
  ⟨0xE0100, 2, 0x20, 1, 0x0, 0x7FFFFFF, 0x0, 0x0, 0x0, 0x200BB80⟩,
  ⟨0xE0104, 2, 0x20, 1, 0x0, 0x0, 0x0, 0x0, 0x0, 0x0⟩,
  ⟨0xE0108, 2, 0x20, 1, 0x0, 0x0, 0x0, 0x0, 0x0, 0x0⟩,
  ⟨0xE010C, 2, 0x20, 1, 0x0, 0x0, 0x0, 0x0, 0x0, 0x0⟩,
  ⟨0xE0110, 2, 0x20, 1, 0x0, 0x0, 0x0, 0x0, 0x0, 0x0⟩,
  ⟨0xE1000, 16, 0x20, 1, 0x0, 0x0, 0x0, 0x0, 0x0, 0x0⟩,
  ⟨0xE1004, 16, 0x20, 1, 0x0, 0x0, 0x0, 0x0, 0x0, 0x0⟩,
  ⟨0xE1008, 16, 0x20, 1, 0x0, 0x0, 0x0, 0x0, 0x0, 0x0⟩,
  ⟨0xE100C, 16, 0x20, 1, 0x0, 0x0, 0x0, 0x0, 0x0, 0x0⟩]

/-- The registers of the CHP window. -/
def rowsCHP : List RegRow := [
  ⟨0xF0000, 1, 0x0, 1, 0x0, 0x0, 0x0, 0x1, 0x0, 0x0⟩,
  ⟨0xF0004, 1, 0x0, 1, 0x0, 0x0, 0x0, 0x0, 0x0, 0x0⟩,
  ⟨0xF0008, 1, 0x0, 1, 0x0, 0x0, 0x3, 0x0, 0x0, 0x0⟩,
  ⟨0xF000C, 1, 0x0, 1, 0x0, 0x0, 0x0, 0x0, 0x0, 0x0⟩,
  ⟨0xF0010, 1, 0x0, 1, 0x0, 0x0, 0x0, 0x0, 0x0, 0x0⟩,
  ⟨0xFF000, 4, 0x4, 1, 0x0, 0x0, 0x0, 0x1000300, 0x0, 0x0⟩]

/-- The registers of the DCK window. -/
def rowsDCK : List RegRow := [
  ⟨0x100000, 1, 0x0, 1, 0x0, 0x0, 0x0, 0x1, 0x0, 0x0⟩,
  ⟨0x100004, 1, 0x0, 1, 0x0, 0x0, 0x0, 0x0, 0x0, 0x4010C1⟩,
  ⟨0x100008, 1, 0x0, 1, 0x0, 0x0, 0x7, 0x0, 0x0, 0x0⟩,
  ⟨0x10000C, 1, 0x0, 1, 0x0, 0x1FFF, 0x0, 0x0, 0x0, 0x430⟩,
  ⟨0x100010, 1, 0x0, 1, 0x0, 0xF, 0x0, 0x0, 0x0, 0x1⟩,
  ⟨0x100014, 1, 0x0, 1, 0x0, 0x0, 0x0, 0x0, 0x0, 0x10000000⟩,
  ⟨0x100018, 1, 0x0, 1, 0x0, 0x0, 0x0, 0x0, 0x0, 0x0⟩,
  ⟨0x10001C, 1, 0x0, 1, 0x0, 0x0, 0x0, 0x0, 0x0, 0x0⟩,
  ⟨0x100020, 1, 0x0, 1, 0x0, 0x0, 0x0, 0x0, 0x0, 0x0⟩,
  ⟨0x100024, 1, 0x0, 1, 0x0, 0x0, 0x0, 0x0, 0x0, 0x0⟩,
  ⟨0x100028, 1, 0x0, 1, 0x0, 0x0, 0x0, 0x0, 0x0, 0x0⟩,
  ⟨0x10F000, 16, 0x4, 1, 0x0, 0x0, 0x0, 0x1000300, 0x0, 0x0⟩]

/-- The registers of the LND window. -/
def rowsLND : List RegRow := [
  ⟨0x110000, 1, 0x0, 1, 0x0, 0x0, 0x0, 0x3, 0x0, 0x0⟩,
  ⟨0x110004, 1, 0x0, 1, 0x0, 0x0, 0x0, 0x0, 0x0, 0x0⟩,
  ⟨0x110008, 1, 0x0, 1, 0x0, 0x0, 0xF, 0x0, 0x0, 0x0⟩,
  ⟨0x11000C, 1, 0x0, 1, 0x0, 0x0, 0x0, 0x0, 0xFF, 0x40⟩,
  ⟨0x110010, 1, 0x0, 1, 0x0, 0x0, 0x0, 0x0, 0x0, 0xFF0000⟩,
  ⟨0x110014, 1, 0x0, 1, 0x0, 0x0, 0x0, 0x0, 0x0, 0x8FC⟩,
  ⟨0x110018, 1, 0x0, 1, 0x0, 0x0, 0x0, 0x0, 0x0, 0x190⟩,
  ⟨0x11001C, 1, 0x0, 1, 0x0, 0x0, 0x0, 0x0, 0x0, 0x0⟩,
  ⟨0x110020, 1, 0x0, 1, 0x0, 0x0, 0x0, 0x0, 0x0, 0x0⟩,
  ⟨0x110024, 1, 0x0, 1, 0x0, 0x0, 0x0, 0x0, 0x0, 0x0⟩,
  ⟨0x110028, 1, 0x0, 1, 0x0, 0x0, 0x0, 0x0, 0x0, 0x0⟩,
  ⟨0x110030, 1, 0x0, 1, 0x0, 0x0, 0x0, 0x0, 0x0, 0x0⟩,
  ⟨0x110034, 1, 0x0, 1, 0x0, 0x0, 0x0, 0x0, 0x0, 0x0⟩,
  ⟨0x110100, 8, 0x4, 1, 0x0, 0x0, 0x0, 0x0, 0x0, 0x0⟩]

/-- The registers of the SST window. -/
def rowsSST : List RegRow := [
  ⟨0x120000, 1, 0x0, 1, 0x0, 0x0, 0x0, 0x1, 0x0, 0x0⟩,
  ⟨0x120004, 1, 0x0, 1, 0x0, 0x1, 0x0, 0x0, 0x0, 0x1⟩,
  ⟨0x120008, 1, 0x0, 1, 0x0, 0x0, 0x0, 0x0, 0x0, 0x79⟩,
  ⟨0x12000C, 1, 0x0, 1, 0x0, 0x0, 0x7, 0x0, 0x0, 0x0⟩,
  ⟨0x120010, 1, 0x0, 1, 0x0, 0x0, 0x0, 0x0, 0x0, 0x0⟩,
  ⟨0x120014, 1, 0x0, 1, 0x0, 0x0, 0x0, 0x0, 0x0, 0x7F8⟩,
  ⟨0x120018, 1, 0x0, 1, 0x0, 0x0, 0x0, 0x0, 0x0, 0x0⟩,
  ⟨0x12001C, 1, 0x0, 1, 0x0, 0x0, 0x0, 0x0, 0x0, 0xFF64⟩]

/-- The register rows of each BAR0 window, in the order of the block map (R292). -/
def blockRows (b : Nat) : List RegRow :=
  match b with
  | 0 => rowsGEN
  | 1 => rowsCLK
  | 2 => rowsPRB
  | 3 => rowsKRF
  | 4 => rowsSCL
  | 5 => rowsBKG
  | 6 => rowsCRU
  | 7 => rowsBLZ
  | 8 => rowsCAL
  | 9 => rowsWDG
  | 10 => rowsMRK
  | 11 => rowsSKY
  | 12 => rowsFIO
  | 13 => rowsHIF
  | 14 => rowsFLM
  | 15 => rowsCHP
  | 16 => rowsDCK
  | 17 => rowsLND
  | 18 => rowsSST
  | _ => []

/-- Whether an address is one of a row's registers. -/
def RegRow.holds (r : RegRow) (addr : Nat) : Bool :=
  if addr < r.base then false
  else
    let d := addr - r.base
    if r.count1 = 1 then d == 0
    else
      let i := d / r.stride1
      let e := d % r.stride1
      decide (i < r.count1) &&
        (if r.count2 = 1 then e == 0
         else e % r.stride2 == 0 && decide (e / r.stride2 < r.count2))

/-- The row of a word address, where some block names it (R293). -/
def regRow (addr : Nat) : Option RegRow := (blockRows (addr / 0x10000)).find? (·.holds addr)

/-- The value of a register after a reset that the tables state, zero for an address no block names (R293). -/
def resetVal (addr : Nat) : Word :=
  match regRow addr with
  | some r => r.reset
  | none => 0

end Sys2Proof.Machine
end

