-- ==== Sys2Proof/Machine/Sparse.lean ====
section
/-! DEFINITION. Sparse maps: the one form in which the model keeps the register file, the working space of Deck and
every table. A map lists only the keys whose value differs from a default, keys strictly rising, so that equal maps are
equal lists. -/

namespace Sys2Proof.Machine

/-- The value of key `k`: the listed one, else the default of `k`. -/
def sget {α : Type} (d : Nat → α) : List (Nat × α) → Nat → α
  | [], k => d k
  | (j, w) :: t, k => if k = j then w else sget d t k

/-- The map with an entry for key `k`, at its place in the rising order. -/
def sins {α : Type} : List (Nat × α) → Nat → α → List (Nat × α)
  | [], k, v => [(k, v)]
  | (j, w) :: t, k, v =>
    if k < j then (k, v) :: (j, w) :: t
    else if k = j then (k, v) :: t
    else (j, w) :: sins t k v

/-- The map with key `k` set to `v`; setting the default removes the entry. -/
def sput {α : Type} [DecidableEq α] (d : Nat → α) (m : List (Nat × α)) (k : Nat) (v : α) : List (Nat × α) :=
  if v = d k then m.filter fun e => e.1 != k else sins m k v

/-- Whether a map is in canonical form above the bound `lo`: keys strictly rising from `lo`, no entry at its default. -/
def swfFrom {α : Type} [DecidableEq α] (d : Nat → α) : Nat → List (Nat × α) → Bool
  | _, [] => true
  | lo, (j, w) :: t => decide (lo ≤ j) && decide (w ≠ d j) && swfFrom d (j + 1) t

/-- Whether a map is in canonical form. -/
def swf {α : Type} [DecidableEq α] (d : Nat → α) (m : List (Nat × α)) : Bool := swfFrom d 0 m

/-- The map with `f` applied to the value of key `k`. -/
def supd {α : Type} [DecidableEq α] (d : Nat → α) (m : List (Nat × α)) (k : Nat) (f : α → α) : List (Nat × α) :=
  sput d m k (f (sget d m k))

end Sys2Proof.Machine
end

