-- ==== Sys2Proof/Machine/State.lean ====
section
/-! DEFINITION. The state of the block as plain data: the register file, what each block holds outside its registers,
the non-volatile stores, the queue of waiting commands and the record of what the block has put out. -/

namespace Sys2Proof.Machine

/-- Why a step could stop. The TJ120 has no fault that stops it (R4 to R8, R295, R301 handle every bad access), so
no command raises one. -/
inductive Fault where
  /-- Raised by no command: kept so that the type has a member. Safe. -/
  | unused
  deriving DecidableEq, Repr

/-- Why a command has no meaning. -/
inductive Refusal where
  /-- Raised by the dispatch for a command whose meaning is not modelled. Safe. -/
  | notModelled (mnemonic : String)
  deriving DecidableEq, Repr

/-! ### Event records and outputs -/

/-- An event record (R146): its class, STATE, the PORT and LOOP bits, its number, time and payload. -/
structure EventRec where
  cls : Nat
  state : Bool
  port : Bool
  loop : Bool
  seq : Nat
  time : Nat
  payload : List Byte
  deriving DecidableEq, Repr

/-- What the block puts out. -/
inductive Output where
  /-- A write of the block to host memory (R296, R305, R306, R309). -/
  | hostWrite (addr : Nat) (data : List Byte)
  /-- An MSI-X message (R314). -/
  | msix (vector : Nat)
  /-- The answer to a BAR0 read (R6). -/
  | readData (addr : Nat) (value : Nat)
  /-- An event record as it is posted (R146). -/
  | event (r : EventRec)
  /-- An Ethernet frame sent on a Flume port (R321, R386). -/
  | frame (port : EthPort) (data : List Byte)
  /-- A Delay_Req of PTP sent on a Flume port: IPv6, domain and sequence (R386). -/
  | delayReq (port : EthPort) (v6 : Bool) (domain seq : Nat)
  /-- The down frame a chain sends at an exchange start, as its cells (R251). -/
  | downFrame (chain : Nat) (bits : List Bool)
  /-- A reset frame sent to the field sides (R286). -/
  | fieldReset
  deriving DecidableEq, Repr

/-! ### Host interface -/

/-- The progress of a CAPTURE descriptor that runs (R307, R331, R355). -/
structure CapRun where
  /-- Number, in storing order, of the next ring record to look at; 0 before the capture begins. -/
  cursor : Nat
  delivered : Nat
  lost : Nat
  /-- LAUNCH of the first record delivered. -/
  first : Option Nat
  partialFlag : Bool
  /-- Directory entry of a capture to Landing. -/
  entry : Nat
  /-- The end of the window, and, for a capture that does not wait, the number of the last ring record it may copy. -/
  endAt : Nat
  limit : Option Nat
  /-- The order in which captures began. -/
  order : Nat
  /-- All records are delivered; Landing still programs the last. -/
  drained : Bool
  deriving DecidableEq, Repr

/-- An item accepted from a command or capture ring and not yet completed (R297, R309). -/
structure Item where
  cap : Bool
  ring : Nat
  index : Nat
  cq : Nat
  desc : List Byte
  started : Bool
  /-- Marked by a CAPTURE_CANCEL (R308). -/
  marked : Bool
  run : CapRun
  deriving DecidableEq, Repr

/-- A completion (R309). -/
structure Completion where
  tag : Nat
  xfer : Nat
  status : Nat
  index : Nat
  ring : Nat
  cap : Bool
  opcode : Nat
  partialFlag : Bool
  lost : Bool
  held : Bool
  info0 : Nat
  info1 : Nat
  deriving DecidableEq, Repr

/-- What a completion ring holds outside its registers. -/
structure CplRing where
  /-- Completions held, oldest first (R315). -/
  held : List Completion
  /-- Entries written since the last message, and when the first of them was written (R314). -/
  since : Nat
  firstAt : Nat
  /-- The newest entry written, which a failed write turns into a held completion (R315). -/
  last : Option Completion
  deriving DecidableEq, Repr

/-- The records of one class lost in a gap (R312). -/
structure GapClass where
  cls : Nat
  first : Nat
  last : Nat
  count : Nat
  deriving DecidableEq, Repr

/-- What an event ring holds outside its registers. -/
structure EvrRing where
  /-- The unreported gap, by ascending class. -/
  gap : List GapClass
  /-- SEQ of the last record lost in the gap. -/
  lastLost : Nat
  /-- The subscription under which the ring goes on losing records after a host-interface reset (R315). -/
  lostMask : Nat
  since : Nat
  firstAt : Nat
  /-- The newest record written, which a failed write loses to the gap (R315). -/
  last : Option EventRec
  deriving DecidableEq, Repr

/-- What a capture ring holds outside its registers. -/
structure CapRing where
  /-- Bytes and records in the buffer being filled, and the TIME or LAUNCH of its first record (R306, R309). -/
  fill : Nat
  records : Nat
  first : Nat
  /-- When the first record of the buffer was written. -/
  firstAt : Nat
  /-- Records missed since the last buffer completion (R306). -/
  missed : Nat
  deriving DecidableEq, Repr

/-- The host interface outside its registers. -/
structure HifState where
  /-- Items accepted and not completed, of every command and capture ring, oldest first. -/
  items : List Item
  cpl : List (Nat × CplRing)
  evr : List (Nat × EvrRing)
  cap : List (Nat × CapRing)
  deriving DecidableEq, Repr

/-! ### Flume and Chipper -/

/-- A record or Chipper block queued for a stream: its bytes still to send, and whether some are sent already. -/
structure QRec where
  bytes : List Byte
  begun : Bool
  /-- The record's thin index, or SEQ for an event record (R328, R330). -/
  index : Nat
  /-- A marker (R330). -/
  marker : Bool
  /-- When it was queued (R322). -/
  queuedAt : Nat
  deriving DecidableEq, Repr

/-- A stream outside its registers and its table entry. -/
structure FStream where
  queue : List QRec
  /-- Raw bytes of the Chipper block being gathered (R326). -/
  raw : List Byte
  /-- Blocks written since the last FIRST block; 16 makes the next one FIRST (R326). -/
  sinceFirst : Nat
  /-- Consecutive drops not yet reported by a marker: count, first and last index (R329). -/
  drops : Nat
  dropFirst : Nat
  dropLast : Nat
  /-- A THIN marker is due before the next record kept; whether the step was up (R328). -/
  thinDue : Bool
  thinUp : Bool
  /-- Stream start count (R321). -/
  gen : Nat
  /-- When the first raw byte of the open Chipper block was queued (R322, R326). -/
  firstAt : Nat
  deriving DecidableEq, Repr

/-- A Flume port outside its registers. -/
structure FPort where
  /-- When the last thin step was made (R328). -/
  lastStep : Option Nat
  /-- Consecutive checks with F_p ≤ 25 % (R328). -/
  lowRun : Nat
  deriving DecidableEq, Repr

/-- A Chipper context outside CHP_STAT (R332, R339). -/
structure ChipCtx where
  /-- The raw data most recently encoded or decoded, oldest byte first, at most 65,536 bytes. -/
  history : List Byte
  /-- The decoder's mid-block state: whether a block is open, its raw and code bytes to come, whether it is STORED, its
  CRC and the running CRC. -/
  open_ : Bool
  rawLeft : Nat
  codeLeft : Nat
  stored : Bool
  crc : Nat
  run : BitVec 32
  deriving DecidableEq, Repr

/-- Flume and Chipper outside their registers. -/
structure FlumeState where
  /-- The stream table (R324), 64 bytes an entry. -/
  table : List (Nat × List Byte)
  /-- The port table (R325). -/
  ports : List (Nat × List Byte)
  streams : List (Nat × FStream)
  port : List (Nat × FPort)
  ctx : List (Nat × ChipCtx)
  deriving DecidableEq, Repr

/-! ### Deck and Landing -/

/-- A slot record in the pre-trigger ring (R346): its number in storing order, port, LAUNCH, the record as Kerf
delivered it, the bytes it takes in the ring, and whether an uncorrectable word lost it. -/
structure RingRec where
  num : Nat
  port : Port
  launch : Nat
  raw : List Byte
  /-- The Chipper blocks it is stored as, empty when stored raw (R347). -/
  blocks : List Byte
  lost : Bool
  deriving DecidableEq, Repr

/-- Deck outside its registers. -/
structure DeckState where
  ring : List RingRec
  /-- Number of the record stored last, from 1. -/
  nextNum : Nat
  /-- Where in the ring's region the oldest record starts. -/
  head : Nat
  /-- The working space: bytes by offset, zero where not listed (R345). -/
  space : List (Nat × Byte)
  /-- Word offsets of uncorrectable words in the working space (R344). -/
  bad : List Nat
  /-- Storing stopped by EN = 0: the next EN = 1 empties the ring (R346). -/
  stopped : Bool
  /-- Raw and stored bytes of the records stored in the last second, with the time of each (R348). -/
  recent : List (Nat × Nat × Nat)
  deriving DecidableEq, Repr

/-- A record in Landing: its bytes, its TIME or LAUNCH, and whether an uncorrectable sector lost it. -/
structure LndRec where
  bytes : List Byte
  time : Nat
  lost : Bool
  /-- The model's clock when it arrived. -/
  since : Nat
  deriving DecidableEq, Repr

/-- A capture directory entry and the capture's records (R355, R356). STATE 0 is a free entry. -/
structure CapEntry where
  state : Nat
  keep : Bool
  port : Bool
  captureId : Nat
  tag : Nat
  first : Nat
  count : Nat
  tFirst : Nat
  /-- Order of opening, for the choice of the oldest capture. -/
  serial : Nat
  records : List LndRec
  deriving DecidableEq, Repr

/-- Landing outside its registers. It is non-volatile (R376) but for the fields that say otherwise. -/
structure LandingState where
  dir : List (Nat × CapEntry)
  serial : Nat
  /-- The archive, oldest record first. -/
  archive : List LndRec
  /-- The archive table (R357), 16 bytes an entry. Volatile: restored from the start set. -/
  table : List (Nat × List Byte)
  /-- A THIN marker is due before the next record kept of a source, and whether the step was up. -/
  thinDue : List (Nat × Bool)
  /-- Bytes written to the CAPTURE and ARCHIVE areas and when (R358). -/
  written : List (Nat × Nat)
  /-- When the last throttle step was made (R358). -/
  lastStep : Option Nat
  /-- TAI time of the first entry into OPERATIONAL (R358, R381). -/
  firstOperational : Option Nat
  /-- The model's clock at the last complete scrub pass (R354). -/
  scrubAt : Nat
  deriving DecidableEq, Repr

/-- No progress. -/
def CapRun.zero : CapRun := ⟨0, 0, 0, none, false, 0, 0, none, 0, false⟩
/-- A completion ring with nothing held. -/
def CplRing.zero : CplRing := ⟨[], 0, 0, none⟩
/-- An event ring without a gap. -/
def EvrRing.zero : EvrRing := ⟨[], 0, 0, 0, 0, none⟩
/-- A capture ring with no buffer begun. -/
def CapRing.zero : CapRing := ⟨0, 0, 0, 0, 0⟩
/-- The host interface right after reset. -/
def HifState.zero : HifState := ⟨[], [], [], []⟩
/-- A stream that is not running. -/
def FStream.zero : FStream := ⟨[], [], 0, 0, 0, 0, false, false, 0, 0⟩
/-- A Flume port right after reset. -/
def FPort.zero : FPort := ⟨none, 0⟩
/-- An empty Chipper context. -/
def ChipCtx.zero : ChipCtx := ⟨[], false, 0, 0, false, 0, 0⟩
/-- An unused table entry of `n` zero bytes. -/
def zeroEntry (n : Nat) : List Byte := List.replicate n 0
/-- Flume and Chipper right after reset. -/
def FlumeState.zero : FlumeState := ⟨[], [], [], [], []⟩
/-- Deck right after reset, wiped (R345). -/
def DeckState.zero : DeckState := ⟨[], 0, 0, [], [], false, []⟩
/-- A free directory entry. -/
def CapEntry.zero : CapEntry := ⟨0, false, false, 0, 0, 0, 0, 0, 0, []⟩
/-- A Landing store that holds nothing. -/
def LandingState.zero : LandingState := ⟨[], 0, [], [], [], [], none, none, 0⟩

/-! ### Tally windows -/

/-- A tally instance (R25 to R28): the last 64 evaluations, newest in bit 0, whether the condition is lasting, and the
transient and missed counts. -/
structure Tally where
  hist : BitVec 64
  lasting : Bool
  transient : Nat
  missed : Nat
  deriving DecidableEq, Repr

/-- A tally instance right after reset (R28). -/
def Tally.zero : Tally := ⟨0, false, 0, 0⟩

/-! ### Probe (R31 to R58) -/

/-- A probe slot whose record is still to come, with the settings of its sweep (R39, R65, R78). -/
structure Slot where
  sweep : Nat
  slot : Nat
  /-- LAUNCH, and the model's clock at it. -/
  launch : Nat
  since : Nat
  /-- P in µs, the last point swept, and LOOP_LAG in ps. -/
  period : Nat
  last : Nat
  lag : Nat
  source : Nat
  gauge : Nat
  fade : Nat
  shift : Nat
  fmt : Nat
  /-- The noise floor was measured when the sweep started (R66). -/
  ready : Bool
  /-- The same of port B in loop mode, and its FADE_THR. -/
  readyB : Bool
  fadeB : Nat
  borrowed : Bool
  failed : Bool
  skipped : Bool
  /-- The sweep was launched in MEASURING. -/
  meas : Bool
  /-- A phase-reference restart at this sweep: 0 none, 1 with the θ offsets kept, 2 reset (R75). -/
  restart : Nat
  /-- The Scaler set a borrowed slot belongs to (R89). -/
  set : Nat
  /-- The owner of each loop point in its sweep (R57); empty outside loop mode. -/
  own : List Nat
  deriving DecidableEq, Repr

/-- A fibre port outside its registers. -/
structure ProbePort where
  /-- Slots launched, or failed before their launch, whose records are still to come, in launch order. -/
  slots : List Slot
  /-- The number of the next sweep, and of the sweep launched last (R42). -/
  next : Nat
  number : Nat
  /-- A sweep schedule runs, and how many slots of its sweep have launched. -/
  running : Bool
  done : Nat
  /-- The model's clock when the port entered a return hold; whether it enters one at its next boundary (R37). -/
  held : Option Nat
  holdDue : Bool
  /-- Consecutive test slots without and with the signature (R45, R50). -/
  clean : Nat
  bad : Nat
  /-- APR_RESUME was written in this APR. -/
  resumed : Bool
  /-- The port has reached SWEEPING since its enable; its end is measured in this start. -/
  swept : Bool
  measured : Bool
  /-- Sweeps completed in MEASURING. -/
  measSweeps : Nat
  /-- The state the port takes up again after NO_SOURCE. -/
  resumeTo : Nat
  /-- Disabled, with slots in reception still to complete (R45). -/
  stopping : Bool
  /-- The restart due at the next sweep, as in Slot, and whether its offsets are reset at the next entry (R75). -/
  restart : Nat
  resetDue : Bool
  /-- The restart of the sweep launched last. -/
  kind : Nat
  /-- The cut tally (R53). -/
  cut : Tally
  deriving DecidableEq, Repr

/-- Ownership of the loop's points, 0 port A, 1 port B, 2 unowned: now, and before the boundary of sweep `since` (R57). -/
structure LoopState where
  own : List Nat
  prev : List Nat
  since : Nat
  /-- A REPARTITION record is due at the next decision (R55). -/
  due : Bool
  deriving DecidableEq, Repr

/-! ### Kerf (R60 to R85) -/

/-- What Kerf keeps of a point: its output phase, whether its next sample is RESTART, and the offsets θ_1 to θ_3 with
whether each has been updated since its reset (R70, R71). -/
structure KPoint where
  phase : Nat
  fresh : Bool
  theta : List Nat
  learned : List Bool
  /-- The sweep of the point's latest restart of its own, a change of owner (R75). -/
  since : Nat
  deriving DecidableEq, Repr

/-- What Kerf keeps of a slot record: each point's raw phase, amplitude code and whether it was direct, and whether
its level lay within 3 dB of the noise floor (R66, R72). -/
structure KRecent where
  sweep : Nat
  slot : Nat
  pts : List (Nat × Nat × Bool)
  near : List Bool
  deriving DecidableEq, Repr

/-- Kerf's state of a port. -/
structure KerfPort where
  pts : List KPoint
  /-- The two newest records of each slot, newest first. -/
  recent : List KRecent
  /-- Sums of the level over the 200 positions beyond END, by band, of up to 64 sweeps, newest first. -/
  floors : List (List Nat)
  /-- Sweep of the latest restart and of the latest reset of the offsets. -/
  restartAt : Nat
  resetAt : Nat
  /-- The newest sweep whose restart and owner change have been applied. -/
  applied : Option Nat
  /-- Owners of the loop points in that sweep. -/
  owner : List Nat
  /-- Index 4 × SWEEP + SLOT of the last record that gave output samples. -/
  lastIdx : Nat
  /-- Settings in effect since the last boundary. -/
  gauge : Nat
  fade : Nat
  shift : Nat
  gain : Nat
  fmt : Nat
  /-- END of the sweeps in progress, whose change restarts the noise floor. -/
  last : Nat
  /-- Quality codes of the sweep in progress by slot, and the quality map (R81). -/
  codes : List (List Nat)
  qmap : List Nat
  deriving DecidableEq, Repr

/-! ### Scaler (R86 to R103) -/

/-- A set of borrowed sweeps (R89, R91): its settings, borrowed sweeps launched, recorded and contributing, launch times of
the first and last pulse, the model's clock when the last reception ends, and the accumulated spectra. -/
structure SclSet where
  id : Nat
  n : Nat
  avgLog : Nat
  weak : Nat
  launched : Nat
  recorded : Nat
  valid : Nat
  tFirst : Nat
  tLast : Nat
  endsAt : Nat
  /-- Spectra accumulated of each point, and their sum by bin. -/
  acc : List (Nat × List Nat)
  /-- The same of the positions beyond END, together. -/
  noise : Nat × List Nat
  /-- Points whose accumulator an uncorrectable word hit (R344). -/
  dead : List Nat
  deriving DecidableEq, Repr

/-- Scaler's state of a port. -/
structure SclPort where
  sets : List SclSet
  nextId : Nat
  /-- The next profile number (R98). -/
  profile : Nat
  /-- The model's clock at the last publication, or at the start of the wait for the first (R101). -/
  pubAt : Nat
  /-- A stale marker waits for the publication of a set that was complete at the onset (R101). -/
  marker : Bool
  /-- The port still owes a profile to the baseline capture (R94). -/
  owes : Bool
  deriving DecidableEq, Repr

/-! ### Bucking (R104 to R124) -/

/-- A channel input sample in 2^−14 counts (R107, R108). -/
structure BkgIn where
  idx : Nat
  value : Int
  filled : Bool
  gap : Bool
  deriving DecidableEq, Repr

/-- A channel: its status counts, its input samples newest first, and its delays in 1/256 samples with the index each
holds from, newest first (R108 to R110, R123). -/
structure BkgChan where
  fill : Nat
  dfill : Nat
  gap : Nat
  input : List BkgIn
  delays : List (Nat × Nat)
  owner : Nat
  deriving DecidableEq, Repr

/-- One channel record a set has delivered: index, TIME and words. -/
structure BkgOut where
  n : Nat
  time : Nat
  words : List Nat
  deriving DecidableEq, Repr

/-- A set that runs: the raw index its filters start at, the next output, warm-up outputs left, whether its first record
is to come, outputs made of the running fade, and its latest outputs, newest first (R113, R117, R118). -/
structure BkgSet where
  start : Nat
  next : Nat
  warm : Nat
  first : Bool
  faded : Nat
  outs : List BkgOut
  deriving DecidableEq, Repr

/-- A profile's running and queued fade, target and length, and the sets that run the target unmixed (R118, R119). -/
structure BkgFade where
  run : Option (Nat × Nat)
  queued : Option (Nat × Nat)
  unmixed : List Nat
  deriving DecidableEq, Repr

/-- A port's records as Bucking sees them: the phases of the last record that carried samples, the launch time of each raw
index, the pending run of missing samples (index, borrowed), the last raw index, P and LOOP_LAG. -/
structure BkgPort where
  phases : List Nat
  launches : List (Nat × Nat)
  run : List (Nat × Bool)
  lastIdx : Nat
  deriving DecidableEq, Repr

/-- Bucking. Tables are held as loaded and as in effect (R117). -/
structure BkgState where
  chanLoaded : List (Nat × List Byte)
  chans : List (Nat × List Byte)
  setLoaded : List (Nat × List Byte)
  sets : List (Nat × List Byte)
  banks : List (Nat × List Byte)
  chan : List (Nat × BkgChan)
  set : List (Nat × BkgSet)
  fade : List (Nat × BkgFade)
  port : List (Nat × BkgPort)
  deriving DecidableEq, Repr

/-! ### Cruiser (R125 to R155) -/

/-- A zone that runs: its three detectors, evaluations in a row that could not be made, its state word, profiles received
since its start, the last values of the status snapshot, the last frame, and the instant its window starts from. -/
structure CruZone where
  vib : Tally
  tlev : Tally
  trate : Tally
  blind : Nat
  word : Nat
  profiles : Nat
  lastVib : Nat
  lastTmax : Nat
  frame : Nat
  since : Nat
  deriving DecidableEq, Repr

/-- A track (R140 to R142). -/
structure Track where
  slot : Nat
  port : Nat
  x : Rat
  v : Rat
  time : Nat
  conf : Nat
  confirmed : Bool
  speed : Bool
  stopped : Bool
  candidate : Option Nat
  clock : Nat
  serial : Nat
  /-- Frame boundaries at which it has had its detection. -/
  used : List Nat
  deriving DecidableEq, Repr

/-- A detection (R139): B_j, position in 1/16 point, port and energy. -/
structure Detection where
  time : Nat
  pos : Int
  port : Nat
  energy : Int
  deriving DecidableEq, Repr

/-- A frame evaluation that the tracker has still to see: B_j, port and point span, for clocks and misses. -/
structure FrameSeen where
  time : Nat
  port : Nat
  lo : Nat
  hi : Nat
  made : Bool
  deriving DecidableEq, Repr

/-- Cruiser. -/
structure CruState where
  zoneLoaded : List (Nat × List Byte)
  zones : List (Nat × List Byte)
  tplLoaded : List (Nat × List Byte)
  tpls : List (Nat × List Byte)
  /-- Zones whose reload waits for their next frame boundary. -/
  reload : List Nat
  zone : List (Nat × CruZone)
  tracks : List Track
  serial : Nat
  found : List Detection
  frames : List FrameSeen
  /-- A refusal of a new track has been reported and not yet ended (R144). -/
  full : Bool
  /-- Profiles received by port, newest first: record bytes, empty for a stale marker. -/
  profs : List (Nat × List (List Byte))
  deriving DecidableEq, Repr

/-- A port that is OFF. -/
def ProbePort.zero : ProbePort := ⟨[], 0, 0, false, 0, none, false, 0, 0, false, false, false, 0, 0, false, 0, false, 0, Tally.zero⟩
/-- No owners. -/
def LoopState.zero : LoopState := ⟨[], [], 0, false⟩
/-- A point Kerf has formed no sample of. -/
def KPoint.zero : KPoint := ⟨0, true, [0, 0, 0], [false, false, false], 0⟩
/-- Kerf's state of a port right after reset; the settings are the registers' reset values. -/
def KerfPort.zero : KerfPort := ⟨[], [], [], 0, 0, none, [], 0, 20, 12, 8, 4, 0, 0, [[], [], [], []], []⟩
/-- Scaler's state of a port right after reset. -/
def SclPort.zero : SclPort := ⟨[], 0, 0, 0, false, false⟩
/-- A channel without samples. -/
def BkgChan.zero : BkgChan := ⟨0, 0, 0, [], [], 0⟩
/-- A set that has not started. -/
def BkgSet.zero : BkgSet := ⟨0, 0, 0, false, 0, []⟩
/-- A profile without a fade. -/
def BkgFade.zero : BkgFade := ⟨none, none, []⟩
/-- A port without records. -/
def BkgPort.zero : BkgPort := ⟨[], [], [], 0⟩
/-- Bucking right after reset. -/
def BkgState.zero : BkgState := ⟨[], [], [], [], [], [], [], [], []⟩
/-- A zone that has just started. -/
def CruZone.zero : CruZone := ⟨Tally.zero, Tally.zero, Tally.zero, 0, 0, 0, 0x8000, 0x8000, 0, 0⟩
/-- Cruiser right after reset. -/
def CruState.zero : CruState := ⟨[], [], [], [], [], [], [], 0, [], [], false, []⟩
/-- A point without a baseline (R94): BASE_T is 0x8000. -/
def noBaseline : List Byte := [0, 0, 0, 0, 0, 0x80, 0, 0]

/-! ### Blaze and lamp supervision (R156 to R193) -/

/-- What supervision and the drive keep of an object: a lamp pin (0 to 95) or a row switch (96 to 111). -/
structure LampObj where
  /-- Wedge's voted enable, and the model's clock when it was given. -/
  en : Bool
  since : Nat
  /-- The proof state of R183: 0 NOT_ENABLED, 1 UNPROVEN, 2 LIT, 3 DARK. -/
  proof : Nat
  missing : Nat
  /-- OFFC and OFFV tripped, and whether either was in this PWM period (R180, R187). -/
  offc : Bool
  offv : Bool
  offTrip : Bool
  /-- Latched off by an overcurrent trip; the clock at the trip or at the last retry; restored from the next period or
  frame (R188). -/
  latched : Bool
  tripAt : Nat
  resume : Bool
  /-- This period or frame: enabled throughout so far, an evaluated pulse, a present one. -/
  through : Bool
  evald : Bool
  seen : Bool
  /-- CMD, ISET and CURVE since the last period boundary (R162). -/
  cmd : Nat
  iset : Nat
  curve : Nat
  /-- Sub-pulses of this period whose start has passed; a pulse is being driven, whether it is evaluated, whether it is a
  proof pulse; the window's proof pulse is still due (R161, R182, R185). -/
  next : Nat
  conducting : Bool
  pulseEval : Bool
  proofNow : Bool
  proofDue : Bool
  /-- Enabled time without a present pulse up to the last withdrawal, and the clock it counts on from (R183). -/
  blindAcc : Nat
  blindFrom : Nat
  oc : Tally
  off : Tally
  lowcur : Tally
  deriving DecidableEq, Repr

/-- A pin pair of the adjacent-pin test (R191): its tally, and since when it has been skipped. -/
structure AdjPair where
  tally : Tally
  skipped : Option Nat
  deriving DecidableEq, Repr

/-- A segment test that runs (R167): segments still to measure, the one measured in this sub-pulse, the last unaltered
sample, and the rises measured in 0.1 V. -/
structure SegTest where
  todo : List Nat
  cur : Option Nat
  base : Option Nat
  meas : List (Nat × Nat)
  deriving DecidableEq, Repr

/-- A bank outside its registers (R163 to R167, R177, R192). -/
structure BankSt where
  /-- Consecutive samples at 1.2 V or above, and samples that qualify for a restore. -/
  good : Nat
  okRun : Nat
  /-- The segment restored whose first sample is to come. -/
  restored : Option Nat
  /-- An open search waits for an LSUP reading; the candidates of a running search, the bypassed one first; a repeat that
  drives its first sub-pulse; when the last search ended. -/
  waiting : Bool
  search : Option (List Nat)
  retry : Bool
  searchedAt : Nat
  test : Option SegTest
  /-- When the last automatic segment test fell due. -/
  autoAt : Nat
  /-- Bypass switches closed in this sub-pulse. -/
  byp : Nat
  /-- Node tallies by segment, the kind of the last violation, and the segments violated in this period. -/
  node : List (Nat × Tally)
  kind : List (Nat × Nat)
  bad : List Nat
  /-- An evaluated sub-pulse fell in this period. -/
  evald : Bool
  /-- The clock at the last thermal shutdown. -/
  tsdAt : Nat
  deriving DecidableEq, Repr

/-- A pixel of the matrix (R171, R183): its proof state and its missing frames. -/
structure Pixel where
  proof : Nat
  missing : Nat
  deriving DecidableEq, Repr

/-- The matrix outside its registers (R169 to R174). The buffers list bytes by 48 r + c. -/
structure MatrixSt where
  front : List (Nat × Byte)
  back : List (Nat × Byte)
  /-- ONT_MX since the last frame boundary. -/
  ont : Nat
  /-- The next row slot to start, 16 at the end of a frame; the frame ends at this slot's end; the clock at its start. -/
  next : Nat
  cut : Bool
  frameAt : Nat
  /-- Columns driven in the row slot being scanned, with their pixel values. -/
  cols : List (Nat × Nat)
  msyncAt : Option Nat
  /-- PAGE channels that Wedge enables, and those whose page stands in the front buffer (R172), by pool index. -/
  wanted : List Nat
  shown : List Nat
  pixels : List (Nat × Pixel)
  /-- The clock at the last shutdown of the row switches (R177). -/
  tsdAt : Nat
  deriving DecidableEq, Repr

/-- Blaze and the lamps. -/
structure LampState where
  obj : List (Nat × LampObj)
  adj : List (Nat × AdjPair)
  bank : List (Nat × BankSt)
  matrix : MatrixSt
  /-- The 10 ms proof window of the last period boundary (R185). -/
  window : Nat
  deriving DecidableEq, Repr

/-! ### Caliper (R194 to R209) -/

/-- An accumulator or an entry register (R201, R206). -/
structure Acc where
  sum : Int
  count : Nat
  low : Int
  high : Int
  sat : Bool
  ovr : Bool
  deriving DecidableEq, Repr

/-- A turn-on check that Wedge has queued (R190): the pin, and the ISET and ONT it is checked against. -/
structure TurnOn where
  pin : Nat
  iset : Nat
  ont : Nat
  deriving DecidableEq, Repr

/-- A Caliper unit outside its registers. -/
structure CalUnit where
  /-- The table image in use, empty for none. -/
  table : List Byte
  acc : List (Nat × Acc)
  /-- Entry registers of sequence 0, sequence 1 and the urgent request. -/
  part : List (Nat × Acc)
  /-- Wedge's requests, the running one first, and the host's request (CAL_Un_URG), waiting or running. -/
  wq : List TurnOn
  host : Option Nat
  /-- The clock at the start of each sequence's loop, and when the buffer was enabled. -/
  loopAt : List (Nat × Nat)
  refAt : Nat
  deriving DecidableEq, Repr

/-! ### Wedge and the marking table (R212 to R248) -/

/-- A Wedge image as its sections spell it (R217 to R223): what the lanes hold of it. -/
structure Image where
  serial : Nat
  build : Nat
  startWait : Nat
  /-- TALLY words for OC, OFF, LOWCUR, ADJ and NODE. -/
  tally : List Nat
  /-- Group entries by group, aspect entries by 8 g + a; zero where not listed. -/
  groups : List (Nat × List Byte)
  aspects : List (Nat × List Byte)
  channels : List (List Byte)
  /-- Graph entries by 64 g + 8 c + r. -/
  graphs : List (Nat × Nat)
  /-- The columns whose bit is set, by row. -/
  conflict : List (Nat × List Nat)
  /-- PERIOD and ON of the patterns, in 10 ms. -/
  flash : List (Nat × Nat)
  pages : List (List Byte)
  deriving DecidableEq, Repr

/-- One copy in the image store, with the digest stored beside it (R225). -/
structure StoreCopy where
  bytes : List Byte
  digest : List Byte
  deriving DecidableEq, Repr

/-- A lane outside WDG_LANE (R214, R215): its isolations' times, newest first, and the cause of the last. -/
structure LaneSt where
  times : List Nat
  cause : Nat
  deriving DecidableEq, Repr

/-- A group's dynamic state (R228 to R237). -/
structure WGroup where
  /-- The granted aspect, none while dark. -/
  cur : Option Nat
  grantAt : Nat
  /-- Dwell timed since the grant, in 100 ms. -/
  dwelt : Nat
  /-- Flash phase and the clock at its start. -/
  flashOn : Bool
  phaseAt : Nat
  fb : Bool
  /-- 0 unclassified, 1 normal, 2 DEGRADED, 3 FAILED; classification has begun; enabled time so far and the clock it counts
  on from; chains that have yet to carry the enable (R231, R263). -/
  cls : Nat
  open_ : Bool
  onAcc : Nat
  onFrom : Nat
  awaiting : List Nat
  /-- Aspects left and still occupied, with the clock when they were left. -/
  left : List (Nat × Nat)
  /-- Blocked aspects with the clock when they were blocked. -/
  blocked : List (Nat × Nat)
  /-- Failure-policy causes in force (R234), and the objects of cause UNCMD. -/
  causes : List Nat
  uncmd : List Nat
  /-- Waiting for the first presentation (MODE START). -/
  start : Bool
  /-- The request held by a conflict: aspect, conflicting group and its aspect. -/
  held : Option (Nat × Nat × Nat)
  /-- The aspect it waits to enter, with DWELL or HELD. -/
  wait : Option Nat
  /-- The winning request: aspect, PRIO and rule. -/
  winner : Option (Nat × Nat × Nat)
  deriving DecidableEq, Repr

/-- Wedge. The image store is non-volatile. -/
structure WedgeState where
  store : List StoreCopy
  /-- An image that is being committed (R225), its item waiting. -/
  commit : Option (List Byte)
  image : Option Image
  group : List (Nat × WGroup)
  lane : List (Nat × LaneSt)
  /-- The clock at the entries into NONE. -/
  nones : List Nat
  /-- Objects and head outputs (112 + 16 × head + output) flagged lit when commanded dark at the last step. -/
  flagged : List Nat
  /-- The clock at the last presentation, and at the start of the wait for the first. -/
  presAt : Option Nat
  waitAt : Nat
  /-- START_WAIT has run out; a presentation has arrived that the next step handles; Wedge has started (R226). -/
  startLost : Bool
  arrived : Bool
  started : Bool
  deriving DecidableEq, Repr

/-- A rule between passes: the clock at the last pass with its trigger live, and its latch (R241). -/
structure RuleSt where
  last : Option Nat
  latched : Bool
  deriving DecidableEq, Repr

/-- The marking table. Its store is non-volatile. -/
structure MarkState where
  store : List StoreCopy
  /-- A table written to both copies that takes effect at the next pass. -/
  next : Option (List Byte)
  /-- The rules in force. -/
  rules : List (List Byte)
  rule : List (Nat × RuleSt)
  /-- Latch clears for the next pass: rules named, or all. -/
  clear : List Nat
  clearAll : Bool
  /-- When each host request bit was last set. -/
  hreqAt : List (Nat × Nat)
  /-- When HREQ_TTL last changed. -/
  ttlAt : Nat
  deriving DecidableEq, Repr

/-! ### Skyline (R249 to R271) -/

/-- A head (R257, R260, R261, R267). -/
structure SkyHead where
  status : Nat
  share : Nat
  /-- The share before it, which the next status reports on. -/
  prev : Nat
  since : Nat
  missing : Bool
  cause : Nat
  tally : Tally
  /-- Consecutive missing statuses. -/
  run : Nat
  /-- Outputs that count as lit at Wedge, and outputs flagged lit when commanded dark. -/
  lit : Nat
  uncmd : Nat
  /-- Outputs whose enable the last result reported on. -/
  judged : Nat
  trimmed : Bool
  deriving DecidableEq, Repr

/-- A chain outside its registers. -/
structure SkyChain where
  /-- Number of the exchange in progress or last; whether one is in progress, its start and its N; exchanges sent since
  STARTING. -/
  num : Nat
  open_ : Bool
  startAt : Nat
  heads : Nat
  sent : Nat
  /-- The chain was disabled during the exchange in progress. -/
  closing : Bool
  /-- The head to identify and since when; CMD 0b10 is due. -/
  ident : Option (Nat × Nat)
  fltClr : Bool
  /-- The working buffer of an armed or recording trace, and whether it records. -/
  trace : Option Nat
  recording : Bool
  /-- The line fault of the exchange in progress, 0 LINE_SHORT or 1 LINE_HIGH, and when LINE_SHORT turned the driver off. -/
  line : Option Nat
  cutAt : Option Nat
  /-- The fault of the last exchange (2 BREAK), and when the first of consecutive exchanges with a fault started. -/
  fault : Option Nat
  faultAt : Nat
  /-- The clock at the last result delivered to Wedge; Wedge holds the chain dark (R262). -/
  resultAt : Nat
  dark : Bool
  head : List (Nat × SkyHead)
  deriving DecidableEq, Repr

/-! ### Field I/O (R272 to R289) -/

/-- A field channel outside its registers. -/
structure FioChan where
  /-- Debounced input or read-back level as the field side reports it. -/
  level : Bool
  /-- The phase of a PULSE output and the clock at its start. -/
  phase : Bool
  phaseAt : Nat
  /-- Both transistors off by temperature, and since when. -/
  hot : Bool
  hotAt : Nat
  /-- In the safe state, frames have resumed since it was entered. -/
  resumed : Bool
  /-- The clock at the last valid frame from and to the field side. -/
  inAt : Nat
  outAt : Nat
  /-- Turned off by a reset frame until drive commands come again (R286). -/
  reset : Bool
  /-- Conditions that held since the last evaluation, bits OVL, OPEN, OTEMP, CONT. -/
  heldSince : Nat
  /-- The tally of each of the four. -/
  tally : List (Nat × Tally)
  deriving DecidableEq, Repr

/-- An object that nothing enables. -/
def LampObj.zero : LampObj :=
  ⟨false, 0, 0, 0, false, false, false, false, 0, false, false, false, false, 0, 0, 0, 0, false, false, false, false, 0, 0,
   Tally.zero, Tally.zero, Tally.zero⟩
/-- A pair never tested. -/
def AdjPair.zero : AdjPair := ⟨Tally.zero, none⟩
/-- A bank right after reset. -/
def BankSt.zero : BankSt := ⟨0, 0, none, false, none, false, 0, none, 0, 0, [], [], [], false, 0⟩
/-- A dark pixel. -/
def Pixel.zero : Pixel := ⟨0, 0⟩
/-- The matrix right after reset. -/
def MatrixSt.zero : MatrixSt := ⟨[], [], 0, 16, false, 0, [], none, [], [], [], 0⟩
/-- Blaze right after reset. -/
def LampState.zero : LampState := ⟨[], [], [], MatrixSt.zero, 0⟩
/-- An empty accumulator (R206). -/
def Acc.zero : Acc := ⟨0, 0, 0x7FFFFF, -0x800000, false, false⟩
/-- A Caliper unit right after reset. -/
def CalUnit.zero : CalUnit := ⟨[], [], [], [], none, [], 0⟩
/-- A copy that holds nothing. -/
def StoreCopy.zero : StoreCopy := ⟨[], []⟩
/-- A lane never isolated. -/
def LaneSt.zero : LaneSt := ⟨[], 0⟩
/-- A group that shows nothing. -/
def WGroup.zero : WGroup := ⟨none, 0, 0, true, 0, false, 0, false, 0, 0, [], [], [], [], [], false, none, none, none⟩
/-- Wedge of a new unit. -/
def WedgeState.zero : WedgeState := ⟨[], none, none, [], [], [], [], none, 0, false, false, false⟩
/-- A rule that has never been live. -/
def RuleSt.zero : RuleSt := ⟨none, false⟩
/-- The marking table of a new unit. -/
def MarkState.zero : MarkState := ⟨[], none, [], [], [], false, [], 0⟩
/-- A head never heard of. -/
def SkyHead.zero : SkyHead := ⟨0, 0, 0, 0, false, 0, Tally.zero, 0, 0, 0, 0, false⟩
/-- A chain that is OFF. -/
def SkyChain.zero : SkyChain := ⟨0, false, 0, 0, 0, false, none, false, none, false, none, none, none, 0, 0, false, []⟩
/-- A channel that is OFF. -/
def FioChan.zero : FioChan := ⟨false, false, 0, false, 0, false, 0, 0, false, 0, []⟩


/-! ### Clocks, the timebase, starts and the self-test (R365 to R407) -/

/-- The clocks outside CLK_STAT and CLK_Dd. -/
structure ClockState where
  /-- The crystal monitor has tripped since the reset (R365). -/
  tripped : Bool
  /-- Both ports are in NO_SOURCE for a lock loss until domains 0 and 1 run again (R371). -/
  down : Bool
  /-- The fabric domain switches to WARM, and since when its silent source has been asked to stop (R370). -/
  toWarm : Bool
  request : Option Nat
  /-- The clock at the last retry of a held start (R370). -/
  retryAt : Nat
  /-- The point whose supply is set and the point whose division runs; the step that the sequencer is in: 0 none, 1 the supply,
  2 the division; and the point it leads to (R373). -/
  oppSupply : Nat
  oppDiv : Nat
  oppStep : Nat
  oppNext : Nat
  deriving DecidableEq, Repr

/-- The discipline of the timebase (R383 to R386). -/
structure TimebaseState where
  /-- The part of the next nanosecond already counted, in 10^−9 ns. -/
  frac : Nat
  /-- Consecutive offsets within ±1 µs. -/
  run : Nat
  /-- The clock at the last PPSIN edge or Sync message, or at the choice of the source. -/
  refAt : Nat
  /-- The PTP master accepted; the path delay measured; t2 − t1 of its last Sync; a two-step Sync that awaits its Follow_Up
  (sequence, t2). -/
  master : Option Nat
  delay : Option Int
  diff : Option Int
  await_ : Option (Nat × Nat)
  /-- Sequence of the next Delay_Req; the last one sent with its t3; when it was sent. -/
  reqSeq : Nat
  req : Option (Nat × Nat)
  reqAt : Nat
  deriving DecidableEq, Repr

/-- The signal part of a start set: registers by address, the Caliper tables by unit (R378). -/
structure SignalPart where
  regs : List (Nat × Nat)
  tables : List (Nat × List Byte)
  deriving DecidableEq, Repr

/-- The sensing part of a start set: registers, and the entries of each table by its ID (R302, R378). -/
structure SensingPart where
  regs : List (Nat × Nat)
  tables : List (Nat × List (Nat × List Byte))
  deriving DecidableEq, Repr

/-- Starts, resets and the life-cycle outside their registers. -/
structure StartState where
  /-- The start set, non-volatile: the signal part, and the sensing part in Landing. -/
  signal : Option SignalPart
  sensing : Option SensingPart
  /-- A save in progress (R378). -/
  saving : Option (SignalPart × SensingPart)
  /-- The signal part has been restored in this start, the sensing part, and its enables (R379). -/
  signalDone : Bool
  sensingDone : Bool
  enableDone : Bool
  /-- The clock when a life-cycle change was armed (R381). -/
  armedAt : Nat
  /-- A reset that has been requested: its cause, and the state a life-cycle change leads to (R376, R381). -/
  resetDue : Option (Nat × Option Nat)
  /-- Held in reset after an orderly shutdown (R377). -/
  held : Bool
  /-- Seconds the unit has been unpowered since the newest SHUTDOWN record, by the retention timer (R380). Non-volatile. -/
  unpowered : Nat
  deriving DecidableEq, Repr

/-- A self-test that runs, or start checks (R390 to R392, R399). -/
structure SstRun where
  /-- 1 SHUTDOWN, 2 START. -/
  kind : Nat
  /-- The clock at the start of the test and of the step. -/
  startAt : Nat
  stepAt : Nat
  /-- The step, 15 once the last has ended; its partitions not yet started; those running; since when none of it has been
  running (for INTERLOCK, since when it has been engaged). -/
  step : Nat
  todo : List Nat
  parts : List Nat
  waitAt : Nat
  /-- What the step has come to so far: partitions run, faults, soft and permanent repairs, its worst result, the first failing
  partition with the object's index. -/
  ran : Nat
  faults : Nat
  soft : Nat
  fused : Nat
  worst : Nat
  detail : Option (Nat × Nat)
  /-- The signature and the coverage of the step so far. -/
  sig : Nat
  coverage : Nat
  /-- Elements repaired in this test: soft ones, and those of the signal die (R397). -/
  found : List Nat
  signalDie : List Nat
  deriving DecidableEq, Repr

/-- The self-test outside its registers. Records, repairs and lane results are non-volatile. -/
structure SstState where
  /-- The result records, newest first, 608 bytes each, and the number of the last (R399). -/
  records : List (List Byte)
  serial : Nat
  run : Option SstRun
  /-- A SHUTDOWN write waits for a commit or a save (R389). -/
  due : Bool
  /-- The repair table: elements repaired softly; those that the previous shutdown test repaired (R397). -/
  repairs : List Nat
  previous : List Nat
  /-- Lanes that start the next time OUT (R398). -/
  lanesOut : List Nat
  deriving DecidableEq, Repr

/-- The clocks right after reset: Kerf at OP0. -/
def ClockState.zero : ClockState := ⟨false, false, false, none, 0, 0, 0, 0, 0⟩
/-- The discipline right after reset. -/
def TimebaseState.zero : TimebaseState := ⟨0, 0, 0, none, none, none, none, 0, none, 0⟩
/-- No start set, nothing restored. -/
def StartState.zero : StartState := ⟨none, none, none, false, false, false, 0, none, false, 0⟩
/-- A self-test about to enter a step. -/
def SstRun.zero : SstRun := ⟨1, 0, 0, 0, [], [], 0, 0, 0, 0, 0, 1, none, 0, 0, [], []⟩
/-- No records. -/
def SstState.zero : SstState := ⟨[], 0, none, false, [], [], []⟩


/-! ### The whole state -/

/-- The state of the TJ120. -/
structure State where
  /-- The commands that wait, first in, first out. -/
  pending : List Instr
  /-- The register file: word by BAR0 byte address, where it differs from its reset value (R4 to R6, R292). -/
  regs : List (Nat × Word)
  /-- The timebase of R11. -/
  now : BitVec 64
  /-- Nanoseconds since the unit was first powered: the model's clock for time limits, never stepped or stopped. -/
  elapsed : Nat
  /-- The model's own counter of the free values taken (log entry 4). -/
  freeCount : Nat
  /-- What the block has put out, newest first. -/
  out : List Output
  /-- The number of the next event record (R146). -/
  seq : Nat
  /-- The host interface. -/
  hif : HifState
  /-- Flume and Chipper. -/
  flume : FlumeState
  /-- Deck. -/
  deck : DeckState
  /-- Landing. -/
  landing : LandingState
  /-- Event records presented to the marking table since its last pass, oldest first (R243). -/
  presented : List EventRec
  /-- The profile buffer of each port, as its profile record (R98, R99, R304). -/
  profileBuf : List (Nat × List Byte)
  /-- Fibre ports by number. -/
  probe : List (Nat × ProbePort)
  /-- Loop ownership. -/
  loop : LoopState
  /-- Kerf by port. -/
  kerf : List (Nat × KerfPort)
  /-- Scaler by port. -/
  scaler : List (Nat × SclPort)
  /-- The compensation table (R96). -/
  comp : List (Nat × List Byte)
  /-- The baseline, non-volatile: port A's points, then port B's (R94, R95). -/
  baseline : List (Nat × List Byte)
  /-- Bucking. -/
  bkg : BkgState
  /-- Cruiser. -/
  cru : CruState
  /-- A return to laser A is under way (R37). -/
  returning : Bool
  /-- The model's clock when RETURN_PENDING became 1 (R37). -/
  returnAt : Nat
  /-- Blaze and the lamps. -/
  lamp : LampState
  /-- Caliper units. -/
  cal : List (Nat × CalUnit)
  /-- Wedge and its image store. -/
  wedge : WedgeState
  /-- The marking table and its store. -/
  mark : MarkState
  /-- Skyline chains. -/
  sky : List (Nat × SkyChain)
  /-- Field channels. -/
  fio : List (Nat × FioChan)
  /-- Clocks. -/
  clk : ClockState
  /-- The discipline of the timebase. -/
  tb : TimebaseState
  /-- Starts, resets and the life-cycle. -/
  start : StartState
  /-- The self-test. -/
  sst : SstState
  /-- The model's clock when the laser with source duty last failed (R33, R74). -/
  failedAt : Option Nat
  /-- The model's clock at the last power-good or reset (R380). -/
  powerAt : Nat
  /-- A slot record has been delivered since then (R380). -/
  firstSlot : Bool
  /-- The START record of this start has been posted (R387). -/
  startPosted : Bool
  deriving DecidableEq, Repr

/-- The machine right after reset: every register at its reset value, every store and queue empty (R376, log
entries 3 and 5). -/
def State.reset : State where
  pending := []
  regs := []
  now := 0
  elapsed := 0
  freeCount := 0
  out := []
  seq := 0
  hif := HifState.zero
  flume := FlumeState.zero
  deck := DeckState.zero
  landing := LandingState.zero
  presented := []
  profileBuf := []
  probe := []
  loop := LoopState.zero
  kerf := []
  scaler := []
  comp := []
  baseline := []
  bkg := BkgState.zero
  cru := CruState.zero
  returning := false
  returnAt := 0
  lamp := LampState.zero
  cal := []
  wedge := WedgeState.zero
  mark := MarkState.zero
  sky := []
  fio := []
  clk := ClockState.zero
  tb := TimebaseState.zero
  start := StartState.zero
  sst := SstState.zero
  failedAt := none
  powerAt := 0
  firstSlot := false
  startPosted := false

end Sys2Proof.Machine
end

