-- ==== Sys2Proof/Machine/Ops.lean ====
section
/-! DEFINITION. The named operations over the register file, the outputs, the clock and the free values, which every
meaning is written with. -/

namespace Sys2Proof.Machine

/-! ### The register file (R3, R6) -/

/-- The value of the register at a BAR0 byte address. -/
def State.read (s : State) (addr : Nat) : Word := sget resetVal s.regs addr

/-- The state with the register at an address set. -/
def State.write (s : State) (addr : Nat) (w : Word) : State := { s with regs := sput resetVal s.regs addr w }

/-- The number that a field of a register holds. -/
def State.get (s : State) (f : Field) : Nat := bits (s.read f.addr).toNat f.hi f.lo

/-- A word with a field set to the low bits of `v`. -/
def setBits (w : Word) (f : Field) (v : Nat) : Word :=
  BitVec.ofNat 32 (w.toNat - bits w.toNat f.hi f.lo * 2 ^ f.lo + v % 2 ^ f.width * 2 ^ f.lo)

/-- The state with a field of a register set to the low bits of `v`. -/
def State.set (s : State) (f : Field) (v : Nat) : State := s.write f.addr (setBits (s.read f.addr) f v)

/-- Whether a single-bit field reads 1. -/
def State.flag (s : State) (f : Field) : Bool := s.get f == 1

/-- The state with a single-bit field set to a truth value. -/
def State.setFlag (s : State) (f : Field) (b : Bool) : State := s.set f (b2n b)

/-- A saturating count field increased by `n` (R8 and the count fields of every block). -/
def State.count (s : State) (f : Field) (n : Nat) : State := s.set f (satTo f.max (s.get f + n))

/-- A saturating count field increased by one. -/
def State.bump (s : State) (f : Field) : State := s.count f 1

/-- Fields set to zero, one after another (the count clears). -/
def State.clearAll (s : State) (fs : List Field) : State := fs.foldl (fun s f => s.set f 0) s

/-! ### Outputs, time and free values -/

/-- The state with one more output. -/
def State.emit (s : State) (o : Output) : State := { s with out := o :: s.out }

/-- The timebase as a number of nanoseconds (R11). -/
def State.tai (s : State) : Nat := s.now.toNat

/-- The free value of the next use, below `2 ^ w` (log entry 4). -/
def State.freeVal (s : State) (w : Nat) : Nat := Config.freeValue s.freeCount % 2 ^ w

/-- The state after a use of a free value. -/
def State.tookFree (s : State) : State := { s with freeCount := s.freeCount + 1 }

/-- An ignored BAR0 write is counted once (R8). -/
def State.wrErr (s : State) : State := s.bump F.GEN_WRERR_CNT.COUNT

/-- The life-cycle state's code (Life-cycle states, R381). -/
def State.lc (s : State) : Nat := s.get F.GEN_LC_STAT.STATE

/-- FACTORY, PROVISIONED or MAINTENANCE: the states in which configuration of the signal plane is accepted (R158). -/
def State.cfgOpen (s : State) : Bool := s.lc == 0 || s.lc == 1 || s.lc == 3

/-- A step of a list of actions, in order. -/
def State.each {α : Type} (s : State) (l : List α) (f : State → α → State) : State := l.foldl f s

/-! ### Roundings that the spec leaves open (log entry 8) -/

/-- A quotient rounded to a neighbouring integer, the spec saying nothing of which. -/
def roundOpen (n : Int) (d : Nat) : Int := n / d + b2n (decide (n % d ≠ 0) && Config.roundUp n d)

/-- The nearest integer to a quotient; which neighbour a tie takes is left open. -/
def nearestOpen (n : Int) (d : Nat) : Int :=
  let r := n % d
  if 2 * r < d then n / d
  else if 2 * r = d then n / d + b2n (Config.roundUp n d)
  else n / d + 1

/-! ### Times of the fibre (R40) -/

/-- τ in ns as a quotient: 1.468 / 299,792,458 s (R40). -/
def tauNum : Nat := 1468000000
/-- The divisor of τ. -/
def tauDen : Nat := 299792458

/-- The least integer not below a quotient. -/
def ceilDiv (n d : Nat) : Nat := (n + d - 1) / d

end Sys2Proof.Machine
end

