-- ==== Sys2Proof/Machine/Flags.lean ====
section
/-! DEFINITION. Tally windows (R25 to R28): the one computation that tells a transient condition from a lasting
one, wherever it is used. -/

namespace Sys2Proof.Machine

/-- W of a TALLY word (R25). -/
def tallyW (word : Nat) : Nat := bits word 5 0 + 1

/-- K of a TALLY word (R25). -/
def tallyK (word : Nat) : Nat := bits word 11 6 + 1

/-- MISS of a TALLY word (R25). -/
def tallyMiss (word : Nat) : Bool := bit word 12

/-- A TALLY word that R25 does not reserve: reserved bits zero and K at most W. -/
def tallyOk (word : Nat) : Bool := bits word 15 13 == 0 && decide (tallyK word ≤ tallyW word)

/-- C: the number of exceeding evaluations among the last W (R26). -/
def tallyC (word : Nat) (hist : BitVec 64) : Nat :=
  (List.range (tallyW word)).countP fun i => hist.getLsbD i

/-- What an evaluation did to the lasting state (R26). -/
inductive TallyEdge where
  | none
  | began
  | ended
  deriving DecidableEq, Repr

/-- One evaluation entered into an instance (R26, R27): `made` is the result, or none where the evaluation could not be
made; a lamp or pin fault (`always`) records a missed evaluation as exceeding whatever MISS says. -/
def Tally.eval (t : Tally) (word : Nat) (made : Option Bool) (always : Bool := false) : Tally × TallyEdge :=
  let exceeds := match made with
    | some e => e
    | none => always || tallyMiss word
  let hist := (t.hist <<< 1) ||| (if exceeds then 1 else 0)
  let lasting := decide (tallyK word ≤ tallyC word hist)
  let transient := if made = some true ∧ lasting = false then satTo 0xFFFF (t.transient + 1) else t.transient
  let missed := if made = none then satTo 0xFFFF (t.missed + 1) else t.missed
  let edge := if lasting && !t.lasting then TallyEdge.began else if !lasting && t.lasting then .ended else .none
  (⟨hist, lasting, transient, missed⟩, edge)

/-- A write of the TALLY word or a reload of its entry: history and lasting state go, counts stay (R28). -/
def Tally.restart (t : Tally) : Tally := { t with hist := 0, lasting := false }

/-- The counts of an instance cleared by its chapter's count clear (R28). -/
def Tally.clearCounts (t : Tally) : Tally := { t with transient := 0, missed := 0 }

end Sys2Proof.Machine
end

