-- ==== Sys2Proof/Machine/Rings.lean ====
section
/-! DEFINITION. The rings of the host interface as data in host memory: ring registers, entries, write-backs, MSI-X
messages, and the event rings with their gaps (R294 to R297, R311, R312, R314). -/

namespace Sys2Proof.Machine

/-! ### Ring registers -/

/-- Base of a ring's registers in BAR0 (HIF registers). -/
def ringBase (k : RingKind) (n : Nat) : Nat :=
  match k with
  | .cmd => R.HIF_CMDn_BASE_LO n
  | .cpl => R.HIF_CPLn_BASE_LO n
  | .evr => R.HIF_EVRn_BASE_LO n
  | .cap => R.HIF_CAPn_BASE_LO n

/-- EN of a ring's CFG register. -/
def ringEn (k : RingKind) (n : Nat) : Field := ⟨ringBase k n + 0x10, 0, 0⟩
/-- SIZE_LOG2 of a ring's CFG register. -/
def ringSizeLog (k : RingKind) (n : Nat) : Field := ⟨ringBase k n + 0x10, 5, 1⟩
/-- The producer count of a ring. -/
def ringProd (k : RingKind) (n : Nat) : Field := ⟨ringBase k n + 0x14, 31, 0⟩
/-- The consumer count of a ring. -/
def ringCons (k : RingKind) (n : Nat) : Field := ⟨ringBase k n + 0x18, 31, 0⟩
/-- STATE of a ring. -/
def ringState (k : RingKind) (n : Nat) : Field := ⟨ringBase k n + 0x1C, 1, 0⟩
/-- ITEMS of a ring. -/
def ringItems (k : RingKind) (n : Nat) : Field := ⟨ringBase k n + 0x1C, 18, 2⟩

/-- SIZE of a ring in entries (R296). -/
def ringSize (s : State) (k : RingKind) (n : Nat) : Nat := 2 ^ s.get (ringSizeLog k n)

/-- The base address of a ring in host memory (R296). -/
def ringAddr (s : State) (k : RingKind) (n : Nat) : Nat :=
  (s.read (ringBase k n)).toNat / 4096 * 4096 + 2 ^ 32 * (s.read (ringBase k n + 4)).toNat

/-- The write-back address of a ring (R296). -/
def ringWb (s : State) (k : RingKind) (n : Nat) : Nat :=
  (s.read (ringBase k n + 8)).toNat / 8 * 8 + 2 ^ 32 * (s.read (ringBase k n + 12)).toNat

/-- Entry size of a ring kind (Ring kinds). -/
def entryBytes : RingKind → Nat
  | .cmd | .cap => 64
  | .cpl | .evr => 32

/-- `a − b` modulo 2^32 (R295). -/
def sub32 (a b : Nat) : Nat := (a + 2 ^ 32 - b % 2 ^ 32) % 2 ^ 32

/-- Entries written and not yet consumed. -/
def ringUsed (s : State) (k : RingKind) (n : Nat) : Nat := sub32 (s.get (ringProd k n)) (s.get (ringCons k n))

/-! ### Messages -/

/-- An MSI-X message of a vector, or its pending bit while the vector is masked or the function may not write
(R314, log entry 7). -/
def State.msix (s : State) (v : Nat) : State :=
  if s.flag (F.HIF_MSIX_CTL.MASK v) || !s.flag F.HIF_STAT.BME then
    s.set F.HIF_MSIX_PBA.PENDING (s.get F.HIF_MSIX_PBA.PENDING ||| 2 ^ v)
  else s.emit (.msix v)

/-- A vector whose mask bit is cleared sends its pending message (R314, log entry 7). -/
def State.msixUnmask (s : State) (v : Nat) : State :=
  if bit (s.get F.HIF_MSIX_PBA.PENDING) v && !s.flag (F.HIF_MSIX_CTL.MASK v) && s.flag F.HIF_STAT.BME then
    (s.set F.HIF_MSIX_PBA.PENDING (s.get F.HIF_MSIX_PBA.PENDING - 2 ^ v)).emit (.msix v)
  else s

/-- An HIF_EVT bit is set, and signals ERR_VEC while ERR_INT = 1 (R314). -/
def State.hifEvt (s : State) (f : Field) : State :=
  let s := s.set f 1
  if s.flag F.HIF_CTL.ERR_INT then s.msix (s.get F.HIF_CTL.ERR_VEC) else s

/-! ### Writing an entry (R296) -/

/-- One entry of a completion or event ring is written, PROD advances, and the write-back follows. -/
def writeEntry (s : State) (k : RingKind) (n : Nat) (bytes : List Byte) : State :=
  let p := s.get (ringProd k n)
  let s := s.emit (.hostWrite (ringAddr s k n + entryBytes k * (p % ringSize s k n)) bytes)
  let s := s.set (ringProd k n) (p + 1)
  s.emit (.hostWrite (ringWb s k n) (leBytes 4 (p + 1)))

/-- The interrupt rule of R314 after an entry: entries since the last message, when the first was written; answers the
new pair and whether the message is sent. -/
def interruptDue (cnt dly since firstAt now : Nat) : Nat × Nat × Bool :=
  let first := if since = 0 then now else firstAt
  if cnt = 0 then (since + 1, first, false)
  else if decide (cnt ≤ since + 1) || decide (first + dly * 4000 ≤ now) then (0, now, true)
  else (since + 1, first, false)

/-- The completion ring's record. -/
def State.cplRing (s : State) (n : Nat) : CplRing := sget (fun _ => CplRing.zero) s.hif.cpl n
/-- The state with a completion ring's record set. -/
def State.setCplRing (s : State) (n : Nat) (r : CplRing) : State :=
  { s with hif := { s.hif with cpl := sput (fun _ => CplRing.zero) s.hif.cpl n r } }
/-- The event ring's record. -/
def State.evrRing (s : State) (n : Nat) : EvrRing := sget (fun _ => EvrRing.zero) s.hif.evr n
/-- The state with an event ring's record set. -/
def State.setEvrRing (s : State) (n : Nat) (r : EvrRing) : State :=
  { s with hif := { s.hif with evr := sput (fun _ => EvrRing.zero) s.hif.evr n r } }

/-- The message rule of a completion ring after an entry (R314). -/
def cplInterrupt (s : State) (n : Nat) : State :=
  let r := s.cplRing n
  let d := interruptDue (s.get (F.HIF_CPLn_CFG2.INT_CNT n)) (s.get (F.HIF_CPLn_CFG2.INT_DLY n)) r.since r.firstAt s.elapsed
  let s := s.setCplRing n { r with since := d.1, firstAt := d.2.1 }
  if d.2.2 then s.msix (s.get (F.HIF_CPLn_CFG.VEC n)) else s

/-- The message rule of an event ring after an entry (R314). -/
def evrInterrupt (s : State) (n : Nat) : State :=
  let r := s.evrRing n
  let d := interruptDue (s.get (F.HIF_EVRn_CFG2.INT_CNT n)) (s.get (F.HIF_EVRn_CFG2.INT_DLY n)) r.since r.firstAt s.elapsed
  let s := s.setEvrRing n { r with since := d.1, firstAt := d.2.1 }
  if d.2.2 then s.msix (s.get (F.HIF_EVRn_CFG.VEC n)) else s

/-! ### Event rings -/

/-- An event record as its 32 bytes (R146). -/
def EventRec.bytes (r : EventRec) : List Byte :=
  [0x34, BitVec.ofNat 8 r.cls, BitVec.ofNat 8 (b2n r.state + 2 * b2n r.port + 4 * b2n r.loop), 0]
    ++ leBytes 4 r.seq ++ leBytes 8 r.time ++ slice r.payload 0 16

/-- A lost record entered into a gap, the classes kept in ascending order (R312). -/
def gapAdd : List GapClass → Nat → Nat → List GapClass
  | [], c, q => [⟨c, q, q, 1⟩]
  | g :: t, c, q =>
    if c < g.cls then ⟨c, q, q, 1⟩ :: g :: t
    else if c = g.cls then { g with last := q, count := g.count + 1 } :: t
    else g :: gapAdd t c q

/-- A record lost to one event ring: counted, and entered into the ring's gap (R311). -/
def evrLose (s : State) (n : Nat) (r : EventRec) : State :=
  let e := s.evrRing n
  let s := s.bump (F.HIF_EVRn_CNT.LOST n)
  let s := s.setEvrRing n { e with gap := gapAdd e.gap r.cls r.seq, lastLost := r.seq }
  s.hifEvt F.HIF_EVT.LOSS

/-- The eighth LOSS record of a gap of more than eight classes: all remaining classes (R312). -/
def gapRest : List GapClass → GapClass
  | [] => ⟨0, 0, 0, 0⟩
  | g :: t =>
    let r := gapRest t
    if r.count = 0 then ⟨0, g.first, g.last, g.count⟩
    else ⟨0, min g.first r.first, max g.last r.last, g.count + r.count⟩

/-- The classes of a loss report, at most eight (R312). -/
def gapReport (g : List GapClass) : List GapClass :=
  if g.length ≤ 8 then g else g.take 7 ++ [gapRest (g.drop 7)]

/-- The payload of one LOSS record (R312). -/
def lossPayload (g : GapClass) (nrec idx : Nat) : List Byte :=
  leBytes 4 g.first ++ leBytes 4 g.last ++ leBytes 4 g.count
    ++ [BitVec.ofNat 8 g.cls, BitVec.ofNat 8 nrec, BitVec.ofNat 8 idx, 0]

/-- The entries of an event ring that are free. -/
def evrFree (s : State) (n : Nat) : Nat := ringSize s .evr n - ringUsed s .evr n

/-- Whether an event ring can be written: enabled, not HOLDING, and DMA allowed (R311, R315). -/
def evrOpen (s : State) (n : Nat) : Bool :=
  s.flag (ringEn .evr n) && s.get (ringState .evr n) != 3 && s.flag F.HIF_STAT.BME

/-- STATE of an event ring follows its room: 10 while full (R317). -/
def evrRefresh (s : State) (n : Nat) : State :=
  if s.get (ringState .evr n) = 3 then s
  else if s.flag (ringEn .evr n) then s.set (ringState .evr n) (if evrFree s n = 0 then 2 else 1)
  else s.set (ringState .evr n) 0

/-- A record written to an event ring, with its message rule. -/
def evrWrite (s : State) (n : Nat) (r : EventRec) : State :=
  let s := evrRefresh (evrInterrupt (writeEntry s .evr n r.bytes) n) n
  s.setEvrRing n { s.evrRing n with last := some r }

/-- The loss report of a ring's gap, written when the ring has room for all of it (R312). -/
def lossReport (s : State) (n : Nat) : State :=
  let e := s.evrRing n
  let rep := gapReport e.gap
  if rep.isEmpty || !evrOpen s n || decide (evrFree s n < rep.length) then s
  else
    let s := s.setEvrRing n { e with gap := [], lastLost := 0 }
    (List.range rep.length).foldl (fun s i =>
      let g := rep.getD i ⟨0, 0, 0, 0⟩
      let r : EventRec := ⟨0x90, true, false, false, e.lastLost, s.tai, lossPayload g rep.length i⟩
      evrWrite (s.emit (.event r)) n r) s

/-- A posted record offered to one event ring (R311). -/
def evrOffer (s : State) (r : EventRec) (n : Nat) : State :=
  let e := s.evrRing n
  let mask := if s.flag (ringEn .evr n) then s.get (F.HIF_EVRn_CFG2.MASK n) else e.lostMask
  if !bit mask (r.cls / 16) then s
  else if !evrOpen s n then evrLose s n r
  else
    let s := lossReport s n
    if (s.evrRing n).gap.isEmpty && decide (0 < evrFree s n) then evrWrite s n r
    else evrLose s n r

end Sys2Proof.Machine
end

