-- ==== Sys2Proof/Machine/FlumeQueue.lean ====
section
/-! DEFINITION. The Flume streams as queues of records: the stream table, markers, thinning, drops, compression on the
way in, and the start of a stream (R324 to R330). -/

namespace Sys2Proof.Machine

/-- What a record tells the event rings once it is posted (R146 without its number and time). -/
structure EventReq where
  cls : Nat
  state : Bool
  port : Bool
  loop : Bool
  /-- TIME where the class states one; none is the posting time. -/
  time : Option Nat
  payload : List Byte
  deriving DecidableEq, Repr

/-- A record of a class with its STATE and payload, at the posting time, of no port. -/
def evReq (cls : Nat) (state : Bool) (payload : List Byte) : EventReq := ⟨cls, state, false, false, none, payload⟩

/-! ### The stream table (R324) -/

/-- A stream's entry in effect. -/
def State.streamEntry (s : State) (n : Nat) : List Byte := sget (fun _ => zeroEntry 64) s.flume.table n
/-- EN. -/
def seEn (e : List Byte) : Bool := bit (le e 0 1) 0
/-- IPV6. -/
def seV6 (e : List Byte) : Bool := bit (le e 0 1) 1
/-- VLAN. -/
def seVlan (e : List Byte) : Bool := bit (le e 0 1) 2
/-- CHIP. -/
def seChip (e : List Byte) : Bool := bit (le e 0 1) 3
/-- PORT, 0 or 1. -/
def sePort (e : List Byte) : Nat := bits (le e 0 1) 4 4
/-- SRC. -/
def seSrc (e : List Byte) : Nat := bits (le e 0 1) 7 5
/-- SRC_INDEX. -/
def seIndex (e : List Byte) : Nat := le e 1 1
/-- PRIO. -/
def sePrio (e : List Byte) : Nat := bits (le e 2 1) 3 0
/-- THIN_MAX. -/
def seThinMax (e : List Byte) : Nat := bits (le e 2 1) 6 4
/-- CTX. -/
def seCtx (e : List Byte) : Nat := bits (le e 3 1) 1 0
/-- DSCP. -/
def seDscp (e : List Byte) : Nat := bits (le e 3 1) 7 2
/-- VID. -/
def seVid (e : List Byte) : Nat := bits (le e 4 2) 11 0
/-- PCP; an untagged stream counts as priority 0 (R320). -/
def sePcp (e : List Byte) : Nat := if seVlan e then bits (le e 4 2) 14 12 else 0
/-- FLUSH_MS. -/
def seFlush (e : List Byte) : Nat := le e 6 2
/-- MASK. -/
def seMask (e : List Byte) : Nat := le e 32 2

/-! ### Streams, queues and fill (R327) -/

/-- A stream's record. -/
def State.fstream (s : State) (n : Nat) : FStream := sget (fun _ => FStream.zero) s.flume.streams n

/-- Bytes a stream holds in the Flume buffer. -/
def FStream.held (q : FStream) : Nat := (q.queue.map (·.bytes.length)).sum + q.raw.length

/-- Bytes queued on a port, by the entries in effect. -/
def portBytes (s : State) (p : Nat) : Nat :=
  ((List.range 16).map fun n => if sePort (s.streamEntry n) = p then (s.fstream n).held else 0).sum

/-- Q_p: half of the Flume buffer (R327, R343). -/
def queueSize (s : State) : Nat := s.get F.DCK_STAT.FLUME_ACT * 2 ^ 28 / 2

/-- F_p in % of Q_p, as FLM_Pp_STAT.FILL shows it (R327). -/
def fillPct (s : State) (p : Nat) : Nat := satTo 100 (portBytes s p * 100 / queueSize s)

/-- The state with a stream's record set and the fill of both ports brought up to date. -/
def State.setFstream (s : State) (n : Nat) (q : FStream) : State :=
  let s := { s with flume := { s.flume with streams := sput (fun _ => FStream.zero) s.flume.streams n q } }
  (s.set (F.FLM_Pp_STAT.FILL 0) (fillPct s 0)).set (F.FLM_Pp_STAT.FILL 1) (fillPct s 1)

/-- Whether `n` more bytes fit in a port's queue, its marker reserve of 1 MiB left alone (R327). -/
def queueRoom (s : State) (p n : Nat) : Bool := decide (portBytes s p + n + 2 ^ 20 ≤ queueSize s)

/-- A stream marker (R330). -/
def marker (kind t count time index index2 : Nat) : List Byte :=
  [0x35, BitVec.ofNat 8 kind, BitVec.ofNat 8 t, 0] ++ leBytes 4 count ++ leBytes 8 time ++ leBytes 8 index
    ++ leBytes 8 index2

/-! ### Compression on the way in (R326, R332) -/

/-- A Chipper context. -/
def State.chipCtx (s : State) (k : Nat) : ChipCtx := sget (fun _ => ChipCtx.zero) s.flume.ctx k
/-- The state with a Chipper context set. -/
def State.setChipCtx (s : State) (k : Nat) (c : ChipCtx) : State :=
  { s with flume := { s.flume with ctx := sput (fun _ => ChipCtx.zero) s.flume.ctx k c } }
/-- MODE of a context in CHP_STAT (R341). -/
def chipMode (k : Nat) : Field := ⟨R.CHP_STAT, 9 + 2 * k, 8 + 2 * k⟩

/-- The open block of a compressed stream is closed: encoded through its context and queued (R326). -/
def closeBlock (s : State) (n : Nat) : State :=
  let e := s.streamEntry n
  let q := s.fstream n
  let c := s.chipCtx (seCtx e)
  let first := decide (16 ≤ q.sinceFirst)
  match encodeBlock c.history q.raw first false (16 + q.raw.length) with
  | none => s
  | some b =>
    let s := s.setChipCtx (seCtx e) { ChipCtx.zero with history := trimHistory ((if first then [] else c.history) ++ q.raw) }
    let s := s.set (chipMode (seCtx e)) 1
    let s := if b.stored then s.bump F.CHP_STORED_CNT.BLOCKS else s
    s.setFstream n { q with raw := [], sinceFirst := if first then 1 else q.sinceFirst + 1,
                            queue := q.queue ++ [⟨b.bytes, false, 0, false, q.firstAt⟩] }

/-- Bytes put into a stream, raw or through its compressor; a block closes at 65,536 raw bytes (R322, R326). The first
argument bounds the number of blocks. -/
def pushBytes : Nat → State → Nat → List Byte → Nat → Bool → State
  | 0, s, _, _, _, _ => s
  | fuel + 1, s, n, bytes, index, mk =>
    let q := s.fstream n
    let q := if q.raw.isEmpty then { q with firstAt := s.elapsed } else q
    if seChip (s.streamEntry n) then
      let room := 65536 - q.raw.length
      let s := s.setFstream n { q with raw := q.raw ++ bytes.take room }
      if room ≤ bytes.length then pushBytes fuel (closeBlock s n) n (bytes.drop room) index mk else s
    else s.setFstream n { q with queue := q.queue ++ [⟨bytes, false, index, mk, s.elapsed⟩] }

/-- A record's bytes put into a stream. -/
def pushRecord (s : State) (n : Nat) (bytes : List Byte) (index : Nat) (mk : Bool) : State :=
  pushBytes (bytes.length / 65536 + 2) s n bytes index mk

/-- A thin or drop marker: queued in the reserve, and the next block of a compressed stream is FIRST (R326, R327). -/
def pushMarker (s : State) (n : Nat) (bytes : List Byte) (fresh : Bool) : State :=
  let s := pushRecord s n bytes 0 true
  if fresh && seChip (s.streamEntry n) then
    let s := closeBlock s n
    s.setFstream n { s.fstream n with sinceFirst := 16 }
  else s

/-! ### Starts, thinning and drops -/

/-- FLM_Sn_STAT follows the entry in effect (R341). -/
def streamStat (s : State) (n : Nat) : State :=
  let en := seEn (s.streamEntry n)
  let act := s.get F.FLM_STAT.ACTIVE
  let s := s.setFlag (F.FLM_Sn_STAT.EN n) en
  s.set F.FLM_STAT.ACTIVE (putBit act n en)

/-- A changed entry takes effect: the stream restarts, its queued records counted as dropped, SEQ 0, GEN one more, T 0,
and a START marker first (R324). A record enters a stream whole, so every load finds a record boundary (log entry 10). -/
def streamRestart (s : State) (n : Nat) (e : List Byte) : State :=
  let q := s.fstream n
  let gone := (q.queue.filter fun r => !r.marker).length + (if q.raw.isEmpty then 0 else 1)
  let s := s.count (F.FLM_Sn_DROP_CNT.RECORDS n) gone
  let s := { s with flume := { s.flume with table := sput (fun _ => zeroEntry 64) s.flume.table n e } }
  let s := s.setFstream n { FStream.zero with gen := (q.gen + 1) % 65536, sinceFirst := 16 }
  let s := s.set (F.FLM_Sn_SEQ.SEQ n) 0
  let s := s.set (F.FLM_Sn_STAT.T n) 0
  let s := streamStat s n
  if seEn e then pushMarker s n (marker 0 0 0 s.tai 0 0) false else s

/-- A record of a stream's source is queued, withheld by thinning, or dropped whole (R328, R329). Answers the event
records this gives rise to. `always` marks a stale marker, which thinning keeps. -/
def streamOffer (s : State) (n : Nat) (bytes : List Byte) (index : Nat) (always : Bool) : State × List EventReq :=
  let e := s.streamEntry n
  if !seEn e then (s, [])
  else
    let t := s.get (F.FLM_Sn_STAT.T n)
    if !always && index % 2 ^ t != 0 then (s.bump (F.FLM_Sn_THINNED.RECORDS n), [])
    else if !queueRoom s (sePort e) bytes.length then
      let q := s.fstream n
      let s := s.bump (F.FLM_Sn_DROP_CNT.RECORDS n)
      (s.setFstream n { q with drops := q.drops + 1, dropFirst := if q.drops = 0 then index else q.dropFirst,
                               dropLast := index }, [])
    else
      let q := s.fstream n
      let dropped := decide (0 < q.drops)
      let s := if dropped then
          let s := pushMarker s n (marker 2 0 q.drops s.tai q.dropFirst q.dropLast) true
          (s.setFstream n { s.fstream n with drops := 0 }).set F.FLM_EVT.DROP 1
        else s
      let evs := if dropped then
          [evReq 0xA2 true ([BitVec.ofNat 8 n, 0, 0, 0] ++ leBytes 4 q.drops ++ leBytes 8 q.dropFirst)] else []
      let thin := (s.fstream n).thinDue
      let s := if thin then
          let s := pushMarker s n (marker 1 t 0 s.tai index 0) true
          s.setFstream n { s.fstream n with thinDue := false }
        else s
      let evt := if thin then
          [evReq 0xA1 q.thinUp ([BitVec.ofNat 8 n, BitVec.ofNat 8 t] ++ leBytes 6 0 ++ leBytes 8 index)] else []
      (pushRecord s n bytes index false, evs ++ evt)

end Sys2Proof.Machine
end

