-- ==== Sys2Proof/Machine/Archive.lean ====
section
/-! DEFINITION. The archive of Landing: its table, thinning, and the storing of a record (R351, R353, R357, R358). -/

namespace Sys2Proof.Machine

/-- An archive source's entry in effect (R357). -/
def State.arcEntry (s : State) (k : Nat) : List Byte := sget (fun _ => zeroEntry 16) s.landing.table k
/-- EN. -/
def aeEn (e : List Byte) : Bool := bit (le e 0 1) 0
/-- SRC. -/
def aeSrc (e : List Byte) : Nat := bits (le e 0 1) 2 1
/-- SRC_INDEX. -/
def aeIndex (e : List Byte) : Nat := le e 1 1
/-- PRIO. -/
def aePrio (e : List Byte) : Nat := bits (le e 2 1) 3 0
/-- THIN_MAX. -/
def aeThinMax (e : List Byte) : Nat := bits (le e 2 1) 6 4
/-- MASK. -/
def aeMask (e : List Byte) : Nat := le e 4 2

/-- Bytes of a list of Landing records, each on an 8-byte boundary (R355). -/
def lndBytes (l : List LndRec) : Nat := (l.map fun r => (r.bytes.length + 7) / 8 * 8).sum

/-- The size of the ARCHIVE area: the user capacity less SYSTEM and CAPTURE (R351). -/
def archiveSize (s : State) : Nat := (252 - s.get F.LND_PART.CAP_GIB) * 2 ^ 30

/-- The oldest records up to `n` bytes erased: whole archive blocks go (R357). -/
def eraseOldest : Nat → List LndRec → List LndRec
  | _, [] => []
  | n, r :: t => if n = 0 then r :: t else eraseOldest (n - (r.bytes.length + 7) / 8 * 8) t

/-- LND_ARC_OLD follows the oldest archived record (R357, R364). The HI register is read through its snapshot. -/
def arcOldest (s : State) : State :=
  match s.landing.archive with
  | [] => s
  | r :: _ => s.set F.LND_ARC_OLD_LO.TIME (r.time % 2 ^ 32)

/-- A record stored at the end of the archive, the oldest 16 MiB blocks erased first when the area is full (R357). -/
def archivePut (s : State) (bytes : List Byte) (time : Nat) : State :=
  let l := s.landing.archive
  let full := decide (archiveSize s < lndBytes l + bytes.length)
  let l := if full then eraseOldest (2 ^ 24) l else l
  arcOldest { s with landing := { s.landing with archive := l ++ [⟨bytes, time, false, s.elapsed⟩],
                                                 written := (s.elapsed, bytes.length) :: s.landing.written } }

/-- A record offered to one archive source: stored, or withheld at its thin level (R357). -/
def archiveOffer (s : State) (src idx : Nat) (bytes : List Byte) (index time : Nat) (always : Bool) (cls : Nat)
    (k : Nat) : State :=
  let e := s.arcEntry k
  let mine := aeEn e && aeSrc e == src && (if src = 2 then bit (aeMask e) (cls / 16) else aeIndex e == idx)
  if !mine || s.get F.LND_STAT.STATE != 1 then s
  else
    let t := s.get (F.LND_ARCk_STAT.T k)
    if !always && index % 2 ^ t != 0 then s.bump (F.LND_ARCk_STAT.THINNED k)
    else
      let due := s.landing.thinDue.any (·.1 == k)
      let s := if due then
          archivePut { s with landing := { s.landing with thinDue := s.landing.thinDue.filter (·.1 != k) } }
            (marker 1 t 0 s.tai index 0) s.tai
        else s
      archivePut s bytes time

/-- A record of a source offered to all eight archive entries (R357): 0 CHANNEL, 1 PROFILE, 2 EVENT. -/
def archiveAll (s : State) (src idx : Nat) (bytes : List Byte) (index time : Nat) (always : Bool) (cls : Nat) : State :=
  (List.range 8).foldl (fun s k => archiveOffer s src idx bytes index time always cls k) s

end Sys2Proof.Machine
end

