-- ==== Sys2Proof/Machine/Post.lean ====
section
/-! DEFINITION. Posting an event record: its number and time, the event rings, the event streams, the archive and
the marking table (R146, R311, R324, R357, R243), and the records of a source on their way to streams. -/

namespace Sys2Proof.Machine

/-- A record of a source offered to the sixteen streams (R324). -/
def streamAll (s : State) (src idx : Nat) (bytes : List Byte) (index : Nat) (always : Bool) (cls : Nat) :
    State × List EventReq :=
  (List.range 16).foldl (fun (a : State × List EventReq) n =>
    let e := a.1.streamEntry n
    if seSrc e == src && (if src = 3 then bit (seMask e) (cls / 16) else seIndex e == idx) then
      let r := streamOffer a.1 n bytes index always
      (r.1, a.2 ++ r.2)
    else a) (s, [])

/-- Event records posted in order, with those that their delivery gives rise to after them. The first argument bounds
their number. -/
def postList : Nat → State → List EventReq → State
  | 0, s, _ => s
  | _, s, [] => s
  | fuel + 1, s, q :: rest =>
    let r : EventRec := ⟨q.cls, q.state, q.port, q.loop, s.seq, q.time.getD s.tai, q.payload⟩
    let s := { s.emit (.event r) with seq := (s.seq + 1) % 2 ^ 32, presented := s.presented ++ [r] }
    let s := (List.range 16).foldl (fun s n => evrOffer s r n) s
    let a := streamAll s 3 0 r.bytes r.seq false r.cls
    let s := archiveAll a.1 2 0 r.bytes r.seq r.time false r.cls
    postList fuel s (rest ++ a.2)

/-- Event records posted in order (R311). Each gives rise to at most one drop report of each stream. -/
def State.postAll (s : State) (l : List EventReq) : State := postList (32 * (l.length + 1)) s l

/-- One event record posted. -/
def State.post (s : State) (q : EventReq) : State := s.postAll [q]

/-- An event record of a class with its STATE and payload (R146). -/
def State.event (s : State) (cls : Nat) (state : Bool) (payload : List Byte) : State := s.post (evReq cls state payload)

/-- An event record of a port's condition, in loop mode in the port A index space (R146). -/
def portReq (cls : Nat) (state port loop : Bool) (payload : List Byte) : EventReq :=
  ⟨cls, state, port, loop, none, payload⟩

/-- A record delivered to its streams and to the archive, with the event records that follow from it (R329, R357).
`src` numbers the sources as the stream table does; SLOT records are not archived. -/
def deliver (s : State) (src idx : Nat) (bytes : List Byte) (index time : Nat) (always : Bool) : State :=
  let a := streamAll s src idx bytes index always 0
  let s := if src = 0 || src = 1 then archiveAll a.1 src idx bytes index time always 0 else a.1
  s.postAll a.2

end Sys2Proof.Machine
end

