-- ==== Sys2Proof/Machine/Ownership.lean ====
section
/-! DEFINITION. Shared resources: the ownership registers, claims, refusals, evictions and releases (R19 to R24). -/

namespace Sys2Proof.Machine

/-- Claimant codes (R20). -/
def cWedge : Nat := 1
/-- STRING bank. -/
def cString : Nat := 2
/-- SIMPLE bank. -/
def cSimple : Nat := 3
/-- MATRIX bank. -/
def cMatrix : Nat := 4
/-- Caliper sequence table. -/
def cSequence : Nat := 5
/-- Field I/O channel configuration. -/
def cField : Nat := 6
/-- Skyline chain. -/
def cSkyline : Nat := 7
/-- Capture engine. -/
def cCapture : Nat := 8
/-- Flume stream. -/
def cFlume : Nat := 9
/-- Chipper job. -/
def cChipper : Nat := 0xA
/-- Shutdown self-test. -/
def cSelfTest : Nat := 0xB
/-- Host, by CLAIM_HOST. -/
def cHost : Nat := 0xF

/-- The address of a resource's ownership register (Shared resources and their ownership registers). -/
def ownAddr : Resource → Nat
  | .pin n => R.BLZ_OWN_Ln n
  | .rowSwitch n => R.BLZ_OWN_HSn n
  | .msync => R.BLZ_OWN_MSYNC
  | .modulator k => R.CAL_OWN_Mk k
  | .field n => R.FIO_OWN_IOn n
  | .timer n => R.GEN_OWN_TMRn n
  | .buffer n => R.DCK_OWN_WBn n
  | .context n => R.CHP_OWN_CTXn n

/-- The resource whose ownership register stands at an address. -/
def ownAt (addr : Nat) : Option Resource :=
  let i := addr % 0x1000 / 4
  if addr % 4 != 0 || addr % 0x10000 / 0x1000 != 0xF then none
  else match addr / 0x10000 with
    | 0 => if h : i < 16 then some (.timer ⟨i, h⟩) else none
    | 7 => if h : i < 96 then some (.pin ⟨i, h⟩)
           else if h : i - 96 < 16 then some (.rowSwitch ⟨i - 96, h⟩)
           else if i = 112 then some .msync else none
    | 8 => if h : i < 8 then some (.modulator ⟨i, h⟩) else none
    | 12 => if h : i < 16 then some (.field ⟨i, h⟩) else none
    | 15 => if h : i < 4 then some (.context ⟨i, h⟩) else none
    | 16 => if h : i < 16 then some (.buffer ⟨i, h⟩) else none
    | _ => none

/-- OWNER of a resource. -/
def ownerF (r : Resource) : Field := ⟨ownAddr r, 3, 0⟩
/-- LAST_LOSER of a resource. -/
def loserF (r : Resource) : Field := ⟨ownAddr r, 7, 4⟩
/-- CONFLICT_CNT of a resource. -/
def conflictF (r : Resource) : Field := ⟨ownAddr r, 23, 16⟩

/-- The current owner's claimant code. -/
def State.owner (s : State) (r : Resource) : Nat := s.get (ownerF r)

/-- The number of a resource among the instances of its kind (Shared resources and their ownership registers); the one
matrix sync input is number 0. -/
def resourceNo : Resource → Nat
  | .pin n => n.val
  | .rowSwitch n => n.val
  | .msync => 0
  | .modulator k => k.val
  | .field n => n.val
  | .timer n => n.val
  | .buffer n => n.val
  | .context n => n.val

/-- The payload of an OWNERSHIP record (R147): block index, instance, OWNER, the refused or evicted claimant, eviction.
The instance is the resource's number among its kind (log entry 11). -/
def ownershipPayload (r : Resource) (owner loser : Nat) (evict : Bool) : List Byte :=
  [BitVec.ofNat 8 (ownAddr r / 0x10000), 0] ++ leBytes 2 (resourceNo r)
    ++ [BitVec.ofNat 8 owner, BitVec.ofNat 8 loser, BitVec.ofNat 8 (b2n evict)]

/-- A refused claim on a resource (R21). -/
def refuseClaim (s : State) (r : Resource) (code : Nat) : State :=
  let s := (s.set (loserF r) code).bump (conflictF r)
  s.event 0x50 true (ownershipPayload r (s.owner r) code false)

/-- Whether a claimant may have a resource: it is free or already its own (R21). -/
def claimable (s : State) (code : Nat) (r : Resource) : Bool := s.owner r == 0 || s.owner r == code

/-- The ownership registers are frozen once the interlock holds (R395). -/
def State.frozen (s : State) : Bool := s.flag F.SST_STAT.INTERLOCK

/-- One claim that names several resources: it takes all of them or none; a refusal is recorded on each resource that
another claimant owns (R21, R23). Answers whether it was granted. -/
def claimAll (s : State) (rs : List Resource) (code : Nat) : State × Bool :=
  if s.frozen then (s, false)
  else if rs.all (claimable s code) then (s.each rs fun s r => s.set (ownerF r) code, true)
  else (s.each (rs.filter fun r => !claimable s code r) fun s r => refuseClaim s r code, false)

/-- A claim by Wedge: it always succeeds; another owner is evicted and recorded (R22). Answers the claimant evicted, 0
for none. -/
def wedgeClaim (s : State) (r : Resource) : State × Nat :=
  let o := s.owner r
  if s.frozen then (s, 0)
  else if o = 0 then (s.set (ownerF r) cWedge, 0)
  else if o = cWedge then (s, 0)
  else
    let s := ((s.set (ownerF r) cWedge).set (loserF r) o).bump (conflictF r)
    (s.event 0x50 true (ownershipPayload r cWedge o true), o)

/-- A release by a claimant: the resource is free if it was its own (R24). -/
def releaseOwn (s : State) (code : Nat) (r : Resource) : State :=
  if s.owner r = code && !s.frozen then s.set (ownerF r) 0 else s

/-- A write of an ownership register's actions (R19): CNT_CLR first, then the claim or the release. The write of both
is a reserved encoding, which its caller refuses (R7). -/
def ownAction (s : State) (r : Resource) (claim release clr : Bool) : State :=
  let s := if clr then s.set (conflictF r) 0 else s
  if claim then (claimAll s [r] cHost).1
  else if release then (if s.owner r = cHost then s.set (ownerF r) 0 else refuseClaim s r cHost)
  else s

end Sys2Proof.Machine
end

