-- ==== Sys2Proof/Machine/Operands.lean ====
section
/-! DEFINITION. The operand forms of descriptors: the common header, the table and snapshot directories, and the checks
that read no host memory (R299 to R304, R307, R308, R336, R349, R355, R359, R363, R372, R403). -/

namespace Sys2Proof.Machine

/-! ### The common header (R299) -/

/-- OPCODE. -/
def dOpcode (d : List Byte) : Nat := le d 0 1
/-- TAG. -/
def dTag (d : List Byte) : Nat := le d 4 4
/-- ADDR. -/
def dAddr (d : List Byte) : Nat := le d 8 8
/-- LENGTH. -/
def dLength (d : List Byte) : Nat := le d 16 3
/-- TABLE or SNAP. -/
def dId (d : List Byte) : Nat := le d 20 1
/-- INSTANCE. -/
def dInst (d : List Byte) : Nat := le d 21 1
/-- FIRST of a TABLE_LOAD or SNAPSHOT. -/
def dFirst (d : List Byte) : Nat := le d 24 4
/-- COUNT of a SNAPSHOT. -/
def dCount (d : List Byte) : Nat := le d 28 4

/-! ### Status codes (R310, R340, R361, R372) -/

/-- Done as described. -/
def stOk : Nat := 0x00
/-- R301. -/
def stBadOpcode : Nat := 0x01
/-- Reserved field set, or an ID, instance or range outside its directory. -/
def stBadDesc : Nat := 0x02
/-- R300, R302. -/
def stBadLength : Nat := 0x03
/-- R300. -/
def stBadAddr : Nat := 0x04
/-- Data larger than its destination. -/
def stBufShort : Nat := 0x05
/-- The shutdown self-test is running. -/
def stInSelftest : Nat := 0x06
/-- Not admitted in this life-cycle state. -/
def stBadState : Nat := 0x07
/-- R21, R22. -/
def stConflict : Nat := 0x08
/-- As the table's chapter states. -/
def stBusy : Nat := 0x09
/-- Table content refused. -/
def stBadEntry : Nat := 0x0A
/-- R224. -/
def stBadSignature : Nat := 0x0B
/-- R224. -/
def stStale : Nat := 0x0C
/-- R307. -/
def stWindowGone : Nat := 0x0D
/-- Ring disabled, or capture cancelled. -/
def stAborted : Nat := 0x0E
/-- Host-interface reset or Bus Master Enable cleared. -/
def stLinkLost : Nat := 0x0F
/-- A host-memory access of the item failed. -/
def stDmaError : Nat := 0x10
/-- A reset of the TJ120 was requested. -/
def stReset : Nat := 0x11
/-- The capture ring named is not enabled with SRC = CAPTURE. -/
def stRingOff : Nat := 0x12
/-- Output space ran out. -/
def stOutFull : Nat := 0x20
/-- Invalid compressed input. -/
def stBadStream : Nat := 0x21
/-- Block CRC mismatch. -/
def stBadCrc : Nat := 0x22
/-- Context history unusable. -/
def stCtxLost : Nat := 0x23
/-- Capture stream not enabled with SRC = CAPTURE. -/
def stStreamOff : Nat := 0x24
/-- Uncorrectable Deck word. -/
def stDeckUncorr : Nat := 0x28
/-- Uncorrectable Landing sector. -/
def stLndUncorr : Nat := 0x29
/-- No room in the CAPTURE area. -/
def stLndFull : Nat := 0x2A
/-- Landing is READ_ONLY. -/
def stLndReadonly : Nat := 0x2B
/-- No such capture. -/
def stNoObject : Nat := 0x2C
/-- Directory full. -/
def stDirFull : Nat := 0x2D
/-- A gated block is needed. -/
def stGated : Nat := 0x30

/-! ### Directories (R302, R304, R363, R399) -/

/-- A row of the table directory. -/
structure TableRow where
  id : Nat
  instances : Nat
  entry : Nat
  entries : Nat
  partialLoad : Bool
  /-- LENGTH must be one whole table. -/
  whole : Bool
  block : Nat
  deriving DecidableEq, Repr

/-- The table directory (R302, R324, R325, R363). -/
def tableDirectory : List TableRow := [
  ⟨0x01, 1, 8, 131072, true, false, 5⟩,
  ⟨0x02, 1, 16, 64, true, false, 5⟩,
  ⟨0x03, 32, 384, 1, false, true, 5⟩,
  ⟨0x04, 1, 32, 32768, true, false, 6⟩,
  ⟨0x05, 1, 64, 256, true, false, 6⟩,
  ⟨0x06, 1, 8, 262144, true, false, 4⟩,
  ⟨0x07, 1, 16, 64, false, false, 4⟩,
  ⟨0x08, 4, 1040, 1, false, true, 8⟩,
  ⟨0x09, 1, 768, 1, false, true, 7⟩,
  ⟨0x0A, 1, 8, 262144, false, false, 9⟩,
  ⟨0x0B, 1, 8, 16417, false, false, 10⟩,
  ⟨0x20, 1, 64, 16, true, false, 14⟩,
  ⟨0x21, 1, 64, 2, true, false, 14⟩,
  ⟨0x22, 1, 16, 8, true, false, 17⟩]

/-- A row of the snapshot directory. -/
structure SnapRow where
  id : Nat
  instances : Nat
  entry : Nat
  entries : Nat
  range : Bool
  block : Nat
  deriving DecidableEq, Repr

/-- The snapshot directory (R304, R363, R399). The profile buffer's entry size is that of its header; the record's own
size follows its COUNT. -/
def snapDirectory : List SnapRow := [
  ⟨0x01, 2, 2, 131072, true, 3⟩,
  ⟨0x02, 1, 32768, 1, false, 2⟩,
  ⟨0x03, 2, 40, 1, false, 4⟩,
  ⟨0x04, 1, 16, 131072, true, 5⟩,
  ⟨0x05, 1, 16, 32768, true, 6⟩,
  ⟨0x06, 1, 16, 4096, true, 6⟩,
  ⟨0x07, 4, 1552, 1, false, 8⟩,
  ⟨0x08, 1, 4, 112, true, 8⟩,
  ⟨0x09, 4, 16, 64, true, 11⟩,
  ⟨0x20, 1, 32, 1024, true, 17⟩,
  ⟨0x21, 8, 608, 1, false, 18⟩]

/-- The directory row of a table ID. -/
def tableRow (id : Nat) : Option TableRow := tableDirectory.find? (·.id == id)
/-- The directory row of a snapshot ID. -/
def snapRow (id : Nat) : Option SnapRow := snapDirectory.find? (·.id == id)

/-- Entries a SNAPSHOT covers: COUNT, or every entry from FIRST to the last for 0 (R304). -/
def snapCount (r : SnapRow) (d : List Byte) : Nat := if dCount d = 0 then r.entries - dFirst d else dCount d

/-! ### The checks of R301 that read no host memory -/

/-- The opcodes of command rings (R299, R336, R349, R359). -/
def cmdOpcodes : List Nat := [0x01, 0x02, 0x03, 0x04, 0x05, 0x10, 0x11, 0x12, 0x13, 0x18, 0x19, 0x1C, 0x1D]

/-- Check 1: the opcode is known and allowed on the ring's kind (R299). -/
def opcodeOk (cap : Bool) (d : List Byte) : Bool :=
  if cap then dOpcode d == 0x08 else cmdOpcodes.contains (dOpcode d)

/-- The common header's reserved bytes. -/
def headerOk (d : List Byte) : Bool := zeros d 1 3 && zeros d 19 1

/-- Check 3, the fields of a CAPTURE (R307, R331, R355). -/
def captureFieldsOk (loop : Bool) (d : List Byte) : Bool :=
  let dest := dId d
  let args := if dest = 0 then zeros d 48 16 else if dest = 2 then zeros d 52 12
    else decide (le d 52 1 < 2) && zeros d 53 11
  dAddr d == 0 && dLength d == 0 && decide (dest < 3) && decide (dInst d < if dest = 1 then 1 else 16)
    && decide (le d 22 1 < 4) && !(loop && bit (le d 22 1) 0) && zeros d 23 1
    && decide (le d 24 8 < le d 32 8) && decide (le d 40 4 < 131072) && decide (1 ≤ le d 44 4)
    && decide (le d 40 4 + le d 44 4 ≤ 131072) && args

/-- Check 3: no reserved field set, and ID, INSTANCE, FIRST and COUNT inside the directory (R301). `wb` is the size of a
working buffer. -/
def fieldsOk (loop : Bool) (wb : Nat) (d : List Byte) : Bool :=
  headerOk d && match dOpcode d with
  | 0x01 => dAddr d == 0 && dLength d == 0 && zeros d 20 44
  | 0x02 => match tableRow (dId d) with
    | none => false
    | some r => decide (dInst d < r.instances) && zeros d 22 2 && zeros d 28 36
        && (if r.partialLoad then decide (dFirst d < r.entries) else dFirst d == 0)
  | 0x03 => match snapRow (dId d) with
    | none => false
    | some r => decide (dInst d < r.instances) && decide (le d 22 1 < if dId d = 7 then 2 else 1) && zeros d 23 1
        && zeros d 32 32 && decide (dFirst d < r.entries) && decide (dFirst d + dCount d ≤ r.entries)
  | 0x04 => captureFieldsOk loop d
  | 0x05 => dAddr d == 0 && dLength d == 0 && zeros d 24 40
  | 0x08 => zeros d 20 44
  | 0x10 => decide (le d 20 1 < 4) && decide (le d 21 1 < 2) && decide (12 ≤ le d 22 1) && decide (le d 22 1 ≤ 16)
      && zeros d 23 1 && zeros d 35 29
  | 0x11 => decide (le d 20 1 < 4) && decide (le d 21 1 < 2) && zeros d 22 2 && zeros d 35 29
  | 0x12 => decide (le d 20 1 < 4) && zeros d 21 43
  | 0x13 => decide (le d 20 1 < 4) && zeros d 21 43
  | 0x18 => decide (le d 20 1 < 2) && zeros d 21 3 && zeros d 28 4 && zeros d 40 24
      && (if le d 20 1 = 0 then le d 32 8 % 8 == 0 else le d 24 4 == 0)
  | 0x19 => dAddr d == 0 && dLength d == 0 && zeros d 20 4 && zeros d 28 36
  | 0x1C => decide (le d 20 1 < 16) && zeros d 21 3 && zeros d 32 32 && le d 24 8 % 8 == 0
      && decide (le d 24 8 + dLength d ≤ wb)
  | 0x1D => decide (le d 20 1 < 16) && zeros d 21 3 && zeros d 32 32 && le d 24 8 % 8 == 0
  | _ => false

/-- Check 4: the life-cycle states that admit an opcode or table (R152, R224, R245, R303, R355, R359). -/
def stateOk (lc : Nat) (d : List Byte) : Bool :=
  match dOpcode d with
  | 0x02 =>
    if dId d = 0x04 || dId d = 0x05 then lc == 1 || lc == 2 || lc == 3
    else if dId d = 0x0A || dId d = 0x0B then lc == 1 || lc == 3
    else lc != 4
  | 0x04 => if dId d = 1 then lc == 2 || lc == 3 else true
  | 0x18 | 0x19 => lc != 4
  | _ => true

/-- The blocks a descriptor needs, for the gated check (R372). -/
def descBlocks (d : List Byte) : List Nat :=
  match dOpcode d with
  | 0x02 => match tableRow (dId d) with
    | some r => [r.block]
    | none => []
  | 0x03 => match snapRow (dId d) with
    | some r => [r.block]
    | none => []
  | 0x04 => if dId d = 1 then [16, 17] else if dId d = 2 then [16, 14] else [16]
  | 0x10 | 0x11 | 0x12 | 0x13 => [15]
  | 0x18 | 0x19 => [17]
  | 0x1C | 0x1D => [16]
  | _ => []

/-- Whether a BAR0 block is gated (R372). -/
def gated (s : State) (b : Nat) : Bool := decide (b < 19) && !bit (s.get F.CLK_GATE.EN) b

/-- Check 5: the length and address rules (R300, R302, R336). -/
def lengthStatus (d : List Byte) : Option Nat :=
  let op := dOpcode d
  let buf := op == 0x02 || op == 0x03 || op == 0x08 || op == 0x10 || op == 0x11 || op == 0x12 || op == 0x13
    || op == 0x18 || op == 0x1C || op == 0x1D
  let table := match tableRow (dId d) with
    | some r => decide (dLength d % r.entry ≠ 0) || (r.whole && decide (dLength d < r.entry))
    | none => false
  let inLen := le d 32 3
  let inAddr := le d 24 8
  let chipIn := op == 0x10 || op == 0x11
  if buf && dLength d == 0 then some stBadLength
  else if op == 0x02 && table then some stBadLength
  else if chipIn && inLen == 0 then some stBadLength
  else if op == 0x13 && dLength d != 65600 then some stBadLength
  else if buf && (dAddr d % 8 != 0 || decide (2 ^ 64 < dAddr d + dLength d)) then some stBadAddr
  else if chipIn && (inAddr % 8 != 0 || decide (2 ^ 64 < inAddr + inLen)
      || (decide (inAddr < dAddr d + dLength d) && decide (dAddr d < inAddr + inLen))) then some stBadAddr
  else none

/-- Check 6: the data is larger than its destination (R300, R336, R349). `snap` is the size of a snapshot's data. -/
def bufShort (wb snap : Nat) (d : List Byte) : Bool :=
  match dOpcode d with
  | 0x02 => match tableRow (dId d) with
    | some r => decide ((r.entries - dFirst d) * r.entry < dLength d)
    | none => false
  | 0x03 => decide (dLength d < snap)
  | 0x12 => decide (dLength d < 65600)
  | 0x1D => decide (wb < le d 24 8 + dLength d)
  | _ => false

/-- The size of a working buffer in bytes (R343). -/
def wbSize (s : State) : Nat := s.get F.DCK_STAT.WB_MIB * 2 ^ 20

/-- The first status that applies to a descriptor by checks 1 to 6, none where it may run (R301, R372). `snap` is the
size of the data of a SNAPSHOT. -/
def descStatus (s : State) (cap : Bool) (d : List Byte) (snap : Nat) : Option Nat :=
  if !opcodeOk cap d then some stBadOpcode
  else if s.flag F.HIF_STAT.SELFTEST && dOpcode d != 0x01 then some stInSelftest
  else if !fieldsOk (s.flag F.PRB_CTL.LOOP) (wbSize s) d then some stBadDesc
  else if !stateOk s.lc d then some stBadState
  else if (descBlocks d).any (gated s) then some stGated
  else match lengthStatus d with
    | some st => some st
    | none => if bufShort (wbSize s) snap d then some stBufShort else none

/-- The blocks a self-test step has under test (Self-test steps, R390; log entry 12): the optics and Kerf, the ADCs,
the memories of the sensing die, Deck, the scanned engines, the signal die's. -/
def testedBlocks (step : Nat) : List Nat :=
  match step with
  | 1 => [2, 3]
  | 2 => [3, 4]
  | 3 => [2, 3, 4, 5, 6]
  | 4 => [16]
  | 6 => [3, 4, 5, 6]
  | 8 => [8]
  | 9 => [7]
  | 10 => [12]
  | 11 => [7, 8, 10, 11, 12]
  | 12 => [7, 8, 11, 12]
  | 13 => [9]
  | _ => []

/-- Whether a block has a partition of the start checks running on it (R402). -/
def underStartTest (s : State) (b : Nat) : Bool :=
  s.flag F.SST_STAT.RUNNING && s.get F.SST_STAT.KIND == 2 && (testedBlocks (s.get F.SST_STAT.STEP)).contains b

/-- Whether a descriptor waits unstarted: it needs Deck while Deck is wiped, Landing while Landing is starting, or the
blocks under the start checks (R345, R359, R402). -/
def descWaits (s : State) (d : List Byte) : Bool :=
  let op := dOpcode d
  let deck := op == 0x04 || op == 0x1C || op == 0x1D || (op == 0x03 && (dId d == 0x01 || dId d == 0x03))
  let land := op == 0x18 || op == 0x19 || (op == 0x04 && dId d == 1)
    || (op == 0x03 && (dId d == 0x20 || dId d == 0x21))
  (deck && s.flag F.DCK_STAT.WIPING) || (land && s.get F.LND_STAT.STATE == 0)
    || (descBlocks d).any (underStartTest s)

end Sys2Proof.Machine
end

