-- ==== Sys2Proof/Machine/Items.lean ====
section
/-! DEFINITION. Items and completions: acceptance, the start of an item, its completion, held completions, capture
buffers, and the loss reports of discards (R297, R298, R301, R306, R309, R313, R315). -/

namespace Sys2Proof.Machine

/-! ### Completions (R309, R315) -/

/-- A completion as its 32 bytes (R309). -/
def Completion.bytes (c : Completion) : List Byte :=
  leBytes 4 c.tag ++ leBytes 3 c.xfer ++ leBytes 1 c.status ++ leBytes 4 c.index
    ++ [BitVec.ofNat 8 (c.ring + 16 * b2n c.cap), BitVec.ofNat 8 c.opcode,
        BitVec.ofNat 8 (b2n c.partialFlag + 2 * b2n c.lost + 4 * b2n c.held), 0]
    ++ leBytes 8 c.info0 ++ leBytes 8 c.info1

/-- Whether a completion ring can be written: enabled, not HOLDING, DMA allowed (R315). -/
def cplOpen (s : State) (q : Nat) : Bool :=
  s.flag (ringEn .cpl q) && s.get (ringState .cpl q) != 3 && s.flag F.HIF_STAT.BME

/-- A completion written to its ring (R309). -/
def cplWrite (s : State) (q : Nat) (c : Completion) : State :=
  let s := cplInterrupt (writeEntry s .cpl q c.bytes) q
  s.setCplRing q { s.cplRing q with last := some c }

/-- A completion held inside the TJ120, in order (R315). -/
def cplHold (s : State) (q : Nat) (c : Completion) : State :=
  let r := s.cplRing q
  (s.setCplRing q { r with held := r.held ++ [{ c with held := true }] }).bump F.HIF_HELD.COUNT

/-- Held completions written in order while entries are free (R315). The first argument bounds their number. -/
def flushHeld : Nat → State → Nat → State
  | 0, s, _ => s
  | fuel + 1, s, q =>
    match (s.cplRing q).held with
    | [] => s
    | c :: t =>
      if cplOpen s q && decide (ringUsed s .cpl q < ringSize s .cpl q) then
        let s := s.setCplRing q { s.cplRing q with held := t }
        let s := s.set F.HIF_HELD.COUNT (s.get F.HIF_HELD.COUNT - 1)
        flushHeld fuel (cplWrite s q c) q
      else s

/-- Held completions of a ring written as far as there is room (R315). -/
def flushRing (s : State) (q : Nat) : State := flushHeld (s.cplRing q).held.length s q

/-! ### Items -/

/-- The kind of the ring an item came from. -/
def itemKind (it : Item) : RingKind := if it.cap then .cap else .cmd

/-- Whether an item stands on a given command or capture ring. -/
def onRing (cap : Bool) (n : Nat) (it : Item) : Bool := it.cap == cap && it.ring == n

/-- The items of a ring, oldest first. -/
def ringItemsOf (s : State) (cap : Bool) (n : Nat) : List Item := s.hif.items.filter (onRing cap n)

/-- The front item of a ring (R298). -/
def frontItem (s : State) (cap : Bool) (n : Nat) : Option Item := (ringItemsOf s cap n).head?

/-- The state with the accepted items replaced. -/
def State.setItems (s : State) (l : List Item) : State := { s with hif := { s.hif with items := l } }

/-- STAT.ITEMS of a command or capture ring follows its items (R317). -/
def refreshItems (s : State) (cap : Bool) (n : Nat) : State :=
  s.set (ringItems (if cap then .cap else .cmd) n) (ringItemsOf s cap n).length

/-- Two items are the same item of the same ring. -/
def sameItem (a b : Item) : Bool := a.cap == b.cap && a.ring == b.ring && a.index == b.index

/-- The state with one item changed. -/
def updItem (s : State) (it : Item) : State := s.setItems (s.hif.items.map fun x => if sameItem x it then it else x)

/-- A Chipper job. -/
def isChip (it : Item) : Bool := decide (0x10 ≤ dOpcode it.desc) && decide (dOpcode it.desc ≤ 0x13)

/-- The context a Chipper job names. -/
def chipOf (it : Item) : Resource := .context ⟨le it.desc 20 1 % 4, Nat.mod_lt _ (by decide)⟩

/-- A Chipper job that ends LINK_LOST, RESET or DMA_ERROR leaves its context LOST (R339). -/
def chipLost (s : State) (it : Item) (status : Nat) : State :=
  let k := le it.desc 20 1 % 4
  let s := (s.set (chipMode k) 3).set F.CHP_EVT.CTX_LOST 1
  s.event 0xA4 true [BitVec.ofNat 8 k, BitVec.ofNat 8 status]

/-- The outcome of an item: what its completion carries beside the item's own fields. -/
structure Outcome where
  status : Nat
  xfer : Nat
  info0 : Nat
  info1 : Nat
  partialFlag : Bool
  lost : Bool
  deriving DecidableEq, Repr

/-- An outcome with a status and nothing else. -/
def Outcome.just (status : Nat) : Outcome := ⟨status, 0, 0, 0, false, false⟩

/-- An item completes: it leaves its ring, a Chipper job releases its context, and the completion is written or held
(R297, R309, R315, R336). -/
def finishItem (s : State) (it : Item) (o : Outcome) : State :=
  let s := s.setItems (s.hif.items.filter fun x => !sameItem x it)
  let s := refreshItems s it.cap it.ring
  let s := if isChip it && it.started then
      let s := releaseOwn s cChipper (chipOf it)
      if o.status = stLinkLost || o.status = stReset || o.status = stDmaError then chipLost s it o.status else s
    else s
  let c : Completion := ⟨dTag it.desc, o.xfer, o.status, it.index, it.ring, it.cap, dOpcode it.desc, o.partialFlag,
    o.lost, false, o.info0, o.info1⟩
  let q := it.cq
  if cplOpen s q && (s.cplRing q).held.isEmpty && decide (ringUsed s .cpl q < ringSize s .cpl q) then
    let s := s.set (ringItems .cpl q) (s.get (ringItems .cpl q) - 1)
    cplWrite s q c
  else cplHold (s.set (ringItems .cpl q) (s.get (ringItems .cpl q) - 1)) q c

/-- The size of the data of a SNAPSHOT: the profile buffer's follows the record it holds (R304, R98). -/
def snapSize (s : State) (d : List Byte) : Nat :=
  if dOpcode d != 0x03 then 0
  else match snapRow (dId d) with
    | none => 0
    | some r =>
      if dId d = 0x03 then max 40 (sget (fun _ => ([] : List Byte)) s.profileBuf (dInst d)).length
      else r.entry * snapCount r d

/-- The front item of a ring starts, or completes at once with the first status that applies (R298, R301); a Chipper job
claims its context at its start (R336). The first argument bounds the items refused in a row. -/
def pumpRing : Nat → State → Bool → Nat → State
  | 0, s, _, _ => s
  | fuel + 1, s, cap, n =>
    match frontItem s cap n with
    | none => s
    | some it =>
      if it.started then s
      else if it.marked then pumpRing fuel (finishItem s it (.just stAborted)) cap n
      else if descWaits s it.desc then s
      else match descStatus s cap it.desc (snapSize s it.desc) with
        | some st =>
          let info1 := if st = stBufShort && dOpcode it.desc = 0x03 then snapSize s it.desc else 0
          pumpRing fuel (finishItem s it { Outcome.just st with info1 := info1 }) cap n
        | none =>
          if isChip it then
            let r := claimAll s [chipOf it] cChipper
            if r.2 then updItem r.1 { it with started := true }
            else pumpRing fuel (finishItem r.1 it (.just stConflict)) cap n
          else updItem s { it with started := true }

/-- The items at the front of a ring start or are refused (R298, R301). -/
def pump (s : State) (cap : Bool) (n : Nat) : State := pumpRing (ringItemsOf s cap n).length s cap n

/-- Every command and capture ring is looked at again (after a wipe, a mount or the start checks end). -/
def pumpAll (s : State) : State :=
  (List.range 16).foldl (fun s n => pump (pump s false n) true n) s

/-- An item completes and its ring goes on with the next (R298). -/
def complete (s : State) (it : Item) (o : Outcome) : State := pump (finishItem s it o) it.cap it.ring

/-- The front item of a command ring, started, with a given opcode. -/
def running (s : State) (n : Nat) (op : Nat) : Option Item :=
  match frontItem s false n with
  | none => none
  | some it => if it.started && dOpcode it.desc == op then some it else none

/-! ### Acceptance (R297) -/

/-- Whether one entry of a completion ring can be reserved (R297). -/
def reservable (s : State) (q : Nat) : Bool :=
  cplOpen s q && decide (ringUsed s .cpl q + s.get (ringItems .cpl q) + (s.cplRing q).held.length < ringSize s .cpl q)

/-- CQ of a command or capture ring. -/
def ringCq (k : RingKind) (n : Nat) : Field := ⟨ringBase k n + 0x10, 10, 7⟩

/-- The next descriptor of a ring is fetched and accepted, or waits for a completion entry (R297, R301). -/
def acceptItem (s : State) (cap : Bool) (n : Nat) (desc : List Byte) : State :=
  let k : RingKind := if cap then .cap else .cmd
  let st := s.get (ringState k n)
  if !s.flag (ringEn k n) || st = 3 || !s.flag F.HIF_STAT.BME || ringUsed s k n = 0 then s
  else
    let q := s.get (ringCq k n)
    if !reservable s q then s.set (ringState k n) 2
    else
      let c := s.get (ringCons k n)
      let s := (s.set (ringState k n) 1).set (ringCons k n) (c + 1)
      let s := s.emit (.hostWrite (ringWb s k n) (leBytes 4 (c + 1)))
      let s := s.set (ringItems .cpl q) (s.get (ringItems .cpl q) + 1)
      let s := s.setItems (s.hif.items ++ [⟨cap, n, c, q, slice desc 0 64, false, false, CapRun.zero⟩])
      pump (refreshItems s cap n) cap n

/-! ### Capture rings (R306) -/

/-- A capture ring's record. -/
def State.capRing (s : State) (n : Nat) : CapRing := sget (fun _ => CapRing.zero) s.hif.cap n
/-- The state with a capture ring's record set. -/
def State.setCapRing (s : State) (n : Nat) (r : CapRing) : State :=
  { s with hif := { s.hif with cap := sput (fun _ => CapRing.zero) s.hif.cap n r } }

/-- The buffer of a capture ring that records fill: its front item, started. -/
def fillItem (s : State) (n : Nat) : Option Item :=
  match frontItem s true n with
  | none => none
  | some it => if it.started then some it else none

/-- The buffer in progress completes with the records it holds (R306, R309). -/
def finishBuffer (s : State) (n : Nat) (it : Item) : State :=
  let r := s.capRing n
  let s := s.setCapRing n CapRing.zero
  complete s it ⟨stOk, r.fill, r.first, r.records + 2 ^ 32 * r.missed, false, decide (0 < r.missed)⟩

/-- A record missed by a capture ring (R306). -/
def capMiss (s : State) (n : Nat) : State :=
  let r := s.capRing n
  let s := (s.setCapRing n { r with missed := satTo (2 ^ 32 - 1) (r.missed + 1) }).bump (F.HIF_CAPn_CNT.MISSED n)
  s.hifEvt F.HIF_EVT.MISSED

/-- What became of a record put to a capture ring. -/
inductive CapPut where
  | written
  | missed
  | tooLong
  deriving DecidableEq, Repr

/-- A record put to a capture ring: written into the buffer in progress on an 8-byte boundary, a buffer completing when the
record does not fit, or missed (R306). The first argument bounds the buffers that complete on the way. -/
def capPut : Nat → State → Nat → List Byte → Nat → State × CapPut
  | 0, s, n, _, _ => (capMiss s n, .missed)
  | fuel + 1, s, n, bytes, time =>
    match fillItem s n with
    | none => (capMiss s n, .missed)
    | some it =>
      let r := s.capRing n
      let len := dLength it.desc
      let off := (r.fill + 7) / 8 * 8
      if off + bytes.length ≤ len then
        let s := s.emit (.hostWrite (dAddr it.desc + off) bytes)
        let s := s.setCapRing n { r with fill := off + bytes.length, records := r.records + 1,
                                         first := if r.records = 0 then time else r.first,
                                         firstAt := if r.records = 0 then s.elapsed else r.firstAt }
        (if s.get (F.HIF_CAPn_CFG2.FLUSH_MS n) = 0 then finishBuffer s n it else s, .written)
      else if r.records = 0 then
        let s := capMiss s n
        let m := (s.capRing n).missed
        let s := s.setCapRing n CapRing.zero
        (complete s it ⟨stBufShort, 0, 0, 2 ^ 32 * m, false, true⟩, .tooLong)
      else capPut fuel (finishBuffer s n it) n bytes time

/-- A record of a source put to every enabled capture ring of that source (R306). -/
def captureAll (s : State) (src idx : Nat) (bytes : List Byte) (time : Nat) : State :=
  (List.range 16).foldl (fun s n =>
    if s.flag (ringEn .cap n) && s.get (F.HIF_CAPn_CFG.SRC n) == src && s.get (F.HIF_CAPn_CFG.SRC_INDEX n) == idx then
      (capPut 2 s n bytes time).1
    else s) s

/-! ### Discards (R313, R315) -/

/-- Held completions and gaps discarded: counted and reported (R315). -/
def discarded (s : State) (n : Nat) : State :=
  if n = 0 then s
  else
    let s := (s.count F.HIF_DISCARD_CNT.DISCARDED n).hifEvt F.HIF_EVT.DISCARD
    s.event 0x91 true ([2, 0, 0, 0] ++ leBytes 4 n)

/-- The held completions of a ring are dropped; answers how many (R315). -/
def dropHeld (s : State) (q : Nat) : State × Nat :=
  let n := (s.cplRing q).held.length
  ((s.setCplRing q { s.cplRing q with held := [] }).set F.HIF_HELD.COUNT (s.get F.HIF_HELD.COUNT - n), n)

/-- The unreported gap of an event ring is dropped; answers how many reports (R315). -/
def dropGap (s : State) (n : Nat) : State × Nat :=
  let e := s.evrRing n
  (s.setEvrRing n { e with gap := [], lastLost := 0, lostMask := 0 }, if e.gap.isEmpty then 0 else 1)

/-- The unreported missed count of a capture ring is dropped; answers how many reports (R315). -/
def dropMissed (s : State) (n : Nat) : State × Nat :=
  let r := s.capRing n
  (s.setCapRing n { r with missed := 0 }, if r.missed = 0 then 0 else 1)

end Sys2Proof.Machine
end

