-- ==== Sys2Proof/Machine/Host.lean ====
section
/-! DEFINITION. The host interface: doorbells, rings that are enabled and disabled, host-interface resets, bus mastering,
DMA errors, cancels and messages (R291, R294, R295, R308, R312 to R315). -/

namespace Sys2Proof.Machine

/-! ### Doorbells (R294, R295) -/

/-- An ignored BAR2 write is counted (R294). -/
def doorbellIgnored (s : State) : State := s.bump F.HIF_DB_ERR_CNT.DB_ERR

/-- An invalid doorbell value: ignored, counted, flagged and reported with the BAR2 offset (R295, R313). -/
def doorbellInvalid (s : State) (off : Nat) : State :=
  let s := (s.bump F.HIF_DB_ERR_CNT.DB_ERR).hifEvt F.HIF_EVT.DB_ERR
  s.event 0x91 true ([0, 0] ++ leBytes 2 off)

/-- The ring a doorbell offset names within the page of its kind, if any (R294). -/
def doorbellRing (page off : Nat) : Option Nat :=
  if page ≤ off && decide (off < page + 0x40) && off % 4 == 0 then some ((off - page) / 4) else none

/-- A producer doorbell: valid when it moves PROD forward and stays within the ring (R295). -/
def producerDoorbell (s : State) (k : RingKind) (page off width : Nat) (v : Nat) : State :=
  match (if width = 4 then doorbellRing page off else none) with
  | none => doorbellIgnored s
  | some n =>
    if !s.flag (ringEn k n) then doorbellIgnored s
    else
      let c := s.get (ringCons k n)
      if sub32 (s.get (ringProd k n)) c ≤ sub32 v c && decide (sub32 v c ≤ ringSize s k n) then s.set (ringProd k n) v
      else doorbellInvalid s off

/-- A consumer doorbell: valid when it moves CONS forward, not beyond PROD (R295). Answers the ring it moved. -/
def consumerDoorbell (s : State) (k : RingKind) (page off width : Nat) (v : Nat) : State × Option Nat :=
  match (if width = 4 then doorbellRing page off else none) with
  | none => (doorbellIgnored s, none)
  | some n =>
    if !s.flag (ringEn k n) then (doorbellIgnored s, none)
    else
      let c := s.get (ringCons k n)
      if sub32 v c ≤ sub32 (s.get (ringProd k n)) c then (s.set (ringCons k n) v, some n)
      else (doorbellInvalid s off, none)

/-- COMMAND_DOORBELL (R295). -/
def execCommandDoorbell (off width : Nat) (v : BitVec 32) (s : State) : Host.Outcome State Fault Refusal :=
  .next (producerDoorbell s .cmd 0x000 off width v.toNat)

/-- CAPTURE_DOORBELL (R295). -/
def execCaptureDoorbell (off width : Nat) (v : BitVec 32) (s : State) : Host.Outcome State Fault Refusal :=
  .next (producerDoorbell s .cap 0x300 off width v.toNat)

/-- COMPLETION_DOORBELL (R295): entries become free, so held completions are written (R315). -/
def execCompletionDoorbell (off width : Nat) (v : BitVec 32) (s : State) : Host.Outcome State Fault Refusal :=
  let r := consumerDoorbell s .cpl 0x100 off width v.toNat
  .next (match r.2 with
    | none => r.1
    | some n => flushRing r.1 n)

/-- EVENT_DOORBELL (R295): entries become free, so an unreported gap is reported (R312). -/
def execEventDoorbell (off width : Nat) (v : BitVec 32) (s : State) : Host.Outcome State Fault Refusal :=
  let r := consumerDoorbell s .evr 0x200 off width v.toNat
  .next (match r.2 with
    | none => r.1
    | some n => lossReport (evrRefresh r.1 n) n)

/-! ### Acceptance and the simple items -/

/-- NOP (R299): the NOP at the front of a ring completes OK. -/
def execNop (ring : Fin 16) (s : State) : Host.Outcome State Fault Refusal :=
  .next (match running s ring 0x01 with
    | none => s
    | some it => complete s it (.just stOk))

/-- CAPTURE_BUFFER_FLUSH (R306): FLUSH_MS after its first record the buffer in progress completes. -/
def execCaptureBufferFlush (ring : Fin 16) (s : State) : Host.Outcome State Fault Refusal :=
  .next (match fillItem s ring with
    | none => s
    | some it =>
      let r := s.capRing ring
      if r.records = 0 || decide (s.elapsed < r.firstAt + s.get (F.HIF_CAPn_CFG2.FLUSH_MS ring) * 1000000) then s
      else finishBuffer s ring it)

/-- LOSS_REPORT (R312): the report of an event ring's unreported gap. -/
def execLossReport (ring : Fin 16) (s : State) : Host.Outcome State Fault Refusal :=
  .next (lossReport s ring)

/-- INTERRUPT_DELAY_EXPIRY (R314): INT_DLY × 4 µs after the first unsignalled entry the message is sent. -/
def execInterruptDelayExpiry (evr : Bool) (ring : Fin 16) (s : State) : Host.Outcome State Fault Refusal :=
  .next (if evr then
      let r := s.evrRing ring
      if r.since = 0 || s.get (F.HIF_EVRn_CFG2.INT_CNT ring) = 0
          || decide (s.elapsed < r.firstAt + s.get (F.HIF_EVRn_CFG2.INT_DLY ring) * 4000) then s
      else (s.setEvrRing ring { r with since := 0 }).msix (s.get (F.HIF_EVRn_CFG.VEC ring))
    else
      let r := s.cplRing ring
      if r.since = 0 || s.get (F.HIF_CPLn_CFG2.INT_CNT ring) = 0
          || decide (s.elapsed < r.firstAt + s.get (F.HIF_CPLn_CFG2.INT_DLY ring) * 4000) then s
      else (s.setCplRing ring { r with since := 0 }).msix (s.get (F.HIF_CPLn_CFG.VEC ring)))

/-! ### Captures that stop -/

/-- A CAPTURE item. -/
def isCapture (it : Item) : Bool := dOpcode it.desc == 0x04

/-- The completion of a CAPTURE: records delivered, LAUNCH of the first, records lost (R307). -/
def captureOutcome (it : Item) (status : Nat) (part : Bool) : Outcome :=
  ⟨status, it.run.delivered, it.run.first.getD 0, it.run.lost, part || it.run.partialFlag, false⟩

/-- The directory entry of a capture to Landing that stops short (R356). -/
def dirPartial (s : State) (it : Item) : State :=
  let tag := dTag it.desc
  let stop (e : CapEntry) : CapEntry := if e.state == 1 && e.tag == tag then { e with state := 3 } else e
  if isCapture it && dId it.desc == 1 && it.run.cursor != 0 then
    { s with landing := { s.landing with dir := supd (fun _ => CapEntry.zero) s.landing.dir it.run.entry stop } }
  else s

/-- A capture stops: ABORTED with PARTIAL when in progress, ABORTED when not yet started (R307, R308, R315). -/
def abortCapture (s : State) (it : Item) : State :=
  complete (dirPartial s it) it (captureOutcome it stAborted it.started)

/-- Items not yet started are marked: each completes ABORTED when it reaches its turn (R308). -/
def markItems (s : State) (p : Item → Bool) : State :=
  s.setItems (s.hif.items.map fun x => if !x.started && p x then { x with marked := true } else x)

/-- CAPTURE_CANCEL (R308): every CAPTURE of the target tag on other rings stops; a capture not yet started is marked
and completes ABORTED when it reaches its turn. -/
def execCaptureCancel (ring : Fin 16) (s : State) : Host.Outcome State Fault Refusal :=
  .next (match running s ring 0x05 with
    | none => s
    | some it =>
      let target (x : Item) : Bool := isCapture x && !x.cap && x.ring != it.ring && dTag x.desc == le it.desc 20 4
      let hit := s.hif.items.filter target
      let s := markItems s target
      let s := s.each (hit.filter (·.started)) abortCapture
      let s := s.each (hit.filter (!·.started)) fun s x => pump s false x.ring
      complete s it { Outcome.just stOk with info0 := hit.length })

/-! ### Rings enabled and disabled (R315) -/

/-- Outstanding items that will complete into a completion ring. -/
def outstanding (s : State) (q : Nat) : Nat := (s.hif.items.filter fun it => it.cq == q).length

/-- A ring starts: counts at 0, RUNNING, and what it holds is reported with RESUME = 1 or discarded with RESUME = 0
(R296, R315). -/
def ringStart (s : State) (k : RingKind) (n : Nat) : State :=
  let s := ((s.set (ringProd k n) 0).set (ringCons k n) 0).set (ringState k n) 1
  let resume := s.flag ⟨ringBase k n + 0x10, 6, 6⟩
  match k with
  | .cmd => s
  | .cpl =>
    let s := s.set (ringItems .cpl n) (outstanding s n)
    let s := s.setCplRing n { s.cplRing n with since := 0, last := none }
    if resume then flushRing s n
    else
      let r := dropHeld s n
      discarded r.1 r.2
  | .evr =>
    let s := s.setEvrRing n { s.evrRing n with lostMask := 0, since := 0, last := none }
    if resume then lossReport s n
    else
      let r := dropGap s n
      discarded r.1 r.2
  | .cap =>
    let s := s.setCapRing n { CapRing.zero with missed := (s.capRing n).missed }
    if resume then s
    else
      let r := dropMissed s n
      discarded r.1 r.2

/-- A ring stops: its items complete or run on as the fault table says, in the ring's order: an item that waits behind one that
runs on completes ABORTED after it (R298, R307, R315). -/
def ringStop (s : State) (k : RingKind) (n : Nat) : State :=
  let s := s.set (ringState k n) 0
  match k with
  | .cmd =>
    let s := markItems s (onRing false n)
    pump (s.each ((ringItemsOf s false n).filter fun it => isCapture it && it.started) abortCapture) false n
  | .cap =>
    let s := markItems s (onRing true n)
    let s := pump (s.each ((ringItemsOf s true n).filter (·.started)) fun s it => finishBuffer s n it) true n
    s.each (s.hif.items.filter fun it => isCapture it && !it.cap && it.run.cursor != 0 && dId it.desc == 0 && dInst it.desc == n)
      abortCapture
  | .cpl => s.set (ringItems .cpl n) 0
  | .evr => s

/-- The TABLE_LOAD of a Wedge image that is being committed: its payload has been read whole (R225). -/
def isCommit (s : State) (it : Item) : Bool :=
  s.wedge.commit.isSome && it.started && dOpcode it.desc == 0x02 && dId it.desc == 0x0A

/-- Every outstanding item completes LINK_LOST and is held, but for a TABLE_LOAD whose payload has been read whole, which
finishes (R315). -/
def linkLost (s : State) : State :=
  let l := s.hif.items.filter fun it => !isCommit s it
  if l.isEmpty then s
  else
    let s := s.each l fun s it =>
      finishItem (dirPartial s it) it { captureOutcome it stLinkLost false with partialFlag := false }
    s.set F.HIF_EVT.LINK_LOST 1

/-! ### Host-interface reset and bus mastering -/

/-- The register file with every register of a window at its reset value, but for some addresses. -/
def resetWindow (s : State) (b : Nat) (keep : List Nat) : State :=
  { s with regs := s.regs.filter fun c => c.1 / 0x10000 != b || keep.contains c.1 }

/-- The event rings that were enabled go on losing records to their gaps after a host-interface reset (R315). -/
def keepGaps (s : State) : State :=
  (List.range 16).foldl (fun s n =>
    if s.flag (ringEn .evr n) then s.setEvrRing n { s.evrRing n with lostMask := s.get (F.HIF_EVRn_CFG2.MASK n) }
    else s) s

/-- HOST_INTERFACE_RESET (R291, R315): items complete LINK_LOST, rings are disabled, and every HIF register but EPOCH,
HELD and DISCARD_CNT returns to its reset value. -/
def execHostInterfaceReset (s : State) : Host.Outcome State Fault Refusal :=
  let s := keepGaps s
  let s := s.set F.HIF_STAT.BME 0
  let any := s.hif.items.any fun it => !isCommit s it
  let self := s.get F.HIF_STAT.SELFTEST
  let s := linkLost s
  let s := resetWindow s 13 [R.HIF_EPOCH, R.HIF_HELD, R.HIF_DISCARD_CNT]
  let s := (s.set F.HIF_STAT.SELFTEST self).setFlag F.HIF_EVT.LINK_LOST any
  .next (s.each (s.hif.cap.map (·.1)) fun s n => s.setCapRing n { CapRing.zero with missed := (s.capRing n).missed })

/-- BUS_MASTER_DISABLE (R315): outstanding items complete LINK_LOST and completions are held. -/
def execBusMasterDisable (s : State) : Host.Outcome State Fault Refusal :=
  .next (if s.flag F.HIF_STAT.BME then linkLost (s.set F.HIF_STAT.BME 0) else s)

/-- BUS_MASTER_ENABLE (R315): held completions are delivered in order with no re-enable, gaps are reported, and pending
messages are sent. -/
def execBusMasterEnable (s : State) : Host.Outcome State Fault Refusal :=
  if s.flag F.HIF_STAT.BME then .next s
  else
    let s := s.set F.HIF_STAT.BME 1
    let s := (List.range 16).foldl (fun s n => lossReport (flushRing s n) n) s
    .next ((List.range 32).foldl State.msixUnmask s)

/-- The number of a ring kind in an HIF record (R313). -/
def kindNum : RingKind → Nat
  | .cmd => 0
  | .cpl => 1
  | .evr => 2
  | .cap => 3

/-- A failed host-memory access is counted, flagged and reported (R313, R315). -/
def dmaFailed (s : State) (k : RingKind) (n : Nat) : State :=
  let s := (s.bump F.HIF_DMA_ERR_CNT.DMA_ERR).hifEvt F.HIF_EVT.DMA_ERR
  s.event 0x91 true [1, BitVec.ofNat 8 (kindNum k), BitVec.ofNat 8 n]

/-- DMA_ERROR (R315): an item whose own buffer failed completes DMA_ERROR; a ring whose newest entry or write-back failed
enters HOLDING, its newest completion held or its newest record lost to the gap (log entry 13). -/
def execDmaError (fault : DmaFault) (s : State) : Host.Outcome State Fault Refusal :=
  .next (match fault with
  | .item cap n =>
    match frontItem s cap n with
    | none => s
    | some it =>
      if it.started then
        let s := dmaFailed s (itemKind it) n
        let s := if cap then s.setCapRing n CapRing.zero else s
        complete (dirPartial s it) it (captureOutcome it stDmaError false)
      else s
  | .ring k n =>
    if !s.flag (ringEn k n) then s
    else
      let s := dmaFailed (s.set (ringState k n) 3) k n
      match k with
      | .cpl =>
        let r := s.cplRing n
        match r.last with
        | none => s
        | some c => (s.setCplRing n { r with held := { c with held := true } :: r.held, last := none }).bump F.HIF_HELD.COUNT
      | .evr =>
        match (s.evrRing n).last with
        | none => s
        | some r => evrLose (s.setEvrRing n { s.evrRing n with last := none }) n r
      | _ => s)

/-- HIF_CTL.DISCARD: every held completion, gap and missed count is discarded (R315). -/
def discardAll (s : State) : State :=
  let r := (List.range 16).foldl (fun (a : State × Nat) n =>
    let x := dropHeld a.1 n
    let y := dropGap x.1 n
    let z := dropMissed y.1 n
    (z.1, a.2 + x.2 + y.2 + z.2)) (s, 0)
  discarded r.1 r.2

/-- HIF_CTL.CNT_CLR: the HIF counts but HIF_DISCARD_CNT (R317). -/
def hifCntClr (s : State) : State :=
  s.clearAll ([F.HIF_DB_ERR_CNT.DB_ERR, F.HIF_DMA_ERR_CNT.DMA_ERR]
    ++ (List.range 16).map F.HIF_EVRn_CNT.LOST ++ (List.range 16).map F.HIF_CAPn_CNT.MISSED)

/-! ### SNAPSHOT and TABLE_LOAD as a whole (R303, R305) -/

/-- A SNAPSHOT at the front of a ring writes its data and reports the instant and the size (R305). -/
def snapshotRun (s : State) (ring : Nat) (id : Nat) (data : State → List Byte → List Byte) : State :=
  match running s ring 0x03 with
  | none => s
  | some it =>
    if dId it.desc != id then s
    else
      let bytes := data s it.desc
      if dLength it.desc < bytes.length then
        complete s it { Outcome.just stBufShort with info0 := s.tai, info1 := bytes.length }
      else
        let s := s.emit (.hostWrite (dAddr it.desc) bytes)
        complete s it ⟨stOk, bytes.length, s.tai, bytes.length, false, false⟩

/-- The entries of a table payload, in order. -/
def entriesOf (size : Nat) (bytes : List Byte) : List (List Byte) :=
  (List.range (bytes.length / size)).map fun i => slice bytes (size * i) size

/-- What a table load comes to: refused with a status and INFO0, or loaded. -/
inductive LoadResult where
  | refused (status info0 : Nat) (s : State)
  | loaded (s : State)
  /-- The load goes on and completes later (R225). -/
  | later (s : State)

/-- A TABLE_LOAD at the front of a ring, its payload read whole, is refused or loaded (R303). -/
def tableRun (s : State) (ring : Nat) (id : Nat) (payload : List Byte)
    (load : State → Item → List Byte → LoadResult) : State :=
  match running s ring 0x02 with
  | none => s
  | some it =>
    if dId it.desc != id then s
    else match load s it (slice payload 0 (dLength it.desc)) with
      | .refused st i s => complete s it { Outcome.just st with info0 := i }
      | .loaded s => complete s it { Outcome.just stOk with xfer := dLength it.desc }
      | .later s => s

/-- The lowest index of an entry that a check refuses (R303). -/
def firstBad (ok : Nat → List Byte → Bool) (first : Nat) (es : List (List Byte)) : Option Nat :=
  ((List.range es.length).find? fun i => !ok (first + i) (es.getD i [])).map (first + ·)

end Sys2Proof.Machine
end

