-- ==== Sys2Proof/Machine/Image.lean ====
section
/-! DEFINITION. The signed images: the fields of the Wedge image and of the marking table, the checks of a commit, and
what the lanes hold of an image (R175, R217 to R224, R239, R245). -/

namespace Sys2Proof.Machine

/-! ### Lamp-channel descriptors (R175, R258) -/

/-- KIND: 0 PIN, 1 STRING, 2 PAGE, 3 FREE, 4 HEAD. -/
def cdKind (d : List Byte) : Nat := bits (le d 0 1) 2 0
/-- UNIT. -/
def cdUnit (d : List Byte) : Nat := le d 1 1
/-- SEL. -/
def cdSel (d : List Byte) : Nat := le d 2 2
/-- ROWS. -/
def cdRows (d : List Byte) : Nat := le d 4 2
/-- COL_FIRST. -/
def cdCol (d : List Byte) : Nat := le d 6 1
/-- COL_COUNT. -/
def cdCols (d : List Byte) : Nat := le d 7 1
/-- A PIN descriptor with ISET non-zero names a Wedge-held pin (R220). -/
def cdHeld (d : List Byte) : Bool := cdKind d == 0 && cdRows d != 0

/-- The rules of the descriptor table (R175, R258). -/
def descOk (d : List Byte) : Bool :=
  decide (le d 0 1 < 5) && decide (cdCol d < 64) && decide (cdCols d < 64) && match cdKind d with
  | 0 => decide (cdUnit d < 96) && decide (cdRows d ≤ 35) && (if cdRows d = 0 then cdSel d == 0 else decide (cdSel d < 4096))
  | 1 => decide (cdUnit d < 8) && cdSel d != 0 && decide (cdSel d < 2048)
  | 2 => cdUnit d == 0 && decide (cdSel d < 256) && cdRows d != 0 && decide (1 ≤ cdCols d) && decide (cdCol d + cdCols d ≤ 48)
  | 3 => cdUnit d == 0 && cdSel d == 0 && cdRows d != 0 && decide (1 ≤ cdCols d) && decide (cdCol d + cdCols d ≤ 48)
  | _ => cdRows d != 0 && cdSel d == 0 && cdCol d == 0 && cdCols d == 0

/-! ### What the lanes hold (R218 to R223) -/

/-- A group's entry. -/
def Image.gEntry (i : Image) (g : Nat) : List Byte := sget (fun _ => zeroEntry 8) i.groups g
/-- EN. -/
def Image.gEn (i : Image) (g : Nat) : Bool := bit (le (i.gEntry g) 0 1) 0
/-- POLICY is DARK. -/
def Image.gDark (i : Image) (g : Nat) : Bool := bit (le (i.gEntry g) 0 1) 1
/-- NASP. -/
def Image.nasp (i : Image) (g : Nat) : Nat := bits (le (i.gEntry g) 0 1) 4 2 + 1
/-- INITIAL. -/
def Image.initial (i : Image) (g : Nat) : Nat := bits (le (i.gEntry g) 1 1) 2 0
/-- REST. -/
def Image.rest (i : Image) (g : Nat) : Nat := bits (le (i.gEntry g) 1 1) 6 4
/-- RETRY in minutes. -/
def Image.retry (i : Image) (g : Nat) : Nat := le (i.gEntry g) 2 1

/-- An aspect's entry. -/
def Image.aEntry (i : Image) (g a : Nat) : List Byte := sget (fun _ => zeroEntry 16) i.aspects (8 * g + a)
/-- MIN_LIT. -/
def Image.minLit (i : Image) (g a : Nat) : Nat := le (i.aEntry g a) 3 1
/-- FB_LAZY. -/
def Image.fbLazy (i : Image) (g a : Nat) : Bool := bit (le (i.aEntry g a) 4 2) 14
/-- FLASH. -/
def Image.flashOf (i : Image) (g a : Nat) : Nat := bits (le (i.aEntry g a) 7 1) 3 0
/-- Pool indices of the primary channels. -/
def Image.primary (i : Image) (g a : Nat) : List Nat :=
  (List.range (le (i.aEntry g a) 2 1)).map (bits (le (i.aEntry g a) 0 2) 13 0 + ·)
/-- Pool indices of the fallback channels. -/
def Image.fallback (i : Image) (g a : Nat) : List Nat :=
  (List.range (bits (le (i.aEntry g a) 6 1) 3 0)).map (bits (le (i.aEntry g a) 4 2) 13 0 + ·)
/-- A descriptor of the pool. -/
def Image.chan (i : Image) (k : Nat) : List Byte := i.channels.getD k (zeroEntry 8)
/-- A graph entry, 0 where not listed. -/
def Image.graph (i : Image) (g c r : Nat) : Nat := sget (fun _ => 0) i.graphs (64 * g + 8 * c + r)
/-- ALLOW. -/
def Image.allow (i : Image) (g c r : Nat) : Bool := bit (i.graph g c r) 15
/-- DWELL in 100 ms. -/
def Image.dwell (i : Image) (g c r : Nat) : Nat := bits (i.graph g c r) 7 0
/-- The hop from an aspect toward another: itself where ALLOW, NEXT where ROUTE, none where unreachable (R223, R228). -/
def Image.hop (i : Image) (g c r : Nat) : Option Nat :=
  if i.allow g c r then some r
  else if bit (i.graph g c r) 14 then some (bits (i.graph g c r) 10 8)
  else none
/-- Whether two aspects, by 8 g + a, conflict (R222). -/
def Image.conflicts (i : Image) (x y : Nat) : Bool := (sget (fun _ => ([] : List Nat)) i.conflict x).contains y
/-- PERIOD and ON of a pattern in 10 ms. -/
def Image.pattern (i : Image) (p : Nat) : Nat × Nat := i.flash.getD p (0, 0)
/-- The enabled groups, ascending. -/
def Image.live (i : Image) : List Nat := (List.range 256).filter i.gEn
/-- Aspects of the enabled groups below NASP, as (group, aspect). -/
def Image.liveAspects (i : Image) : List (Nat × Nat) := i.live.flatMap fun g => (List.range (i.nasp g)).map fun a => (g, a)

/-- The descriptor by which Wedge holds a pin, if any (R220). -/
def Image.held (i : Image) (n : Nat) : Option (List Byte) := i.channels.find? fun d => cdHeld d && cdUnit d == n

/-- Pins that Wedge claims at activation: those the image names, but for pins that only FB_LAZY fallbacks name (R225). -/
def Image.claimed (i : Image) : List Nat :=
  let pins (l : List Nat) := (l.filter fun k => cdHeld (i.chan k)).map fun k => cdUnit (i.chan k)
  let lazy_ := i.liveAspects.flatMap fun q => if i.fbLazy q.1 q.2 then pins (i.fallback q.1 q.2) else []
  let firm := i.liveAspects.flatMap fun q =>
    pins (i.primary q.1 q.2) ++ (if i.fbLazy q.1 q.2 then [] else pins (i.fallback q.1 q.2))
  (List.range 96).filter fun n => (i.held n).isSome && (!lazy_.contains n || firm.contains n)

/-! ### From bytes to an image -/

/-- OFFSET and SIZE of section `k`. -/
def section_ (b : List Byte) (k : Nat) : Nat × Nat := (le b (32 + 8 * k) 4, le b (36 + 8 * k) 4)

/-- The bytes of section `k`. -/
def sectionBytes (b : List Byte) (k : Nat) : List Byte := slice b (section_ b k).1 (section_ b k).2

/-- A list as a sparse map from 0, entries at the default left out. -/
def sparseFrom {α : Type} [DecidableEq α] (d : α) (l : List α) : List (Nat × α) :=
  ((List.range l.length).zip l).filter fun e => e.2 != d

/-- What the lanes load of an image's bytes (R218). -/
def parseImage (b : List Byte) : Image :=
  let graph := sectionBytes b 3
  let conf := sectionBytes b 4
  let flash := sectionBytes b 5
  let pages := sectionBytes b 6
  { serial := le b 8 4, build := le b 20 4, startWait := le b 24 2
    tally := (List.range 5).map fun k => le b (96 + 2 * k) 2
    groups := sparseFrom (zeroEntry 8) (entriesOf 8 (sectionBytes b 0))
    aspects := sparseFrom (zeroEntry 16) (entriesOf 16 (sectionBytes b 1))
    channels := entriesOf 8 (sectionBytes b 2)
    graphs := sparseFrom 0 ((entriesOf 2 graph).map leVal)
    conflict := sparseFrom [] ((entriesOf 256 conf).map fun row => (List.range 2048).filter fun j => bit (le row (j / 8) 1) (j % 8))
    flash := (entriesOf 4 flash).map fun e => (le e 0 2, le e 2 2)
    pages := (List.range 256).map fun k => slice pages (le pages (8 * k) 4) (le pages (8 * k + 4) 2) }

/-! ### The signature (R217) -/

/-- The key digest of WDG_KEY_HASH0 to WDG_KEY_HASH11 as 48 bytes. -/
def keyHash (s : State) : List Byte := (List.range 12).flatMap fun k => leBytes 4 (s.read (R.WDG_KEY_HASHk k)).toNat

/-- Whether the signature block of `len` bytes verifies, the key's digest is the one of WDG_KEY_HASH, and UNIT names this unit
or any (R217, R224). -/
def signed (s : State) (b : List Byte) : Bool :=
  let len := le b 16 4
  let key := slice b (len - 200) 97
  Config.ecdsaVerify key (slice b (len - 96) 96) (Config.sha384 (slice b 0 (len - 96)))
    && Config.sha384 key == keyHash s && (le b 12 4 == 0 || le b 12 4 == (s.read R.GEN_SERIAL_LO).toNat)

/-! ### The content checks of an image (R224)

A check answers the byte offsets of the fields that it finds at fault, none where it passes: INFO0 of a refused commit names
the lowest of them (R303). -/

/-- The field at a byte offset, where its check fails. -/
def faultAt (ok : Bool) (off : Nat) : List Nat := if ok then [] else [off]

/-- The rows that a mask holds. -/
def rowsOf (mask : Nat) : List Nat := (List.range 16).filter (bit mask)

/-- The size that a section must have (R218). -/
def sectionSizeOk (k n : Nat) : Bool := match k with
  | 0 => n == 2048
  | 1 => n == 32768
  | 2 => decide (8 ≤ n) && decide (n ≤ 131072) && n % 8 == 0
  | 3 => n == 32768
  | 4 => n == 524288
  | 5 => n == 64
  | _ => decide (2048 ≤ n)

/-- The header: its fields, the TALLY words, and the sections' places and sizes. -/
def headerFaults (b : List Byte) : List Nat :=
  let len := le b 16 4
  let secs := (List.range 7).map (section_ b)
  let apart (k : Nat) : Bool := (List.range 7).all fun m =>
    let x := secs.getD k (0, 0)
    let y := secs.getD m (0, 0)
    m == k || decide (x.1 + x.2 ≤ y.1) || decide (y.1 + y.2 ≤ x.1)
  faultAt (le b 0 4 == 0x31474457) 0 ++ faultAt (le b 4 2 == 1) 4 ++ faultAt (zeros b 6 2) 6
    ++ faultAt (len == b.length && len % 8 == 0 && decide (328 ≤ len) && decide (len ≤ 2 ^ 21)) 16
    ++ faultAt (zeros b 26 6) 26 ++ faultAt (zeros b 88 8) 88 ++ faultAt (zeros b 106 22) 106
    ++ (List.range 5).flatMap (fun k => faultAt (tallyOk (le b (96 + 2 * k) 2)) (96 + 2 * k))
    ++ (List.range 7).flatMap fun k =>
        faultAt (apart k && decide ((section_ b k).1 + (section_ b k).2 ≤ len)) (32 + 8 * k)
          ++ faultAt (sectionSizeOk k (section_ b k).2) (36 + 8 * k)

/-- Group entries, of disabled groups too; the section stands at `o`. -/
def groupFaults (i : Image) (o : Nat) : List Nat :=
  (List.range 256).flatMap fun g =>
    let e := i.gEntry g
    let o := o + 8 * g
    faultAt (bits (le e 0 1) 7 5 == 0) o
      ++ faultAt (!bit (le e 1 1) 3 && !bit (le e 1 1) 7 && decide (i.initial g < i.nasp g) && decide (i.rest g < i.nasp g)) (o + 1)
      ++ faultAt (zeros e 3 5) (o + 3)

/-- Whether a flash pattern keeps R221. -/
def patternOk (i : Image) (p : Nat) : Bool :=
  p == 0 || (decide (2 ≤ (i.pattern p).1) && decide ((i.pattern p).1 ≤ 6000) && decide (1 ≤ (i.pattern p).2)
    && decide ((i.pattern p).2 < (i.pattern p).1))

/-- One aspect of an enabled group below its NASP; its section, the pool and the patterns stand at `o`, `pool` and `flash`. -/
def aspectFaults (i : Image) (o pool flash g a : Nat) : List Nat :=
  let e := i.aEntry g a
  let o := o + 16 * (8 * g + a)
  let n := i.channels.length
  faultAt (bits (le e 0 2) 13 0 + le e 2 1 ≤ n) o ++ faultAt (bits (le e 0 2) 15 14 == 0) (o + 1)
    ++ faultAt (bits (le e 4 2) 13 0 + bits (le e 6 1) 3 0 ≤ n) (o + 4) ++ faultAt (!bit (le e 4 2) 15) (o + 5)
    ++ faultAt (bits (le e 6 1) 7 4 == 0) (o + 6) ++ faultAt (bits (le e 7 1) 7 4 == 0) (o + 7) ++ faultAt (zeros e 8 8) (o + 8)
    ++ ((i.fallback g a).filter (· < n)).flatMap (fun k =>
        faultAt (decide (cdKind (i.chan k) < 2)) (pool + 8 * k)
          ++ faultAt (!(cdHeld (i.chan k) && decide (cdSel (i.chan k) < 197))) (pool + 8 * k + 2))
    ++ faultAt (patternOk i (i.flashOf g a)) (flash + 4 * i.flashOf g a)

/-- Whether a PIN descriptor of a Wedge-held pin differs from another of the pin in CMD or ISET (R220). -/
def pinClash (i : Image) (d : List Byte) : Bool :=
  cdKind d == 0 && (i.held (cdUnit d)).isSome
    && i.channels.any fun x => cdKind x == 0 && cdUnit x == cdUnit d && (cdSel x != cdSel d || cdRows x != cdRows d)

/-- The descriptor pool and the page directory: every descriptor by R175, the pages' sizes, one CMD and ISET for each
Wedge-held pin. -/
def poolFaults (i : Image) (pool pages : Nat) (dir : List Byte) : List Nat :=
  ((List.range i.channels.length).flatMap fun k =>
    let d := i.chan k
    faultAt (descOk d && !pinClash i d) (pool + 8 * k)
      ++ (if cdKind d == 2 && (i.pages.getD (cdSel d) []).length != (rowsOf (cdRows d)).length * cdCols d
          then [pool + 8 * k + 2, pages + 8 * cdSel d + 4] else []))
    ++ (List.range 256).flatMap fun k => faultAt (zeros dir (8 * k + 6) 2) (pages + 8 * k + 6)

/-- The place of bit `y` of row `x` of the conflict matrix (R222). -/
def conflictAt (o x y : Nat) : Nat := o + 256 * x + y / 8

/-- The conflict matrix: symmetric, no bit within a group or of an aspect not in use, the rows of aspects 0 empty. -/
def conflictFaults (i : Image) (o : Nat) : List Nat :=
  let inUse (x : Nat) := i.gEn (x / 8) && decide (x % 8 < i.nasp (x / 8))
  i.conflict.flatMap fun row => row.2.flatMap fun j =>
    faultAt (row.1 / 8 != j / 8 && inUse row.1 && inUse j && row.1 % 8 != 0) (conflictAt o row.1 j)
      ++ (if i.conflicts j row.1 then [] else [conflictAt o row.1 j, conflictAt o j row.1])

/-- The aspects on the way from `c` to `r` by ALLOW moves, none where the route does not get there in `fuel` hops. -/
def Image.route (i : Image) (g r : Nat) : Nat → Nat → Option (List Nat)
  | 0, c => if c = r then some [] else none
  | fuel + 1, c =>
    if c = r then some []
    else match i.hop g c r with
      | none => none
      | some h => if i.allow g c h && decide (h < i.nasp g) then (i.route g r fuel h).map (h :: ·) else none

/-- The graph entries that a way from `c` to `r` reads, by 8 c + r. -/
def Image.routeEntries (i : Image) (g r : Nat) : Nat → Nat → List Nat
  | 0, _ => []
  | fuel + 1, c =>
    if c = r then []
    else (8 * c + r) :: match i.hop g c r with
      | none => []
      | some h => (8 * c + h) :: i.routeEntries g r fuel h

/-- The aspects `y` in conflict with an aspect on the way from `c` to aspect 0 but not with `c`, each with that aspect. -/
def Image.added (i : Image) (g c : Nat) : List (Nat × Nat) :=
  ((i.route g 0 7 c).getD []).flatMap fun a =>
    ((sget (fun _ => ([] : List Nat)) i.conflict (8 * g + a)).filter fun y => !i.conflicts (8 * g + c) y).map fun y => (a, y)

/-- The graph of an enabled group, over its aspects below NASP: the graphs stand at `o`, the conflict matrix at `conf`. -/
def graphFaults (i : Image) (o conf g : Nat) : List Nat :=
  let as_ := List.range (i.nasp g)
  let at_ (k : Nat) : Nat := o + 128 * g + 2 * k
  as_.flatMap fun c => as_.flatMap fun r =>
    let e := i.graph g c r
    if c = r then faultAt (e == 0) (at_ (8 * c + r))
    else
      faultAt (bits e 13 11 == 0 && !(bit e 15 && bit e 14)) (at_ (8 * c + r) + 1)
        ++ (if (bit e 14 || r == 0) && (i.route g r 7 c).isNone then (i.routeEntries g r 7 c).map at_ else [])
        ++ (if r = 0 then match i.added g c with
            | [] => []
            | l => (i.routeEntries g 0 7 c).map at_
                ++ l.flatMap fun q => [conflictAt conf (8 * g + q.1) q.2, conflictAt conf (8 * g + c) q.2]
          else [])

/-- The INITIAL aspects of no two groups conflict. -/
def initialFaults (i : Image) (o conf : Nat) : List Nat :=
  let l := i.live.map fun g => 8 * g + i.initial g
  l.flatMap fun x => (l.filter (i.conflicts x)).flatMap fun y =>
    [o + 8 * (x / 8) + 1, o + 8 * (y / 8) + 1, conflictAt conf x y, conflictAt conf y x]

/-- The contents of the sections. -/
def contentFaults (b : List Byte) : List Nat :=
  let i := parseImage b
  let o (k : Nat) : Nat := (section_ b k).1
  groupFaults i (o 0) ++ i.liveAspects.flatMap (fun q => aspectFaults i (o 1) (o 2) (o 5) q.1 q.2)
    ++ poolFaults i (o 2) (o 6) (sectionBytes b 6) ++ conflictFaults i (o 4)
    ++ i.live.flatMap (graphFaults i (o 3) (o 4)) ++ initialFaults i (o 0) (o 4)

/-- The seven zero bytes of a signature block (R217). -/
def signFaults (b : List Byte) : List Nat := faultAt (zeros b (le b 16 4 - 103) 7) (le b 16 4 - 103)

/-- Every content check of R224. Sections that the header misplaces are not looked into. -/
def imageFaults (b : List Byte) : List Nat :=
  let h := headerFaults b
  h ++ (if h.isEmpty then contentFaults b else []) ++ signFaults b

/-- INFO0 of a refused image or marking table, in entries of 8 bytes (R303). -/
def faultEntry : List Nat → Nat
  | [] => 2 ^ 64 - 1
  | a :: t => t.foldl min a / 8

/-! ### The marking table (R239) -/

/-- One rule entry, at `o`. -/
def ruleFaults (e : List Byte) (o : Nat) : List Nat :=
  faultAt (decide (bits (le e 0 1) 2 0 < 4) && !bit (le e 0 1) 6) o ++ faultAt (!bit (le e 2 1) 3) (o + 2) ++ faultAt (zeros e 3 1) (o + 3)
    ++ faultAt (zeros e 6 2) (o + 6)
    ++ match bits (le e 0 1) 2 0 with
      | 0 => faultAt (decide (le e 8 2 < 32768)) (o + 8) ++ faultAt (le e 10 2 != 0) (o + 10) ++ faultAt (zeros e 14 2) (o + 14)
      | 1 => faultAt (le e 8 2 != 0) (o + 8) ++ faultAt (zeros e 12 4) (o + 12)
      | 2 => faultAt (decide (le e 8 2 < 32768)) (o + 8) ++ faultAt (decide (sgn 16 (le e 10 2) ≤ sgn 16 (le e 12 2))) (o + 10)
          ++ faultAt (decide (le e 14 2 < 2)) (o + 14)
      | 3 => faultAt (zeros e 9 7) (o + 9)
      | _ => []

/-- The rules of a table's bytes. -/
def tableRules (b : List Byte) : List (List Byte) := entriesOf 16 (slice b 64 (16 * bits (le b 20 2) 13 0))

/-- The content checks of a marking table (R239, R245). -/
def markFaults (b : List Byte) : List Nat :=
  let n := bits (le b 20 2) 13 0
  let l := tableRules b
  faultAt (le b 0 4 == 0x314B524D) 0 ++ faultAt (le b 4 2 == 1) 4 ++ faultAt (zeros b 6 2) 6
    ++ faultAt (le b 16 4 == 64 + 16 * n + 200 && b.length == 64 + 16 * n + 200) 16
    ++ faultAt (bits (le b 20 2) 15 14 == 0 && decide (n ≤ 8192)) 20 ++ faultAt (zeros b 22 42) 22
    ++ ((List.range l.length).zip l).flatMap (fun e => ruleFaults e.2 (64 + 16 * e.1)) ++ signFaults b

/-! ### The store (R225, R226, R245) -/

/-- Bytes as a copy of a store, with their digest. -/
def storeCopy (b : List Byte) : StoreCopy := ⟨b, Config.sha384 b⟩

/-- A copy of a store. -/
def copyAt (l : List StoreCopy) (k : Nat) : StoreCopy := l.getD k StoreCopy.zero

/-- A copy is valid: it holds something, and the digest beside it is its own. -/
def StoreCopy.valid (c : StoreCopy) : Bool := !c.bytes.isEmpty && Config.sha384 c.bytes == c.digest

/-- The copy a start loads, the valid one with the higher serial (R226): its number and bytes. -/
def loadCopy (l : List StoreCopy) : Option (Nat × List Byte) :=
  let a := copyAt l 0
  let b := copyAt l 1
  if a.valid && (!b.valid || decide (le b.bytes 8 4 ≤ le a.bytes 8 4)) then some (0, a.bytes)
  else if b.valid then some (1, b.bytes)
  else none

end Sys2Proof.Machine
end

