-- ==== Sys2Proof/Machine/Lamps.lean ====
section
/-! DEFINITION. The lamp objects: what drives a pin, its brightness and sub-pulses, its proof state and fault tallies, and
the elements a lamp channel counts (R156 to R162, R175, R176, R180 to R187, R193). -/

namespace Sys2Proof.Machine

/-! ### Objects, banks and the matrix -/

/-- Supervision's record of an object. -/
def State.lampObj (s : State) (n : Nat) : LampObj := sget (fun _ => LampObj.zero) s.lamp.obj n
/-- The state with an object's record set. -/
def State.setObj (s : State) (n : Nat) (o : LampObj) : State :=
  { s with lamp := { s.lamp with obj := sput (fun _ => LampObj.zero) s.lamp.obj n o } }
/-- A bank's record. -/
def State.bankSt (s : State) (b : Nat) : BankSt := sget (fun _ => BankSt.zero) s.lamp.bank b
/-- The state with a bank's record set. -/
def State.setBankSt (s : State) (b : Nat) (r : BankSt) : State :=
  { s with lamp := { s.lamp with bank := sput (fun _ => BankSt.zero) s.lamp.bank b r } }
/-- A pin pair's record. -/
def State.adjPair (s : State) (n : Nat) : AdjPair := sget (fun _ => AdjPair.zero) s.lamp.adj n
/-- The state with a pin pair's record set. -/
def State.setAdj (s : State) (n : Nat) (r : AdjPair) : State :=
  { s with lamp := { s.lamp with adj := sput (fun _ => AdjPair.zero) s.lamp.adj n r } }
/-- The state with the matrix set. -/
def State.setMatrix (s : State) (m : MatrixSt) : State := { s with lamp := { s.lamp with matrix := m } }
/-- A Skyline chain's record. -/
def State.chain (s : State) (c : Nat) : SkyChain := sget (fun _ => SkyChain.zero) s.sky c
/-- The state with a chain's record set. -/
def State.setChain (s : State) (c : Nat) (r : SkyChain) : State :=
  { s with sky := sput (fun _ => SkyChain.zero) s.sky c r }
/-- A head of a chain. -/
def SkyChain.headAt (c : SkyChain) (h : Nat) : SkyHead := sget (fun _ => SkyHead.zero) c.head h

/-- The ownership resource of an object. -/
def objRes (n : Nat) : Resource :=
  if n < 96 then .pin ⟨n % 96, Nat.mod_lt _ (by decide)⟩ else .rowSwitch ⟨(n - 96) % 16, Nat.mod_lt _ (by decide)⟩

/-- The twelve pins of a bank (R156). -/
def bankPins (b : Nat) : List Resource := (List.range 12).map fun k => objRes (12 * b + k)

/-- The bank mode in effect: 0 OFF, 1 STRING, 2 SIMPLE, 3 MATRIX. -/
def State.bankMode (s : State) (b : Nat) : Nat := s.get (F.BLZ_Bb_STAT.MODE_ST b)

/-- An object is supervised: a bank or Wedge has claimed the pin, or the matrix the row switch (R180). -/
def supervised (s : State) (n : Nat) : Bool :=
  let o := s.owner (objRes n)
  if n < 96 then decide (1 ≤ o) && decide (o ≤ 4) else o == cMatrix

/-- The column a pin is in the matrix, if any (MATRIX mode, R169). -/
def pinColumn (s : State) (n : Nat) : Option Nat :=
  let b := n / 12
  let first := s.get F.BLZ_MX_CFG.FIRST_BANK
  if s.flag F.BLZ_MX_CFG.EN && decide (n < 96) && decide (first ≤ b) && decide (b ≤ first + s.get F.BLZ_MX_CFG.NBANK_M1)
      && s.bankMode b == 3 then some (12 * (b - first) + n % 12)
  else none

/-- The pin of a matrix column. -/
def columnPin (s : State) (c : Nat) : Nat := 12 * s.get F.BLZ_MX_CFG.FIRST_BANK + c

/-- What drives a pin outside MATRIX: CMD, ISET and CURVE of its bank's register, or of the image for a Wedge-held pin with
the LINEAR curve (R159, R160). -/
def pinDrive (s : State) (n : Nat) : Option (Nat × Nat × Nat) :=
  let b := n / 12
  let k := n % 12
  let o := s.owner (objRes n)
  if o = cWedge then
    match s.wedge.image with
    | none => none
    | some i => (i.held n).map fun d => (cdSel d, cdRows d, 0)
  else if (o = cSimple && s.bankMode b == 2) || (o = cString && s.bankMode b == 1 && k == 11) then
    some (s.get (F.BLZ_Bb_PINk.CMD b k), s.get (F.BLZ_Bb_PINk.ISET b k), s.get (F.BLZ_Bb_CFG.CURVE b))
  else none

/-! ### Brightness and sub-pulses (R160, R161) -/

/-- The largest number below 2^16 that a downward-closed test admits. -/
def largest16 (ok : Nat → Bool) : Nat :=
  (List.range 16).foldl (fun k i => if ok (k + 2 ^ (15 - i)) then k + 2 ^ (15 - i) else k) 0

/-- ONT of a CMD by its curve, to the nearest integer, halves up (R160). -/
def ontOf (curve cmd : Nat) : Nat :=
  if cmd = 0 then 0
  else match curve with
  | 0 => (131070 * cmd + 4095) / 8190
  | 1 => largest16 fun k => decide ((2 * k - 1) ^ 4095 * 2 ^ (16 * (4095 - cmd)) ≤ 131070 ^ 4095)
  | 2 => largest16 fun k => decide ((2 * k - 1) ^ 5 * 4095 ^ 11 ≤ 131070 ^ 5 * cmd ^ 11)
  | _ => largest16 fun k => decide ((2 * k - 1) ^ 5 * 4095 ^ 14 ≤ 131070 ^ 5 * cmd ^ 14)

/-- Whether an on-time of `ont` counts is at least `ns` nanoseconds; a count is 1 ms / 65,536 (R160). -/
def lasts (ont ns : Nat) : Bool := decide (ns * 65536 ≤ ont * 1000000)

/-- n: the sub-pulses of a period (R161). -/
def pulsesOf (ont : Nat) : Nat := if lasts ont 48000 then 16 else max 1 (ont * 1000000 / (3000 * 65536))

/-- The counts of sub-pulse `i` (R161). -/
def pulseCounts (ont i : Nat) : Nat := ont / pulsesOf ont + b2n (decide (i < ont % pulsesOf ont))

/-- ONT of an object's settings in force. -/
def LampObj.ont (o : LampObj) : Nat := ontOf o.curve o.cmd

/-- An enabled pin outside MATRIX with 0 < T_on < 3 µs is in the proof regime (R185). -/
def inProof (s : State) (n : Nat) : Bool :=
  let o := s.lampObj n
  o.en && (pinDrive s n).isSome && o.ont != 0 && !lasts o.ont 3000

/-! ### Proof state (R183) -/

/-- The thermal shutdown of an object's bank, or of the row switches (R177). -/
def objTsd (s : State) (n : Nat) : Bool := bit (s.get F.BLZ_STAT.TSD) (if n < 96 then n / 12 else 8)

/-- Whether something holds an object DARK: an overcurrent latch, a thermal shutdown, a lasting LOWCUR or ADJ condition
(R183, R190, R191). -/
def heldDark (s : State) (n : Nat) : Bool :=
  let o := s.lampObj n
  o.latched || objTsd s n || o.lowcur.lasting
    || (decide (n < 96) && ((s.adjPair n).tally.lasting || (decide (0 < n) && (s.adjPair (n - 1)).tally.lasting)))

/-- The proof state as Wedge receives it: 0 NOT_ENABLED, 1 UNPROVEN, 2 LIT, 3 DARK (R183). -/
def proofState (s : State) (n : Nat) : Nat :=
  let o := s.lampObj n
  if !o.en || !supervised s n then 0 else if heldDark s n then 3 else o.proof

/-- LIT_UNCMD of an object: OFFC or OFFV tripped (R183). -/
def LampObj.uncmd (o : LampObj) : Bool := o.offc || o.offv

/-- A present pulse: LIT, and the time without one starts again (R183). -/
def LampObj.present (o : LampObj) (now : Nat) : LampObj :=
  { o with proof := 2, missing := 0, blindAcc := 0, blindFrom := now }

/-! ### Fault tallies and their records (R187, R193) -/

/-- The counts of a tally instance in bytes 28 to 31 of a record, after `n` bytes of payload. -/
def tallyTail (head : List Byte) (t : Tally) : List Byte :=
  head ++ List.replicate (12 - head.length) 0 ++ leBytes 2 t.transient ++ leBytes 2 t.missed

/-- The record of a supervision condition that became lasting or ended. -/
def faultRecord (s : State) (cls : Nat) (evt : Field) (head : List Byte) (t : Tally) (e : TallyEdge) : State :=
  match e with
  | .none => s
  | .began => (s.set evt 1).event cls true (tallyTail head t)
  | .ended => s.event cls false (tallyTail head t)

/-- One evaluation of an object's OC (0), OFF (1) or LOWCUR (2) tally. -/
def pinEval (s : State) (n kind : Nat) (made : Option Bool) : State :=
  let o := s.lampObj n
  let word := s.get (match kind with
    | 0 => F.CAL_TALLY0.OC
    | 1 => F.CAL_TALLY0.OFF
    | _ => F.CAL_TALLY1.LOWCUR)
  let r := Tally.eval (match kind with
    | 0 => o.oc
    | 1 => o.off
    | _ => o.lowcur) word made true
  let o := match kind with
    | 0 => { o with oc := r.1 }
    | 1 => { o with off := r.1 }
    | _ => { o with lowcur := r.1 }
  faultRecord (s.setObj n o) 0x64 F.CAL_EVT.PIN_FAULT [BitVec.ofNat 8 n, BitVec.ofNat 8 kind] r.1 r.2

/-! ### The matrix's pixels (R171, R172) -/

/-- The value of a pixel in the front buffer. -/
def frontPixel (s : State) (r c : Nat) : Nat := (sget (fun _ => (0 : Byte)) s.lamp.matrix.front (48 * r + c)).toNat

/-- T_px of a value under ONT_MX is at least `ns` nanoseconds (R171). -/
def pixelLasts (p ont ns : Nat) : Bool := decide (ns * 65535 ≤ p * 375 * ont)

/-- The pixels of a region, as (row, column). -/
def regionOf (d : List Byte) : List (Nat × Nat) :=
  (rowsOf (cdRows d)).flatMap fun r => (List.range (cdCols d)).map fun c => (r, cdCol d + c)

/-- A pixel that the matrix drives: its row is claimed and its column lies in the configured banks (R176). -/
def pixelMapped (s : State) (r c : Nat) : Bool :=
  s.flag F.BLZ_MX_CFG.EN && decide (r ≤ s.get F.BLZ_MX_CFG.NROW_M1) && decide (c < 12 * (s.get F.BLZ_MX_CFG.NBANK_M1 + 1))
    && s.bankMode (s.get F.BLZ_MX_CFG.FIRST_BANK + c / 12) == 3

/-! ### Elements of a channel (R176, R258, R261, R262) -/

/-- Elements of a channel, and how many are lit. -/
def chanElements (s : State) (d : List Byte) : Nat × Nat :=
  match cdKind d with
  | 0 => (1, b2n (proofState s (cdUnit d) == 2))
  | 1 =>
    let b := cdUnit d
    let segs := (List.range 11).filter (bit (cdSel d))
    let good := segs.filter fun k => !bit (s.get (F.BLZ_Bb_TRK.TRK_BYP b)) k && !bit (s.get (F.BLZ_Bb_STAT.OPEN_MASK b)) k
      && !bit (s.get (F.BLZ_Bb_STAT.SHORT_MASK b)) k
    (segs.length, if proofState s (12 * b + 11) = 2 then good.length else 0)
  | 4 =>
    let c := s.chain (cdUnit d / 64)
    let h := cdUnit d % 64
    let outs := (List.range 16).filter (bit (cdRows d))
    let live := s.get (F.SKY_Cc_STAT.STATE (cdUnit d / 64)) == 2 && decide (h ≤ s.get (F.SKY_Cc_CFG.NHEADS_M1 (cdUnit d / 64)))
      && !c.dark
    (outs.length, if live then (outs.filter (bit (c.headAt h).lit)).length else 0)
  | _ =>
    let ont := s.lamp.matrix.ont
    let els := (regionOf d).filter fun q => pixelLasts (frontPixel s q.1 q.2) ont 3000 && s.flag F.BLZ_MX_CFG.EN
    let lit := els.filter fun q => pixelMapped s q.1 q.2
      && (sget (fun _ => Pixel.zero) s.lamp.matrix.pixels (48 * q.1 + q.2)).proof == 2
      && !heldDark s (96 + q.1) && !heldDark s (columnPin s q.2)
    if els.isEmpty then (1, 0) else (els.length, lit.length)

/-- Whether an element of a channel waits for its first proof since Wedge enabled it: after each ON edge of a flash pattern it
is UNPROVEN, and the class of the aspect stays as it was (R183, R221, R231). -/
def chanUnproven (s : State) (d : List Byte) : Bool :=
  let pin (n : Nat) : Bool := supervised s n && (pinDrive s n).isSome && decide (proofState s n ≤ 1)
  match cdKind d with
  | 0 => pin (cdUnit d)
  | 1 => pin (12 * cdUnit d + 11)
  | 4 =>
    let c := s.chain (cdUnit d / 64)
    s.get (F.SKY_Cc_STAT.STATE (cdUnit d / 64)) == 2 && !c.dark
      && decide (cdUnit d % 64 ≤ s.get (F.SKY_Cc_CFG.NHEADS_M1 (cdUnit d / 64)))
      && (List.range 16).any fun j => bit (cdRows d) j && !bit (c.headAt (cdUnit d % 64)).judged j
  | _ => (regionOf d).any fun q =>
      pixelMapped s q.1 q.2 && pixelLasts (frontPixel s q.1 q.2) s.lamp.matrix.ont 3000
        && decide ((sget (fun _ => Pixel.zero) s.lamp.matrix.pixels (48 * q.1 + q.2)).proof ≤ 1)
        && !heldDark s (96 + q.1) && !heldDark s (columnPin s q.2)

/-! ### What Wedge enables (R172, R213, R221) -/

/-- A group's record. -/
def State.wgroup (s : State) (g : Nat) : WGroup := sget (fun _ => WGroup.zero) s.wedge.group g

/-- The channels of a group's granted aspect, its fallback channels while the fallback is in use (R232). -/
def groupChans (i : Image) (g : Nat) (w : WGroup) : List Nat :=
  match w.cur with
  | none => []
  | some a => if w.fb then i.fallback g a else i.primary g a

/-- The channels that Wedge's vote enables, by pool index: none in NONE, those of flashing aspects in their ON phase. -/
def votedChans (s : State) : List Nat :=
  match s.wedge.image with
  | none => []
  | some i =>
    if s.get F.WDG_STAT.VOTE = 2 then []
    else (s.wedge.group.flatMap fun q => if q.2.flashOn then groupChans i q.1 q.2 else []).eraseDups

/-- The output interlock holds every gate drive off: from its engagement in step 7 of the shutdown self-test (R395). -/
def interlocked (s : State) : Bool :=
  s.flag F.SST_STAT.INTERLOCK || match s.sst.run with
    | none => false
    | some r => r.step == 7 && !r.parts.isEmpty

/-- The descriptors in effect: those of the voted channels, a PAGE channel from the frame boundary at which its page is
on display (R172); none under the output interlock (R395). -/
def litDescs (s : State) : List (List Byte) :=
  match s.wedge.image with
  | none => []
  | some i => if interlocked s then [] else ((votedChans s).filter fun k => cdKind (i.chan k) != 2 || s.lamp.matrix.shown.contains k).map i.chan

/-- Whether descriptors enable an object: a PIN its pin, a STRING the sink of its bank, a region its columns and rows. -/
def objEnabled (s : State) (ds : List (List Byte)) (n : Nat) : Bool :=
  ds.any fun d => match cdKind d with
    | 0 => cdUnit d == n
    | 1 => 12 * cdUnit d + 11 == n
    | 4 => false
    | _ =>
      if n < 96 then match pinColumn s n with
        | none => false
        | some c => decide (cdCol d ≤ c) && decide (c < cdCol d + cdCols d)
      else bit (cdRows d) (n - 96)

/-- SEL of a bank: the union of the SEG_MASK of its enabled STRING channels (R163). -/
def bankSel (ds : List (List Byte)) (b : Nat) : Nat :=
  ds.foldl (fun m d => if cdKind d = 1 && cdUnit d == b then m ||| cdSel d else m) 0

/-- EN of a head's share: the outputs that an enabled HEAD channel names (R258, R259). -/
def headEnable (s : State) (c h : Nat) : Nat :=
  (litDescs s).foldl (fun m d => if cdKind d = 4 && cdUnit d == 64 * c + h then m ||| cdRows d else m) 0

end Sys2Proof.Machine
end

