-- ==== Sys2Proof/Machine/Caliper.lean ====
section
/-! DEFINITION. The Caliper units: sequence tables, entries and urgent requests, over-range words, the turn-on checks of
Wedge, accumulators and their reads (R190, R194 to R211). -/

namespace Sys2Proof.Machine

/-- A unit's record. -/
def State.calUnit (s : State) (u : Nat) : CalUnit := sget (fun _ => CalUnit.zero) s.cal u
/-- The state with a unit's record set. -/
def State.setCal (s : State) (u : Nat) (r : CalUnit) : State := { s with cal := sput (fun _ => CalUnit.zero) s.cal u r }
/-- Modulator `k` as a resource. -/
def modRes (k : Nat) : Resource := .modulator ⟨k % 8, Nat.mod_lt _ (by decide)⟩

/-! ### Sequence tables (R198, R199) -/

/-- ARR is INTERLEAVED. -/
def ctInter (t : List Byte) : Bool := bit (le t 0 1) 0
/-- NSEQ. -/
def ctNseq (t : List Byte) : Nat := bits (le t 1 1) 1 0
/-- An entry. -/
def ctEntry (t : List Byte) (k : Nat) : List Byte := slice t (16 + 8 * k) 8
/-- INPUT. -/
def ceInput (e : List Byte) : Nat := le e 0 1
/-- ACC. -/
def ceAcc (e : List Byte) : Nat := le e 1 1
/-- REPEAT, in words. -/
def ceRepeat (e : List Byte) : Nat := bits (le e 2 2) 11 0 + 1
/-- IOW. -/
def ceIow (e : List Byte) : Nat := bits (le e 4 2) 12 10
/-- LAST. -/
def ceIsLast (e : List Byte) : Bool := bit (le e 6 1) 3

/-- The open-wire currents that an input allows (R198). -/
def iowOk (input iow : Nat) : Bool :=
  let row := decide (48 ≤ input) && decide (input < 52)
  match iow with
  | 0 => true
  | 1 | 2 | 3 => decide (input < 24) || row
  | 5 | 6 | 7 => row
  | _ => false

/-- A used entry without a reserved value (R199). -/
def calEntryOk (e : List Byte) : Bool :=
  decide (ceInput e < 96) && decide (ceAcc e < 64) && decide (le e 2 2 < 4096) && decide (le e 4 2 < 2 ^ 13)
    && iowOk (ceInput e) (ceIow e) && decide (bits (le e 6 1) 2 0 < 7) && bits (le e 6 1) 7 4 == 0 && zeros e 7 1

/-- The entries with LAST = 1, ascending. -/
def ctLasts (t : List Byte) : List Nat := (List.range 128).filter fun k => ceIsLast (ctEntry t k)

/-- First and last entry of sequence `q`, where the table has one (R199). -/
def ctSpan (t : List Byte) (q : Nat) : Option (Nat × Nat) :=
  if ctNseq t ≤ q then none
  else match ctLasts t with
    | [] => none
    | a :: r => if q = 0 then some (0, a) else match r with
        | [] => none
        | b :: _ => some (a + 1, b)

/-- The content checks of a sequence table (R199). -/
def calTableOk (t : List Byte) : Bool :=
  let n := ctNseq t
  bits (le t 0 1) 7 1 == 0 && decide (le t 1 1 < 3) && zeros t 2 14 && !(n == 2 && ctInter t) && decide (n ≤ (ctLasts t).length)
    && (match ctSpan t (n - 1) with
        | none => true
        | some sp => (List.range (sp.2 + 1)).all fun k => calEntryOk (ctEntry t k))

/-! ### Accumulators (R206, R209) -/

/-- A word as a number. -/
def wordOf (w : BitVec 24) : Int := w.toInt

/-- Words collected into an entry register (R201). -/
def Acc.collect (a : Acc) (ws : List Int) : Acc :=
  { a with sum := a.sum + ws.sum, count := a.count + ws.length, low := ws.foldl min a.low, high := ws.foldl max a.high }

/-- An entry merged into its accumulator in one step (R206). -/
def Acc.merge (a e : Acc) : Acc :=
  let sum := a.sum + e.sum
  let cnt := a.count + e.count
  ⟨clampS 48 sum, satTo (2 ^ 32 - 1) cnt, min a.low e.low, max a.high e.high,
   a.sat || sum != clampS 48 sum || decide (2 ^ 32 ≤ cnt), a.ovr || e.ovr⟩

/-- An accumulator as its 24 bytes of the snapshot (R209). -/
def Acc.bytes (a : Acc) : List Byte :=
  leBytes 6 (enc 48 a.sum) ++ [BitVec.ofNat 8 (b2n a.sat + 2 * b2n a.ovr), 0] ++ leBytes 4 a.count
    ++ leBytes 4 (enc 24 a.low) ++ leBytes 8 (enc 24 a.high)

/-- An accumulator of a unit. -/
def CalUnit.accAt (r : CalUnit) (n : Nat) : Acc := sget (fun _ => Acc.zero) r.acc n
/-- An entry register of a unit. -/
def CalUnit.partAt (r : CalUnit) (q : Nat) : Acc := sget (fun _ => Acc.zero) r.part q

/-! ### Who runs -/

/-- A unit's checks and conversions can be made: its buffer is ready and the modulator domain runs (R18, R197). -/
def calReady (s : State) (u : Nat) : Bool := s.flag (F.CAL_Un_STAT.REF_READY u) && s.get (F.CLK_Dd.STATE 4) == 1

/-- Sequence `q` is loaded and owns its modulators (R200). -/
def seqLoaded (s : State) (u q : Nat) : Bool :=
  let t := (s.calUnit u).table
  (ctSpan t q).isSome && s.owner (modRes (2 * u + q)) == cSequence
    && (!ctInter t || s.owner (modRes (2 * u + 1)) == cSequence)

/-- Sequence `q` uses the modulator of urgent requests, M(2u + 1) (R202). -/
def seqUrgentMod (s : State) (u q : Nat) : Bool := q == 1 || ctInter (s.calUnit u).table

/-- The entry register of a source. -/
def srcNum : CalSource → Nat
  | .seq0 => 0
  | .seq1 => 1
  | .urgent => 2

/-- An entry register emptied. -/
def dropPart (s : State) (u q : Nat) : State :=
  let r := s.calUnit u
  s.setCal u { r with part := sput (fun _ => Acc.zero) r.part q Acc.zero }

/-- WQ follows the queue of Wedge's requests. -/
def setWq (s : State) (u : Nat) (l : List TurnOn) : State :=
  (s.setCal u { s.calUnit u with wq := l }).set (F.CAL_Un_STAT.WQ u) l.length

/-- The next urgent request runs, Wedge's before the host's; a sequence it finds on the modulator is preempted and its words
discarded (R202). -/
def urgentNext (s : State) (u : Nat) : State :=
  let r := s.calUnit u
  let was := s.get (F.CAL_Un_STAT.URG u)
  let now := if was != 0 then was else if !r.wq.isEmpty then 1 else if r.host.isSome then 2 else 0
  let s := s.set (F.CAL_Un_STAT.URG u) now
  if was = 0 && now != 0 then
    let s := dropPart s u 2
    let hit := (List.range 2).filter fun q => seqLoaded s u q && seqUrgentMod s u q
    if hit.isEmpty then s else (s.each hit fun s q => dropPart s u q).bump (F.CAL_Un_CNT.PREEMPT u)
  else s

/-- The urgent request that ran is over, and the next one runs. -/
def urgentOver (s : State) (u : Nat) : State :=
  let r := s.calUnit u
  let next := if !r.wq.isEmpty then 1 else if r.host.isSome then 2 else 0
  (dropPart s u 2).set (F.CAL_Un_STAT.URG u) next

/-- A host request that runs is aborted by a request of Wedge, reported as an eviction (R202). -/
def hostAbort (s : State) (u : Nat) : State :=
  let r := modRes (2 * u + 1)
  let s := s.setCal u { s.calUnit u with host := none }
  let s := ((s.set (F.CAL_Un_URG_STAT.BUSY u) 0).set (F.CAL_Un_URG_STAT.RESULT u) 1).set (F.CAL_Un_STAT.URG u) 0
  let s := (s.set (loserF r) cHost).bump (conflictF r)
  (dropPart s u 2).event 0x50 true (ownershipPayload r (s.owner r) cHost true)

/-- Wedge asks for the turn-on check of a sink (R190): queued, or not made and counted as exceeding (R197). -/
def turnOnCheck (s : State) (c : TurnOn) : State :=
  let u := c.pin / 24
  if !calReady s u then pinEval s c.pin 2 none
  else
    let s := if s.get (F.CAL_Un_STAT.URG u) = 2 then hostAbort s u else s
    let was := s.get (F.CAL_Un_STAT.URG u)
    let s := setWq s u ((s.calUnit u).wq ++ [c])
    if was = 0 then urgentNext s u else s

/-- A check is abandoned: Wedge withdrew the enable (R190). -/
def turnOnAbandon (s : State) (pin : Nat) : State :=
  let u := pin / 24
  let l := (s.calUnit u).wq
  let first := s.get (F.CAL_Un_STAT.URG u) == 1 && (match l with
    | [] => false
    | c :: _ => c.pin == pin)
  let s := if l.any fun c => c.pin == pin then setWq s u (l.filter fun c => c.pin != pin) else s
  if first then urgentOver s u else s

/-- The check's words pass: their mean lies within 0.75 to 1.25 times ISET × ONT / 65,536, on the 1.0 A scale (R190,
R196). -/
def turnOnPass (c : TurnOn) (a : Acc) : Bool :=
  let want : Int := (c.iset * c.ont * 8388607 * a.count : Nat)
  decide (3 * want ≤ 4 * a.sum * 6553600) && decide (4 * a.sum * 6553600 ≤ 5 * want)

/-! ### Entries and urgent requests (R201 to R204) -/

/-- Whether a source converts now, its REPEAT, target accumulator, entry (0xFF for urgent) and input. -/
structure CalRun where
  repeats : Nat
  acc : Nat
  entry : Nat
  input : Nat
  deriving DecidableEq, Repr

/-- The entry in progress of sequence `q`. -/
def seqEntryF (u q : Nat) : Field := if q = 0 then F.CAL_Un_STAT.SEQ0_ENTRY u else F.CAL_Un_STAT.SEQ1_ENTRY u

/-- What a source is converting, none where it does not run. -/
def calRun (s : State) (u : Nat) (src : CalSource) : Option CalRun :=
  if !s.flag (F.CAL_Un_STAT.REF_READY u) then none
  else match src with
    | .urgent =>
      let r := s.calUnit u
      match s.get (F.CAL_Un_STAT.URG u) with
      | 1 => r.wq.head?.map fun c => ⟨40, 0, 0xFF, 24 + c.pin % 24⟩
      | 2 => r.host.map fun v => ⟨bits v 27 16 + 1, bits v 13 8, 0xFF, bits v 6 0⟩
      | _ => none
    | _ =>
      let q := srcNum src
      if !seqLoaded s u q || (s.get (F.CAL_Un_STAT.URG u) != 0 && seqUrgentMod s u q) then none
      else
        let k := s.get (seqEntryF u q)
        let e := ctEntry (s.calUnit u).table k
        some ⟨ceRepeat e, ceAcc e, k, ceInput e⟩

/-- Words put into the entry register of a source, with the OVR mark of an over-range word. -/
def collectWords (s : State) (u q : Nat) (ws : List Int) (ovr : Bool) : State :=
  let r := s.calUnit u
  let a := (r.partAt q).collect ws
  s.setCal u { r with part := sput (fun _ => Acc.zero) r.part q { a with ovr := a.ovr || ovr } }

/-- The entry register of a source merged into an accumulator and emptied. -/
def mergePart (s : State) (u q n : Nat) : State :=
  let r := s.calUnit u
  let a := (r.accAt n).merge (r.partAt q)
  dropPart (s.setCal u { r with acc := sput (fun _ => Acc.zero) r.acc n a }) u q

/-- A sequence goes on to its next entry; at the end of its loop LOOP takes the loop's duration (R201). -/
def seqAdvance (s : State) (u q : Nat) : State :=
  match ctSpan (s.calUnit u).table q with
  | none => s
  | some sp =>
    let k := s.get (seqEntryF u q)
    if k < sp.2 then s.set (seqEntryF u q) (k + 1)
    else
      let r := s.calUnit u
      let took := roundOpen ((s.elapsed - sget (fun _ => 0) r.loopAt q : Nat)) 1000
      let s := s.set (seqEntryF u q) sp.1
      let s := s.setCal u { r with loopAt := sput (fun _ => 0) r.loopAt q s.elapsed }
      s.set (if q = 0 then F.CAL_Un_LOOP0.LOOP u else F.CAL_Un_LOOP1.LOOP u) (satTo (2 ^ 32 - 1) took.toNat)

/-- The host's request completes (R203). -/
def hostDone (s : State) (u n : Nat) : State :=
  let s := mergePart s u 2 n
  let s := s.setCal u { s.calUnit u with host := none }
  let s := ((s.set (F.CAL_Un_URG_STAT.BUSY u) 0).set (F.CAL_Un_URG_STAT.DONE u) 1).set (F.CAL_Un_URG_STAT.RESULT u) 0
  urgentOver (s.set F.CAL_EVT.URG_DONE 1) u

/-- Wedge's check completes: a LOWCUR evaluation, its words going nowhere else (R190, R202). -/
def turnOnDone (s : State) (u : Nat) : State :=
  let r := s.calUnit u
  match r.wq with
  | [] => s
  | c :: t =>
    let pass := turnOnPass c (r.partAt 2)
    pinEval (urgentOver (setWq s u t) u) c.pin 2 (some !pass)

/-- CALIPER_ENTRY_COMPLETE (R201): the words since the last over-range one; the entry's last word has completed. -/
def execCaliperEntryComplete (unit : Fin 4) (src : CalSource) (words : List (BitVec 24)) (s : State) :
    Host.Outcome State Fault Refusal :=
  .next (match calRun s unit src with
    | none => s
    | some c =>
      let q := srcNum src
      if ((s.calUnit unit).partAt q).count + words.length != c.repeats then s
      else
        let s := collectWords s unit q (words.map wordOf) false
        match src with
        | .urgent => if s.get (F.CAL_Un_STAT.URG unit) = 1 then turnOnDone s unit else hostDone s unit c.acc
        | _ => seqAdvance (mergePart s unit q c.acc) unit q)

/-- CALIPER_OVER_RANGE (R204): the words before it, then the word clamped; flagged, counted, and reported when its flag was
clear. -/
def execCaliperOverRange (unit : Fin 4) (src : CalSource) (words : List (BitVec 24)) (positive : Bool) (s : State) :
    Host.Outcome State Fault Refusal :=
  .next (match calRun s unit src with
    | none => s
    | some c =>
      let q := srcNum src
      if c.repeats < ((s.calUnit unit).partAt q).count + words.length + 1 then s
      else
        let s := collectWords s unit q (words.map wordOf ++ [if positive then 0x7FFFFF else -0x800000]) true
        let s := s.bump (F.CAL_Un_CNT.OVRWORDS unit)
        if src = .urgent && s.get (F.CAL_Un_STAT.URG unit) == 1 then s
        else
          let f : Field := if src = .urgent then F.CAL_Un_URG_STAT.OVR unit
            else ⟨R.CAL_Un_OVRm unit (c.entry / 32), c.entry % 32, c.entry % 32⟩
          if s.flag f then s
          else ((s.set f 1).set F.CAL_EVT.OVR 1).event 0x67 true
            [BitVec.ofNat 8 unit, BitVec.ofNat 8 c.entry, BitVec.ofNat 8 c.input])

/-- A write of CAL_Un_URG: a host urgent request, or refused with RESULT 2 and counted (R203); the self-test refuses every one
(R403). An input beyond 95 is a reserved encoding. -/
def calUrgWrite (s : State) (u v : Nat) : State :=
  if 95 < bits v 6 0 then s.wrErr
  else if s.flag (F.CAL_Un_URG_STAT.BUSY u) || !s.flag (F.CAL_Un_STAT.REF_READY u) || s.flag F.HIF_STAT.SELFTEST
      || s.owner (modRes (2 * u + 1)) == cSelfTest || !iowOk (bits v 6 0) (s.get (F.CAL_Un_URG_CFG.IOW u)) then
    (s.set (F.CAL_Un_URG_STAT.RESULT u) 2).wrErr
  else
    let s := s.setCal u { s.calUnit u with host := some v }
    urgentNext (s.set (F.CAL_Un_URG_STAT.BUSY u) 1) u

/-! ### Tables (R200) -/

/-- A table loads: it claims its modulators, releases those it no longer uses and starts every sequence afresh. -/
def loadSequence (s : State) (it : Item) (bytes : List Byte) : LoadResult :=
  let u := dInst it.desc
  if !calTableOk bytes then .refused stBadEntry 0 s
  else
    let n := ctNseq bytes
    let need := if n = 0 then [] else if ctInter bytes then [0, 1] else List.range n
    let r := claimAll s (need.map fun q => modRes (2 * u + q)) cSequence
    if !r.2 then .refused stConflict 0 ((r.1.set (F.CAL_Un_STAT.CONFLICT u) 1).set F.CAL_EVT.LOAD_CONFLICT 1)
    else
      let s := r.1.each ((List.range 2).filter fun q => !need.contains q) fun s q => releaseOwn s cSequence (modRes (2 * u + q))
      let s := s.setCal u { s.calUnit u with table := if n = 0 then [] else bytes,
                                             loopAt := if n = 0 then [] else sparseFrom 0 [s.elapsed, s.elapsed] }
      let s := dropPart (dropPart s u 0) u 1
      let s := ((s.set (F.CAL_Un_STAT.CONFLICT u) 0).set (F.CAL_Un_STAT.ARR u) (b2n (ctInter bytes && n != 0))).set
        (F.CAL_Un_STAT.NSEQ u) n
      .loaded (s.each [0, 1] fun s q => s.set (seqEntryF u q) (match ctSpan bytes q with
        | none => 0
        | some sp => sp.1))

/-- TABLE_LOAD_CALIPER_SEQUENCE (R200). -/
def execTableLoadCaliperSequence (ring : Fin 16) (payload : List Byte) (s : State) : Host.Outcome State Fault Refusal :=
  .next (tableRun s ring 0x08 payload loadSequence)

/-! ### The reference buffer (R197) -/

/-- REF_READY (R197): the buffer has been enabled for 2 ms. -/
def execRefReady (unit : Fin 4) (s : State) : Host.Outcome State Fault Refusal :=
  .next (if s.flag (F.CAL_Un_CTL.REF_EN unit) && decide ((s.calUnit unit).refAt + 2000000 ≤ s.elapsed) then
      s.set (F.CAL_Un_STAT.REF_READY unit) 1
    else s)

/-- Whether Blaze or Wedge has claimed a pin of a unit. -/
def unitClaimed (s : State) (u : Nat) : Bool :=
  (List.range 24).any fun i => let o := s.owner (objRes (24 * u + i)); decide (1 ≤ o) && decide (o ≤ 4)

/-- REF_EN changes (R197): the buffer off, sequences wait at their first entry and Wedge's checks cannot be made. -/
def refSwitch (s : State) (u : Nat) (on : Bool) : State :=
  let was := s.flag (F.CAL_Un_CTL.REF_EN u)
  let s := s.set (F.CAL_Un_CTL.REF_EN u) (b2n on)
  if on == was then s
  else if on then s.setCal u { s.calUnit u with refAt := s.elapsed }
  else
    let t := (s.calUnit u).table
    let s := s.set (F.CAL_Un_STAT.REF_READY u) 0
    let s := s.each [0, 1] fun s q => (dropPart s u q).set (seqEntryF u q) (match ctSpan t q with
      | none => 0
      | some sp => sp.1)
    let l := (s.calUnit u).wq
    let run := s.get (F.CAL_Un_STAT.URG u)
    let s := setWq s u []
    let s := if run = 1 then urgentOver s u else s
    s.each l fun s c => pinEval s c.pin 2 none

/-! ### Reads and clears (R207 to R211) -/

/-- The shadow registers take an accumulator (R207). -/
def loadShadow (s : State) (u n : Nat) : State :=
  let a := (s.calUnit u).accAt n
  let mn := enc 24 a.low
  let mx := enc 24 a.high
  let s := s.write (R.CAL_Un_SHD_HI u) (BitVec.ofNat 32
    (enc 48 a.sum / 2 ^ 32 + 2 ^ 16 * n + 2 ^ 22 * b2n a.sat + 2 ^ 23 * b2n a.ovr + 2 ^ 24))
  let s := s.write (R.CAL_Un_SHD_CNT u) (BitVec.ofNat 32 a.count)
  let s := s.write (R.CAL_Un_SHD_MIN u) (BitVec.ofNat 32 (mn + 2 ^ 24 * (if bit mn 23 then 0xFF else 0)))
  s.write (R.CAL_Un_SHD_MAX u) (BitVec.ofNat 32 (mx + 2 ^ 24 * (if bit mx 23 then 0xFF else 0)))

/-- SUM[31:0] of an accumulator. -/
def sumLow (s : State) (u n : Nat) : Nat := enc 48 ((s.calUnit u).accAt n).sum % 2 ^ 32

/-- An accumulator emptied. -/
def accClear (s : State) (u n : Nat) : State :=
  let r := s.calUnit u
  s.setCal u { r with acc := sput (fun _ => Acc.zero) r.acc n Acc.zero }

/-- Every accumulator of a unit emptied (R208). -/
def accClearAll (s : State) (u : Nat) : State := s.setCal u { s.calUnit u with acc := [] }

/-- SNAPSHOT_ACCUMULATORS (R209): all 64 and the OVR words, then cleared where CLEAR = 1. -/
def execSnapshotAccumulators (ring : Fin 16) (s : State) : Host.Outcome State Fault Refusal :=
  .next (
    let clear := match running s ring 0x03 with
      | none => none
      | some it => if dId it.desc = 0x07 && bit (le it.desc 22 1) 0 && decide (1552 ≤ dLength it.desc) then some (dInst it.desc) else none
    let s := snapshotRun s ring 0x07 fun s d =>
      let u := dInst d
      (List.range 64).flatMap (fun n => ((s.calUnit u).accAt n).bytes)
        ++ (List.range 4).flatMap fun m => leBytes 4 (s.read (R.CAL_Un_OVRm u m)).toNat
    match clear with
    | none => s
    | some u => accClearAll s u)

/-- The counts that CAL_CTL.CNT_CLR clears, those of the fault tallies among them (R28, R211). -/
def calCntClr (s : State) : State :=
  let s := s.clearAll ((List.range 4).flatMap fun u => [F.CAL_Un_CNT.PREEMPT u, F.CAL_Un_CNT.OVRWORDS u])
  let s := s.each (s.lamp.obj.map (·.1)) fun s n =>
    let o := s.lampObj n
    s.setObj n { o with oc := o.oc.clearCounts, off := o.off.clearCounts, lowcur := o.lowcur.clearCounts }
  let s := s.each (s.lamp.adj.map (·.1)) fun s n => s.setAdj n { s.adjPair n with tally := (s.adjPair n).tally.clearCounts }
  s.each (s.lamp.bank.map (·.1)) fun s b =>
    let r := s.bankSt b
    s.setBankSt b { r with node := r.node.map fun e => (e.1, e.2.clearCounts) }

end Sys2Proof.Machine
end

