-- ==== Sys2Proof/Machine/Blaze.lean ====
section
/-! DEFINITION. Blaze: bank modes, PWM periods and sub-pulses, string tracking, open search and segment test, the matrix and
its frames, thermal shutdown, and Wedge's enables as they reach the objects (R156 to R179, R182, R183, R185, R192). -/

namespace Sys2Proof.Machine

/-! ### Segments of a string (R163) -/

/-- The segments that a mask holds. -/
def segsOf (mask : Nat) : List Nat := (List.range 11).filter (bit mask)

/-- VF of a segment in 0.1 V. -/
def segVf (s : State) (b k : Nat) : Nat := bits (s.read (R.BLZ_Bb_SEGVF0 b + k / 4 * 4)).toNat (8 * (k % 4) + 7) (8 * (k % 4))

/-- SEL of a bank. -/
def State.sel (s : State) (b : Nat) : Nat := s.get (F.BLZ_Bb_TRK.SEL b)
/-- Segments shed by tracking. -/
def State.shed (s : State) (b : Nat) : Nat := s.get (F.BLZ_Bb_TRK.TRK_BYP b)
/-- Segments marked OPEN. -/
def State.openSegs (s : State) (b : Nat) : Nat := s.get (F.BLZ_Bb_STAT.OPEN_MASK b)

/-- Segments of SEL that are neither shed nor OPEN. -/
def freeSegs (s : State) (b : Nat) : List Nat :=
  (segsOf (s.sel b)).filter fun k => !bit (s.shed b) k && !bit (s.openSegs b) k

/-- Segments whose bypass the search or the test may close beside: none where only one conducts (rule 5 of R163). -/
def spareSegs (s : State) (b : Nat) : List Nat := if 2 ≤ (freeSegs s b).length then freeSegs s b else []

/-- A segment is marked OPEN (R166). -/
def markOpen (s : State) (b k : Nat) : State :=
  let s := s.set (F.BLZ_Bb_STAT.OPEN_MASK b) (putBit (s.openSegs b) k true)
  (s.set F.BLZ_EVT.SEG_OPEN 1).event 0x62 true [BitVec.ofNat 8 b, BitVec.ofNat 8 k]

/-- STRING_OPEN ends (R165). -/
def stringClosed (s : State) (b : Nat) : State :=
  if s.flag (F.BLZ_Bb_STAT.STRING_OPEN b) then
    (s.set (F.BLZ_Bb_STAT.STRING_OPEN b) 0).event 0x62 false [BitVec.ofNat 8 b, 0xFF]
  else s

/-- OPEN_CLR (R166): the bank's marks and STRING_OPEN, with their end records. -/
def openClr (s : State) (b : Nat) : State :=
  let l := segsOf (s.openSegs b)
  let s := s.set (F.BLZ_Bb_STAT.OPEN_MASK b) 0
  stringClosed (s.each l fun s k => s.event 0x62 false [BitVec.ofNat 8 b, BitVec.ofNat 8 k]) b

/-- The payload of a TRK_LIMIT record (R178). -/
def limitPayload (s : State) (b : Nat) : List Byte :=
  [BitVec.ofNat 8 b, BitVec.ofNat 8 (s.get (F.BLZ_Bb_TRK.H b))] ++ leBytes 2 (s.shed b)

/-- TRK_LIMIT begins (R164). -/
def limitOn (s : State) (b : Nat) : State :=
  if s.flag (F.BLZ_Bb_STAT.TRK_LIMIT b) then s
  else ((s.set (F.BLZ_Bb_STAT.TRK_LIMIT b) 1).set F.BLZ_EVT.TRK_LIMIT 1).event 0x61 true (limitPayload s b)

/-- LSUP is too low for the string (the supply test of R164). -/
def supplyLow (s : State) (b : Nat) : Bool :=
  decide (s.get F.CAL_LSUP.VAL < ((freeSegs s b).map (segVf s b)).sum + 12)

/-! ### Segment test (R167) -/

/-- The results of a test: SEGMEAS of every segment, SHORT of those measured. -/
def testFinish (s : State) (b : Nat) (meas : List (Nat × Nat)) : State :=
  let val (k : Nat) := match meas.find? fun e => e.1 == k with
    | none => 0xFF
    | some e => e.2
  let word (i : Nat) := leVal ((List.range 4).map fun j => BitVec.ofNat 8 (if 4 * i + j < 11 then val (4 * i + j) else 0))
  let s := s.each [0, 1, 2] fun s i => s.write (R.BLZ_Bb_SEGMEAS0 b + 4 * i) (BitVec.ofNat 32 (word i))
  let s := s.setBankSt b { s.bankSt b with test := none }
  s.each meas fun s e =>
    let short := decide (2 * e.2 < segVf s b e.1)
    let m := s.get (F.BLZ_Bb_STAT.SHORT_MASK b)
    if short == bit m e.1 then s
    else
      let s := s.set (F.BLZ_Bb_STAT.SHORT_MASK b) (putBit m e.1 short)
      let s := if short then s.set F.BLZ_EVT.SEG_SHORT 1 else s
      s.event 0x63 short [BitVec.ofNat 8 b, BitVec.ofNat 8 e.1, BitVec.ofNat 8 e.2]

/-- A segment test starts unless one runs; with nothing to measure it ends at once (R167). -/
def testStart (s : State) (b : Nat) : State :=
  if s.bankMode b != 1 || (s.bankSt b).test.isSome then s
  else if (spareSegs s b).isEmpty then testFinish s b []
  else s.setBankSt b { s.bankSt b with test := some ⟨spareSegs s b, none, none, []⟩ }

/-- What a sample does for a running test; `usable` says that current flowed and tracking made no change. -/
def testSample (s : State) (b : Nat) (h : Nat) (usable : Bool) : State :=
  match (s.bankSt b).test with
  | none => s
  | some t =>
    let put (t : SegTest) := s.setBankSt b { s.bankSt b with test := some t }
    if !usable then put { t with cur := none, base := none }
    else match t.cur, t.base with
      | some k, some h0 =>
        let rise := satTo 254 (roundOpen ((h - h0 : Nat)) 2).toNat
        let meas := t.meas ++ [(k, rise)]
        if t.todo.tail.isEmpty then testFinish s b meas else put ⟨t.todo.tail, none, none, meas⟩
      | _, _ => put { t with cur := none, base := some h }

/-! ### Open search (R165) -/

/-- No bypass restored current: STRING_OPEN, and the string stays dark until the repeat. -/
def searchFail (s : State) (b : Nat) : State :=
  let s := s.setBankSt b { s.bankSt b with search := none, searchedAt := s.elapsed }
  if s.flag (F.BLZ_Bb_STAT.STRING_OPEN b) then s
  else ((s.set (F.BLZ_Bb_STAT.STRING_OPEN b) 1).set F.BLZ_EVT.SEG_OPEN 1).event 0x62 true [BitVec.ofNat 8 b, 0xFF]

/-- An open search starts; a running segment test ends without results (R165, R167). -/
def searchStart (s : State) (b : Nat) : State :=
  let s := s.bump (F.BLZ_Bb_CNT.SEARCH b)
  let s := s.setBankSt b { s.bankSt b with waiting := false, retry := false, test := none, search := some (spareSegs s b) }
  if (spareSegs s b).isEmpty then searchFail s b else s

/-- The sample of a sub-pulse of a search: current with segment `k` bypassed marks it OPEN, else the next one (R165). -/
def searchSample (s : State) (b : Nat) (cands : List Nat) (cur : Bool) : State :=
  match cands with
  | [] => searchFail s b
  | k :: t =>
    if cur then stringClosed (markOpen (s.setBankSt b { s.bankSt b with search := none, okRun := 0 }) b k) b
    else if t.isEmpty then searchFail s b
    else s.setBankSt b { s.bankSt b with search := some t }

/-- A new LSUP reading decides a waiting supply test (R165). -/
def supplyTest (s : State) (b : Nat) : State :=
  if !(s.bankSt b).waiting then s
  else if supplyLow s b then limitOn (s.setBankSt b { s.bankSt b with waiting := false }) b
  else searchStart s b

/-! ### Tracking (R164) -/

/-- The segment that tracking sheds next: the highest of SEL ∩ SHED_MASK not yet bypassed, never the last one conducting. -/
def nextShed (s : State) (b : Nat) : Option Nat :=
  if (freeSegs s b).length < 2 then none
  else ((freeSegs s b).filter (bit (s.get (F.BLZ_Bb_CFG.SHED_MASK b)))).getLast?

/-- The segment that tracking restores next: the lowest it has shed. -/
def nextRestore (s : State) (b : Nat) : Option Nat :=
  ((segsOf (s.sel b)).filter fun k => bit (s.shed b) k && !bit (s.openSegs b) k).head?

/-- TRK_LIMIT clears after 8 consecutive samples at 1.2 V or above. -/
def limitSample (s : State) (b : Nat) (ok : Bool) : State :=
  let r := s.bankSt b
  let n := if ok then satTo 8 (r.good + 1) else 0
  let s := s.setBankSt b { r with good := n }
  if n = 8 && s.flag (F.BLZ_Bb_STAT.TRK_LIMIT b) then
    (s.set (F.BLZ_Bb_STAT.TRK_LIMIT b) 0).event 0x61 false (limitPayload s b)
  else s

/-- Tracking uses a sample, none for NOCUR; answers whether it changed a bypass (R164). -/
def trackSample (s : State) (b : Nat) (h : Option Nat) : State × Bool :=
  let ok := match h with
    | none => false
    | some v => decide (24 ≤ v)
  let s := limitSample s b ok
  let r := s.bankSt b
  let s := s.setBankSt b { r with restored := none, waiting := r.waiting && h.isNone }
  match r.restored, h with
  | some j, none => (markOpen (s.setBankSt b { s.bankSt b with okRun := 0 }) b j, true)
  | _, _ =>
    if !ok then
      match nextShed s b with
      | some k =>
        ((s.set (F.BLZ_Bb_TRK.TRK_BYP b) (putBit (s.shed b) k true)).setBankSt b { s.bankSt b with okRun := 0 }, true)
      | none =>
        let s := s.setBankSt b { s.bankSt b with okRun := 0 }
        (if h.isNone then s.setBankSt b { s.bankSt b with waiting := true } else limitOn s b, false)
    else
      match nextRestore s b with
      | none => (s.setBankSt b { s.bankSt b with okRun := 0 }, false)
      | some j =>
        let n := if 2 * segVf s b j + 32 ≤ h.getD 0 then (s.bankSt b).okRun + 1 else 0
        if n = 8 then
          ((s.set (F.BLZ_Bb_TRK.TRK_BYP b) (putBit (s.shed b) j false)).setBankSt b
            { s.bankSt b with okRun := 0, restored := some j }, true)
        else (s.setBankSt b { s.bankSt b with okRun := n }, false)

/-! ### The node check (R192) -/

/-- The violation of a segment at a sample: 1 BYP_OPEN, 0 NODE_LOW; voltages in mV. -/
def nodeViolation (s : State) (b k : Nat) (mv : Nat) : Option Nat :=
  if bit (s.bankSt b).byp k then (if 1000 ≤ mv then some 1 else none)
  else if mv < 50 * segVf s b k then some 0
  else none

/-- The check of every segment at a sample. -/
def nodeCheck (s : State) (b : Nat) (volts : List Nat) : State :=
  (List.range 11).foldl (fun s k =>
    match nodeViolation s b k (volts.getD k 0) with
    | none => s
    | some kind =>
      let r := s.bankSt b
      s.setBankSt b { r with bad := if r.bad.contains k then r.bad else r.bad ++ [k],
                             kind := sput (fun _ => 0) r.kind k kind }) s

/-- The NODE evaluations of a period with an evaluated sub-pulse; a lasting NODE_LOW starts a segment test. -/
def nodeEval (s : State) (b : Nat) : State :=
  if !(s.bankSt b).evald then s
  else
    let bad := (s.bankSt b).bad
    let s := (List.range 11).foldl (fun s k =>
      let r := s.bankSt b
      let e := Tally.eval (sget (fun _ => Tally.zero) r.node k) (s.get F.CAL_TALLY2.NODE) (some (bad.contains k)) true
      let kind := sget (fun _ => 0) r.kind k
      let s := s.setBankSt b { r with node := sput (fun _ => Tally.zero) r.node k e.1 }
      let s := faultRecord s 0x66 F.CAL_EVT.NODE_FAULT [BitVec.ofNat 8 b, BitVec.ofNat 8 k, BitVec.ofNat 8 kind] e.1 e.2
      if e.2 = .began && kind == 0 then testStart s b else s) s
    s.setBankSt b { s.bankSt b with bad := [], evald := false }

/-- HEADROOM_SAMPLE (R164): H at 2.5 µs into a sub-pulse of 3 µs or longer, none for NOCUR, with the segments' voltages in
mV for the node check (R192). -/
def execHeadroomSample (bank : Fin 8) (h : Option (BitVec 8)) (volts : List Nat) (s : State) :
    Host.Outcome State Fault Refusal :=
  .next (
    let o := s.lampObj (12 * bank + 11)
    if s.bankMode bank != 1 || !o.conducting || !o.pulseEval then s
    else
      let v : Option Nat := h.map (·.toNat)
      let s := (s.set (F.BLZ_Bb_TRK.H bank) (v.getD 0)).set (F.BLZ_Bb_TRK.NOCUR bank) (b2n v.isNone)
      let s := nodeCheck s bank volts
      let r := s.bankSt bank
      if r.retry then
        if v.isSome then stringClosed (s.setBankSt bank { r with retry := false, okRun := 0 }) bank else searchStart s bank
      else match r.search with
        | some l => searchSample s bank l v.isSome
        | none =>
          if s.flag (F.BLZ_Bb_STAT.STRING_OPEN bank) then s
          else
            let t := trackSample s bank v
            testSample t.1 bank (v.getD 0) (v.isSome && !t.2))

/-- OPEN_SEARCH_RETRY (R165): 100 ms after a search that failed, its first sub-pulse is driven as the string stands. -/
def execOpenSearchRetry (bank : Fin 8) (s : State) : Host.Outcome State Fault Refusal :=
  .next (
    let r := s.bankSt bank
    if s.flag (F.BLZ_Bb_STAT.STRING_OPEN bank) && r.search.isNone && !r.retry && decide (r.searchedAt + 100000000 ≤ s.elapsed) then
      s.setBankSt bank { r with retry := true }
    else s)

/-- SEGTEST_AUTO_DUE (R167): every 60 s while SEGTEST_AUTO = 1; skipped while a test runs. -/
def execSegtestAutoDue (bank : Fin 8) (s : State) : Host.Outcome State Fault Refusal :=
  .next (
    let r := s.bankSt bank
    if s.flag (F.BLZ_Bb_CFG.SEGTEST_AUTO bank) && decide (r.autoAt + 60000000000 ≤ s.elapsed) then
      testStart (s.setBankSt bank { r with autoAt := s.elapsed }) bank
    else s)

/-- SEL of a bank changes: a wait, a search and a test are abandoned; tracking keeps one segment of the new SEL unshed
(R163, R165, R167). -/
def selChange (s : State) (b sel : Nat) : State :=
  if s.sel b = sel then s
  else
    let s := s.set (F.BLZ_Bb_TRK.SEL b) sel
    let s := s.setBankSt b { s.bankSt b with waiting := false, search := none, retry := false, test := none, restored := none,
                                             okRun := 0 }
    if (freeSegs s b).isEmpty then
      match nextRestore s b with
      | none => s
      | some j => s.set (F.BLZ_Bb_TRK.TRK_BYP b) (putBit (s.shed b) j false)
    else s

/-! ### Sub-pulses (R161, R162, R182, R185) -/

/-- The bypass switches of a string for the sub-pulse that starts: outside SEL, shed, OPEN, and the one that a search or a
test bypasses (R163). -/
def bypassNow (s : State) (b : Nat) : Nat :=
  let r := s.bankSt b
  let extra := if r.retry then none else match r.search with
    | some (k :: _) => some k
    | _ => match r.test with
      | some t => t.cur
      | none => none
  (List.range 11).foldl (fun m k =>
    putBit m k (!bit (s.sel b) k || bit (s.shed b) k || bit (s.openSegs b) k || extra == some k)) 0

/-- A string's bypass changes at a sub-pulse start; a test takes up its next segment after an unaltered sample. -/
def stringStart (s : State) (b : Nat) : State :=
  let r := s.bankSt b
  let s := match r.test with
    | some t =>
      if t.base.isSome && r.search.isNone && !r.retry && !r.waiting && (freeSegs s b).contains (t.todo.headD 11)
          && decide (2 ≤ (freeSegs s b).length) then s.setBankSt b { r with test := some { t with cur := t.todo.head? } }
      else s
    | none => s
  s.setBankSt b { s.bankSt b with byp := bypassNow s b }

/-- The proof scheduler runs: its domain, the Caliper modulators', does (R185). -/
def proofScheduler (s : State) : Bool := s.get (F.CLK_Dd.STATE 4) == 1

/-- SUB_PULSE_START (R162): the next sub-pulse of a pin's period, or the proof pulse of its window, is driven where Wedge's
enable is present; a string's bypass switches change. -/
def execSubPulseStart (pin : Fin 96) (s : State) : Host.Outcome State Fault Refusal :=
  .next (
    let n : Nat := pin
    let o := s.lampObj n
    let ont := o.ont
    if (pinDrive s n).isNone || ont = 0 || pulsesOf ont ≤ o.next then s
    else
      let str := s.owner (objRes n) == cString
      let s := if str && o.en then stringStart s (n / 12) else s
      let regime := o.en && !lasts ont 3000
      let proof := regime && o.proofDue && o.through && proofScheduler s
      -- T_r of the later periods of a window is 0 where 10 × T_on does not exceed 6 µs
      let none_ := regime && !proof && !o.proofDue && proofScheduler s && !lasts (10 * ont) 6001
      let dark := o.latched || objTsd s n || o.iset == 0 || (str && bypassNow s (n / 12) == 2047)
      s.setObj n { o with next := o.next + 1, conducting := o.en && !dark && !none_, proofNow := proof,
                          proofDue := o.proofDue && !proof,
                          pulseEval := proof || lasts (pulseCounts ont o.next) 3000 })

/-- A pixel's evaluation ends: present, or missing in one more frame (R183). -/
def pixelEnd (s : State) (c : Nat) (present : Bool) : State :=
  let m := s.lamp.matrix
  let r := s.get F.BLZ_MX_STAT.ROW
  match m.cols.find? fun e => e.1 == c with
  | none => s
  | some e =>
    let m := { m with cols := m.cols.filter fun x => x.1 != c }
    if !pixelLasts e.2 m.ont 3000 then s.setMatrix m
    else
      let k := 48 * r + c
      let x := sget (fun _ => Pixel.zero) m.pixels k
      let x : Pixel := if present then ⟨2, 0⟩
        else ⟨if 1 ≤ x.missing then 3 else x.proof, satTo 255 (x.missing + 1)⟩
      let s := s.setMatrix { m with pixels := sput (fun _ => Pixel.zero) m.pixels k x }
      s.each [columnPin s c, 96 + r] fun s n =>
        let o := s.lampObj n
        s.setObj n (if present then { o.present s.elapsed with evald := true, seen := true } else { o with evald := true })

/-- SUB_PULSE_END (R182): PP finds an evaluated sub-pulse, proof pulse or pixel present or missing. A pulse that Wedge cut
short is not evaluated. -/
def execSubPulseEnd (pulse : Pulse) (s : State) : Host.Outcome State Fault Refusal :=
  .next (match pulse with
    | .pixel c present => pixelEnd s c present
    | .pin n present =>
      let o := s.lampObj n
      if !o.conducting then s
      else
        let o' := { o with conducting := false, proofNow := false }
        if !o.pulseEval then s.setObj n o'
        else
          let b : Nat := (n : Nat) / 12
          let s := if s.owner (objRes n) = cString then s.setBankSt b { s.bankSt b with evald := true } else s
          let o' := { o' with evald := true }
          if present then s.setObj n { o'.present s.elapsed with seen := true }
          else if o.proofNow then s.setObj n { o' with proof := 3, missing := satTo 255 (o.missing + 1) }
          else s.setObj n o')

/-! ### PWM periods and frames (R160, R162, R183) -/

/-- The end of a period or frame for an object's proof: a whole enabled one with evaluated pulses and none present is
missing, two in a row make it DARK; a zero command makes it DARK (R183). -/
def proofPeriod (o : LampObj) (zero regime : Bool) : LampObj :=
  if !o.en || regime then o
  else if o.through && zero then { o with proof := 3 }
  else if o.through && o.evald && !o.seen then
    { o with missing := satTo 255 (o.missing + 1), proof := if 1 ≤ o.missing then 3 else o.proof }
  else o

/-- A new period or frame begins for an object: what Blaze restores, and the flags of the next one. -/
def newPeriod (o : LampObj) : LampObj :=
  { o with latched := o.latched && !o.resume, resume := false, through := o.en, evald := false, seen := false }

/-- A pin's period boundary. -/
def pinBoundary (s : State) (n : Nat) (window : Bool) : State :=
  let s := if supervised s n && !(s.lampObj n).en then pinEval s n 1 (some (s.lampObj n).offTrip) else s
  let o := s.lampObj n
  let o := { o with offTrip := o.uncmd }
  match pinDrive s n with
  | none => s.setObj n o
  | some d =>
    let zero := o.ont == 0 || o.iset == 0
    let o := newPeriod (proofPeriod o zero (o.ont != 0 && !lasts o.ont 3000))
    s.setObj n { o with cmd := d.1, iset := d.2.1, curve := d.2.2, next := 0, proofDue := o.proofDue || window }

/-- PWM_PERIOD_BOUNDARY (R160): the period's evaluations, then the settings of the next one; every tenth period starts a
proof window (R185). -/
def execPwmPeriodBoundary (s : State) : Host.Outcome State Fault Refusal :=
  .next (
    let w := s.tai / 10000000
    let fresh := s.lamp.window != w
    let s := { s with lamp := { s.lamp with window := w } }
    let s := (List.range 8).foldl nodeEval s
    (List.range 112).foldl (fun s n => pinBoundary s n fresh) s)

/-- An object of the matrix at a frame boundary. -/
def matrixBoundary (s : State) (n : Nat) : State :=
  if decide (96 ≤ n) || (pinColumn s n).isSome then
    s.setObj n (newPeriod (proofPeriod (s.lampObj n) false false))
  else s

/-! ### Wedge's enables (R162, R163, R172, R183, R190) -/

/-- A swap is armed; an extra arm before the frame boundary is merged (R172, R174). -/
def armSwap (s : State) : State :=
  if s.flag F.BLZ_MX_STAT.ARMED then s.bump F.BLZ_MX_CNT.MERGED else s.set F.BLZ_MX_STAT.ARMED 1

/-- An object's enable as Wedge's vote now gives it. -/
def enableObj (s : State) (n : Nat) (on : Bool) : State :=
  let o := s.lampObj n
  if o.en == on then s
  else if on then
    let s := s.setObj n { o with en := true, since := s.elapsed, proof := 1, missing := 0, offc := false, through := false,
                                 evald := false, seen := false, blindFrom := s.elapsed }
    match (if n < 96 then pinDrive s n else none) with
    | none => s
    | some d => if lasts (ontOf d.2.2 d.1) 48000 then turnOnCheck s ⟨n, d.2.1, ontOf d.2.2 d.1⟩ else s
  else
    let s := s.setObj n { o with en := false, proof := 0, missing := 0, conducting := false, proofNow := false,
                                 blindAcc := o.blindAcc + (s.elapsed - o.blindFrom) }
    if n < 96 then turnOnAbandon s n else s

/-- The set of PAGE channels that Wedge enables; a change arms a swap, and a withdrawn page is no longer shown (R172). -/
def pageSet (s : State) : State :=
  let want := match s.wedge.image with
    | none => []
    | some i => (votedChans s).filter fun k => cdKind (i.chan k) == 2
  let m := s.lamp.matrix
  if want.all m.wanted.contains && m.wanted.all want.contains then s
  else armSwap (s.setMatrix { m with wanted := want, shown := m.shown.filter want.contains })

/-- Wedge's enables reach the matrix, the strings and the objects. -/
def applyEnables (s : State) : State :=
  let s := pageSet s
  let ds := litDescs s
  let s := (List.range 8).foldl (fun s b => selChange s b (bankSel ds b)) s
  (List.range 112).foldl (fun s n => enableObj s n (objEnabled s ds n)) s

/-! ### Bank modes (R156 to R159, R168) -/

/-- The bank's claimant code of a mode (R156). -/
def modeCode (mode : Nat) : Nat := match mode with
  | 1 => cString
  | 2 => cSimple
  | _ => cMatrix

/-- The limits of SIMPLE mode on the ISET codes of a bank (R168). -/
def simpleOk (l : List Nat) : Bool := l.all (fun i => decide (i ≤ 35)) && decide (l.sum ≤ 200)

/-- The ISET codes of a bank, with pin `k` at `v`. -/
def isetsWith (s : State) (b k v : Nat) : List Nat :=
  (List.range 12).map fun j => if j = k then v else s.get (F.BLZ_Bb_PINk.ISET b j)

/-- All drive of a bank stops. -/
def bankDark (s : State) (b : Nat) : State :=
  (List.range 12).foldl (fun s k => s.setObj (12 * b + k) { s.lampObj (12 * b + k) with conducting := false }) s

/-- An accepted write of BLZ_Bb_CFG, its value free of reserved bits (R157, R158): the claim of the twelve pins, their
release, or the settings alone. -/
def bankCfgWrite (s : State) (b v : Nat) : State :=
  let mode := bits v 1 0
  let old := s.get (F.BLZ_Bb_CFG.MODE b)
  if mode != old && mode != 0 && old != 0 then s.wrErr
  else if mode == 2 && old == 0 && !simpleOk (isetsWith s b 12 0) then s.wrErr
  else
    let auto := bit v 15 && !s.flag (F.BLZ_Bb_CFG.SEGTEST_AUTO b)
    let put (s : State) : State :=
      let s := (s.write (R.BLZ_Bb_CFG b) (BitVec.ofNat 32 v)).set (F.BLZ_Bb_STAT.CONFLICT b) 0
      if auto then s.setBankSt b { s.bankSt b with autoAt := s.elapsed } else s
    if mode == old && mode != 0 then put s
    else if mode = 0 then
      let s := bankDark s b
      let s := s.each (bankPins b) fun s r => releaseOwn s (if old = 0 then 0 else modeCode old) r
      ((put s).set (F.BLZ_Bb_STAT.MODE_ST b) 0).set (F.BLZ_Bb_STAT.EVICTED b) 0
    else
      let r := claimAll s (bankPins b) (modeCode mode)
      if r.2 then applyEnables ((put r.1).set (F.BLZ_Bb_STAT.MODE_ST b) mode)
      else r.1.set (F.BLZ_Bb_STAT.CONFLICT b) 1

/-- Wedge claims a pin; a bank it evicts stops driving and reads OFF (R22, R159). -/
def wedgePin (s : State) (n : Nat) : State :=
  let r := wedgeClaim s (objRes n)
  if r.2 = cString || r.2 = cSimple || r.2 = cMatrix then
    let b := n / 12
    let s := (r.1.set (F.BLZ_Bb_STAT.MODE_ST b) 0).set (F.BLZ_Bb_STAT.EVICTED b) 1
    bankDark (s.set F.BLZ_EVT.EVICTED 1) b
  else r.1

/-! ### The matrix (R169 to R174) -/

/-- The row switches and MSYNC that a value of BLZ_MX_CFG claims. -/
def matrixClaims (v : Nat) : List Resource :=
  (List.range (bits v 8 5 + 1)).map (fun r => objRes (96 + r)) ++ (if bit v 17 then [.msync] else [])

/-- A value of BLZ_MX_CFG that R169 reserves: ICOL, or with EN = 1 a bank outside MATRIX mode or beyond 7. -/
def matrixReserved (s : State) (v : Nat) : Bool :=
  let icol := bits v 16 9
  let first := bits v 2 0
  let n := bits v 4 3
  decide (icol < 5) || decide (160 < icol) || decide (2000 < icol * 12 * (n + 1))
    || (bit v 19 && (decide (7 < first + n) || (List.range (n + 1)).any fun i => s.bankMode (first + i) != 3))

/-- The row switches and MSYNC that the matrix no longer uses are released. -/
def matrixRelease (s : State) (keep : List Resource) : State :=
  s.each ((.msync :: (List.range 16).map fun r => objRes (96 + r)).filter fun r => !keep.contains r) fun s r =>
    releaseOwn s cMatrix r

/-- An accepted write of BLZ_MX_CFG, its value free of reserved bits (R169). -/
def matrixCfgWrite (s : State) (v : Nat) : State :=
  if matrixReserved s v then s.wrErr
  else if bit v 19 then
    let was := s.flag F.BLZ_MX_CFG.EN
    let r := claimAll s (matrixClaims v) cMatrix
    if !r.2 then r.1.set F.BLZ_MX_STAT.CONFLICT 1
    else
      let s := matrixRelease r.1 (matrixClaims v)
      let s := ((s.write R.BLZ_MX_CFG (BitVec.ofNat 32 v)).set F.BLZ_MX_STAT.CONFLICT 0).set F.BLZ_STAT.MX_ACTIVE 1
      applyEnables (if was then s else s.setMatrix { s.lamp.matrix with next := 16, cut := false, cols := [], pixels := [] })
  else
    let s := matrixRelease s []
    let s := ((s.write R.BLZ_MX_CFG (BitVec.ofNat 32 v)).set F.BLZ_MX_STAT.CONFLICT 0).set F.BLZ_STAT.MX_ACTIVE 0
    applyEnables ((s.set F.BLZ_MX_STAT.ROW 0).setMatrix { s.lamp.matrix with next := 16, cut := false, cols := [], pixels := [] })

/-- A write of SWAP: armed, or ignored and counted while the matrix is not enabled (R172, R174). -/
def swapWrite (s : State) : State := if s.flag F.BLZ_MX_CFG.EN then armSwap s else s.wrErr

/-- Whether an enabled region drives a pixel (R172). -/
def inRegion (ds : List (List Byte)) (r c : Nat) : Bool :=
  ds.any fun d => (cdKind d == 2 || cdKind d == 3) && bit (cdRows d) r && decide (cdCol d ≤ c) && decide (c < cdCol d + cdCols d)

/-- ROW_SLOT_START (R170): the next row slot is scanned; the pixels of its row that an enabled region drives are lit, each
from UNPROVEN, DARK where its drive is zero (R183). -/
def execRowSlotStart (s : State) : Host.Outcome State Fault Refusal :=
  .next (
    let m := s.lamp.matrix
    let r := m.next
    if !s.flag F.BLZ_MX_CFG.EN || 16 ≤ r || m.cut then s
    else
      let ds := litDescs s
      let cols := (List.range (12 * (s.get F.BLZ_MX_CFG.NBANK_M1 + 1))).filter fun c =>
        pixelMapped s 0 c && inRegion ds r c
      let row := s.lampObj (96 + r)
      let drive := cols.filter fun c =>
        let o := s.lampObj (columnPin s c)
        pixelMapped s r c && row.en && !row.latched && frontPixel s r c != 0 && m.ont != 0 && o.en && !o.latched && !objTsd s (columnPin s c) && !objTsd s 96
      let pixels := (List.range 48).foldl (fun l c =>
        let x := sget (fun _ => Pixel.zero) l (48 * r + c)
        let x : Pixel := if !inRegion ds r c then Pixel.zero
          else if frontPixel s r c = 0 || m.ont = 0 then ⟨3, x.missing⟩
          else if x.proof = 0 then ⟨1, 0⟩ else x
        sput (fun _ => Pixel.zero) l (48 * r + c) x) m.pixels
      (s.set F.BLZ_MX_STAT.ROW r).setMatrix { m with next := r + 1, cols := drive.map (fun c => (c, frontPixel s r c)),
                                                     pixels := pixels })

/-- The pages of the enabled PAGE channels written into their regions of the back buffer (R172). -/
def pagesIn (s : State) (back : List (Nat × Byte)) : List (Nat × Byte) :=
  match s.wedge.image with
  | none => back
  | some i => s.lamp.matrix.wanted.foldl (fun l k =>
      let d := i.chan k
      let px := regionOf d
      ((List.range px.length).zip px).foldl (fun l e =>
        sput (fun _ => (0 : Byte)) l (48 * e.2.1 + e.2.2) ((i.pages.getD (cdSel d) []).getD e.1 0)) l) back

/-- A swap: the pages, the exchange, and the copy of the new front buffer into the back buffer (R172, R174). -/
def swapNow (s : State) : State :=
  let m := s.lamp.matrix
  let img := pagesIn s m.back
  let s := s.setMatrix { m with front := img, back := img, shown := m.wanted }
  let s := (s.set F.BLZ_MX_STAT.ARMED 0).set F.BLZ_MX_STAT.FRONT (1 - s.get F.BLZ_MX_STAT.FRONT)
  s.bump F.BLZ_MX_CNT.SWAPS

/-- FRAME_BOUNDARY (R172): the frame's proofs, an armed swap with the PAGE enables that wait for it, the brightness, and a
new frame. -/
def execFrameBoundary (s : State) : Host.Outcome State Fault Refusal :=
  .next (
    let m := s.lamp.matrix
    if !s.flag F.BLZ_MX_CFG.EN || !(m.next == 16 || m.cut) then s
    else
      let s := (List.range 112).foldl matrixBoundary s
      let s := if s.flag F.BLZ_MX_STAT.ARMED then swapNow s else s
      let ont := ontOf (s.get F.BLZ_MX_BRIGHT.CURVE) (s.get F.BLZ_MX_BRIGHT.CMD)
      applyEnables (s.setMatrix { s.lamp.matrix with ont := ont, next := 0, cut := false, cols := [], frameAt := s.elapsed }))

/-- MSYNC_EDGE (R173): an edge less than 1.5 ms after the last is ignored; an accepted one arms a swap and ends the frame
at the present row slot's end, unless it lies within 2 µs of a natural boundary. -/
def execMsyncEdge (s : State) : Host.Outcome State Fault Refusal :=
  .next (
    let m := s.lamp.matrix
    if !s.flag F.BLZ_MX_CFG.EN || !s.flag F.BLZ_MX_CFG.MSYNC_EN then s
    else if (match m.msyncAt with
        | none => false
        | some t => decide (s.elapsed < t + 1500000)) then (s.bump F.BLZ_MX_CNT2.MSYNC_IGN).set F.BLZ_EVT.MSYNC_IGN 1
    else
      let s := s.setMatrix { m with msyncAt := some s.elapsed }
      let s := if s.flag F.BLZ_MX_CFG.MSYNC_SWAP then armSwap s else s
      let since := s.elapsed - m.frameAt
      if !s.flag F.BLZ_MX_CFG.MSYNC_ALIGN || since ≤ 2000 || (1598000 ≤ since && since ≤ 1602000) || m.next = 0 then s
      else (s.setMatrix { s.lamp.matrix with cut := true }).bump F.BLZ_MX_CNT2.ALIGN)

/-- The frame memory loads the back buffer, or answers BUSY while a swap is armed (R174). -/
def loadFrame (s : State) (_ : Item) (bytes : List Byte) : LoadResult :=
  if s.flag F.BLZ_MX_STAT.ARMED then .refused stBusy 0 (s.set F.BLZ_EVT.FRAME_BUSY 1)
  else .loaded (s.setMatrix { s.lamp.matrix with back := sparseFrom 0 bytes })

/-- TABLE_LOAD_FRAME_MEMORY (R174). -/
def execTableLoadFrameMemory (ring : Fin 16) (payload : List Byte) (s : State) : Host.Outcome State Fault Refusal :=
  .next (tableRun s ring 0x09 payload loadFrame)

/-! ### Thermal shutdown (R177) -/

/-- THERMAL_SHUTDOWN (R177): a bank's, or (8) the row switches', junction has reached 150 °C. The operand is the record's
temperature + 40. -/
def execThermalShutdown (sensor : Fin 9) (temp : BitVec 8) (s : State) : Host.Outcome State Fault Refusal :=
  .next (
    let n : Nat := sensor
    let t := s.get F.BLZ_STAT.TSD
    if bit t n then s
    else
      let s := (s.set F.BLZ_STAT.TSD (putBit t n true)).set F.BLZ_EVT.THERMAL 1
      let s := if n < 8 then
          let s := (s.set (F.BLZ_Bb_STAT.TSD n) 1).bump (F.BLZ_Bb_CNT.TSD n)
          let s := s.setBankSt n { s.bankSt n with test := none, byp := 0, tsdAt := s.elapsed }
          bankDark s n
        else s.setMatrix { s.lamp.matrix with cols := [], tsdAt := s.elapsed }
      let s := s.each (if n < 8 then (List.range 12).map (12 * n + ·) else (List.range 16).map (96 + ·)) fun s k =>
        if (s.lampObj k).en then s.setObj k { s.lampObj k with proof := 3 } else s
      s.event 0x60 true [BitVec.ofNat 8 n, temp])

/-- THERMAL_RESUME (R177): at the next period or frame after the sensor has stayed below 135 °C and 1 s has passed. -/
def execThermalResume (sensor : Fin 9) (temp : BitVec 8) (s : State) : Host.Outcome State Fault Refusal :=
  .next (
    let n : Nat := sensor
    let t := s.get F.BLZ_STAT.TSD
    let at0 := if n < 8 then (s.bankSt n).tsdAt else s.lamp.matrix.tsdAt
    if bit t n && decide (at0 + 1000000000 ≤ s.elapsed) then
      let s := s.set F.BLZ_STAT.TSD (putBit t n false)
      let s := if n < 8 then s.set (F.BLZ_Bb_STAT.TSD n) 0 else s
      s.event 0x60 false [BitVec.ofNat 8 n, temp]
    else s)

/-- The counts that BLZ_CTL.CNT_CLR clears (R179). -/
def blzCntClr (s : State) : State :=
  s.clearAll ([F.BLZ_MX_CNT.SWAPS, F.BLZ_MX_CNT.MERGED, F.BLZ_MX_CNT2.ALIGN, F.BLZ_MX_CNT2.MSYNC_IGN]
    ++ (List.range 8).flatMap fun b => [F.BLZ_Bb_CNT.TSD b, F.BLZ_Bb_CNT.SEARCH b])

end Sys2Proof.Machine
end

