-- ==== Sys2Proof/Machine/Flume.lean ====
section
/-! DEFINITION. The Flume ports: links, flow control, datagrams, thin steps, and the stream and port tables
(R318 to R330, R340, R341). -/

namespace Sys2Proof.Machine

/-! ### Links and flow control (R319, R320) -/

/-- Whether a stream is held by its port: link down, PAUSE, or its priority under PFC (R320, R341). -/
def streamHeld (s : State) (n : Nat) : Bool :=
  let e := s.streamEntry n
  let p := sePort e
  !s.flag (F.FLM_Pp_STAT.LINK p) || s.flag (F.FLM_Pp_STAT.PAUSED p)
    || bit (s.get (F.FLM_Pp_STAT.PFC_PAUSED p)) (sePcp e)

/-- WAITING of every stream follows the state of its port (R341). -/
def waitingAll (s : State) : State :=
  (List.range 16).foldl (fun s n =>
    s.setFlag (F.FLM_Sn_STAT.WAITING n) (seEn (s.streamEntry n) && streamHeld s n)) s

/-- FLUME_LINK (R320, R340): a port's link changes state. -/
def execFlumeLink (port : EthPort) (up : Bool) (s : State) : Host.Outcome State Fault Refusal :=
  let p := port.num
  if s.flag (F.FLM_Pp_STAT.LINK p) == up then .next s
  else
    let s := s.setFlag (F.FLM_Pp_STAT.LINK p) up
    let s := s.setFlag (if p = 0 then F.FLM_STAT.LINK0 else F.FLM_STAT.LINK1) up
    let s := waitingAll (s.set F.FLM_EVT.LINK 1)
    .next (s.event 0xA0 (!up) [BitVec.ofNat 8 p])

/-- PAUSE_FRAME (R320): counted; under FC = PAUSE it stops the port for its quanta, 0 quanta resume. -/
def execPauseFrame (port : EthPort) (quanta : BitVec 16) (s : State) : Host.Outcome State Fault Refusal :=
  let p := port.num
  let s := s.bump (F.FLM_Pp_PAUSE_CNT.FRAMES p)
  .next (if s.get (F.FLM_Pp_CFG.FC p) = 1 then waitingAll (s.setFlag (F.FLM_Pp_STAT.PAUSED p) (quanta != 0)) else s)

/-- The quanta of one priority in a PFC frame. -/
def pfcQuanta (q : BitVec 128) (k : Nat) : Nat := bits q.toNat (16 * k + 15) (16 * k)

/-- The paused priorities after a PFC frame: those its enable vector names stop for their quanta, 0 quanta resume. -/
def pfcMask (old : Nat) (enables : BitVec 8) (quanta : BitVec 128) : Nat :=
  (List.range 8).foldl (fun m k => if enables.getLsbD k then putBit m k (pfcQuanta quanta k != 0) else m) old

/-- PFC_FRAME (R320): counted; under FC = PFC it stops the named priorities for their quanta. -/
def execPfcFrame (port : EthPort) (enables : BitVec 8) (quanta : BitVec 128) (s : State) :
    Host.Outcome State Fault Refusal :=
  let p := port.num
  let s := s.bump (F.FLM_Pp_PAUSE_CNT.FRAMES p)
  .next (if s.get (F.FLM_Pp_CFG.FC p) = 2 then
    waitingAll (s.set (F.FLM_Pp_STAT.PFC_PAUSED p) (pfcMask (s.get (F.FLM_Pp_STAT.PFC_PAUSED p)) enables quanta))
    else s)

/-- PAUSE_EXPIRY (R320): the quanta of a PAUSE, or of one PFC priority, end. -/
def execPauseExpiry (port : EthPort) (prio : Option (Fin 8)) (s : State) : Host.Outcome State Fault Refusal :=
  let p := port.num
  .next (waitingAll (match prio with
    | none => s.set (F.FLM_Pp_STAT.PAUSED p) 0
    | some k => s.set (F.FLM_Pp_STAT.PFC_PAUSED p) (putBit (s.get (F.FLM_Pp_STAT.PFC_PAUSED p)) k false)))

/-- RX_FRAME_DISCARD (R319): a received frame that the port does not act on is counted. -/
def execRxFrameDiscard (port : EthPort) (s : State) : Host.Outcome State Fault Refusal :=
  .next (s.bump (F.FLM_Pp_RX_DISC.FRAMES port.num))

/-! ### Datagrams (R321, R322) -/

/-- The first `n` bytes of a queue, and the queue after them. -/
def takePayload : Nat → List QRec → List Byte × List QRec
  | _, [] => ([], [])
  | n, r :: t =>
    if n = 0 then ([], r :: t)
    else if r.bytes.length ≤ n then
      let x := takePayload (n - r.bytes.length) t
      (r.bytes ++ x.1, x.2)
    else (r.bytes.take n, { r with bytes := r.bytes.drop n, begun := true } :: t)

/-- REC_OFS: where the first record or block starts in the first `n` bytes of a queue (R321). -/
def recOfs (n : Nat) : Nat → List QRec → Nat
  | _, [] => 0xFFFF
  | off, r :: t => if n ≤ off then 0xFFFF else if r.begun then recOfs n (off + r.bytes.length) t else off

/-- The most payload bytes of a datagram (R322). -/
def payLimit (s : State) (e : List Byte) : Nat := s.get (F.FLM_Pp_CFG.MTU (sePort e)) - (if seV6 e then 80 else 60)

/-- Big-endian bytes of a number, as Ethernet and IP headers carry it. -/
def beBytes (n v : Nat) : List Byte := (leBytes n v).reverse

/-- The sum of 16-bit big-endian words. -/
def sum16 : List Byte → Nat
  | a :: b :: t => a.toNat * 256 + b.toNat + sum16 t
  | [a] => a.toNat * 256
  | [] => 0

/-- The one's-complement Internet checksum. -/
def inetChecksum (bs : List Byte) : Nat :=
  let f (x : Nat) := x % 65536 + x / 65536
  0xFFFF - f (f (f (sum16 bs)))

/-- The 32-byte Flume header (R321). -/
def flumeHeader (s : State) (n : Nat) (ofs len : Nat) : List Byte :=
  leBytes 2 0x464C ++ [1, BitVec.ofNat 8 (n + 16 * b2n (seChip (s.streamEntry n)))]
    ++ leBytes 4 (s.get (F.FLM_Sn_SEQ.SEQ n)) ++ leBytes 8 s.tai ++ leBytes 2 ofs ++ leBytes 2 len
    ++ leBytes 4 (s.get F.HIF_EPOCH.EPOCH) ++ leBytes 2 (s.fstream n).gen ++ leBytes 6 0

/-- A UDP header and its data, the checksum computed over the pseudo header (R321). -/
def udpDatagram (src dst : List Byte) (v6 : Bool) (sport dport : Nat) (data : List Byte) : List Byte :=
  let len := 8 + data.length
  let pseudo := src ++ dst ++ (if v6 then beBytes 4 len ++ [0, 0, 0, 17] else [0, 17] ++ beBytes 2 len)
  let head := beBytes 2 sport ++ beBytes 2 dport ++ beBytes 2 len
  let c := inetChecksum (pseudo ++ head ++ [0, 0] ++ data)
  head ++ beBytes 2 (if c = 0 then 0xFFFF else c) ++ data

/-- The IP packet of a UDP datagram; `ident` is the IPv4 identification or the IPv6 flow label, which the spec leaves
open (R321, log entry 4). -/
def ipPacket (v6 : Bool) (src dst : List Byte) (dscp ttl ident : Nat) (udp : List Byte) : List Byte :=
  if v6 then
    beBytes 4 (6 * 2 ^ 28 + dscp * 4 * 2 ^ 20 + ident % 2 ^ 20) ++ beBytes 2 udp.length ++ [17, BitVec.ofNat 8 ttl]
      ++ src ++ dst ++ udp
  else
    let a := [0x45, BitVec.ofNat 8 (dscp * 4)] ++ beBytes 2 (20 + udp.length) ++ beBytes 2 (ident % 2 ^ 16)
      ++ [0x40, 0x00, BitVec.ofNat 8 ttl, 17]
    a ++ beBytes 2 (inetChecksum (a ++ [0, 0] ++ src ++ dst)) ++ src ++ dst ++ udp

/-- A whole frame of a stream (R321). The frame check sequence is left to the line. -/
def streamFrame (s : State) (n : Nat) (data : List Byte) : List Byte :=
  let e := s.streamEntry n
  let pt := sget (fun _ => zeroEntry 64) s.flume.ports (sePort e)
  let src := if seV6 e then slice pt 16 16 else slice pt 8 4
  let dst := if seV6 e then slice e 16 16 else slice e 16 4
  let ip := ipPacket (seV6 e) src dst (seDscp e) (s.get (F.FLM_Pp_CFG.TTL (sePort e))) (s.freeVal 20)
    (udpDatagram src dst (seV6 e) (le pt 32 2 + n) (le e 14 2) data)
  slice e 8 6 ++ slice pt 0 6 ++ (if seVlan e then beBytes 2 0x8100 ++ beBytes 2 (sePcp e * 8192 + seVid e) else [])
    ++ beBytes 2 (if seV6 e then 0x86DD else 0x0800) ++ ip

/-- Whether a stream may send now: its port enabled and not held (R320). -/
def maySend (s : State) (n : Nat) : Bool :=
  let e := s.streamEntry n
  seEn e && s.flag (F.FLM_Pp_CFG.EN (sePort e)) && !streamHeld s n

/-- A datagram of up to the limit is sent from a stream's queue (R321, R322). -/
def sendDatagram (s : State) (n : Nat) : State :=
  let e := s.streamEntry n
  let q := s.fstream n
  let x := takePayload (payLimit s e) q.queue
  if x.1.isEmpty then s
  else
    let data := flumeHeader s n (recOfs x.1.length 0 q.queue) x.1.length ++ x.1
    let s := s.emit (.frame (if sePort e = 0 then .fp0 else .fp1) (streamFrame s n data))
    let s := s.tookFree
    let s := s.setFstream n { q with queue := x.2 }
    let s := s.set (F.FLM_Sn_SEQ.SEQ n) (s.get (F.FLM_Sn_SEQ.SEQ n) + 1)
    s.bump (F.FLM_Pp_TX_CNT.DATAGRAMS (sePort e))

/-- Bytes of a stream's queue, without an open Chipper block. -/
def queueBytes (s : State) (n : Nat) : Nat := ((s.fstream n).queue.map (·.bytes.length)).sum

/-- A full datagram payload is sent (R322). -/
def sendFull (s : State) (n : Nat) : State :=
  if maySend s n && decide (payLimit s (s.streamEntry n) ≤ queueBytes s n) then sendDatagram s n else s

/-- FLUSH_MS after its first byte a partial datagram is sent; an open Chipper block closes (R322, R326). -/
def sendFlush (s : State) (n : Nat) : State :=
  let q := s.fstream n
  let e := s.streamEntry n
  let first := match q.queue with
    | r :: _ => some r.queuedAt
    | [] => if q.raw.isEmpty then none else some q.firstAt
  match first with
  | none => s
  | some t =>
    if maySend s n && decide (t + seFlush e * 1000000 ≤ s.elapsed) then
      sendDatagram (if q.raw.isEmpty then s else closeBlock s n) n
    else s

/-! ### Thin steps (R328) -/

/-- A stream on a port, enabled. -/
def onPort (s : State) (p n : Nat) : Bool := seEn (s.streamEntry n) && sePort (s.streamEntry n) == p

/-- The stream an up step raises: lowest PRIO, then highest index, among those below THIN_MAX. -/
def upChoice (s : State) (p : Nat) : Option Nat :=
  (List.range 16).foldl (fun best n =>
    if onPort s p n && decide (s.get (F.FLM_Sn_STAT.T n) < seThinMax (s.streamEntry n)) then
      match best with
      | none => some n
      | some b => if sePrio (s.streamEntry n) ≤ sePrio (s.streamEntry b) then some n else best
    else best) none

/-- The stream a down step lowers: highest PRIO, then lowest index, among those above level 0. -/
def downChoice (s : State) (p : Nat) : Option Nat :=
  (List.range 16).foldl (fun best n =>
    if onPort s p n && decide (0 < s.get (F.FLM_Sn_STAT.T n)) then
      match best with
      | none => some n
      | some b => if sePrio (s.streamEntry b) < sePrio (s.streamEntry n) then some n else best
    else best) none

/-- One thin step of a stream: T moves by one and takes effect at its next record (R328). -/
def thinStep (s : State) (p n : Nat) (up : Bool) : State :=
  let t := s.get (F.FLM_Sn_STAT.T n)
  let s := s.set (F.FLM_Sn_STAT.T n) (if up then t + 1 else t - 1)
  let s := s.bump (F.FLM_Sn_STAT.STEPS n)
  let s := s.setFstream n { s.fstream n with thinDue := true, thinUp := up }
  let s := s.set F.FLM_EVT.THIN 1
  { s with flume := { s.flume with port := sput (fun _ => FPort.zero) s.flume.port p ⟨some s.elapsed, 0⟩ } }

/-- The check of one port (R328). -/
def thinCheck (s : State) (p : Nat) : State :=
  let q := queueSize s
  let b := portBytes s p
  let r := sget (fun _ => FPort.zero) s.flume.port p
  let low := if b * 100 ≤ 25 * q then r.lowRun + 1 else 0
  let since := match r.lastStep with
    | none => none
    | some t => some (s.elapsed - t)
  let quiet (ns : Nat) : Bool := match since with
    | none => true
    | some d => decide (ns ≤ d)
  let s := { s with flume := { s.flume with port := sput (fun _ => FPort.zero) s.flume.port p { r with lowRun := low } } }
  if decide (75 * q ≤ b * 100) && quiet 100000000 then
    match upChoice s p with
    | some n => thinStep s p n true
    | none => s
  else if decide (101 ≤ low) && quiet 1000000000 then
    match downChoice s p with
    | some n => thinStep s p n false
    | none => s
  else s

/-- THIN_CHECK (R328): at every 10 ms of TAI each port is checked. -/
def execThinCheck (s : State) : Host.Outcome State Fault Refusal := .next (thinCheck (thinCheck s 0) 1)

/-! ### The tables (R324 to R326) -/

/-- A stream table entry that R324 does not refuse. -/
def streamEntryOk (e : List Byte) : Bool :=
  let src := seSrc e
  decide (src ≤ 4) && decide (seIndex e < (if src = 0 then 64 else if src = 1 || src = 2 then 2 else 1))
    && !bit (le e 2 1) 7 && !bit (le e 4 2) 15 && decide (1 ≤ seFlush e) && decide (seFlush e ≤ 1000)
    && (seV6 e || zeros e 20 12) && zeros e 34 30 && (src == 3 || seMask e == 0)
    && !(decide (0 < seThinMax e) && (src == 3 || src == 4)) && !(src == 3 && seMask e == 0)

/-- Whether a context serves an enabled compressed stream. -/
def ctxUsed (s : State) (k : Nat) : Bool :=
  (List.range 16).any fun n => seEn (s.streamEntry n) && seChip (s.streamEntry n) && seCtx (s.streamEntry n) == k

/-- Contexts that no stream uses any more are released (R326). -/
def releaseStreams (s : State) : State :=
  (List.range 4).foldl (fun s k =>
    if ctxUsed s k then s else releaseOwn s cFlume (.context ⟨k % 4, Nat.mod_lt _ (by decide)⟩)) s

/-- A stream restarts with a changed entry, and the captures to it end ABORTED with PARTIAL (R324, R331). -/
def streamChanged (s : State) (n : Nat) (e : List Byte) : State :=
  let s := s.each (s.hif.items.filter fun it =>
    isCapture it && it.run.cursor != 0 && dId it.desc == 2 && dInst it.desc == n) abortCapture
  streamRestart s n e

/-- The load of stream-table entries: checked, contexts claimed, changed streams restarted (R324, R326). -/
def loadStreams (s : State) (it : Item) (bytes : List Byte) : LoadResult :=
  let first := dFirst it.desc
  let es := entriesOf 64 bytes
  match firstBad (fun _ e => streamEntryOk e) first es with
  | some i => .refused stBadEntry i s
  | none =>
    let want := (es.filter fun e => seEn e && seChip e).map seCtx
    let r := claimAll s (want.map fun k => .context ⟨k % 4, Nat.mod_lt _ (by decide)⟩) cFlume
    if !r.2 then .refused stConflict 0 r.1
    else
      let s := (List.range es.length).foldl (fun s i =>
        let e := es.getD i []
        if s.streamEntry (first + i) == e then s else streamChanged s (first + i) e) r.1
      .loaded (waitingAll (releaseStreams s))

/-- TABLE_LOAD_STREAM (R324). -/
def execTableLoadStream (ring : Fin 16) (payload : List Byte) (s : State) : Host.Outcome State Fault Refusal :=
  .next (tableRun s ring 0x20 payload loadStreams)

/-- A port table entry that R325 does not refuse. -/
def portEntryOk (e : List Byte) : Bool :=
  decide (1024 ≤ le e 32 2) && decide (le e 32 2 ≤ 65520) && zeros e 6 2 && zeros e 12 4 && zeros e 34 30

/-- The load of port-table entries, in effect at the next datagram of each port (R325). -/
def loadPorts (s : State) (it : Item) (bytes : List Byte) : LoadResult :=
  let first := dFirst it.desc
  let es := entriesOf 64 bytes
  match firstBad (fun _ e => portEntryOk e) first es with
  | some i => .refused stBadEntry i s
  | none =>
    let ports := (List.range es.length).foldl
      (fun m i => sput (fun _ => zeroEntry 64) m (first + i) (es.getD i [])) s.flume.ports
    .loaded { s with flume := { s.flume with ports := ports } }

/-- TABLE_LOAD_PORT (R325). -/
def execTableLoadPort (ring : Fin 16) (payload : List Byte) (s : State) : Host.Outcome State Fault Refusal :=
  .next (tableRun s ring 0x21 payload loadPorts)

/-- FLM_CTL.CNT_CLR: every Flume count (R341). -/
def flmCntClr (s : State) : State :=
  s.clearAll ((List.range 2).map F.FLM_Pp_TX_CNT.DATAGRAMS ++ (List.range 2).map F.FLM_Pp_PAUSE_CNT.FRAMES
    ++ (List.range 2).map F.FLM_Pp_RX_DISC.FRAMES ++ (List.range 16).map F.FLM_Sn_STAT.STEPS
    ++ (List.range 16).map F.FLM_Sn_THINNED.RECORDS ++ (List.range 16).map F.FLM_Sn_DROP_CNT.RECORDS)

end Sys2Proof.Machine
end

