-- ==== Sys2Proof/Machine/Chipper.lean ====
section
/-! DEFINITION. Chipper jobs: encode, decode, save and restore of a context (R332 to R339). -/

namespace Sys2Proof.Machine

/-- What an encode job has done so far. -/
structure EncRun where
  out : List Byte
  used : Nat
  history : List Byte
  blocks : Nat
  stored : Nat
  mismatches : Nat
  deriving DecidableEq, Repr

/-- The blocks of an encode job, until the input ends or a block is cut by the output space (R336, R337). `upsets` names
the blocks whose verify decode differed. The first argument bounds the number of blocks. -/
def encodeRun : Nat → EncRun → List Byte → Nat → Bool → Nat → List Nat → EncRun
  | 0, r, _, _, _, _, _ => r
  | fuel + 1, r, input, blk, first, room, upsets =>
    if input.isEmpty then r
    else
      let chunk := input.take blk
      match encodeBlock r.history chunk first (upsets.contains r.blocks) room with
      | none => r
      | some b =>
        let h := trimHistory ((if first then [] else r.history) ++ chunk.take b.raw)
        let r' : EncRun := ⟨r.out ++ b.bytes, r.used + b.raw, h, r.blocks + 1, r.stored + b2n b.stored,
          r.mismatches + b2n b.mismatch⟩
        if b.raw < chunk.length then r'
        else encodeRun fuel r' (input.drop b.raw) blk false (room - b.bytes.length) upsets

/-- Whether a job with FIRST = 0 finds its context unusable (R336). -/
def ctxUnusable (s : State) (d : List Byte) (mode : Nat) : Bool :=
  le d 21 1 == 0 && s.get (chipMode (le d 20 1 % 4)) != mode

/-- CHIP_ENC (R337): the input read from the host is encoded into blocks. -/
def execChipEnc (ring : Fin 16) (input : List Byte) (upsets : List Nat) (s : State) :
    Host.Outcome State Fault Refusal :=
  .next (match running s ring 0x10 with
  | none => s
  | some it =>
    let d := it.desc
    let k := le d 20 1 % 4
    if ctxUnusable s d 1 then complete s it (.just stCtxLost)
    else
      let first := le d 21 1 == 1
      let data := slice input 0 (le d 32 3)
      let r := encodeRun (data.length + 1) ⟨[], 0, if first then [] else (s.chipCtx k).history, 0, 0, 0⟩ data
        (2 ^ le d 22 1) first (dLength d) upsets
      let s := s.emit (.hostWrite (dAddr d) r.out)
      let s := s.setChipCtx k { ChipCtx.zero with history := r.history }
      let s := s.set (chipMode k) 1
      let s := s.count F.CHP_STORED_CNT.BLOCKS r.stored
      let s := s.count F.CHP_VERIFY_CNT.BLOCKS r.mismatches
      let s := s.each (List.range r.mismatches) fun s _ =>
        (s.set F.CHP_EVT.VERIFY 1).event 0xA3 true [BitVec.ofNat 8 k]
      complete s it ⟨if r.used = data.length then stOk else stOutFull, r.out.length, r.used, r.blocks, false, false⟩)

/-! ### Decoding (R338) -/

/-- What a decode job has done so far, and the status that ends it. -/
structure DecRun where
  ctx : ChipCtx
  out : List Byte
  used : Nat
  blocks : Nat
  status : Option Nat
  deriving DecidableEq, Repr

/-- A block header of R333 read at a block start; none for a block that is invalid. -/
def readHeader (c : ChipCtx) (h : List Byte) : Option ChipCtx :=
  let f := le h 1 1
  let raw := le h 2 3
  let code := le h 5 3
  let stored := bit f 1
  if le h 0 1 = 0x36 && decide (f < 4) && decide (1 ≤ raw) && decide (raw ≤ 65536) && zeros h 12 4
      && (if stored then code == raw else decide (code < raw)) then
    some ⟨if bit f 0 then [] else c.history, true, raw, code, stored, le h 8 4, 0xFFFFFFFF⟩
  else none

/-- Raw bytes produced inside a block: into the output, the history and the running CRC. -/
def DecRun.produce (r : DecRun) (bytes : List Byte) (used : Nat) : DecRun :=
  { r with ctx := { r.ctx with history := trimHistory (r.ctx.history ++ bytes), rawLeft := r.ctx.rawLeft - bytes.length,
                               codeLeft := r.ctx.codeLeft - used, run := crcRun r.ctx.run bytes },
           out := r.out ++ bytes, used := r.used + used }

/-- The end of a block, where its raw bytes are complete: lengths and CRC are checked (R338). -/
def DecRun.close (r : DecRun) : DecRun :=
  if r.ctx.rawLeft ≠ 0 then r
  else if r.ctx.codeLeft ≠ 0 then { r with status := some stBadStream }
  else if (r.ctx.run ^^^ 0xFFFFFFFF#32).toNat ≠ r.ctx.crc then { r with status := some stBadCrc }
  else { r with ctx := { r.ctx with open_ := false }, blocks := r.blocks + 1 }

/-- One code word, one run of stored bytes or one header of a decode job (R338). `room` is the output space left. -/
def decodeStep (r : DecRun) (input : List Byte) (room : Nat) : DecRun :=
  let c := r.ctx
  if !c.open_ then
    if input.length < 16 then { r with status := some stOk }
    else match readHeader c (input.take 16) with
      | none => { r with status := some stBadStream }
      | some c => { r with ctx := c, used := r.used + 16 }
  else if c.stored then
    let m := min c.codeLeft (min input.length room)
    if room = 0 then { r with status := some stOutFull }
    else if m = 0 then { r with status := some stOk }
    else (r.produce (input.take m) m).close
  else if c.codeLeft = 0 then { r with status := some stBadStream }
  else match parseWord (input.take c.codeLeft) with
    | .short => { r with status := some (if c.codeLeft ≤ input.length then stBadStream else stOk) }
    | .word lits len off used =>
      if c.rawLeft < lits.length + len then { r with status := some stBadStream }
      else if len ≠ 0 && decide (c.history.length + lits.length < off) then { r with status := some stBadStream }
      else if room < lits.length + len then { r with status := some stOutFull }
      else
        let h := c.history ++ lits
        (r.produce ((copyMatch len off h).drop c.history.length) used).close

/-- A decode job, until its input or output space ends or the stream is invalid (R338). The first argument bounds the
number of parts. -/
def decodeRun : Nat → DecRun → List Byte → Nat → DecRun
  | 0, r, _, _ => r
  | fuel + 1, r, input, space =>
    match r.status with
    | some _ => r
    | none =>
      if (input.drop r.used).isEmpty && (!r.ctx.open_ || r.ctx.codeLeft ≠ 0) then
        { r with status := some stOk }
      else decodeRun fuel (decodeStep r (input.drop r.used) (space - r.out.length)) input space

/-- CHIP_DEC (R338): the blocks read from the host are decoded into raw bytes. -/
def execChipDec (ring : Fin 16) (input : List Byte) (s : State) : Host.Outcome State Fault Refusal :=
  .next (match running s ring 0x11 with
  | none => s
  | some it =>
    let d := it.desc
    let k := le d 20 1 % 4
    if ctxUnusable s d 2 then complete s it (.just stCtxLost)
    else
      let data := slice input 0 (le d 32 3)
      let c := if le d 21 1 = 1 then ChipCtx.zero else s.chipCtx k
      let r := decodeRun (data.length + 2) ⟨c, [], 0, 0, none⟩ data (dLength d)
      let st := r.status.getD stOk
      let bad := st == stBadStream || st == stBadCrc
      let s := s.emit (.hostWrite (dAddr d) r.out)
      let s := s.setChipCtx k (if bad then { ChipCtx.zero with history := r.ctx.history } else r.ctx)
      let s := s.set (chipMode k) (if bad then 3 else 2)
      let s := if bad then (s.set F.CHP_EVT.CTX_LOST 1).event 0xA4 true [BitVec.ofNat 8 k, BitVec.ofNat 8 st] else s
      complete s it ⟨st, r.out.length, r.used, r.blocks, false, false⟩)

/-! ### The context record (R339) -/

/-- The decoder's mid-block state in 16 bytes; the spec gives its place but no layout (log entry 14). -/
def midBlock (c : ChipCtx) : List Byte :=
  leBytes 4 (c.rawLeft + 2 ^ 30 * b2n c.stored + 2 ^ 31 * b2n c.open_) ++ leBytes 4 c.codeLeft ++ leBytes 4 c.crc
    ++ leBytes 4 c.run.toNat

/-- The context record (R339). -/
def ctxRecord (mode : Nat) (c : ChipCtx) : List Byte :=
  let head := leBytes 4 0x58544348 ++ leBytes 4 mode ++ leBytes 4 c.history.length ++ midBlock c
  head ++ leBytes 4 (crc32 (head ++ c.history)) ++ leBytes 32 0 ++ slice c.history 0 65536

/-- A context read back from its record, with its mode; none where a check fails (R339). -/
def readCtxRecord (b : List Byte) : Option (Nat × ChipCtx) :=
  let len := le b 8 4
  let mode := le b 4 4
  let hist := slice b 64 (min len 65536)
  let w := le b 12 4
  if le b 0 4 = 0x58544348 && decide (mode < 4) && decide (len ≤ 65536) && zeros b 32 32
      && (b.drop (64 + min len 65536)).all (· == 0) && le b 28 4 == crc32 (slice b 0 28 ++ hist) then
    some (mode, ⟨hist, bit w 31, w % 2 ^ 30, le b 16 4, bit w 30, le b 20 4, BitVec.ofNat 32 (le b 24 4)⟩)
  else none

/-- CHIP_SAVE (R339): the context record is written to the host. -/
def execChipSave (ring : Fin 16) (s : State) : Host.Outcome State Fault Refusal :=
  .next (match running s ring 0x12 with
  | none => s
  | some it =>
    let k := le it.desc 20 1 % 4
    let rec_ := ctxRecord (s.get (chipMode k)) (s.chipCtx k)
    complete (s.emit (.hostWrite (dAddr it.desc) rec_)) it ⟨stOk, rec_.length, 0, 0, false, false⟩)

/-- CHIP_RESTORE (R339): a context record read from the host is loaded, or refused with BAD_ENTRY. -/
def execChipRestore (ring : Fin 16) (record : List Byte) (s : State) : Host.Outcome State Fault Refusal :=
  .next (match running s ring 0x13 with
  | none => s
  | some it =>
    let k := le it.desc 20 1 % 4
    match readCtxRecord (slice record 0 65600) with
    | none => complete s it (.just stBadEntry)
    | some (mode, c) => complete ((s.setChipCtx k c).set (chipMode k) mode) it (.just stOk))

/-- CHP_CTL.CNT_CLR: every Chipper count (R341). -/
def chpCntClr (s : State) : State := s.clearAll [F.CHP_VERIFY_CNT.BLOCKS, F.CHP_STORED_CNT.BLOCKS]

end Sys2Proof.Machine
end

