-- ==== Sys2Proof/Machine/Ports.lean ====
section
/-! DEFINITION. What the sensing blocks share of the fibre ports: their records, states and schedule times (R40, R41, R44,
R48, R56), and the publication of a source's record to every consumer (R83, R122). -/

namespace Sys2Proof.Machine

/-- A port's record of the Probe. -/
def State.probePort (s : State) (p : Nat) : ProbePort := sget (fun _ => ProbePort.zero) s.probe p
/-- The state with a port's record set. -/
def State.setProbe (s : State) (p : Nat) (q : ProbePort) : State :=
  { s with probe := sput (fun _ => ProbePort.zero) s.probe p q }
/-- Kerf's record of a port. -/
def State.kerfPort (s : State) (p : Nat) : KerfPort := sget (fun _ => KerfPort.zero) s.kerf p
/-- The state with Kerf's record of a port set. -/
def State.setKerf (s : State) (p : Nat) (q : KerfPort) : State :=
  { s with kerf := sput (fun _ => KerfPort.zero) s.kerf p q }
/-- Scaler's record of a port. -/
def State.sclPort (s : State) (p : Nat) : SclPort := sget (fun _ => SclPort.zero) s.scaler p
/-- The state with Scaler's record of a port set. -/
def State.setScl (s : State) (p : Nat) (q : SclPort) : State :=
  { s with scaler := sput (fun _ => SclPort.zero) s.scaler p q }

/-! ### Port states (R44) -/

/-- The state field of a port in PRB_STAT. -/
def portStateF (p : Nat) : Field := if p = 0 then F.PRB_STAT.PA_STATE else F.PRB_STAT.PB_STATE
/-- A port's state code (R44). -/
def State.portState (s : State) (p : Nat) : Nat := s.get (portStateF p)
/-- OFF. -/
def psOff : Nat := 0
/-- STARTING. -/
def psStarting : Nat := 1
/-- MEASURING. -/
def psMeasuring : Nat := 2
/-- SWEEPING. -/
def psSweeping : Nat := 3
/-- APR. -/
def psApr : Nat := 4
/-- NO_SOURCE. -/
def psNoSource : Nat := 5

/-- Loop mode is selected (R54). -/
def State.loopMode (s : State) : Bool := s.flag F.PRB_CTL.LOOP
/-- The port whose schedule, records and sets stand for `p`: port A for both in loop mode (R54, R56). -/
def State.lead (s : State) (p : Nat) : Nat := if s.loopMode then 0 else p
/-- Whether the schedule of a port sweeps: in loop mode either port's does. -/
def State.sweeping (s : State) (p : Nat) : Bool :=
  if s.loopMode then s.portState 0 == psSweeping || s.portState 1 == psSweeping else s.portState p == psSweeping
/-- Whether the laser that serves as source is locked (R31, R38). -/
def State.dutyLocked (s : State) : Bool :=
  if s.flag F.PRB_STAT.SOURCE then s.flag F.PRB_STAT.B_LOCK else s.flag F.PRB_STAT.A_LOCK
/-- Whether ports have a source: a locked laser, and no lock loss of the root PLL that holds them in NO_SOURCE (R38, R371). -/
def State.hasSource (s : State) : Bool := s.dutyLocked && !s.clk.down
/-- LEN in use (R55). -/
def State.loopLen (s : State) : Nat := s.get F.PRB_LOOP_MEAS.LEN_USED
/-- The last point a port sweeps: END, the longest span while MEASURING, LEN in loop mode (R41, R45, R54). -/
def State.lastPoint (s : State) (p : Nat) : Nat :=
  if s.loopMode then (if s.loopLen = 0 then 131071 else s.loopLen)
  else if s.portState p = psMeasuring then 131071 else s.get (F.PRB_Px_CFG.END p)

/-- P in µs for a span of `last` points and a guard in ns (R41, R56). -/
def periodFor (last guard : Nat) : Nat := max 100 (4 * ceilDiv (last * tauNum + guard * tauDen) (4000 * tauDen))
/-- The sweep period of a port's schedule in µs (R41, R55, R56). -/
def State.sweepPeriod (s : State) (p : Nat) : Nat :=
  if s.loopMode then (if s.loopLen = 0 then 648 else periodFor s.loopLen 5000) else periodFor (s.lastPoint p) 3000
/-- LOOP_LAG in ps: LEN × τ / 2 + 2.5 µs (R56, R78). -/
def State.loopLag (s : State) : Nat :=
  if s.loopMode then (nearestOpen (s.loopLen * tauNum * 1000 + 5000000 * tauDen : Nat) (2 * tauDen)).toNat else 0

/-- The largest power code the average-power limit allows at a period in µs: ⌊100 log10(1.25 P)⌋ − 100 (R48). -/
def powerLimit (period : Nat) : Nat :=
  ((List.range 400).filter fun k => decide (10 ^ (k + 100) * 4 ^ 100 ≤ (5 * period) ^ 100)).length - 1

/-- PERIOD, EFF_PEAK and CLAMPED follow the schedule and PEAK (R46, R48); the period is 0 while no schedule runs (R45). -/
def refreshTiming (s : State) (p : Nat) (period : Nat) : State :=
  let s := s.set (F.PRB_Px_TIMING.PERIOD p) period
  if period = 0 then (s.set (F.PRB_Px_TIMING.EFF_PEAK p) 0).set (F.PRB_Px_TIMING.CLAMPED p) 0
  else
    let peak := s.get (F.PRB_Px_POWER.PEAK p)
    let eff := min peak (powerLimit period)
    let s := s.set (F.PRB_Px_TIMING.EFF_PEAK p) eff
    let s := s.setFlag (F.PRB_Px_TIMING.CLAMPED p) (decide (eff < peak))
    if eff < peak then s.set (if p = 0 then F.PRB_EVT.CLAMP_A else F.PRB_EVT.CLAMP_B) 1 else s

/-- A lasting cut of a port: the last point before it (R53). -/
def State.cutPoint (s : State) (p : Nat) : Option Nat :=
  if s.flag (F.PRB_Px_CUT_STAT.LASTING p) then some (s.get (F.PRB_Px_CUT_STAT.POS p)) else none

/-- The owner of a loop point in a sweep: 0 port A, 1 port B, 2 unowned (R57). -/
def State.ownerAt (s : State) (sweep x : Nat) : Nat :=
  if s.loop.since ≤ sweep then s.loop.own.getD x 2 else s.loop.prev.getD x 2

/-! ### Publication -/

/-- A record of a source goes to its streams, the archive and its capture rings (R83, R122, R306). `src` is numbered as
in the stream table. -/
def publish (s : State) (src idx : Nat) (bytes : List Byte) (index time : Nat) (always : Bool) : State :=
  captureAll (deliver s src idx bytes index time always) (src + 1) idx bytes time

/-- Bytes padded with zeros to a multiple of 8 (R81, R122). -/
def pad8 (b : List Byte) : List Byte := b ++ List.replicate ((8 - b.length % 8) % 8) 0

/-- A count difference reduced to −32,768 to +32,767 (R70). -/
def wrap16 (x : Int) : Int := (x + 32768) % 65536 - 32768

end Sys2Proof.Machine
end

