-- ==== Sys2Proof/Machine/Bucking.lean ====
section
/-! DEFINITION. Bucking: the channel and set tables, filter profiles and cross-fades, fills, delays and channel records
(R104 to R124). -/

namespace Sys2Proof.Machine

/-! ### Tables (R106, R115, R116) -/

/-- FIRST of a channel entry. -/
def ceFirst (e : List Byte) : Nat := bits (le e 0 4) 16 0
/-- WIDTH of a channel entry. -/
def ceWidth (e : List Byte) : Nat := bits (le e 0 4) 24 17 + 1
/-- MODE of a channel entry is PICK. -/
def cePickMode (e : List Byte) : Bool := bit (le e 0 4) 25
/-- EN of a channel entry. -/
def ceEn (e : List Byte) : Bool := bit (le e 0 4) 26
/-- PICK of a channel entry. -/
def cePick (e : List Byte) : Nat := le e 4 1
/-- The centre point of a channel (R106). -/
def ceCentre (e : List Byte) : Nat := ceFirst e + if cePickMode e then cePick e else ceWidth e / 2
/-- The last member point of a channel. -/
def ceLast (e : List Byte) : Nat := ceFirst e + ceWidth e - 1
/-- The points whose increments a channel takes. -/
def cePoints (e : List Byte) : List Nat :=
  if cePickMode e then [ceFirst e + cePick e] else (List.range (ceWidth e)).map (ceFirst e + ·)

/-- FIRST_CH of a set entry. -/
def stFirst (e : List Byte) : Nat := bits (le e 0 4) 16 0
/-- COUNT_CH of a set entry. -/
def stCount (e : List Byte) : Nat := bits (le e 4 4) 17 0
/-- PORT of a set entry. -/
def stPort (e : List Byte) : Nat := bits (le e 4 4) 18 18
/-- EN of a set entry. -/
def stEn (e : List Byte) : Bool := bit (le e 4 4) 19
/-- R_c of a set entry. -/
def stRc (e : List Byte) : Nat := bits (le e 8 4) 12 0
/-- PROFILE of a set entry. -/
def stProfile (e : List Byte) : Nat := bits (le e 8 4) 16 13
/-- EXTRA of a set entry, in 1/256 input samples. -/
def stExtra (e : List Byte) : Nat := bits (le e 12 4) 17 0

/-- D1, L1, D2, L2 and b of a filter setting (R112). -/
def fsetRow : Nat → Nat × Nat × Nat × Nat × Nat
  | 0 => (1, 1, 1, 1, 2)
  | 1 => (1, 63, 1, 1, 33)
  | 2 => (2, 31, 1, 1, 17)
  | 3 => (2, 31, 2, 63, 79)
  | 4 => (4, 63, 2, 63, 157)
  | 5 => (2, 63, 2, 127, 159)
  | 6 => (4, 63, 4, 127, 285)
  | _ => (1, 63, 2, 127, 96)

/-- FSET of a profile. -/
def State.fset (s : State) (profile : Nat) : Nat := s.get (F.BKG_FPn_CFG.FSET profile)
/-- D of a set entry under a filter setting (R111). -/
def totalD (fset : Nat) (e : List Byte) : Nat := stRc e * (fsetRow fset).1 * (fsetRow fset).2.2.1
/-- GD of a set entry under a filter setting (R112). -/
def groupDelay (fset : Nat) (e : List Byte) : Nat := (fsetRow fset).2.2.2.2 * stRc e - 2

/-- A coefficient bank after reset (R116). -/
def bankReset : List Byte := (List.range 96).flatMap fun i => leBytes 4 (if i = 0 || i = 32 then 0x10000 else 0)
/-- A channel's entry in effect. -/
def State.chanEntry (s : State) (c : Nat) : List Byte := sget (fun _ => zeroEntry 8) s.bkg.chans c
/-- A set's entry in effect; in loop mode a set of port B produces nothing (R115). -/
def State.setEntry (s : State) (n : Nat) : List Byte := sget (fun _ => zeroEntry 16) s.bkg.sets n
/-- Whether a set is enabled and may produce records. -/
def setLive (s : State) (n : Nat) : Bool := stEn (s.setEntry n) && !(s.loopMode && stPort (s.setEntry n) == 1)
/-- A bank of a profile: index 2 × profile + bank. -/
def State.bank (s : State) (profile bank : Nat) : List Byte := sget (fun _ => bankReset) s.bkg.banks (2 * profile + bank)
/-- The state with Bucking changed. -/
def State.setBkg (s : State) (b : BkgState) : State := { s with bkg := b }
/-- A channel's record. -/
def State.bkgChan (s : State) (c : Nat) : BkgChan := sget (fun _ => BkgChan.zero) s.bkg.chan c
/-- The state with a channel's record set. -/
def State.setChan (s : State) (c : Nat) (r : BkgChan) : State :=
  s.setBkg { s.bkg with chan := sput (fun _ => BkgChan.zero) s.bkg.chan c r }
/-- A set's record. -/
def State.bkgSet (s : State) (n : Nat) : BkgSet := sget (fun _ => BkgSet.zero) s.bkg.set n
/-- The state with a set's record set. -/
def State.setSet (s : State) (n : Nat) (r : BkgSet) : State :=
  s.setBkg { s.bkg with set := sput (fun _ => BkgSet.zero) s.bkg.set n r }
/-- A profile's fades. -/
def State.bkgFade (s : State) (n : Nat) : BkgFade := sget (fun _ => BkgFade.zero) s.bkg.fade n
/-- The state with a profile's fades set. -/
def State.setFade (s : State) (n : Nat) (r : BkgFade) : State :=
  s.setBkg { s.bkg with fade := sput (fun _ => BkgFade.zero) s.bkg.fade n r }
/-- A port as Bucking sees it. -/
def State.bkgPort (s : State) (p : Nat) : BkgPort := sget (fun _ => BkgPort.zero) s.bkg.port p
/-- The state with a port of Bucking set. -/
def State.setBkgPort (s : State) (p : Nat) (r : BkgPort) : State :=
  s.setBkg { s.bkg with port := sput (fun _ => BkgPort.zero) s.bkg.port p r }

/-- The channels of a set, in order. -/
def setChannels (s : State) (n : Nat) : List Nat := (List.range (stCount (s.setEntry n))).map (stFirst (s.setEntry n) + ·)
/-- The set that contains a channel: the enabled one whose range holds it. -/
def setOf (s : State) (c : Nat) : Option Nat :=
  (List.range 64).find? fun n =>
    setLive s n && decide (stFirst (s.setEntry n) ≤ c) && decide (c < stFirst (s.setEntry n) + stCount (s.setEntry n))
/-- The live sets of a port. -/
def setsOfPort (s : State) (p : Nat) : List Nat :=
  (List.range 64).filter fun n => setLive s n && stPort (s.setEntry n) == p
/-- The live sets that use a profile. -/
def setsOfProfile (s : State) (k : Nat) : List Nat :=
  (List.range 64).filter fun n => setLive s n && stProfile (s.setEntry n) == k

/-- A channel entry that R106 does not refuse. -/
def chanEntryOk (e : List Byte) : Bool :=
  bits (le e 0 4) 31 27 == 0 && zeros e 5 3 && decide (ceFirst e + ceWidth e ≤ 131072) && decide (cePick e < ceWidth e)

/-- TABLE_LOAD_CHANNEL (R106): checked, stored, and in effect at the next sweep boundary (R117). -/
def loadChannels (s : State) (it : Item) (bytes : List Byte) : LoadResult :=
  let first := dFirst it.desc
  let es := entriesOf 8 bytes
  match firstBad (fun _ e => chanEntryOk e) first es with
  | some i => .refused stBadEntry i s
  | none =>
    let t := (List.range es.length).foldl
      (fun m i => sput (fun _ => zeroEntry 8) m (first + i) (es.getD i [])) s.bkg.chanLoaded
    .loaded (s.setBkg { s.bkg with chanLoaded := t })

/-- A set entry with no reserved value and a D within 4,096 (R115). -/
def setEntryOk (s : State) (e : List Byte) : Bool :=
  bits (le e 0 4) 31 17 == 0 && bits (le e 4 4) 31 20 == 0 && bits (le e 8 4) 31 17 == 0
    && bits (le e 12 4) 31 18 == 0 && decide (1 ≤ stCount e) && decide (stCount e ≤ 131072) && decide (1 ≤ stRc e)
    && decide (stRc e ≤ 4096) && decide (stExtra e ≤ 0x3F8FF) && decide (stFirst e + stCount e ≤ 131072)
    && decide (totalD (s.fset (stProfile e)) e ≤ 4096)

/-- Two set entries, both enabled, whose channel ranges overlap (R115). -/
def setsOverlap (a b : List Byte) : Bool :=
  stEn a && stEn b && decide (stFirst a < stFirst b + stCount b) && decide (stFirst b < stFirst a + stCount a)

/-- TABLE_LOAD_SET (R115): checked with the whole table as it would stand, stored, and in effect at the next sweep
boundary (R117). -/
def loadSets (s : State) (it : Item) (bytes : List Byte) : LoadResult :=
  let first := dFirst it.desc
  let es := entriesOf 16 bytes
  let t := (List.range es.length).foldl
    (fun m i => sput (fun _ => zeroEntry 16) m (first + i) (es.getD i [])) s.bkg.setLoaded
  let ent (n : Nat) := sget (fun _ => zeroEntry 16) t n
  let loaded (n : Nat) := decide (first ≤ n) && decide (n < first + es.length)
  let clash (n : Nat) := (List.range 64).any fun m => m != n && (loaded n || loaded m) && setsOverlap (ent n) (ent m)
  match (List.range 64).find? fun n => (loaded n && !setEntryOk s (ent n)) || clash n with
  | some i => .refused stBadEntry i s
  | none => .loaded (s.setBkg { s.bkg with setLoaded := t })

/-- A coefficient word whose bits 31:18 repeat bit 17 (R116). -/
def coefOk (w : Nat) : Bool := bits w 31 18 == if bit w 17 then 2 ^ 14 - 1 else 0

/-- TABLE_LOAD_COEFFICIENT_BANK (R116, R120): refused BUSY while the bank is in use. -/
def loadBank (s : State) (it : Item) (bytes : List Byte) : LoadResult :=
  let k := dInst it.desc / 2
  let b := dInst it.desc % 2
  let f := s.bkgFade k
  if b = s.get (F.BKG_FPn_STAT.ACTIVE k) || f.run.isSome || f.queued.isSome then
    .refused stBusy 0 (s.set F.BKG_EVT.BUSY 1)
  else match firstBad (fun _ e => coefOk (le e 0 4)) 0 (entriesOf 4 bytes) with
    | some _ => .refused stBadEntry 0 s
    | none => .loaded (s.setBkg { s.bkg with banks := sput (fun _ => bankReset) s.bkg.banks (dInst it.desc) bytes })

/-- TABLE_LOAD_CHANNEL (R106, R303). -/
def execTableLoadChannel (ring : Fin 16) (payload : List Byte) (s : State) : Host.Outcome State Fault Refusal :=
  .next (tableRun s ring 0x01 payload loadChannels)
/-- TABLE_LOAD_SET (R115, R303). -/
def execTableLoadSet (ring : Fin 16) (payload : List Byte) (s : State) : Host.Outcome State Fault Refusal :=
  .next (tableRun s ring 0x02 payload loadSets)
/-- TABLE_LOAD_COEFFICIENT_BANK (R116, R120). -/
def execTableLoadCoefficientBank (ring : Fin 16) (payload : List Byte) (s : State) :
    Host.Outcome State Fault Refusal :=
  .next (tableRun s ring 0x03 payload loadBank)

/-! ### Cross-fades (R118, R119) -/

/-- MIX: i/XF of the least advanced set, in 1/65,536 (R124). -/
def fadeMix (s : State) (k : Nat) : Nat :=
  match (s.bkgFade k).run with
  | none => 0
  | some (_, xf) =>
    let l := (setsOfProfile s k).filter fun n => !(s.bkgFade k).unmixed.contains n
    l.foldl (fun m n => min m (min 65535 ((s.bkgSet n).faded * 65536 / xf))) 65535

/-- BKG_FPn_STAT and the FADING bits of the sets follow the fades. -/
def fadeStat (s : State) (k : Nat) : State :=
  let f := s.bkgFade k
  let s := s.setFlag (F.BKG_FPn_STAT.FADING k) f.run.isSome
  let s := s.setFlag (F.BKG_FPn_STAT.QUEUED k) f.queued.isSome
  let s := s.set (F.BKG_FPn_STAT.Q_TARGET k) (match f.queued with | some (t, _) => t | none => 0)
  let s := s.set (F.BKG_FPn_STAT.MIX k) (fadeMix s k)
  s.each (setsOfProfile s k) fun s n =>
    let xf := match f.run with | some (_, x) => x | none => 0
    s.setFlag (F.BKG_CSn_STAT.FADING n) (!f.unmixed.contains n && decide ((s.bkgSet n).faded < xf))

/-- A swap request starts: at once with no fade when its target is ACTIVE or no set uses the profile (R118). -/
def fadeStart (s : State) (k target xf : Nat) : State :=
  if target = s.get (F.BKG_FPn_STAT.ACTIVE k) then
    fadeStat ((s.bump (F.BKG_FPn_CNT.NULL k)).set F.BKG_EVT.NULL_SWAP 1) k
  else if (setsOfProfile s k).isEmpty then
    fadeStat ((s.set (F.BKG_FPn_STAT.ACTIVE k) target).set F.BKG_EVT.FADE_DONE 1) k
  else
    let s := s.setFade k { s.bkgFade k with run := some (target, xf), unmixed := [] }
    fadeStat (s.each (setsOfProfile s k) fun s n => s.setSet n { s.bkgSet n with faded := 0 }) k

/-- A fade whose last set has output its last sample completes, and a queued request starts (R118, R119). -/
def fadeCheck (s : State) (k : Nat) : State :=
  let f := s.bkgFade k
  match f.run with
  | none => s
  | some (target, xf) =>
    if (setsOfProfile s k).all fun n => f.unmixed.contains n || decide (xf ≤ (s.bkgSet n).faded) then
      let s := (s.set (F.BKG_FPn_STAT.ACTIVE k) target).set F.BKG_EVT.FADE_DONE 1
      let s := s.setFade k ⟨none, none, []⟩
      match f.queued with
      | none => fadeStat s k
      | some (t, x) => fadeStart s k t x
    else fadeStat s k

/-- A write of BKG_FPn_SWAP: the request starts, or is queued behind a running fade, replacing a queued one (R118,
R119). -/
def fadeRequest (s : State) (k target xf : Nat) : State :=
  let f := s.bkgFade k
  if f.run.isNone then fadeStart s k target xf
  else
    let s := if f.queued.isSome then (s.bump (F.BKG_FPn_CNT.REPLACED k)).set F.BKG_EVT.REPLACED 1 else s
    fadeStat (s.setFade k { f with queued := some (target, xf) }) k

/-! ### Delays and restarts (R109, R110, R117) -/

/-- FD of a channel in 1/256 input samples; none where its centre is unowned (R109, R110). -/
def fracDelay (s : State) (p sweep : Nat) (e : List Byte) (extra : Nat) : Option Nat :=
  let last := s.lastPoint p
  let x := min (ceCentre e) last
  let period := s.sweepPeriod p
  let owner := if s.loopMode then s.ownerAt sweep (ceCentre e) else 0
  let den := tauDen * period * 1000000
  if owner = 2 then none
  else
    let num := if owner = 0 then 1024 * x * tauNum * 1000
      else 1024 * (s.loopLag * tauDen + (last - x) * tauNum * 1000)
    some (256 + extra + (roundHalfUp num den).toNat)

/-- FD of every channel of a set at a sweep boundary (R110): a new value holds from the sweep's first index. -/
def setDelays (s : State) (p sweep n : Nat) : State :=
  s.each (setChannels s n) fun s c =>
    let e := s.chanEntry c
    let r := s.bkgChan c
    if !ceEn e then s
    else
      let own := if s.loopMode then s.ownerAt sweep (ceCentre e) else 0
      match fracDelay s p sweep e (stExtra (s.setEntry n)) with
      | none => s
      | some fd =>
        let same := match r.delays with | (_, f) :: _ => f == fd | [] => false
        s.setChan c { r with owner := own, delays := if same then r.delays else (4 * sweep, fd) :: r.delays }

/-- A set starts afresh at a sweep (R117): cleared filters, warm-up, RESTART in its first record. -/
def setStart (s : State) (sweep n : Nat) : State :=
  let e := s.setEntry n
  let fs := s.fset (stProfile e)
  let d := totalD fs e
  let s := s.each (setChannels s n) fun s c => s.setChan c { s.bkgChan c with input := [], delays := [] }
  let s := s.setSet n { BkgSet.zero with start := 4 * sweep, next := ceilDiv (4 * sweep) d,
                                         warm := ceilDiv (2 * groupDelay fs e + 4) d, first := true }
  let k := stProfile e
  let s := if (s.bkgFade k).run.isSome then
      s.setFade k { s.bkgFade k with unmixed := n :: (s.bkgFade k).unmixed }
    else s
  let s := (s.set (F.BKG_CSn_STAT.D n) d).set (F.BKG_CSn_STAT.EN n) 1
  ((s.set (F.BKG_CSn_STAT.WARM n) 1).set (F.BKG_CSn_GD.GD n) (groupDelay fs e)).set F.BKG_EVT.SET_RESTART 1

/-- A set that no longer produces records. -/
def setStop (s : State) (n : Nat) : State := ((s.setSet n BkgSet.zero).write (R.BKG_CSn_STAT n) 0).write (R.BKG_CSn_GD n) 0

/-- BKG_STAT follows the sets and channels that produce (R124). -/
def bkgStat (s : State) : State :=
  let live := (List.range 64).filter fun n => s.flag (F.BKG_CSn_STAT.EN n)
  let chans := (live.map fun n => ((setChannels s n).filter fun c => ceEn (s.chanEntry c)).length).sum
  ((s.set F.BKG_STAT.SETS live.length).set F.BKG_STAT.CHANNELS chans).setFlag F.BKG_STAT.LOOP_GRID s.loopMode

/-- Whether the entry of a set or of one of its channels, as loaded, differs from the one in effect. -/
def setChanged (s : State) (n : Nat) : Bool :=
  let new := sget (fun _ => zeroEntry 16) s.bkg.setLoaded n
  new != s.setEntry n || (List.range (stCount new)).any fun i =>
    sget (fun _ => zeroEntry 8) s.bkg.chanLoaded (stFirst new + i) != s.chanEntry (stFirst new + i)

/-- A sweep boundary of a port: loads of its sets take effect, changed sets restart, delays are computed (R110, R117). In loop
mode the one schedule serves the sets of both ports, those of port B producing nothing (R54, R115). -/
def bkgBoundary (s : State) (p sweep : Nat) : State :=
  let mine := (List.range 64).filter fun n =>
    let new := sget (fun _ => zeroEntry 16) s.bkg.setLoaded n
    (stEn new && (s.loopMode || stPort new == p)) || (stEn (s.setEntry n) && (s.loopMode || stPort (s.setEntry n) == p))
  let changed := mine.filter fun n => setChanged s n
  let starts := mine.filter fun n => changed.contains n || setLive s n != s.flag (F.BKG_CSn_STAT.EN n)
  let s := s.each changed fun s n =>
    let new := sget (fun _ => zeroEntry 16) s.bkg.setLoaded n
    let old := s.setEntry n
    let range := (List.range (stCount new)).map (stFirst new + ·) ++ (List.range (stCount old)).map (stFirst old + ·)
    let chans := range.foldl
      (fun m c => sput (fun _ => zeroEntry 8) m c (sget (fun _ => zeroEntry 8) s.bkg.chanLoaded c)) s.bkg.chans
    s.setBkg { s.bkg with sets := sput (fun _ => zeroEntry 16) s.bkg.sets n new, chans := chans }
  let s := s.each starts fun s n => if setLive s n then setStart s sweep n else setStop s n
  let s := (List.range 16).foldl fadeCheck s
  let s := s.each (setsOfPort s p) fun s n => setDelays s p sweep n
  bkgStat s

/-! ### Input samples (R105, R107, R108) -/

/-- A channel input sample entered, with its counts (R108): `borrowed` tells a filled sample's cause. -/
def chanPut (s : State) (p c : Nat) (x : BkgIn) (borrowed : Bool) : State :=
  let r := s.bkgChan c
  let up (v : Nat) (b : Bool) := if b then satTo 0xFFFFFFFF (v + 1) else v
  let f := x.filled && borrowed
  let d := x.filled && !borrowed
  let s := s.setChan c { r with input := x :: r.input, fill := up r.fill f, dfill := up r.dfill d, gap := up r.gap x.gap }
  let s := s.count (F.BKG_Px_FILL_CNT.FILL p) (b2n f)
  let s := s.count (F.BKG_Px_DFILL_CNT.DFILL p) (b2n d)
  let s := s.count (F.BKG_Px_GAP_CNT.GAP p) (b2n x.gap)
  if x.gap then s.set (if p = 0 then F.BKG_EVT.GAP_A else F.BKG_EVT.GAP_B) 1 else s

/-- The enabled channels of a set. -/
def liveChannels (s : State) (n : Nat) : List Nat := (setChannels s n).filter fun c => ceEn (s.chanEntry c)

/-- A missing sample at an index (R108): it waits in the run; the fourth of a run makes gaps of them all. -/
def missingSample (s : State) (p j : Nat) (borrowed : Bool) : State :=
  let b := s.bkgPort p
  let run := b.run ++ [(j, borrowed)]
  let s := s.setBkgPort p { b with run := run, lastIdx := j }
  s.each (setsOfPort s p) fun s n =>
    let mine := run.filter fun r => decide ((s.bkgSet n).start ≤ r.1)
    let gaps := if mine.length < 4 then [] else if mine.length = 4 then mine else [(j, borrowed)]
    s.each (liveChannels s n) fun s c => s.each gaps fun s r => chanPut s p c ⟨r.1, 0, false, true⟩ r.2

/-- A present sample of one channel after a run of missing ones (R108): the run and it share its value, the last share
taking the remainder; a run of four or more makes it a gap. -/
def presentSample (s : State) (p j c : Nat) (run : List (Nat × Bool)) (v : Option Int) : State :=
  let g := run.length
  if 4 ≤ g then chanPut s p c ⟨j, 0, false, true⟩ false
  else
    let share := nearestOpen (v.getD 0) (g + 1)
    let s := s.each run fun s r => chanPut s p c ⟨r.1, share, true, false⟩ r.2
    chanPut s p c ⟨j, v.getD 0 - g * share, false, v.isNone⟩ false

/-- The increment of a point in counts: none unless it is usable (R105, R107). `q` is its quality code. -/
def pointIncrement (old new q : Nat) : Option Int :=
  if q = 0 || q = 2 then none else some (wrap16 ((new : Int) - old))

/-- The channel input sample of R107 in 2^−14 counts, none for a gap. `inc` is the increment of a point. -/
def channelSample (e : List Byte) (inc : Nat → Option Int) : Option Int :=
  let l := (cePoints e).filterMap inc
  if l.isEmpty then none else some (nearestOpen (l.foldl (· + ·) 0 * 16384) l.length)

/-- A slot record as Bucking takes it (R104 to R108): present, borrowed, or missing. `qs` gives each point's phase, quality
code and owner. -/
def bkgRecord (s : State) (p j launch : Nat) (present borrowed carries : Bool) (qs : List (Nat × Nat × Nat)) : State :=
  let b := s.bkgPort p
  let seen := !b.launches.isEmpty
  let s := if seen then (List.range (j - (b.lastIdx + 1))).foldl (fun s i => missingSample s p (b.lastIdx + 1 + i) false) s
    else s
  let s := s.setBkgPort p { s.bkgPort p with launches := (j, launch) :: (s.bkgPort p).launches }
  if !present then missingSample s p j borrowed
  else
    let run := (s.bkgPort p).run
    let inc (x : Nat) : Option Int := match qs[x]? with
      | none => none
      | some (ph, q, _) => pointIncrement (b.phases.getD x ph) ph q
    let s := s.each (setsOfPort s p) fun s n =>
      let mine := run.filter fun r => decide ((s.bkgSet n).start ≤ r.1)
      if j < (s.bkgSet n).start then s
      else s.each (liveChannels s n) fun s c =>
        let e := s.chanEntry c
        let own (x : Nat) : Nat := (qs.getD x (0, 0, 0)).2.2
        let v := channelSample e fun x => if own x = own (ceCentre e) then inc x else none
        presentSample s p j c mine v
    let phases := if carries then qs.map (·.1) else b.phases
    s.setBkgPort p { s.bkgPort p with run := [], lastIdx := j, phases := phases }

/-! ### Filters (R109, R111, R116) -/

/-- The input sample of a channel at a raw index, zero before its start. -/
def inputAt (r : BkgChan) (i : Int) : Int :=
  match r.input.find? fun x => (x.idx : Int) == i with
  | some x => x.value
  | none => 0

/-- FD of a channel at an aligned index. -/
def delayAt (r : BkgChan) (m : Int) : Nat :=
  match r.delays.find? fun d => decide ((d.1 : Int) ≤ m) with
  | some d => d.2
  | none => match r.delays.getLast? with
    | some d => d.2
    | none => 256

/-- The aligned sample at an index, times 6 × 256^3: the 4-point cubic Lagrange interpolation of R109. -/
def alignedAt (r : BkgChan) (m : Int) : Int :=
  let pos := 256 * m - delayAt r m
  let i := pos / 256
  let f := pos % 256
  (0 - f) * (f - 256) * (f - 512) * inputAt r (i - 1) + 3 * (f + 256) * (f - 256) * (f - 512) * inputAt r i
    - 3 * (f + 256) * f * (f - 512) * inputAt r (i + 1) + (f + 256) * f * (f - 256) * inputAt r (i + 2)

/-- A list convolved with `n` ones. -/
def convOnes (l : List Nat) (n : Nat) : List Nat :=
  (List.range (l.length + n - 1)).map fun i => ((List.range n).map fun j => if j ≤ i then l.getD (i - j) 0 else 0).sum

/-- The impulse response of the CIC stage, times R_c^4 (R111). -/
def cicTaps (rc : Nat) : List Nat := convOnes (convOnes (convOnes (convOnes [1] rc) rc) rc) rc

/-- The taps of a FIR stage from its bank words, times 2^16; a bypassed stage has one (R111, R116). -/
def firTaps (bank : List Byte) (word len : Nat) : List Int :=
  if len = 1 then [65536]
  else (List.range len).map fun i => sgn 18 (le bank (4 * (word + (if i ≤ (len - 1) / 2 then (len - 1) / 2 - i else i - (len - 1) / 2))) 4)

/-- The exact filter output of a channel at aligned index `m`, times 6 × 256^3 × R_c^4 × 2^32, in 2^−14 counts (R111). -/
def filterAt (r : BkgChan) (fset rc : Nat) (bank : List Byte) (m : Int) : Int :=
  let row := fsetRow fset
  let cic := cicTaps rc
  let t1 := firTaps bank 0 row.2.1
  let t2 := firTaps bank 32 row.2.2.2.1
  let a1 (n : Int) : Int := ((List.range cic.length).map fun k => (cic.getD k 0 : Int) * alignedAt r (n - k)).foldl (· + ·) 0
  let a2 (n : Int) : Int := ((List.range t1.length).map fun k => t1.getD k 0 * a1 (n - k * rc)).foldl (· + ·) 0
  ((List.range t2.length).map fun k => t2.getD k 0 * a2 (m - k * (rc * row.1))).foldl (· + ·) 0

/-- VALUE rounded as R111 states: to the nearest, halves away from zero; within 2^−40 count of a boundary either
neighbour. -/
def roundValue (n : Int) (d : Nat) : Int :=
  let rem := n % d
  if (2 * rem - d).natAbs * 2 ^ 25 ≤ d then n / d + b2n (Config.roundUp n d) else roundDiv n d

/-! ### Channel records (R113, R121, R122) -/

/-- The launch time of a raw index: as recorded, else counted on in steps of P/4 from the nearest recorded before it. -/
def launchAt (b : BkgPort) (period m : Nat) : Nat :=
  match b.launches.find? fun l => decide (l.1 ≤ m) with
  | some l => l.2 + (m - l.1) * period * 250
  | none => match b.launches.getLast? with
    | some l => l.2 - (l.1 - m) * period * 250
    | none => 0

/-- TIME(n) of a set in ns (R113); none where it would be less than 0. -/
def outTime (s : State) (p n : Nat) (set : Nat) : Option Nat :=
  let e := s.setEntry set
  let fs := s.fset (stProfile e)
  let period := s.sweepPeriod p
  let l : Int := launchAt (s.bkgPort p) period (n * totalD fs e)
  let back : Int := (256 + stExtra e + 256 * groupDelay fs e) * period * 250
  let t := nearestOpen (256 * l - back) 256
  if t < 0 then none else some t.toNat

/-- The mix of a set's next output: the running fade's target, step and length, if it mixes (R118). -/
def outMix (s : State) (n : Nat) : Option (Nat × Nat × Nat) :=
  let k := stProfile (s.setEntry n)
  match (s.bkgFade k).run with
  | none => none
  | some (t, xf) => if (s.bkgFade k).unmixed.contains n then none else some (t, min xf ((s.bkgSet n).faded + 1), xf)

/-- The VALUE of a channel before saturation (R118, R121). -/
def outValue (s : State) (n c : Nat) (m : Nat) : Int :=
  let e := s.setEntry n
  let k := stProfile e
  let fs := s.fset k
  let act := s.get (F.BKG_FPn_STAT.ACTIVE k)
  let y (b : Nat) := filterAt (s.bkgChan c) fs (stRc e) (s.bank k b) m
  let den := 6 * 256 ^ 3 * stRc e ^ 4 * 2 ^ 32
  match outMix s n with
  | some (t, i, xf) => roundValue ((xf - i : Nat) * y (1 - t) + i * y t) (den * xf)
  | none =>
    let b := if (s.bkgFade k).unmixed.contains n then (match (s.bkgFade k).run with | some (t, _) => t | none => act) else act
    roundValue (y b) den

/-- The largest VALUE. -/
def valueMax : Int := 2 ^ 29 - 1

/-- The word of a channel in an output (R121, R122), and whether its VALUE saturated. -/
def outWord (s : State) (n c d m : Nat) (warm : Bool) : Nat × Bool :=
  if !ceEn (s.chanEntry c) then (2, false)
  else
    let r := s.bkgChan c
    let win := r.input.filter fun x => decide (m < x.idx + d) && decide (x.idx ≤ m)
    let v := outValue s n c m
    let sat := decide (v < -valueMax - 1) || decide (valueMax < v)
    let v := if v < -valueMax - 1 then -valueMax - 1 else if valueMax < v then valueMax else v
    (b2n (win.any (·.filled)) + 2 * b2n (warm || win.any (·.gap)) + 4 * enc 30 v, sat)

/-- Whether the inputs an output needs are all there (R109, R114): raw indices up to m + 1, none of which awaits its fill. -/
def outReady (s : State) (p n m : Nat) : Bool :=
  let b := s.bkgPort p
  !b.launches.isEmpty && decide (m + 1 ≤ b.lastIdx)
    && (match b.run.filter fun r => decide ((s.bkgSet n).start ≤ r.1) with
      | [] => true
      | r :: t => decide (m + 2 ≤ r.1) || decide (3 ≤ t.length))

/-- The header of a channel record (R122). -/
def chanHeader (s : State) (p n : Nat) (d idx time count : Nat) : List Byte :=
  let e := s.setEntry n
  let k := stProfile e
  let mix := outMix s n
  let bank := match mix with | some (t, _) => t | none => s.get (F.BKG_FPn_STAT.ACTIVE k)
  [0x33, BitVec.ofNat 8 (p + 2 * b2n s.loopMode + 4 * b2n (s.bkgSet n).first + 8 * b2n mix.isSome + 16 * bank),
      BitVec.ofNat 8 n, BitVec.ofNat 8 (k + 16 * s.fset k)]
    ++ leBytes 4 d ++ leBytes 8 idx ++ leBytes 8 time ++ leBytes 4 (stFirst e) ++ leBytes 4 count

/-- The first index from `n` whose TIME is not negative (R113). The first argument bounds the search. -/
def firstOut (s : State) (p set : Nat) : Nat → Nat → Nat
  | 0, n => n
  | fuel + 1, n =>
    if (outTime s p n set).isSome || !outReady s p set (n * totalD (s.fset (stProfile (s.setEntry set))) (s.setEntry set))
    then n else firstOut s p set fuel (n + 1)

/-- The next channel record of a set, if its inputs are there (R113 to R122). -/
def channelOutput (s : State) (n : Nat) : State :=
  let e := s.setEntry n
  let p := stPort e
  let fs := s.fset (stProfile e)
  let d := totalD fs e
  if !setLive s n || !s.flag (F.BKG_CSn_STAT.EN n) then s
  else
    let idx := firstOut s p n ((s.bkgPort p).lastIdx + 1) (s.bkgSet n).next
    let m := idx * d
    match outReady s p n m, outTime s p idx n with
    | true, some time =>
      let q := s.bkgSet n
      let words := (setChannels s n).map fun c => outWord s n c d m (decide (0 < q.warm))
      let bytes := pad8 (chanHeader s p n d idx time words.length ++ words.flatMap fun w => leBytes 4 w.1)
      let sats := (words.filter (·.2)).length
      let mixed := (outMix s n).isSome
      let s := s.count F.BKG_SAT_CNT.SAT sats
      let s := if 0 < sats then s.set F.BKG_EVT.SAT 1 else s
      let outs := (⟨idx, time, words.map (·.1)⟩ :: q.outs).take 2048
      let s := s.setSet n { q with next := idx + 1, warm := q.warm - 1, first := false, outs := outs,
                                   faded := if mixed then q.faded + 1 else q.faded }
      let s := s.setFlag (F.BKG_CSn_STAT.WARM n) (decide (1 < q.warm))
      fadeCheck (publish s 0 n bytes idx time false) (stProfile e)
    | _, _ => s.setSet n { s.bkgSet n with next := idx }

/-- CHANNEL_RECORD_OUTPUT (R122): a set produces and delivers one channel record. -/
def execChannelRecordOutput (set : Fin 64) (s : State) : Host.Outcome State Fault Refusal :=
  .next (channelOutput s set)

/-! ### Counts and status (R123, R124) -/

/-- BKG_CTL.CNT_CLR: every count, and the channel status counts (R124). -/
def bkgCntClr (s : State) : State :=
  let s := s.clearAll ([F.BKG_SAT_CNT.SAT] ++ (List.range 2).map F.BKG_Px_FILL_CNT.FILL
    ++ (List.range 2).map F.BKG_Px_DFILL_CNT.DFILL ++ (List.range 2).map F.BKG_Px_GAP_CNT.GAP
    ++ (List.range 16).map F.BKG_FPn_CNT.REPLACED ++ (List.range 16).map F.BKG_FPn_CNT.NULL)
  s.each (s.bkg.chan.map (·.1)) fun s c => s.setChan c { s.bkgChan c with fill := 0, dfill := 0, gap := 0 }

/-- A channel status entry (R123). -/
def chanStatus (s : State) (c : Nat) : List Byte :=
  let r := s.bkgChan c
  let en := ceEn (s.chanEntry c) && (setOf s c).isSome
  let fd := match r.delays with | (_, f) :: _ => f | [] => 0
  leBytes 4 r.fill ++ leBytes 4 r.dfill ++ leBytes 4 r.gap ++ leBytes 4 (fd % 2 ^ 18 + 2 ^ 18 * r.owner + 2 ^ 19 * b2n en)

/-- SNAPSHOT_CHANNEL_STATUS (R123, R305). -/
def execSnapshotChannelStatus (ring : Fin 16) (s : State) : Host.Outcome State Fault Refusal :=
  .next (snapshotRun s ring 0x04 fun s d =>
    (List.range (if dCount d = 0 then 131072 - dFirst d else dCount d)).flatMap fun i => chanStatus s (dFirst d + i))

end Sys2Proof.Machine
end

