-- ==== Sys2Proof/Machine/Cruiser.lean ====
section
/-! DEFINITION. Cruiser: zones and templates, vibration frames, temperature evaluations, tracks, shedding and the zone state
word (R125 to R155). -/

namespace Sys2Proof.Machine

/-! ### Zone and template entries (R125, R128) -/

/-- FIRST_CH. -/
def zFirst (e : List Byte) : Nat := bits (le e 0 4) 16 0
/-- PORT. -/
def zPort (e : List Byte) : Nat := bits (le e 0 4) 17 17
/-- EN. -/
def zEn (e : List Byte) : Bool := bit (le e 0 4) 18
/-- VIB_EN. -/
def zVib (e : List Byte) : Bool := bit (le e 0 4) 19
/-- TLEV_EN. -/
def zTlev (e : List Byte) : Bool := bit (le e 0 4) 20
/-- TRATE_EN. -/
def zTrate (e : List Byte) : Bool := bit (le e 0 4) 21
/-- STOP_EN. -/
def zStop (e : List Byte) : Bool := bit (le e 0 4) 22
/-- COUNT_CH. -/
def zCount (e : List Byte) : Nat := bits (le e 4 4) 17 0
/-- TEMPLATE. -/
def zTemplate (e : List Byte) : Nat := bits (le e 4 4) 25 18
/-- VIB_THR in 0.1 dB. -/
def zVibThr (e : List Byte) : Int := sgn 16 (le e 8 2)
/-- VIB_TALLY. -/
def zVibTally (e : List Byte) : Nat := le e 10 2
/-- TLEV_THR in 0.01 °C. -/
def zTlevThr (e : List Byte) : Int := sgn 16 (le e 12 2)
/-- TRATE_THR in 0.01 °C/min. -/
def zTrateThr (e : List Byte) : Nat := le e 14 2
/-- TEMP_TALLY. -/
def zTempTally (e : List Byte) : Nat := le e 16 2
/-- STOP_SPD in 0.01 m/s. -/
def zStopSpd (e : List Byte) : Nat := le e 18 2
/-- STOP_DWELL in 0.1 s. -/
def zStopDwell (e : List Byte) : Nat := le e 20 2
/-- GROUP. -/
def zGroup (e : List Byte) : Nat := le e 22 1
/-- TAG. -/
def zTag (e : List Byte) : Nat := le e 23 1

/-- FRATE. -/
def tRate (t : List Byte) : Nat := le t 0 1
/-- NFFT. -/
def tNfft (t : List Byte) : Nat := 2 ^ le t 1 1
/-- BAND_MASK. -/
def tMask (t : List Byte) : Nat := le t 2 1
/-- COMBINE. -/
def tCombine (t : List Byte) : Nat := bits (le t 3 1) 1 0
/-- AGG is MEAN. -/
def tMean (t : List Byte) : Bool := bit (le t 3 1) 2
/-- OOB_HOT. -/
def tHot (t : List Byte) : Bool := bit (le t 3 1) 3
/-- TRK_EN. -/
def tTrk (t : List Byte) : Bool := bit (le t 3 1) 4
/-- TRK_BAND. -/
def tTrkBand (t : List Byte) : Nat := bits (le t 3 1) 7 5
/-- LO of a band, in 0.5 Hz. -/
def tLo (t : List Byte) (b : Nat) : Nat := le t (4 + 4 * b) 2
/-- HI of a band, in 0.5 Hz. -/
def tHi (t : List Byte) (b : Nat) : Nat := le t (6 + 4 * b) 2
/-- BOFS of a band, in 0.1 dB. -/
def tBofs (t : List Byte) (b : Nat) : Int := 5 * sgn 8 (le t (36 + b) 1)
/-- GAPMAX. -/
def tGapMax (t : List Byte) : Nat := le t 44 1
/-- TRATE_WIN. -/
def tRateWin (t : List Byte) : Nat := le t 45 1
/-- TRK_OFS in 0.1 dB. -/
def tTrkOfs (t : List Byte) : Int := 5 * sgn 8 (le t 46 1)

/-- A zone's entry in effect. -/
def State.zoneEntry (s : State) (z : Nat) : List Byte := sget (fun _ => zeroEntry 32) s.cru.zones z
/-- A zone's template in effect (R152). -/
def State.zoneTpl (s : State) (z : Nat) : List Byte := sget (fun _ => zeroEntry 64) s.cru.tpls z
/-- A zone's record. -/
def State.cruZone (s : State) (z : Nat) : CruZone := sget (fun _ => CruZone.zero) s.cru.zone z
/-- The state with a zone's record set. -/
def State.setZone (s : State) (z : Nat) (r : CruZone) : State :=
  { s with cru := { s.cru with zone := sput (fun _ => CruZone.zero) s.cru.zone z r } }
/-- The enabled zones, ascending. -/
def State.zonesOn (s : State) : List Nat := (s.cru.zones.filter fun c => zEn c.2).map (·.1)

/-- A zone entry that R126 does not refuse. -/
def zoneEntryOk (e : List Byte) : Bool :=
  bits (le e 0 4) 31 23 == 0 && bits (le e 4 4) 31 26 == 0 && zeros e 24 8
    && (!zEn e || (decide (1 ≤ zCount e) && decide (zCount e ≤ 131072) && decide (zFirst e + zCount e ≤ 131072)
      && tallyOk (zVibTally e) && tallyOk (zTempTally e) && decide (1 ≤ zTrateThr e) && decide (1 ≤ zStopSpd e)
      && decide (1 ≤ zStopDwell e)))

/-- A template entry that R129 does not refuse. -/
def tplEntryOk (t : List Byte) : Bool :=
  let band (b : Nat) := decide (tLo t b < tHi t b)
  decide (1 ≤ tRate t) && decide (tRate t ≤ 64) && decide (4 ≤ le t 1 1) && decide (le t 1 1 ≤ 10) && tMask t != 0
    && tCombine t != 3 && decide (2 ≤ tRateWin t) && decide (tRateWin t ≤ 32) && zeros t 47 17
    && (List.range 8).all fun b => (!bit (tMask t) b || band b) && (!(tTrk t && tTrkBand t == b) || band b)

/-- TABLE_LOAD_ZONE (R126, R152): checked and stored; each loaded zone reloads at its next frame boundary. -/
def loadZones (s : State) (it : Item) (bytes : List Byte) : LoadResult :=
  let first := dFirst it.desc
  let es := entriesOf 32 bytes
  match firstBad (fun _ e => zoneEntryOk e) first es with
  | some i => .refused stBadEntry i s
  | none =>
    let t := (List.range es.length).foldl
      (fun m i => sput (fun _ => zeroEntry 32) m (first + i) (es.getD i [])) s.cru.zoneLoaded
    let zs := (List.range es.length).map (first + ·)
    .loaded { s with cru := { s.cru with zoneLoaded := t, reload := (s.cru.reload ++ zs).eraseDups } }

/-- TABLE_LOAD_TEMPLATE (R129, R152): checked and stored; each zone that uses a loaded template reloads. -/
def loadTemplates (s : State) (it : Item) (bytes : List Byte) : LoadResult :=
  let first := dFirst it.desc
  let es := entriesOf 64 bytes
  match firstBad (fun _ e => tplEntryOk e) first es with
  | some i => .refused stBadEntry i s
  | none =>
    let t := (List.range es.length).foldl
      (fun m i => sput (fun _ => zeroEntry 64) m (first + i) (es.getD i [])) s.cru.tplLoaded
    let zs := (s.cru.zoneLoaded.filter fun c =>
      decide (first ≤ zTemplate c.2) && decide (zTemplate c.2 < first + es.length)).map (·.1)
    .loaded { s with cru := { s.cru with tplLoaded := t, reload := (s.cru.reload ++ zs).eraseDups } }

/-- TABLE_LOAD_ZONE (R126, R152). -/
def execTableLoadZone (ring : Fin 16) (payload : List Byte) (s : State) : Host.Outcome State Fault Refusal :=
  .next (tableRun s ring 0x04 payload loadZones)
/-- TABLE_LOAD_TEMPLATE (R129, R152). -/
def execTableLoadTemplate (ring : Fin 16) (payload : List Byte) (s : State) : Host.Outcome State Fault Refusal :=
  .next (tableRun s ring 0x05 payload loadTemplates)

/-! ### Spans and the state word (R126, R127, R145) -/

/-- The point span of a zone (R126). -/
def zoneSpan (s : State) (z : Nat) : Nat × Nat :=
  let e := s.zoneEntry z
  (ceFirst (s.chanEntry (zFirst e)), ceLast (s.chanEntry (zFirst e + zCount e - 1)))

/-- Whether a zone counts for a port: in loop mode only port A's zones have points (R127). -/
def zoneOnPort (s : State) (z p : Nat) : Bool := zPort (s.zoneEntry z) == p

/-- The set that feeds a zone, on its port (R127). -/
def zoneSet (s : State) (z : Nat) : Option Nat :=
  match setOf s (zFirst (s.zoneEntry z)) with
  | some n => if stPort (s.setEntry n) = zPort (s.zoneEntry z) then some n else none
  | none => none

/-- The eligible channels of a zone (R127). -/
def zoneChannels (s : State) (z : Nat) : List Nat :=
  match zoneSet s z with
  | none => []
  | some n => ((List.range (zCount (s.zoneEntry z))).map (zFirst (s.zoneEntry z) + ·)).filter fun c =>
      decide (stFirst (s.setEntry n) ≤ c) && decide (c < stFirst (s.setEntry n) + stCount (s.setEntry n))
        && ceEn (s.chanEntry c)

/-- x of a track as a point number. -/
def Track.point (t : Track) : Int := (t.x / 16).floor

/-- Whether a track of a zone's port lies in its span. -/
def trackIn (s : State) (z : Nat) (t : Track) : Bool :=
  let sp := zoneSpan s z
  t.port == zPort (s.zoneEntry z) && decide (((16 * sp.1 : Nat) : Rat) ≤ t.x) && decide (t.x < ((16 * sp.2 + 16 : Nat) : Rat))

/-- STALE of a port in SCL_STAT. -/
def staleF (p : Nat) : Field := if p = 0 then F.SCL_STAT.STALE_A else F.SCL_STAT.STALE_B

/-- Whether a zone is shed (R151). -/
def zoneShed (s : State) (z : Nat) : Bool :=
  zEn (s.zoneEntry z) && s.flag F.CRU_LOAD.OVERLOAD && decide (s.get F.CRU_LOAD.SHED_FIRST ≤ z)

/-- The zone state word (R145, R153). -/
def zoneWord (s : State) (z : Nat) : Nat :=
  let e := s.zoneEntry z
  let r := s.cruZone z
  if !zEn e || !s.flag F.CRU_CTL.EN then 0
  else
    b2n r.vib.lasting + 2 * b2n r.tlev.lasting + 4 * b2n r.trate.lasting
      + 8 * b2n (zStop e && s.cru.tracks.any fun t => t.stopped && trackIn s z t)
      + 16 * b2n (s.cru.tracks.any fun t => t.confirmed && trackIn s z t)
      + 32 * b2n (decide (4 ≤ r.blind)) + 64 * b2n (zoneShed s z) + 128 * b2n (s.flag (staleF (zPort e)))
      + r.word

/-- WARM and SLOW of a zone's stored word. -/
def warmSlow (warm slow : Bool) : Nat := 256 * b2n warm + 512 * b2n slow

/-- CRU_STAT follows the zones (R154). -/
def cruStat (s : State) : State :=
  let on := s.zonesOn
  let lasting := on.filter fun z => zoneWord s z % 8 != 0
  (s.set F.CRU_STAT.ZONES (satTo 65535 on.length)).set F.CRU_STAT.LASTING lasting.length

/-! ### Records (R148, R149) -/

/-- The zone payload (R148). -/
def zonePayload (z : Nat) (e : List Byte) (peak band : Nat) (value thr : Int) (t : Tally) : List Byte :=
  leBytes 2 z ++ [BitVec.ofNat 8 (zGroup e), BitVec.ofNat 8 (zTag e)] ++ leBytes 4 (peak % 2 ^ 17 + 2 ^ 17 * band)
    ++ leBytes 2 (enc 16 value) ++ leBytes 2 (enc 16 thr) ++ leBytes 2 t.transient ++ leBytes 2 t.missed

/-- A zone record request. -/
def zoneReq (s : State) (z cls : Nat) (state : Bool) (time : Option Nat) (payload : List Byte) : EventReq :=
  ⟨cls, state, zPort (s.zoneEntry z) == 1, s.loopMode, time, payload⟩

/-- The records of a zone's evaluation step in the order of R149: ends before begins. -/
def endsFirst (l : List EventReq) : List EventReq := (l.filter fun r => !r.state) ++ l.filter fun r => r.state

/-- Records of an evaluation step posted in the order given, and counted (R154). -/
def postCru (s : State) (l : List EventReq) : State := (s.count F.CRU_REC_CNT.RECORDS l.length).postAll l

/-- What one detector's evaluation gave: made and exceeding, with the record's PEAK, BAND, VALUE and THR. -/
structure Verdict where
  made : Option Bool
  peak : Nat
  band : Nat
  value : Int
  thr : Int
  deriving DecidableEq, Repr

/-- An evaluation that could not be made (R148). -/
def Verdict.not (thr : Int) : Verdict := ⟨none, 0, 0, -32768, thr⟩

/-- The request for a detector's record after an evaluation, if its lasting state changed. -/
def edgeReq (s : State) (z cls : Nat) (time : Option Nat) (v : Verdict) (t : Tally) (e : TallyEdge) : List EventReq :=
  let pay := zonePayload z (s.zoneEntry z) v.peak v.band v.value v.thr t
  match e with
  | .none => []
  | .began => [zoneReq s z cls true time pay]
  | .ended => [zoneReq s z cls false time pay]

/-- An event bit set when a condition became lasting. -/
def edgeEvt (s : State) (f : Field) (e : TallyEdge) : State := match e with
  | .began => s.set f 1
  | _ => s

/-! ### Capacity and shedding (R150, R151) -/

/-- The demand of an enabled zone in window samples per second (R150). -/
def zoneDemand (s : State) (z : Nat) : Nat :=
  let e := s.zoneEntry z
  let t := s.zoneTpl z
  if zVib e || tTrk t then zCount e * tNfft t * tRate t else 0

/-- The first zone at which the running sum of demand exceeds 4.0 × 10^9, and the whole sum (R151). -/
def shedFirst (s : State) : Option Nat × Nat :=
  s.zonesOn.foldl (fun a z =>
    let sum := a.2 + zoneDemand s z
    (if a.1.isNone && decide (4000000000 < sum) then some z else a.1, sum)) (none, 0)

/-- The demand recomputed, with the SHED records its change gives (R150, R151). -/
def cruDemand (s : State) : State :=
  let old := s.get F.CRU_LOAD.SHED_FIRST
  let r := shedFirst s
  let new := r.1.getD 0x8000
  let s := (s.set F.CRU_LOAD.LOAD (satTo 255 (r.2 * 100 / 4000000000))).setFlag F.CRU_LOAD.OVERLOAD r.1.isSome
  let s := s.set F.CRU_LOAD.SHED_FIRST new
  if new = old then s
  else
    let z := if new = 0x8000 then old else new
    let e := s.zoneEntry z
    let pay := leBytes 2 z ++ [BitVec.ofNat 8 (zGroup e), BitVec.ofNat 8 (zTag e)] ++ leBytes 12 0
    let s := if new = 0x8000 then s else s.set F.CRU_EVT.SHED 1
    postCru s [zoneReq s z 0x08 (new != 0x8000) none pay]

/-! ### Frames (R130, R131) -/

/-- B_j in ns for a frame rate (R130). -/
def frameEnd (rate j : Nat) : Nat := j * 1000000000 / rate
/-- The frame that holds an instant. -/
def frameOf (rate t : Nat) : Nat := ceilDiv (t * rate) 1000000000

/-- The bins of a band, of a window of a set's outputs (R131). -/
def bandBins (t : List Byte) (b periodD : Nat) : List Nat :=
  (List.range (tNfft t / 2)).filter fun k =>
    decide (1 ≤ k) && decide (tLo t b * periodD * tNfft t ≤ 8000000 * k)
      && decide (8000000 * k < tHi t b * periodD * tNfft t)

/-- A limit of ±3,276.7 dB (R131). -/
def limitDb (x : Int) : Int := if x < -32767 then -32767 else if 32767 < x then 32767 else x

/-- E_b of a channel over a window of words, oldest first (R131). -/
def chanEnergy (t : List Byte) (b periodD : Nat) (words : List Nat) : Option Int :=
  let bins := bandBins t b periodD
  if bins.isEmpty then none
  else (Config.bandEnergy (words.map fun w => sgn 30 (w / 4)) bins).map limitDb

/-- The larger of two energies, a missing one being least. -/
def maxOpt (a b : Option Int) : Option Int := match a, b with
  | some x, some y => some (if y ≤ x then x else y)
  | some x, none => some x
  | none, y => y

/-- The first element of a list at which `f` is greatest, none where it never has a value. -/
def argMax (f : Nat → Option Int) (l : List Nat) : Option (Nat × Int) :=
  l.foldl (fun best i => match f i, best with
    | some v, some (j, w) => if w < v then some (i, v) else some (j, w)
    | some v, none => some (i, v)
    | none, b => b) none

/-- A frame that is due: its number, the outputs of its window oldest first (empty while warming up), the empty frames
before it. -/
structure FrameDue where
  frame : Nat
  window : List BkgOut
  full : Bool
  empty : Nat
  deriving DecidableEq, Repr

/-- P × D of a zone's set in µs. -/
def periodD (s : State) (n : Nat) : Nat :=
  s.sweepPeriod (stPort (s.setEntry n)) * totalD (s.fset (stProfile (s.setEntry n))) (s.setEntry n)

/-- The next frame of a zone that holds outputs and whose last one has been delivered (R130). -/
def frameDue (s : State) (z : Nat) : Option FrameDue :=
  match zoneSet s z with
  | none => none
  | some n =>
    let t := s.zoneTpl z
    let r := s.cruZone z
    let outs := (s.bkgSet n).outs.reverse.filter fun o => decide (r.since ≤ o.n)
    match outs.find? fun o => decide (r.frame < frameOf (tRate t) o.time) with
    | none => none
    | some o =>
      let j := frameOf (tRate t) o.time
      let upto := outs.filter fun o => decide (o.time ≤ frameEnd (tRate t) j)
      match upto.getLast? with
      | none => none
      | some l =>
        if l.time + periodD s n * 250 ≤ frameEnd (tRate t) j then none
        else
          let win := upto.drop (upto.length - tNfft t)
          let before := (outs.filter fun o => decide (o.time ≤ frameEnd (tRate t) (j - 1))).length
          some ⟨j, win, decide (tNfft t ≤ upto.length),
            if r.frame = 0 || decide (before < tNfft t) then 0 else j - r.frame - 1⟩

/-! ### The vibration detector (R132 to R134) -/

/-- What a frame gives of a zone: its usable channels and their energies by band. -/
structure Energies where
  usable : List Nat
  energy : Nat → Nat → Option Int

/-- The energies of a frame (R131, R132). -/
def frameEnergies (s : State) (z n : Nat) (win : List BkgOut) : Energies :=
  let t := s.zoneTpl z
  let at_ (c : Nat) : List Nat := win.map fun o => o.words.getD (c - stFirst (s.setEntry n)) 2
  let usable := (zoneChannels s z).filter fun c =>
    decide (((at_ c).filter fun w => bit w 1).length * 256 ≤ tGapMax t * tNfft t)
  ⟨usable, fun b c => chanEnergy t b (periodD s n) (at_ c)⟩

/-- Z_b over the usable channels (R133). -/
def zoneEnergy (t : List Byte) (en : Energies) (b : Nat) : Option Int :=
  if tMean t then Config.meanDb (en.usable.map (en.energy b))
  else en.usable.foldl (fun m c => maxOpt m (en.energy b c)) none

/-- The bands of BAND_MASK. -/
def maskBands (t : List Byte) : List Nat := (List.range 8).filter fun b => bit (tMask t) b

/-- The verdict of a frame whose evaluation can be made, and the largest Z_b − Θ_b (R133, R148). -/
def vibVerdict (e t : List Byte) (en : Energies) : Verdict × Option Int :=
  let bands := maskBands t
  let zb := zoneEnergy t en
  let theta (b : Nat) := zVibThr e + tBofs t b
  let margin (b : Nat) : Option Int := (zb b).map (· - theta b)
  let best := argMax margin bands
  if tCombine t = 2 then
    let term (b : Nat) : Option Int := (zb b).map (· - tBofs t b)
    let sum := Config.sumDb (bands.filterMap term)
    let b := match argMax term bands with | some (b, _) => b | none => 0
    let peak := match argMax (en.energy b) en.usable with | some (c, _) => c | none => 0
    (⟨some (match sum with | some x => decide (zVibThr e ≤ x) | none => false), peak, b, sum.getD (-32768), zVibThr e⟩,
      best.map (·.2))
  else
    let above (b : Nat) : Bool := match margin b with | some m => decide (0 ≤ m) | none => false
    let exceeds := if tCombine t = 0 then bands.any above else bands.all above
    let b := match best with | some (b, _) => b | none => bands.headD 0
    let peak := match argMax (en.energy b) en.usable with | some (c, _) => c | none => 0
    (⟨some exceeds, peak, b, (zb b).getD (-32768), theta b⟩, best.map (·.2))

/-- One vibration evaluation entered: tally, BLIND and the records due (R26, R133, R134). -/
def vibEnter (s : State) (z time : Nat) (v : Verdict) : State × List EventReq :=
  let e := s.zoneEntry z
  let r := s.cruZone z
  let x := r.vib.eval (zVibTally e) v.made
  let blind := if v.made.isNone then min 4 (r.blind + 1) else 0
  let was := decide (4 ≤ r.blind)
  let now := decide (4 ≤ blind)
  let s := s.setZone z { r with vib := x.1, blind := blind }
  let s := edgeEvt s F.CRU_EVT.VIB x.2
  let s := if v.made.isNone then s.bump F.CRU_MISS_CNT.MISSED else s
  let s := if now && !was then s.set F.CRU_EVT.BLIND 1 else s
  let bl := if now != was then
      [zoneReq s z 0x07 now (some time) (zonePayload z e 0 0 0 (zVibThr e) x.1)] else []
  (s, endsFirst (edgeReq s z 0x01 (some time) v x.1 x.2 ++ bl))

/-- Empty frames enter as evaluations that could not be made (R130). The first argument is their number. -/
def emptyFrames : Nat → State → Nat → Nat → Nat → State × List EventReq
  | 0, s, _, _, _ => (s, [])
  | k + 1, s, z, j, rate =>
    let a := vibEnter s z (frameEnd rate j) (Verdict.not (zVibThr (s.zoneEntry z)))
    let b := emptyFrames k a.1 z (j + 1) rate
    (b.1, a.2 ++ b.2)

/-- The detections of a frame (R139): channels in zone order. -/
def detections (s : State) (z time : Nat) (en : Energies) : List Detection :=
  let e := s.zoneEntry z
  let t := s.zoneTpl z
  let band := tTrkBand t
  let val (c : Nat) : Option Int := if en.usable.contains c then en.energy band c else none
  let inZone (c : Nat) : Bool := decide (zFirst e ≤ c) && decide (c < zFirst e + zCount e)
  let nb (c : Nat) : Option Int := if inZone c then val c else none
  let side (c : Nat) : Option Int := if inZone c && (zoneChannels s z).contains c then en.energy band c else none
  en.usable.filterMap fun c => match val c with
    | none => none
    | some x =>
      let lo := if c = 0 then none else nb (c - 1)
      let hi := nb (c + 1)
      let isPeak := (match lo with | some l => decide (l < x) | none => true)
        && (match hi with | some h => decide (h ≤ x) | none => true)
      if !isPeak || decide (x < zVibThr e + tBofs t band + tTrkOfs t) then none
      else
        let step : Int := (ceFirst (s.chanEntry (c + 1)) : Int) - ceFirst (s.chanEntry c)
        let delta : Int := match (if c = 0 then none else side (c - 1)), side (c + 1) with
          | some l, some h =>
            let d := 2 * (l - 2 * x + h)
            if d = 0 then 0
            else
              let q := nearestOpen (if d < 0 then -(16 * step * (l - h)) else 16 * step * (l - h)) d.natAbs
              if 8 * step.natAbs < q.natAbs then (if q < 0 then -(8 * (step.natAbs : Int)) else 8 * step.natAbs) else q
          | _, _ => 0
        some ⟨time, 16 * ceCentre (s.chanEntry c) + delta, zPort e, x⟩

/-- The evaluation of a zone's frame (R130 to R134, R139). -/
def frameEvaluate (s : State) (z : Nat) : State :=
  match zoneSet s z, frameDue s z with
  | some n, some f =>
    let e := s.zoneEntry z
    let t := s.zoneTpl z
    let slow := decide (4000000 < tRate t * periodD s n)
    let r := s.cruZone z
    let s := if slow && !bit r.word 9 then s.set F.CRU_EVT.SLOW 1 else s
    let s := s.setZone z { r with frame := f.frame, word := warmSlow (!f.full) slow }
    if !f.full then cruStat s
    else
      let time := frameEnd (tRate t) f.frame
      let en := frameEnergies s z n f.window
      let made := !zoneShed s z && decide (zCount e ≤ 2 * en.usable.length)
      let a := if zVib e then emptyFrames f.empty s z (f.frame - f.empty) (tRate t) else (s, [])
      let vv := if made then vibVerdict e t en else (Verdict.not (zVibThr e), none)
      let b := if zVib e then vibEnter a.1 z time vv.1 else (a.1, [])
      let s := if zVib e then
          b.1.setZone z { b.1.cruZone z with lastVib := enc 16 (match vv.2 with | some m => limitDb m | none => -32768) }
        else b.1
      let s := if tTrk t && s.flag F.CRU_CTL.TRK_EN then
          let sp := zoneSpan s z
          let found := if made then detections s z time en else []
          { s with cru := { s.cru with found := s.cru.found ++ found,
                                       frames := s.cru.frames ++ [⟨time, zPort e, sp.1, sp.2, made⟩] } }
        else s
      postCru (cruStat s) (a.2 ++ b.2)
  | _, _ => s

/-- ZONE_FRAME_EVALUATION (R130): the zone's next frame is evaluated. -/
def execZoneFrameEvaluation (zone : Fin 32768) (s : State) : Host.Outcome State Fault Refusal :=
  .next (if s.flag F.CRU_CTL.EN && zEn (s.zoneEntry zone) then frameEvaluate s zone else s)

/-! ### The temperature detectors (R135 to R137) -/

/-- The sample word of a point in a profile record (R98), 0 beyond it. -/
def profWord (prof : List Byte) (x : Nat) : Nat := if x < le prof 36 4 then le prof (40 + 8 * x) 8 else 0
/-- TQ of a point; INVALID beyond the record. -/
def profTq (prof : List Byte) (x : Nat) : Nat := bits (profWord prof x) 24 21
/-- TEMP of a point. -/
def profTemp (prof : List Byte) (x : Nat) : Int := sgn 16 (bits (profWord prof x) 47 32)

/-- The value a point is used at, none where it is not usable (R135). -/
def tempValue (hot : Bool) (prof : List Byte) (x : Nat) : Option Int :=
  let q := profTq prof x
  if 8 ≤ q || q = 3 then some (profTemp prof x) else if q = 2 && hot then some 30000 else none

/-- A quotient rounded toward zero, for a positive divisor. -/
def truncDiv (n : Int) (d : Nat) : Int := if n < 0 then -((n.natAbs / d : Nat) : Int) else ((n.natAbs / d : Nat) : Int)

/-- The verdict of the level detector (R136). -/
def levelVerdict (e : List Byte) (hot : Bool) (prof : List Byte) (pts : List Nat) : Verdict :=
  match argMax (tempValue hot prof) pts with
  | some (x, v) => ⟨some (decide (zTlevThr e ≤ v)), x, 0, v, zTlevThr e⟩
  | none => Verdict.not (zTlevThr e)

/-- The verdict of the rate detector against an earlier profile (R137). -/
def rateVerdict (e : List Byte) (hot : Bool) (new old : List Byte) (pts : List Nat) : Verdict :=
  let dt := le new 24 8 - le old 24 8
  let rate (x : Nat) : Option Int := match tempValue hot new x, tempValue hot old x with
    | some a, some b => if dt = 0 then none else some (truncDiv ((a - b) * 60000000000) dt)
    | _, _ => none
  let burst (x : Nat) : Bool := hot && profTq new x == 2 && decide (8 ≤ profTq old x)
  let best := argMax rate pts
  let above := match best with | some (_, v) => decide ((zTrateThr e : Int) ≤ v) | none => false
  let v := match best with | some (_, v) => clampS 16 v | none => -32768
  let x := match best with | some (x, _) => x | none => 0
  ⟨some (above || pts.any burst), x, 0, v, zTrateThr e⟩

/-- The level and rate evaluations of one zone entered, with the records due (R26, R135). -/
def tempEnter (s : State) (z : Nat) (time : Option Nat) (lev rate : Verdict) : State × List EventReq :=
  let e := s.zoneEntry z
  let r := s.cruZone z
  let a := if zTlev e then r.tlev.eval (zTempTally e) lev.made else (r.tlev, TallyEdge.none)
  let b := if zTrate e then r.trate.eval (zTempTally e) rate.made else (r.trate, TallyEdge.none)
  let missed := b2n (zTlev e && lev.made.isNone) + b2n (zTrate e && rate.made.isNone)
  let s := (s.setZone z { r with tlev := a.1, trate := b.1 }).count F.CRU_MISS_CNT.MISSED missed
  let s := edgeEvt (edgeEvt s F.CRU_EVT.TLEV a.2) F.CRU_EVT.TRATE b.2
  (s, edgeReq s z 0x02 time lev a.1 a.2 ++ edgeReq s z 0x03 time rate b.1 b.2)

/-- The evaluations of a zone at a published profile (R135 to R137). `hist` holds the port's profiles, newest first. -/
def tempZone (s : State) (z : Nat) (hist : List (List Byte)) : State × List EventReq :=
  let e := s.zoneEntry z
  let t := s.zoneTpl z
  let new := hist.headD []
  let sp := zoneSpan s z
  let pts := if s.loopMode && zPort e == 1 then [] else (List.range (sp.2 + 1 - sp.1)).map (sp.1 + ·)
  let vals := pts.filterMap (tempValue (tHot t) new)
  let r := s.cruZone z
  let n := tRateWin t
  let s := s.setZone z { r with profiles := satTo 65535 (r.profiles + 1),
                                lastTmax := match argMax (tempValue (tHot t) new) pts with
                                  | some (_, v) => enc 16 v
                                  | none => 0x8000 }
  let ok := !pts.isEmpty && decide (pts.length ≤ 2 * vals.length)
  let lev := if ok then levelVerdict e (tHot t) new pts else Verdict.not (zTlevThr e)
  let old := (hist.drop (n - 1)).headD []
  let ready := decide (n ≤ r.profiles + 1) && decide (n ≤ hist.length) && (hist.take n).all fun p => !p.isEmpty
  let rate := if ok && ready then rateVerdict e (tHot t) new old pts else Verdict.not (zTrateThr e)
  tempEnter s z (some (le new 24 8)) lev rate

/-- A list of zones evaluated one after another, their records together. -/
def zonesEach (s : State) (l : List Nat) (f : State → Nat → State × List EventReq) : State × List EventReq :=
  l.foldl (fun a z =>
    let b := f a.1 z
    (b.1, a.2 ++ endsFirst b.2)) (s, [])

/-- The enabled zones of a port. -/
def zonesOfPort (s : State) (p : Nat) : List Nat := s.zonesOn.filter fun z => zoneOnPort s z p

/-- A port's profile record reaches Cruiser (R135). -/
def cruProfile (s : State) (p : Nat) (prof : List Byte) : State :=
  let hist := (prof :: sget (fun _ => ([] : List (List Byte))) s.cru.profs p).take 32
  let s := { s with cru := { s.cru with profs := sput (fun _ => []) s.cru.profs p hist } }
  if !s.flag F.CRU_CTL.EN then s
  else
    let a := zonesEach s (zonesOfPort s p) fun s z => tempZone s z hist
    postCru (cruStat a.1) a.2

/-- The evaluations of a stale port: none can be made (R135). -/
def cruStaleEval (s : State) (p : Nat) : State :=
  if !s.flag F.CRU_CTL.EN then s
  else
    let a := zonesEach s (zonesOfPort s p) fun s z =>
      tempEnter s z none (Verdict.not (zTlevThr (s.zoneEntry z))) (Verdict.not (zTrateThr (s.zoneEntry z)))
    postCru (cruStat a.1) a.2

/-- A stale marker reaches Cruiser (R135, R137). -/
def cruMarker (s : State) (p : Nat) : State :=
  let hist := ([] :: sget (fun _ => ([] : List (List Byte))) s.cru.profs p).take 32
  cruStaleEval { s with cru := { s.cru with profs := sput (fun _ => []) s.cru.profs p hist } } p

/-- STALE_TEMPERATURE_EVALUATION (R135): every 16 s while a port is stale. -/
def execStaleTemperatureEvaluation (port : Port) (s : State) : Host.Outcome State Fault Refusal :=
  .next (if s.flag (staleF port.num) then cruStaleEval s port.num else s)

/-! ### The tracker (R140 to R144) -/

/-- x̂ of a track at an instant (R140). -/
def Track.predict (t : Track) (time : Nat) : Rat := t.x + t.v * (((time : Int) - t.time : Int) : Rat)

/-- The distance of two positions. -/
def ratDist (a b : Rat) : Rat := if a ≤ b then b - a else a - b

/-- The reported speed of a track in 0.01 m/s (R141): v × 0.5 m × GIC. -/
def trackSpeed (s : State) (t : Track) : Int :=
  let q := t.v * ((s.get (F.PRB_Px_GIC.GIC t.port) * 50 * 1000000000 : Nat) : Rat) / ((16 * 32768 : Nat) : Rat)
  roundOpen q.num q.den

/-- The lowest-index enabled zone a track lies in, with STOP_EN where asked. -/
def trackZone (s : State) (t : Track) (stop : Bool) : Option Nat :=
  s.zonesOn.find? fun z => (!stop || zStop (s.zoneEntry z)) && trackIn s z t

/-- The track payload (R148). -/
def trackPayload (s : State) (t : Track) : List Byte :=
  let z := trackZone s t false
  let pos := (roundOpen t.x.num t.x.den).toNat % 2 ^ 21
  leBytes 2 t.slot ++ leBytes 2 (z.getD 0x8000)
    ++ leBytes 4 (pos + 2 ^ 21 * b2n t.confirmed + 2 ^ 22 * b2n t.stopped)
    ++ leBytes 2 (enc 16 (clampS 16 (trackSpeed s t)))
    ++ [BitVec.ofNat 8 t.conf, BitVec.ofNat 8 (match z with | some z => zGroup (s.zoneEntry z) | none => 0)]
    ++ leBytes 4 t.serial

/-- A track record request. -/
def trackReq (s : State) (t : Track) (cls : Nat) (state : Bool) (time : Nat) : EventReq :=
  ⟨cls, state, t.port == 1, s.loopMode, some time, trackPayload s t⟩

/-- What a tick has done so far: the state, the records due with their slot, and whether a new track was refused. -/
structure TickRun where
  s : State
  recs : List (Nat × EventReq)
  refused : Bool

/-- The state with its tracks replaced. -/
def State.setTracks (s : State) (l : List Track) : State := { s with cru := { s.cru with tracks := l } }

/-- A track replaced by its new value. -/
def TickRun.put (r : TickRun) (t : Track) : TickRun :=
  { r with s := r.s.setTracks (r.s.cru.tracks.map fun x => if x.slot == t.slot then t else x) }

/-- A record added to a tick's. -/
def TickRun.note (r : TickRun) (slot : Nat) (q : EventReq) : TickRun := { r with recs := r.recs ++ [(slot, q)] }

/-- A track that is no longer STOPPED posts its end (R142). -/
def stopEnd (r : TickRun) (t : Track) (time : Nat) : TickRun :=
  if t.stopped then
    let t' := { t with stopped := false, candidate := none }
    (r.put t').note t.slot (trackReq r.s t' 0x04 false time)
  else r.put { t with candidate := none }

/-- Candidacy after an update (R142). -/
def candidacy (r : TickRun) (t : Track) (time : Nat) : TickRun :=
  let slow := match trackZone r.s t true with
    | some z => decide ((trackSpeed r.s t).natAbs < zStopSpd (r.s.zoneEntry z))
    | none => false
  if t.confirmed && slow then r.put { t with candidate := some (t.candidate.getD time) }
  else stopEnd r t time

/-- A detection given to a track (R141). -/
def trackUpdate (r : TickRun) (t : Track) (d : Detection) : TickRun :=
  let dt : Rat := (((d.time : Int) - t.time : Int) : Rat)
  let up := r.s.get F.CRU_TRK_CONF.CONF_UP
  let conf := satTo 255 (t.conf + up)
  let moved := if t.confirmed || t.speed then
      let res := (d.pos : Rat) - t.predict d.time
      { t with x := t.predict d.time + ((r.s.get F.CRU_TRK_CFG.ALPHA : Nat) : Rat) / 256 * res,
               v := t.v + ((r.s.get F.CRU_TRK_CFG.BETA : Nat) : Rat) / 256 * res / dt }
    else { t with x := (d.pos : Rat), v := ((d.pos : Rat) - t.x) / dt, speed := true }
  let now := decide (r.s.get F.CRU_TRK_CONF.CONF_ON ≤ conf)
  let t' := { moved with time := d.time, conf := conf, confirmed := t.confirmed || now, used := d.time :: t.used }
  let r := r.put t'
  let r := if now && !t.confirmed && r.s.flag F.CRU_CTL.TRK_EVT_EN then r.note t.slot (trackReq r.s t' 0x05 true d.time)
    else r
  candidacy r t' d.time

/-- The lowest free track slot. -/
def freeSlot (l : List Track) : Option Nat := (List.range 4096).find? fun k => !l.any (·.slot == k)

/-- A detection that starts a track, or is refused with no slot free (R141, R144). -/
def trackStart (r : TickRun) (d : Detection) : TickRun :=
  match freeSlot r.s.cru.tracks with
  | some k =>
    let conf := r.s.get F.CRU_TRK_CONF.CONF_UP
    let t : Track := ⟨k, d.port, (d.pos : Rat), 0, d.time, conf, decide (r.s.get F.CRU_TRK_CONF.CONF_ON ≤ conf), false, false,
      none, d.time, r.s.cru.serial, [d.time]⟩
    let s := r.s.setTracks (r.s.cru.tracks ++ [t])
    let s := { s with cru := { s.cru with serial := (s.cru.serial + 1) % 2 ^ 32 } }
    let r := { r with s := s }
    if t.confirmed && s.flag F.CRU_CTL.TRK_EVT_EN then r.note k (trackReq s t 0x05 true d.time) else r
  | none =>
    { r with s := (r.s.bump F.CRU_TRK_FULL_CNT.REFUSED).set F.CRU_EVT.TRK_FULL 1, refused := true }

/-- The tracks of a port in the order they are offered a detection: descending confidence, then ascending slot (R140). -/
def offerOrder (l : List Track) (p : Nat) : List Track :=
  (l.filter (·.port == p)).mergeSort fun a b => decide (b.conf < a.conf) || (a.conf == b.conf && decide (a.slot ≤ b.slot))

/-- The association of one detection (R140). -/
def associate (r : TickRun) (d : Detection) : TickRun :=
  let gate : Rat := ((16 * r.s.get F.CRU_TRK_CFG.GATE : Nat) : Rat)
  let best := (offerOrder r.s.cru.tracks d.port).foldl (fun (best : Option Track) t =>
    let dist := ratDist (d.pos : Rat) (t.predict d.time)
    if t.used.contains d.time || decide (gate < dist) then best
    else match best with
      | none => some t
      | some b => if dist < ratDist (d.pos : Rat) (b.predict d.time) then some t else best) none
  match best with
  | some t => trackUpdate r t d
  | none => trackStart r d

/-- A frame seen by every track of its port whose prediction lies in its span: clocks, and misses unless some detections
were dropped (R141, R142). -/
def frameMisses (r : TickRun) (f : FrameSeen) (charge : Bool) : TickRun :=
  let dn := r.s.get F.CRU_TRK_CONF.CONF_DN
  let inside (x : Rat) : Bool := decide (((16 * f.lo : Nat) : Rat) ≤ x) && decide (x < ((16 * f.hi + 16 : Nat) : Rat))
  (r.s.cru.tracks.map (·.slot)).foldl (fun r k =>
    match r.s.cru.tracks.find? (·.slot == k) with
    | none => r
    | some t =>
      if t.port != f.port || decide (f.time < t.time) then r
      else
        let t := if inside t.x then { t with clock := max t.clock f.time } else t
        let miss := charge && f.made && !t.used.contains f.time && inside (t.predict f.time)
        let t := if miss then { t with conf := t.conf - dn } else t
        if t.conf = 0 then
          let r := { r with s := r.s.setTracks (r.s.cru.tracks.filter (·.slot != k)) }
          let r := if t.stopped then r.note k (trackReq r.s { t with stopped := false } 0x04 false f.time) else r
          if t.confirmed && r.s.flag F.CRU_CTL.TRK_EVT_EN then r.note k (trackReq r.s t 0x06 true f.time) else r
        else r.put t) r

/-- The STOPPED decision of every track at the end of a tick (R142). -/
def stopDecide (r : TickRun) : TickRun :=
  (r.s.cru.tracks.map (·.slot)).foldl (fun r k =>
    match r.s.cru.tracks.find? (·.slot == k) with
    | none => r
    | some t =>
      match trackZone r.s t true with
      | none => stopEnd r t t.clock
      | some z =>
        match t.candidate with
        | some ts =>
          if !t.stopped && t.confirmed && decide (ts + zStopDwell (r.s.zoneEntry z) * 100000000 ≤ t.clock) then
            let t' := { t with stopped := true }
            let r := { r with s := r.s.set F.CRU_EVT.STOP 1 }
            (r.put t').note k (trackReq r.s t' 0x04 true t.clock)
          else r
        | none => r) r

/-- The detections kept of a tick: the 16,384 with the highest energy, lower position on a tie (R144). -/
def keepDetections (l : List Detection) : List Detection :=
  if l.length ≤ 16384 then l
  else (l.mergeSort fun a b => decide (b.energy < a.energy) || (a.energy == b.energy && decide (a.pos ≤ b.pos))).take 16384

/-- A tracker tick (R140 to R144). -/
def trackerTick (s : State) : State :=
  let all := s.cru.found
  let kept := keepDetections all
  let dropped := all.length - kept.length
  let s := s.count F.CRU_DET_DROP_CNT.DROPPED dropped
  let s := if 0 < dropped then s.set F.CRU_EVT.DET_DROP 1 else s
  let dets := kept.mergeSort fun a b => decide (a.time < b.time) || (a.time == b.time && decide (a.pos ≤ b.pos))
  let frames := s.cru.frames
  let s := { s with cru := { s.cru with found := [], frames := [] } }
  let times := ((dets.map (·.time) ++ frames.map (·.time)).mergeSort (fun a b => decide (a ≤ b))).eraseDups
  let r := times.foldl (fun r b =>
    let r := (dets.filter (·.time == b)).foldl associate r
    (frames.filter (·.time == b)).foldl (fun r f => frameMisses r f (dropped == 0)) r) (⟨s, [], false⟩ : TickRun)
  let r := stopDecide r
  let s := r.s.setTracks (r.s.cru.tracks.map fun t => { t with used := t.used.take 128 })
  let l := s.cru.tracks
  let s := (s.set F.CRU_TRK_STAT.ACTIVE l.length).set F.CRU_TRK_STAT.CONFIRMED (l.filter (·.confirmed)).length
  let recs := (r.recs.mergeSort fun a b => decide (a.1 ≤ b.1)).map (·.2)
  let full := if r.refused && !s.cru.full then [evReq 0x09 true []]
    else if !r.refused && s.cru.full then [evReq 0x09 false []] else []
  let s := { s with cru := { s.cru with full := r.refused } }
  (s.count F.CRU_REC_CNT.RECORDS (recs.length + full.length)).postAll (recs ++ full)

/-- TRACKER_TICK (R140): every 50 ms. -/
def execTrackerTick (s : State) : Host.Outcome State Fault Refusal :=
  .next (if s.flag F.CRU_CTL.EN && s.flag F.CRU_CTL.TRK_EN then trackerTick s else s)

/-! ### Reconfiguration (R152, R153) -/

/-- A zone that starts afresh: WARM, its window beginning with its set's next output. -/
def freshZone (s : State) (z : Nat) : CruZone :=
  let since := match zoneSet s z with
    | some n => (s.bkgSet n).next
    | none => 0
  { CruZone.zero with word := warmSlow true (bit (s.cruZone z).word 9), since := since,
                      frame := frameOf (max 1 (tRate (s.zoneTpl z))) s.tai }

/-- A zone's record after a restart: histories and lasting states go, counts and last values stay (R28). -/
def restartZone (s : State) (z : Nat) (old : CruZone) : CruZone :=
  let f := freshZone s z
  let g := { f with lastVib := old.lastVib, lastTmax := old.lastTmax }
  { g with vib := old.vib.restart, tlev := old.tlev.restart, trate := old.trate.restart }

/-- ZONE_RELOAD_EFFECT (R152): a zone's load takes effect at its frame boundary, with a restart. -/
def zoneReload (s : State) (z : Nat) : State :=
  if !s.cru.reload.contains z then s
  else
    let e := sget (fun _ => zeroEntry 32) s.cru.zoneLoaded z
    let t := sget (fun _ => zeroEntry 64) s.cru.tplLoaded (zTemplate e)
    let old := s.cruZone z
    let s := { s with cru := { s.cru with reload := s.cru.reload.filter (· != z),
                                          zones := sput (fun _ => zeroEntry 32) s.cru.zones z e,
                                          tpls := sput (fun _ => zeroEntry 64) s.cru.tpls z t } }
    cruStat (cruDemand (s.setZone z (restartZone s z old)))

/-- ZONE_RELOAD_EFFECT (R152). -/
def execZoneReloadEffect (zone : Fin 32768) (s : State) : Host.Outcome State Fault Refusal := .next (zoneReload s zone)

/-- CRU_CTL.EN written 0 or 1 (R153): all is cleared without records, or every enabled zone starts afresh; counts stay (R28). -/
def cruEnable (s : State) (on : Bool) : State :=
  if on then cruStat (s.each s.zonesOn fun s z => s.setZone z (restartZone s z (s.cruZone z)))
  else
    let s := s.each (s.cru.zone.map (·.1)) fun s z => s.setZone z { restartZone s z (s.cruZone z) with word := 0 }
    let s := { s with cru := { s.cru with tracks := [], found := [], frames := [], full := false } }
    cruStat ((s.set F.CRU_TRK_STAT.ACTIVE 0).set F.CRU_TRK_STAT.CONFIRMED 0)

/-- CRU_CTL.CNT_CLR: every count, with those of the zone status snapshot (R154). -/
def cruCntClr (s : State) : State :=
  let s := s.clearAll [F.CRU_TRK_FULL_CNT.REFUSED, F.CRU_DET_DROP_CNT.DROPPED, F.CRU_MISS_CNT.MISSED,
    F.CRU_REC_CNT.RECORDS]
  s.each (s.cru.zone.map (·.1)) fun s z =>
    let r := s.cruZone z
    s.setZone z { r with vib := r.vib.clearCounts, tlev := r.tlev.clearCounts, trate := r.trate.clearCounts }

/-! ### Snapshots (R148, R155) -/

/-- A zone status entry (R155). -/
def zoneStatus (s : State) (z : Nat) : List Byte :=
  let r := s.cruZone z
  leBytes 2 (zoneWord s z) ++ leBytes 2 r.vib.transient ++ leBytes 2 r.vib.missed ++ leBytes 2 r.tlev.transient
    ++ leBytes 2 r.trate.transient ++ leBytes 2 (satTo 65535 (r.tlev.missed + r.trate.missed)) ++ leBytes 2 r.lastVib
    ++ leBytes 2 r.lastTmax

/-- SNAPSHOT_ZONE_STATUS (R155, R305). -/
def execSnapshotZoneStatus (ring : Fin 16) (s : State) : Host.Outcome State Fault Refusal :=
  .next (snapshotRun s ring 0x05 fun s d =>
    (List.range (if dCount d = 0 then 32768 - dFirst d else dCount d)).flatMap fun i => zoneStatus s (dFirst d + i))

/-- A track slot in the snapshot; a free one reads CONF 0 (R148). -/
def trackEntry (s : State) (k : Nat) : List Byte :=
  match s.cru.tracks.find? (·.slot == k) with
  | some t => trackPayload s t
  | none => leBytes 2 k ++ leBytes 2 0x8000 ++ leBytes 12 0

/-- SNAPSHOT_TRACKS (R148, R305). -/
def execSnapshotTracks (ring : Fin 16) (s : State) : Host.Outcome State Fault Refusal :=
  .next (snapshotRun s ring 0x06 fun s d =>
    (List.range (if dCount d = 0 then 4096 - dFirst d else dCount d)).flatMap fun i => trackEntry s (dFirst d + i))

end Sys2Proof.Machine
end

