-- ==== Sys2Proof/Machine/Scaler.lean ====
section
/-! DEFINITION. Scaler: borrowed sweeps and their sets, profiles, baseline, compensation and staleness (R86 to R103). -/

namespace Sys2Proof.Machine

/-! ### Registers by port -/

/-- ACTIVE of a port. -/
def sclActiveF (p : Nat) : Field := if p = 0 then F.SCL_STAT.ACTIVE_A else F.SCL_STAT.ACTIVE_B
/-- The STALE event bit of a port. -/
def sclStaleEvt (p : Nat) : Field := if p = 0 then F.SCL_EVT.STALE_A else F.SCL_EVT.STALE_B
/-- The PROFILE event bit of a port. -/
def sclProfileEvt (p : Nat) : Field := if p = 0 then F.SCL_EVT.PROFILE_A else F.SCL_EVT.PROFILE_B
/-- The CLIP event bit of a port. -/
def sclClipEvt (p : Nat) : Field := if p = 0 then F.SCL_EVT.CLIP_A else F.SCL_EVT.CLIP_B

/-- N of the configuration. -/
def State.sclN (s : State) : Nat := s.get F.SCL_CFG.N_M1 + 1

/-! ### Sets (R86, R89, R91) -/

/-- AVG of a set. -/
def SclSet.avg (t : SclSet) : Nat := 2 ^ t.avgLog
/-- The set still lacks borrowed sweeps. -/
def SclSet.open_ (t : SclSet) : Bool := decide (t.launched < t.avg)

/-- N in force: of the set that still lacks sweeps, else of the configuration (R89). -/
def borrowN (s : State) (p : Nat) : Nat :=
  match (s.sclPort p).sets.find? (·.open_) with
  | some t => t.n
  | none => s.sclN

/-- Whether a sweep of a port's schedule is borrowed when its slot 3 launches (R86). -/
def borrows (s : State) (p sweep : Nat) : Bool :=
  s.flag F.SCL_CTL.EN && !s.flag F.PRB_STAT.SOURCE && s.flag F.PRB_STAT.A_LOCK && s.flag F.PRB_STAT.B_LOCK
    && s.sweeping p && sweep % borrowN s p == 0

/-- T_PROF and ACTIVE of a port follow its set in progress (R101, R103). -/
def sclStat (s : State) (p : Nat) : State :=
  match (s.sclPort p).sets.find? fun t => t.open_ || decide (s.elapsed < t.endsAt) with
  | some t => (s.setFlag (sclActiveF p) true).set (F.SCL_Px_PERIOD.T_PROF p) (t.avg * t.n * s.sweepPeriod p)
  | none => (s.setFlag (sclActiveF p) false).set (F.SCL_Px_PERIOD.T_PROF p) 0

/-- A set with the present settings. -/
def newSet (s : State) (id : Nat) : SclSet :=
  ⟨id, s.sclN, s.get F.SCL_CFG.AVG_LOG2, s.get F.SCL_CFG.WEAK_THR, 0, 0, 0, s.tai, s.tai, 0, [], (0, []), []⟩

/-- A borrowed pulse of a port launches: it belongs to the set in progress, or starts one (R89). Answers the set. -/
def sclBorrow (s : State) (p : Nat) : State × Nat :=
  let r := s.sclPort p
  let sets := if r.sets.any (·.open_) then r.sets else r.sets ++ [newSet s r.nextId]
  let id := match sets.find? (·.open_) with | some t => t.id | none => r.nextId
  let ends := s.elapsed + ceilDiv (s.lastPoint p * tauNum + 20 * tauDen) tauDen + ceilDiv s.loopLag 1000
  let sets := sets.map fun t => if t.id = id then { t with launched := t.launched + 1, tLast := s.tai, endsAt := ends } else t
  (sclStat (s.setScl p { r with sets := sets, nextId := max r.nextId (id + 1) }) p, id)

/-- Two spectra added bin by bin. -/
def addSpectra (a b : List Nat) : List Nat := (List.range (max a.length b.length)).map fun i => a.getD i 0 + b.getD i 0

/-- Spectra of a borrowed slot added to a set, point by point (R91). -/
def SclSet.add (t : SclSet) (spectra : List (Option (List Nat))) (noise : List (List Nat)) : SclSet :=
  let n := max t.acc.length spectra.length
  { t with acc := (List.range n).map fun i =>
             let old := t.acc.getD i (0, [])
             if t.dead.contains i then (0, []) else match spectra.getD i none with
             | some x => (old.1 + 1, addSpectra old.2 x)
             | none => old,
           noise := (t.noise.1 + noise.length, noise.foldl addSpectra t.noise.2) }

/-- The record of a borrowed slot reaches Scaler: its spectra are accumulated, or the sweep is excluded (R91, R102). -/
def sclRecord (s : State) (p id : Nat) (excluded : Bool) (spectra : List (Option (List Nat))) (noise : List (List Nat)) :
    State :=
  let r := s.sclPort p
  let clips := if excluded then 0 else (spectra.filter Option.isNone).length
  let s := s.setScl p { r with sets := r.sets.map fun t =>
    if t.id != id then t
    else if excluded then { t with recorded := t.recorded + 1 }
    else { t.add spectra noise with recorded := t.recorded + 1, valid := t.valid + 1 } }
  let s := s.count (F.SCL_Px_CLIP_CNT.CLIP p) clips
  let s := if 0 < clips then s.set (sclClipEvt p) 1 else s
  if excluded then s.bump (F.SCL_Px_EXCL_CNT.EXCL p) else s

/-! ### Baseline and compensation (R93 to R96) -/

/-- A point's baseline entry; port B's points follow port A's (R94). -/
def State.baseEntry (s : State) (p x : Nat) : List Byte := sget (fun _ => noBaseline) s.baseline (131072 * p + x)
/-- BASE_SHIFT. -/
def beShift (e : List Byte) : Nat := bits (le e 0 4) 20 0
/-- BASE_T, none for no baseline. -/
def beTemp (e : List Byte) : Option Int := if le e 4 2 = 0x8000 then none else some (sgn 16 (le e 4 2))
/-- A baseline entry. -/
def baseBytes (shift temp : Nat) : List Byte := leBytes 4 shift ++ leBytes 2 temp ++ [0, 0]

/-- BASE_VALID follows the baseline (R103). -/
def baseValid (s : State) : State := s.setFlag F.SCL_STAT.BASE_VALID (s.baseline.any fun c => (beTemp c.2).isSome)

/-- TEMP of R93 in 0.01 °C. -/
def baseTempOf (shift baseShift : Nat) (baseT : Int) : Int := baseT + roundDiv (((shift : Int) - baseShift) * 100) 107

/-- TABLE_LOAD_BASELINE (R94): eight bytes a point. -/
def loadBaseline (s : State) (it : Item) (bytes : List Byte) : LoadResult :=
  let first := dFirst it.desc
  let es := entriesOf 8 bytes
  match firstBad (fun _ e => bits (le e 0 4) 31 21 == 0 && zeros e 6 2) first es with
  | some i => .refused stBadEntry i s
  | none =>
    let t := (List.range es.length).foldl (fun m i => sput (fun _ => noBaseline) m (first + i) (es.getD i [])) s.baseline
    .loaded (baseValid { s with baseline := t })

/-- TGT_FIRST and TGT_PORT of a compensation entry. -/
def cpTarget (e : List Byte) : Nat × Nat := (bits (le e 0 4) 17 17, bits (le e 0 4) 16 0)
/-- LENGTH. -/
def cpLength (e : List Byte) : Nat := bits (le e 4 4) 17 0
/-- REF_PORT and REF_FIRST. -/
def cpRef (e : List Byte) : Nat × Nat := (bits (le e 8 4) 17 17, bits (le e 8 4) 16 0)
/-- REF_DIR. -/
def cpFalls (e : List Byte) : Bool := bit (le e 8 4) 18
/-- The lowest reference point. -/
def cpRefLow (e : List Byte) : Nat := if cpFalls e then (cpRef e).2 + 1 - cpLength e else (cpRef e).2

/-- Whether ranges of a port overlap. -/
def rangesMeet (p a n q b m : Nat) : Bool := p == q && decide (a < b + m) && decide (b < a + n)

/-- A compensation entry that R96 does not refuse beside the whole table. -/
def compEntryOk (loop : Bool) (es : List (List Byte)) (i : Nat) (e : List Byte) : Bool :=
  let n := cpLength e
  bits (le e 0 4) 31 18 == 0 && bits (le e 4 4) 31 18 == 0 && bits (le e 8 4) 31 19 == 0 && zeros e 12 4
    && decide (1 ≤ n) && decide (n ≤ 131072) && decide ((cpTarget e).2 + n ≤ 131072)
    && (if cpFalls e then decide (n ≤ (cpRef e).2 + 1) else decide ((cpRef e).2 + n ≤ 131072))
    && !(loop && (cpTarget e).1 == 1)
    && (List.range es.length).all fun j =>
      let f := es.getD j []
      (j == i || !rangesMeet (cpTarget e).1 (cpTarget e).2 n (cpTarget f).1 (cpTarget f).2 (cpLength f))
        && !rangesMeet (cpRef e).1 (cpRefLow e) n (cpTarget f).1 (cpTarget f).2 (cpLength f)

/-- TABLE_LOAD_COMPENSATION (R96): the whole table is replaced. -/
def loadCompensation (s : State) (_it : Item) (bytes : List Byte) : LoadResult :=
  let es := entriesOf 16 bytes
  match firstBad (fun i e => compEntryOk s.loopMode es i e) 0 es with
  | some i => .refused stBadEntry i s
  | none =>
    let t := (List.range es.length).foldl (fun m i => sput (fun _ => zeroEntry 16) m i (es.getD i [])) []
    .loaded ({ s with comp := t }.set F.SCL_STAT.COMP_LOADED 1)

/-- TABLE_LOAD_BASELINE (R94). -/
def execTableLoadBaseline (ring : Fin 16) (payload : List Byte) (s : State) : Host.Outcome State Fault Refusal :=
  .next (tableRun s ring 0x06 payload loadBaseline)
/-- TABLE_LOAD_COMPENSATION (R96). -/
def execTableLoadCompensation (ring : Fin 16) (payload : List Byte) (s : State) :
    Host.Outcome State Fault Refusal :=
  .next (tableRun s ring 0x07 payload loadCompensation)

/-- BASE_CAPTURE written (R94): armed for every port that is not stale, else ignored and counted. -/
def baseCapture (s : State) : State :=
  let ok := (s.lc == 2 || s.lc == 3) && (!s.flag (staleF 0) || !s.flag (staleF 1))
  if !ok then s.wrErr
  else
    let s := (List.range 2).foldl (fun s p => s.setScl p { s.sclPort p with owes := !s.flag (staleF p) }) s
    s.set F.SCL_STAT.CAPTURE_PENDING 1

/-! ### Profile records (R97, R98) -/

/-- The profile-record header (R98). -/
def profHeader (s : State) (p : Nat) (stale comp base : Bool) (n avgLog nvalid num tFirst tLast count : Nat) : List Byte :=
  [0x32, BitVec.ofNat 8 (p + 2 * b2n s.loopMode + 4 * b2n stale + 8 * b2n comp + 16 * b2n base),
      BitVec.ofNat 8 (n - 1 + 16 * avgLog), 0]
    ++ leBytes 2 nvalid ++ [0, 0] ++ leBytes 8 num ++ leBytes 8 tFirst ++ leBytes 8 tLast ++ leBytes 4 0 ++ leBytes 4 count

/-- The stale marker of a port (R101). It stands for no set, so the spec states no N, AVG_LOG2, T_FIRST or T_LAST for it
(log entry 4). -/
def staleMarker (s : State) (p : Nat) : List Byte :=
  let v (k : Nat) : Nat := Config.openOf k (s.sclPort p).profile
  profHeader s p true false false (v 24 % 16 + 1) (v 25 % 16) 0 (s.sclPort p).profile (v 26) (v 27) 0

/-- A point's part of a profile: SHIFT, TQ, COMP, SNR, TEMP and STRAIN (R98). -/
structure ProfPoint where
  shift : Nat
  tq : Nat
  comp : Bool
  snr : Nat
  temp : Int
  strain : Int
  deriving DecidableEq, Repr

/-- The sample word of a point (R98). -/
def ProfPoint.bytes (w : ProfPoint) : List Byte :=
  leBytes 4 (w.shift % 2 ^ 21 + 2 ^ 21 * w.tq + 2 ^ 25 * b2n w.comp + 2 ^ 26 * w.snr) ++ leBytes 2 (enc 16 w.temp)
    ++ leBytes 2 (enc 16 w.strain)

/-- SNR of a point without a fit, which the spec does not state (R97, log entry 4). -/
def openSnr (x : Nat) : Nat := Config.openOf 28 x % 64

/-- A point without a temperature. -/
def ProfPoint.none_ (tq shift snr : Nat) : ProfPoint := ⟨shift, tq, false, snr, -32768, -32768⟩

/-- The SNR field of an SNR in 2^−16 dB: rounded down, 0 to 63 (R98). -/
def snrField (x : Int) : Nat := if x < 0 then 0 else satTo 63 (x / 65536).toNat

/-- The grade and range code of a point with a temperature (R97). -/
def tempPoint (shift snr : Nat) (db : Int) (weak : Nat) (temp strain : Int) (comp : Bool) : ProfPoint :=
  if temp < -4000 then ⟨shift, 3, comp, snr, -4000, strain⟩
  else if 30000 < temp then ⟨shift, 3, comp, snr, 30000, strain⟩
  else ⟨shift, 8 + satTo 7 ((db - weak * 32768) / 131072).toNat, comp, snr, temp, strain⟩

/-- The reference point of a target under the compensation table (R96). -/
def compRef (s : State) (p x : Nat) : Option (Nat × Nat) :=
  (s.comp.map (·.2)).findSome? fun e =>
    let t := cpTarget e
    if t.1 = p ∧ t.2 ≤ x ∧ x < t.2 + cpLength e then
      some ((cpRef e).1, if cpFalls e then (cpRef e).2 - (x - t.2) else (cpRef e).2 + (x - t.2))
    else none

/-- A point of a profile (R92, R93, R96, R97). `acc` is its count and spectrum, `ref` the TEMP of its GOOD reference. -/
def profPoint (s : State) (p x : Nat) (t : SclSet) (acc : Nat × List Nat) (noise : List Nat) (invalid : Bool)
    (ref : Option Int) : ProfPoint :=
  let fit := Config.fit acc.2 noise
  let shift := fit.1
  let db := fit.2.2
  let base := s.baseEntry p x
  if invalid then .none_ 0 0 (openSnr x)
  else if 2 * acc.1 < t.avg then .none_ 4 0 (openSnr x)
  else if !fit.2.1 then .none_ 2 0 (snrField db)
  else if db < t.weak * 32768 then .none_ 1 shift (snrField db)
  else match beTemp base with
    | none => .none_ 5 shift (snrField db)
    | some bt =>
      match ref with
      | none => tempPoint shift (snrField db) db t.weak (baseTempOf shift (beShift base) bt) (-32768) false
      | some rt =>
        let num := (100 * ((shift : Int) - beShift base) - 107 * (rt - bt)) * 10
        let v := roundOpen num (s.get F.SCL_COMP_CFG.C_EPS)
        let strain := if clampS 16 v = v ∧ v ≠ -32768 then v else sgn 16 (Config.openOf 1 v)
        tempPoint shift (snrField db) db t.weak rt strain true

/-- The owner of a point for a profile: its own port outside loop mode (R92). -/
def profOwner (s : State) (p x : Nat) : Nat :=
  if s.loopMode then s.ownerAt (s.probePort 0).next x else p

/-- The points of a set's profile, with the references already known (R92 to R97). -/
def profPoints (s : State) (p : Nat) (t : SclSet) (refs : Nat → Option Int) : List ProfPoint :=
  (List.range (s.lastPoint p + 1)).map fun x =>
    let o := profOwner s p x
    let set := if o = p then some t else (s.sclPort o).sets.find? (·.id == t.id)
    let inv := o == 2 || (match s.cutPoint (if o = 2 then p else o) with
      | some c => if s.loopMode && o == 1 then decide (c < s.lastPoint p - x) else decide (c < x)
      | none => false)
    match set with
    | some u => profPoint s p x t (u.acc.getD x (0, [])) (u.noise.2.map fun n => n / max 1 u.noise.1) inv (refs x)
    | none => profPoint s p x t (0, []) [] inv (refs x)

/-- TEMP of a reference point that carries a GOOD code: of this profile, or of the other port's last one (R96). -/
def refTemp (s : State) (p : Nat) (own : List ProfPoint) (r : Nat × Nat) : Option Int :=
  if r.1 = p then
    match own[r.2]? with
    | some w => if 8 ≤ w.tq then some w.temp else none
    | none => none
  else
    let prof := sget (fun _ => ([] : List Byte)) s.profileBuf r.1
    if 8 ≤ profTq prof r.2 then some (profTemp prof r.2) else none

/-! ### Staleness (R101) -/

/-- Whether a port's temperature is stale for a cause other than age (R101). Port B publishes nothing in loop mode. -/
def staleCause (s : State) (p : Nat) : Bool :=
  s.flag F.PRB_STAT.SOURCE || !s.flag F.PRB_STAT.B_LOCK || !s.sweeping p || !s.flag F.SCL_CTL.EN
    || (s.loopMode && p == 1)

/-- The stale marker of a port is published (R101). -/
def publishMarker (s : State) (p : Nat) : State :=
  let s := s.setScl p { s.sclPort p with marker := false }
  cruMarker (publish s 1 p (staleMarker s p) (s.sclPort p).profile s.tai true) p

/-- A profile record with STALE set (R101). -/
def markStale : List Byte → List Byte
  | a :: b :: t => a :: (b ||| 4) :: t
  | l => l

/-- The onset of staleness of a port: the set in progress is discarded, the marker is published or waits for a complete
set, and STALE is set (R101). -/
def staleOnset (s : State) (p : Nat) : State :=
  let r := s.sclPort p
  let done := r.sets.filter fun t => !t.open_ && decide (t.endsAt ≤ s.elapsed)
  let aborted := decide (done.length < r.sets.length)
  let s := s.setScl p { r with sets := done, marker := !done.isEmpty }
  let s := if aborted then (s.bump F.SCL_ABORT_CNT.ABORT).set F.SCL_EVT.ABORT 1 else s
  let s := ((s.set (staleF p) 1).set (sclStaleEvt p) 1).set (F.SCL_Px_PERIOD.T_PROF p) 0
  let s := s.setFlag (sclActiveF p) false
  let buf := sget (fun _ => ([] : List Byte)) s.profileBuf p
  let s := { s with profileBuf := sput (fun _ => []) s.profileBuf p (markStale buf) }
  if done.isEmpty then publishMarker s p else s

/-- Staleness begins where a cause has come about (R101). -/
def staleCheckPort (s : State) (p : Nat) : State :=
  if staleCause s p && (!s.flag (staleF p) || !(s.sclPort p).sets.isEmpty && !(s.sclPort p).marker) then staleOnset s p else s

/-- Staleness of both ports is looked at again after a change of lasers, ports or enables; TEMP_STALE with the lasers
(R35, R36, R101). -/
def staleCheck (s : State) : State :=
  let s := if s.flag F.PRB_STAT.SOURCE || !s.flag F.PRB_STAT.B_LOCK then s.set F.PRB_STAT.TEMP_STALE 1 else s
  staleCheckPort (staleCheckPort s 0) 1

/-- T_prof of a port in µs: of the set in progress, else by the present settings (R101). -/
def tProf (s : State) (p : Nat) : Nat :=
  if s.flag (sclActiveF p) then s.get (F.SCL_Px_PERIOD.T_PROF p)
  else 2 ^ s.get F.SCL_CFG.AVG_LOG2 * s.sclN * s.sweepPeriod p

/-- PROFILE_AGE_TIMEOUT (R101): no profile for 3 × T_prof. -/
def execProfileAgeTimeout (port : Port) (s : State) : Host.Outcome State Fault Refusal :=
  let p := port.num
  .next (if !s.flag (staleF p) && decide ((s.sclPort p).pubAt + 3 * tProf s p * 1000 ≤ s.elapsed) then staleOnset s p
    else s)

/-! ### Publication (R99) -/

/-- The baseline capture of a port from a profile's points (R94). -/
def captureBaseline (s : State) (p : Nat) (pts : List ProfPoint) : State :=
  let temp := s.get F.SCL_BASE_TEMP.TEMP
  let keep := s.baseline.filter fun c => c.1 / 131072 != p
  let new := (List.range pts.length).foldl (fun m x =>
    let w := pts.getD x (.none_ 0 0 0)
    if 8 ≤ w.tq || w.tq = 5 || w.tq = 3 then sput (fun _ => noBaseline) m (131072 * p + x) (baseBytes w.shift temp) else m) keep
  let s := { s with baseline := new }
  let s := s.setScl p { s.sclPort p with owes := false }
  if (s.sclPort 0).owes || (s.sclPort 1).owes then s
  else ((s.set F.SCL_STAT.CAPTURE_PENDING 0).set F.SCL_EVT.BASE_DONE 1).set F.SCL_STAT.BASE_VALID 1

/-- The profile of a complete set of a port (R92, R96 to R99). -/
def publishProfile (s : State) (p : Nat) (t : SclSet) : State :=
  let comp := s.flag F.SCL_CTL.COMP_EN && s.flag F.SCL_STAT.COMP_LOADED
  let own := profPoints s p t fun _ => none
  let pts := if comp then profPoints s p t fun x => (compRef s p x).bind (refTemp s p own) else own
  let base := s.baseline.any fun c => c.1 / 131072 == p && (beTemp c.2).isSome
  let num := (s.sclPort p).profile
  let prof := profHeader s p false comp base t.n t.avgLog t.valid num t.tFirst t.tLast pts.length
    ++ pts.flatMap ProfPoint.bytes
  let drop (s : State) (q : Nat) : State :=
    s.setScl q { s.sclPort q with sets := (s.sclPort q).sets.filter (·.id != t.id) }
  let s := drop s p
  let s := if s.loopMode then drop s 1 else s
  let s := s.setScl p { s.sclPort p with profile := num + 1, pubAt := s.elapsed }
  let s := (s.bump (F.SCL_Px_PROFILE_CNT.PROFILES p)).set (sclProfileEvt p) 1
  let s := s.set (F.SCL_Px_OOB.COUNT p) (pts.filter fun w => w.tq == 2 || w.tq == 3).length
  let late := (s.sclPort p).marker || staleCause s p
  let s := { s with profileBuf := sput (fun _ => []) s.profileBuf p (if late then markStale prof else prof) }
  let s := if late then s else s.set (staleF p) 0
  let s := if !late && !s.flag F.PRB_STAT.SOURCE && s.flag F.PRB_STAT.B_LOCK then s.set F.PRB_STAT.TEMP_STALE 0 else s
  let s := if (s.sclPort p).owes && !late then captureBaseline s p pts else s
  let s := cruProfile (publish s 1 p prof num t.tLast false) p prof
  let s := sclStat s p
  if (s.sclPort p).marker then publishMarker s p else s

/-- PROFILE_PUBLISH (R99): a set whose borrowed sweeps are all recorded gives its profile. -/
def execProfilePublish (port : Port) (s : State) : Host.Outcome State Fault Refusal :=
  let p := port.num
  .next (if s.loopMode && p == 1 then s
  else match (s.sclPort p).sets.head? with
    | none => s
    | some t => if t.open_ || decide (t.recorded < t.launched) then s else publishProfile s p t)

/-- SCL_CTL.CNT_CLR (R103). -/
def sclCntClr (s : State) : State :=
  s.clearAll ([F.SCL_ABORT_CNT.ABORT] ++ (List.range 2).map F.SCL_Px_PROFILE_CNT.PROFILES
    ++ (List.range 2).map F.SCL_Px_CLIP_CNT.CLIP ++ (List.range 2).map F.SCL_Px_EXCL_CNT.EXCL)

/-- SNAPSHOT_PROFILE_BUFFER (R99, R305): the last profile of a port; a stale marker before the first. -/
def execSnapshotProfileBuffer (ring : Fin 16) (s : State) : Host.Outcome State Fault Refusal :=
  .next (snapshotRun s ring 0x03 fun s d =>
    let b := sget (fun _ => ([] : List Byte)) s.profileBuf (dInst d)
    if b.isEmpty then staleMarker s (dInst d) else b)

end Sys2Proof.Machine
end

