-- ==== Sys2Proof/Machine/Deck.lean ====
section
/-! DEFINITION. Deck: the pre-trigger ring, its compression, the working buffers, and Deck's errors and wipe
(R342 to R349, R364). -/

namespace Sys2Proof.Machine

/-! ### The pre-trigger ring (R346 to R348) -/

/-- The size of the ring in bytes (R343). -/
def ringBytes (s : State) : Nat := s.get F.DCK_STAT.RING_ACT * 2 ^ 28

/-- The bytes a record takes in the ring (R347). -/
def RingRec.size (r : RingRec) : Nat := if r.blocks.isEmpty then r.raw.length else r.blocks.length

/-- The bytes the ring holds. -/
def ringHeld (l : List RingRec) : Nat := (l.map RingRec.size).sum

/-- The state with Deck changed. -/
def State.setDeck (s : State) (d : DeckState) : State := { s with deck := d }

/-- SPAN_MS, the oldest LAUNCH and RATIO follow the ring (R348); the spec does not say how the quotients round. -/
def ringStats (s : State) : State :=
  let s := match s.deck.ring.head?, s.deck.ring.getLast? with
    | some a, some b =>
      (s.set F.DCK_RING_STAT.SPAN_MS (satTo F.DCK_RING_STAT.SPAN_MS.max
        (roundOpen ((b.launch - a.launch : Nat) : Int) 1000000).toNat)).set F.DCK_RING_OLD_LO.LAUNCH (a.launch % 2 ^ 32)
    | _, _ => (s.set F.DCK_RING_STAT.SPAN_MS 0).set F.DCK_RING_OLD_LO.LAUNCH 0
  let raw := (s.deck.recent.map (·.2.1)).sum
  let kept := (s.deck.recent.map (·.2.2)).sum
  s.set F.DCK_RING_STAT.RATIO
    (if raw = 0 then 0x100 else satTo F.DCK_RING_STAT.RATIO.max (roundOpen (256 * kept : Nat) raw).toNat)

/-- Whether a CAPTURE still has to copy a ring record: it has begun, and the record lies in its window (R307). -/
def wants (it : Item) (r : RingRec) : Bool :=
  it.run.cursor != 0 && !it.run.drained && decide (it.run.cursor ≤ r.num)
    && (match it.run.limit with | some n => decide (r.num ≤ n) | none => true)
    && r.port.num == bits (le it.desc 22 1) 0 0 && decide (le it.desc 24 8 ≤ r.launch) && decide (r.launch < it.run.endAt)

/-- A record that the ring overwrites is lost to every capture that had still to copy it (R307). -/
def captureLost (s : State) (r : RingRec) : State :=
  s.setItems (s.hif.items.map fun it =>
    if isCapture it && wants it r then
      { it with run := { it.run with lost := satTo (2 ^ 32 - 1) (it.run.lost + 1), partialFlag := true } }
    else it)

/-- The oldest records go until `need` more bytes fit (R346). The first argument bounds their number. -/
def ringEvict : Nat → State → Nat → State
  | 0, s, _ => s
  | fuel + 1, s, need =>
    if ringHeld s.deck.ring + need ≤ ringBytes s then s
    else match s.deck.ring with
      | [] => s
      | r :: t =>
        let s := captureLost s r
        ringEvict fuel (s.setDeck { s.deck with ring := t, head := (s.deck.head + r.size) % max 1 (ringBytes s) }) need

/-- The ring is emptied. -/
def ringEmpty (s : State) : State :=
  let s := s.each s.deck.ring captureLost
  ringStats (s.setDeck { s.deck with ring := [], head := 0, recent := [] })

/-- The blocks a record is stored as: none while CHIP = 0, or where Chipper has no capacity left at its arrival, which the
spec ties to rates the model does not keep and is left free (R347, log entry 15). -/
def ringEncode (s : State) (raw : List Byte) : State × List Byte :=
  if !s.flag F.DCK_RING_CFG.CHIP then (s, [])
  else if s.freeVal 1 = 1 then (s.tookFree.bump F.DCK_RING_RAW_CNT.RECORDS, [])
  else
    let k := s.get F.DCK_RING_CFG.CTX
    let s := s.tookFree
    let s := (s.setChipCtx k { ChipCtx.zero with history := trimHistory raw }).set (chipMode k) 1
    (s, encodeRecord (raw.length / 65536 + 1) [] raw true)

/-- A slot record that Kerf delivers is stored, the oldest overwritten whole (R346). -/
def ringStore (s : State) (port : Port) (launch : Nat) (raw : List Byte) : State :=
  if !s.flag F.DCK_STAT.RING_ACTIVE then s
  else
    let x := ringEncode s raw
    let s := x.1
    let rec_ : RingRec := ⟨s.deck.nextNum + 1, port, launch, raw, x.2, false⟩
    let s := ringEvict s.deck.ring.length s rec_.size
    let recent := (s.deck.recent.filter fun e => decide (s.elapsed < e.1 + 1000000000)) ++ [(s.elapsed, raw.length, rec_.size)]
    ringStats (s.setDeck { s.deck with ring := s.deck.ring ++ [rec_], nextNum := rec_.num, recent := recent })

/-- The context that the ring compresses through. -/
def ringCtx (s : State) : Resource := .context ⟨s.get F.DCK_RING_CFG.CTX % 4, Nat.mod_lt _ (by decide)⟩

/-- A write of DCK_RING_CFG with no reserved bit set (R346, R347). -/
def ringCfgWrite (s : State) (value : Nat) : State :=
  let en := bit value 0
  let chip := bit value 1
  let ctx := bits value 3 2
  let wasEn := s.flag F.DCK_RING_CFG.EN
  let moved := ctx != s.get F.DCK_RING_CFG.CTX
  let s := if s.flag F.DCK_RING_CFG.CHIP && (!chip || moved) then
      (releaseOwn s cCapture (ringCtx s)).set F.DCK_RING_CFG.CHIP 0 else s
  let s := s.set F.DCK_RING_CFG.CTX ctx
  let s := if chip && !s.flag F.DCK_RING_CFG.CHIP then
      let r := claimAll s [ringCtx s] cCapture
      (r.1.setFlag F.DCK_RING_CFG.CHIP r.2).setFlag F.DCK_STAT.CONFLICT (!r.2)
    else s
  let s := s.setFlag F.DCK_RING_CFG.EN en
  let s := s.setFlag F.DCK_STAT.RING_ACTIVE (en && !s.flag F.DCK_STAT.WIPING)
  if wasEn && !en then s.setDeck { s.deck with stopped := true }
  else if !wasEn && en && s.deck.stopped then ringEmpty (s.setDeck { s.deck with stopped := false })
  else s

/-! ### Errors and wipe (R344, R345) -/

/-- DECK_CORRECTED_ERROR (R344): a corrected word is counted. -/
def execDeckCorrectedError (_region : DeckRegion) (_offset : Nat) (s : State) : Host.Outcome State Fault Refusal :=
  .next ((s.bump F.DCK_CE_CNT.WORDS).set F.DCK_EVT.CE 1)

/-- The DECK_UE payload (R362). -/
def deckUePayload (region : DeckRegion) (offset : Nat) : List Byte :=
  let c : Nat × Nat := match region with
    | .ring => (0, 0)
    | .flume _ => (1, 0)
    | .buffer n => (2, n)
    | _ => (3, 0)
  [BitVec.ofNat 8 c.1, BitVec.ofNat 8 c.2, 0, 0, 0, 0, 0, 0] ++ leBytes 8 offset

/-- The ring with the record that holds the byte at distance `d` from its oldest byte lost (log entry 16). -/
def loseAt : Nat → List RingRec → List RingRec
  | _, [] => []
  | d, r :: t => if d < r.size then { r with lost := true } :: t else r :: loseAt (d - r.size) t

/-- The queue without the record that holds byte `d` of it, and that record. -/
def dropAt : Nat → List QRec → List QRec × Option QRec
  | _, [] => ([], none)
  | d, r :: t =>
    if d < r.bytes.length then (t, some r)
    else
      let x := dropAt (d - r.bytes.length) t
      (r :: x.1, x.2)

/-- A queued record lost to an uncorrectable word, handled as a drop (R329, R344). -/
def dropQueued (s : State) (n d : Nat) : State :=
  let q := s.fstream n
  let x := dropAt d q.queue
  match x.2 with
  | some r =>
    if r.marker then s.setFstream n { q with queue := x.1 }
    else
      let s := s.bump (F.FLM_Sn_DROP_CNT.RECORDS n)
      s.setFstream n { q with queue := x.1, drops := q.drops + 1, dropFirst := if q.drops = 0 then r.index else q.dropFirst,
                              dropLast := r.index }
  | none =>
    if q.raw.isEmpty then s
    else (s.bump (F.FLM_Sn_DROP_CNT.RECORDS n)).setFstream n { q with raw := [], drops := q.drops + 1 }

/-- The stream of a Flume port that holds byte `d` of the port's queue, and the byte's place in it, the streams taken in
their order (log entry 16). -/
def flumeAt (s : State) (p : Nat) : Nat → List Nat → Option (Nat × Nat)
  | _, [] => none
  | d, n :: t =>
    if sePort (s.streamEntry n) != p then flumeAt s p d t
    else if d < (s.fstream n).held then some (n, d)
    else flumeAt s p (d - (s.fstream n).held) t

/-- What the region of an uncorrectable word does (Uncorrectable Deck errors). -/
def deckReact (s : State) (region : DeckRegion) (offset : Nat) : State :=
  match region with
  | .ring =>
    let size := max 1 (ringBytes s)
    s.setDeck { s.deck with ring := loseAt ((offset + size - s.deck.head) % size) s.deck.ring }
  | .flume port =>
    match flumeAt s port.num offset (List.range 16) with
    | some (n, d) => dropQueued s n d
    | none => s
  | .buffer n =>
    let w := (n * wbSize s + offset) / 32
    s.setDeck { s.deck with bad := if s.deck.bad.contains w then s.deck.bad else w :: s.deck.bad }
  | .accumulators port =>
    let r := s.sclPort port.num
    let x := offset / 512
    s.setScl port.num { r with sets := r.sets.map fun t =>
      if t.open_ || t.recorded != t.launched then { t with dead := x :: t.dead, acc := t.acc.set x (0, []) } else t }
  | .ringIndex =>
    let n := Config.openOf 20 offset % (s.deck.ring.length + 1)
    let gone := s.deck.ring.take n
    let s := s.each gone captureLost
    let s := s.setDeck { s.deck with ring := s.deck.ring.drop n,
                                     head := (s.deck.head + ringHeld gone) % max 1 (ringBytes s) }
    ringStats (s.set F.DCK_EVT.RING_RESTART 1)
  | .other => s

/-- DECK_UE (R344): an uncorrectable word is counted and reported, and its region reacts. -/
def execDeckUe (region : DeckRegion) (offset : Nat) (s : State) : Host.Outcome State Fault Refusal :=
  let s := (s.bump F.DCK_UE_CNT.WORDS).set F.DCK_EVT.UE 1
  let s := s.event 0xB0 true (deckUePayload region offset)
  .next (deckReact s region offset)

/-- DECK_WIPE_DONE (R345): the wipe ends; the ring stores, and the descriptors that waited start. -/
def execDeckWipeDone (s : State) : Host.Outcome State Fault Refusal :=
  .next (if !s.flag F.DCK_STAT.WIPING then s
  else
    let s := s.set F.DCK_STAT.WIPING 0
    pumpAll (s.setFlag F.DCK_STAT.RING_ACTIVE (s.flag F.DCK_RING_CFG.EN)))

/-! ### Working buffers (R349) -/

/-- A byte of the working space. -/
def State.spaceByte (s : State) (i : Nat) : Byte := sget (fun _ => (0 : Byte)) s.deck.space i

/-- The bytes of a working buffer from an offset. -/
def wbRead (s : State) (wb off n : Nat) : List Byte :=
  (List.range n).map fun i => s.spaceByte (wb * wbSize s + off + i)

/-- Bytes written into a working buffer; an uncorrectable word written whole is sound again (R344). -/
def wbWrite (s : State) (wb off : Nat) (bytes : List Byte) : State :=
  let base := wb * wbSize s + off
  let space := (List.range bytes.length).foldl
    (fun m i => sput (fun _ => (0 : Byte)) m (base + i) (bytes.getD i 0)) s.deck.space
  s.setDeck { s.deck with space := space,
                          bad := s.deck.bad.filter fun w => !(decide (base ≤ 32 * w) && decide (32 * w + 32 ≤ base + bytes.length)) }

/-- The first uncorrectable word that a read of a working buffer meets, as its offset in the buffer. -/
def wbBad (s : State) (wb off n : Nat) : Option Nat :=
  let base := wb * wbSize s
  let hit := s.deck.bad.filter fun w => decide (base + off < 32 * w + 32) && decide (32 * w < base + off + n)
  match hit with
  | [] => none
  | w :: t => some (32 * t.foldl min w - base)

/-- The working buffer a DCK_READ or DCK_WRITE names. -/
def dBuffer (d : List Byte) : Fin 16 := ⟨le d 20 1 % 16, Nat.mod_lt _ (by decide)⟩

/-- DCK_READ (R349): a working buffer that is free or the host's is copied to the host. -/
def execDckRead (ring : Fin 16) (s : State) : Host.Outcome State Fault Refusal :=
  .next (match running s ring 0x1C with
  | none => s
  | some it =>
    let d := it.desc
    let o := s.owner (.buffer (dBuffer d))
    if o != 0 && o != cHost then complete s it (.just stConflict)
    else match wbBad s (dBuffer d) (le d 24 8) (dLength d) with
      | some off => complete s it { Outcome.just stDeckUncorr with info0 := off }
      | none =>
        complete (s.emit (.hostWrite (dAddr d) (wbRead s (dBuffer d) (le d 24 8) (dLength d)))) it (.just stOk))

/-- DCK_WRITE (R349): host bytes are copied into a working buffer that the host owns. -/
def execDckWrite (ring : Fin 16) (payload : List Byte) (s : State) : Host.Outcome State Fault Refusal :=
  .next (match running s ring 0x1D with
  | none => s
  | some it =>
    let d := it.desc
    if s.owner (.buffer (dBuffer d)) != cHost then complete s it (.just stConflict)
    else complete (wbWrite s (dBuffer d) (le d 24 8) (slice payload 0 (dLength d))) it (.just stOk))

/-- DCK_CTL.CNT_CLR (R364). -/
def dckCntClr (s : State) : State := s.clearAll [F.DCK_CE_CNT.WORDS, F.DCK_UE_CNT.WORDS, F.DCK_RING_RAW_CNT.RECORDS]

/-- PART_PENDING follows DCK_PART (R343). -/
def partPending (s : State) : State :=
  s.setFlag F.DCK_STAT.PART_PENDING (s.get F.DCK_PART.RING != s.get F.DCK_STAT.RING_ACT
    || s.get F.DCK_PART.FLUME != s.get F.DCK_STAT.FLUME_ACT)

/-- The partition takes effect at a reset (R343). -/
def partApply (s : State) (ring flume : Nat) : State :=
  let s := (s.set F.DCK_STAT.RING_ACT ring).set F.DCK_STAT.FLUME_ACT flume
  s.set F.DCK_STAT.WB_MIB ((64 - ring - flume) * 16)

end Sys2Proof.Machine
end

