-- ==== Sys2Proof/Machine/Landing.lean ====
section
/-! DEFINITION. Landing: its areas, errors and spares, the capture directory, the archive table and throttle, reads and
deletes (R350 to R364). -/

namespace Sys2Proof.Machine

/-- The state with Landing changed. -/
def State.setLanding (s : State) (l : LandingState) : State := { s with landing := l }
/-- A directory entry. -/
def State.capEntry (s : State) (i : Nat) : CapEntry := sget (fun _ => CapEntry.zero) s.landing.dir i
/-- The state with a directory entry set. -/
def State.setCapEntry (s : State) (i : Nat) (e : CapEntry) : State :=
  s.setLanding { s.landing with dir := sput (fun _ => CapEntry.zero) s.landing.dir i e }

/-! ### Spares (R352, R353) -/

/-- The pool of spare blocks takes a value: LND_SPARE_LOW below 256, READ_ONLY at 0 (R353). -/
def setSpares (s : State) (n : Nat) : State :=
  let old := s.get F.LND_SPARE.SPARES
  let s := s.set F.LND_SPARE.SPARES n
  let s := if 256 ≤ old ∧ n < 256 then (s.set F.LND_EVT.SPARE_LOW 1).event 0xB3 true (leBytes 2 n) else s
  if 0 < old ∧ n = 0 then
    ((s.set F.LND_STAT.STATE 2).set F.LND_EVT.READ_ONLY 1).event 0xB4 true []
  else s

/-- A block is retired as grown bad, its data going to a spare block (R352, R353). -/
def retireBlock (s : State) : State := setSpares (s.bump F.LND_SPARE.BAD_GROWN) (s.get F.LND_SPARE.SPARES - 1)

/-- BLOCK_PROGRAM_FAIL (R353). -/
def execBlockProgramFail (s : State) : Host.Outcome State Fault Refusal := .next (retireBlock s)

/-- BLOCK_REFRESH (R353): `retried` sectors of the block needed a retry or soft decode (R352). A block is taken from the
pool and the old one returns to it. -/
def execBlockRefresh (retried : Nat) (s : State) : Host.Outcome State Fault Refusal :=
  let s := s.count F.LND_CE_CNT.SECTORS retried
  let n := s.get F.LND_SPARE.SPARES
  .next (if n = 0 then s
  else
    let s := setSpares s (n - 1)
    (s.set F.LND_SPARE.SPARES n).bump F.LND_REFRESH_CNT.BLOCKS)

/-- A record of Landing lost to an uncorrectable sector. -/
def loseRec (l : List LndRec) (i : Nat) : List LndRec :=
  match l[i]? with
  | some r => l.set i { r with lost := true }
  | none => l

/-- The byte offset of a record within its capture (R355). -/
def recPos (l : List LndRec) (i : Nat) : Nat := lndBytes (l.take i)

/-- LND_UNCORR (R352): the sector is counted and reported, its record lost, its block retired. -/
def execLndUncorr (area : LandingArea) (obj record : Nat) (s : State) : Host.Outcome State Fault Refusal :=
  let s := (s.bump F.LND_UE_CNT.SECTORS).set F.LND_EVT.UNCORR 1
  let e := s.capEntry obj
  let x : Nat × Nat × State := match area with
    | .capture => (0, recPos e.records record,
        s.setCapEntry obj { e with records := loseRec e.records record, state := if 2 ≤ e.state then 5 else e.state })
    | .archive => (1, match s.landing.archive[record]? with | some r => r.time | none => 0,
        s.setLanding { s.landing with archive := loseRec s.landing.archive record })
    | .system => (2, record, s)
  let s := x.2.2.event 0xB1 true ([BitVec.ofNat 8 x.1, 0] ++ leBytes 2 obj ++ [0, 0, 0, 0] ++ leBytes 8 x.2.1)
  .next (retireBlock s)

/-! ### Scrub (R354) -/

/-- LND_CTL.SCRUB_NOW (R354): a full pass starts. -/
def scrubNow (s : State) : State := s.set F.LND_STAT.SCRUB 1

/-- SCRUB_PASS_COMPLETE (R354). -/
def execScrubPassComplete (s : State) : Host.Outcome State Fault Refusal :=
  .next ((s.set F.LND_STAT.SCRUB 0).setLanding { s.landing with scrubAt := s.elapsed })

/-- HOURS of LND_SCRUB_AGE (R354). -/
def scrubHours (s : State) : Nat := satTo 65535 ((s.elapsed - s.landing.scrubAt) / 3600000000000)

/-! ### The capture directory and the CAPTURE area (R351, R355, R356) -/

/-- The bytes of the CAPTURE area. -/
def captureSize (s : State) : Nat := s.get F.LND_PART.CAP_GIB * 2 ^ 30

/-- The bytes that captures hold. -/
def captureHeld (s : State) : Nat := (s.landing.dir.map fun e => lndBytes e.2.records).sum

/-- The oldest of the captures that a test admits, by the order of their opening. -/
def oldestCapture (s : State) (ok : Nat × CapEntry → Bool) : Option Nat :=
  ((s.landing.dir.filter ok).foldl (fun best e => match best with
    | none => some e
    | some b => if e.2.serial < b.2.serial then some e else best) (none : Option (Nat × CapEntry))).map (·.1)

/-- A completed capture without KEEP: one that may be deleted to make room (R355). -/
def disposable (e : Nat × CapEntry) : Bool := decide (2 ≤ e.2.state) && !e.2.keep

/-- The first free entry of the directory. -/
def freeEntry (s : State) : Option Nat := (List.range 1024).find? fun i => (s.capEntry i).state == 0

/-- The entry a new capture takes: a free one, or that of the oldest capture without KEEP, deleted (R355). -/
def dirOpen (s : State) : Option (State × Nat) :=
  match freeEntry s with
  | some i => some (s, i)
  | none => match oldestCapture s (fun e => disposable e && decide (e.1 < 1024)) with
    | some i => some (s.setCapEntry i CapEntry.zero, i)
    | none => none

/-- A new capture's entry, WRITING (R355, R356). -/
def newCapEntry (s : State) (d : List Byte) : CapEntry :=
  ⟨1, bit (le d 52 1) 0, bit (le d 22 1) 0, le d 48 4, dTag d, le d 40 4, le d 44 4, 0, s.landing.serial + 1, []⟩

/-- Room for a record in the CAPTURE area: the oldest disposable captures other than `me` go, whole (R355). The first
argument bounds their number; false where there is no room. -/
def captureRoom : Nat → State → Nat → Nat → State × Bool
  | 0, s, _, n => (s, decide (captureHeld s + n ≤ captureSize s))
  | fuel + 1, s, me, n =>
    if captureHeld s + n ≤ captureSize s then (s, true)
    else match oldestCapture s (fun e => disposable e && e.1 != me) with
      | some i => captureRoom fuel (s.setCapEntry i CapEntry.zero) me n
      | none => (s, false)

/-- A record stored in a capture (R355). -/
def capturePut (s : State) (i : Nat) (bytes : List Byte) (launch : Nat) : State :=
  let e := s.capEntry i
  let s := s.setCapEntry i { e with records := e.records ++ [⟨bytes, launch, false, s.elapsed⟩],
                                    tFirst := if e.records.isEmpty then launch else e.tFirst }
  s.setLanding { s.landing with written := (s.elapsed, bytes.length) :: s.landing.written }

/-- A directory entry as the snapshot shows it (R356). -/
def CapEntry.bytes (e : CapEntry) : List Byte :=
  if e.state = 0 then zeroEntry 32
  else [BitVec.ofNat 8 (e.state + 8 * b2n e.keep + 16 * b2n e.port), 0, 0, 0] ++ leBytes 4 e.captureId ++ leBytes 4 e.tag
    ++ leBytes 4 e.records.length ++ leBytes 8 e.tFirst ++ leBytes 4 e.first ++ leBytes 4 e.count

/-- The numbers from `first`, `count` of them or up to `limit` for 0. -/
def snapRange (d : List Byte) (limit : Nat) : List Nat :=
  (List.range (if dCount d = 0 then limit - dFirst d else dCount d)).map (dFirst d + ·)

/-- SNAPSHOT_CAPTURE_DIRECTORY (R356, R363). -/
def execSnapshotCaptureDirectory (ring : Fin 16) (s : State) : Host.Outcome State Fault Refusal :=
  .next (snapshotRun s ring 0x20 fun s d => (snapRange d 1024).flatMap fun i => (s.capEntry i).bytes)

/-- LND_PART written in FACTORY or PROVISIONED (R351): a change of CAP_GIB erases the CAPTURE and ARCHIVE areas. -/
def lndPartWrite (s : State) (gib : Nat) : State :=
  if gib = s.get F.LND_PART.CAP_GIB then s
  else
    let s := s.set F.LND_PART.CAP_GIB gib
    s.setLanding { s.landing with dir := [], archive := [] }

/-! ### The archive (R357, R358) -/

/-- An archive entry that R357 does not refuse. -/
def arcEntryOk (e : List Byte) : Bool :=
  decide (aeSrc e < 3) && bits (le e 0 1) 7 3 == 0
    && decide (aeIndex e < (if aeSrc e = 0 then 64 else if aeSrc e = 1 then 2 else 1))
    && !bit (le e 2 1) 7 && le e 3 1 == 0 && zeros e 6 10
    && (if aeSrc e = 2 then aeMask e != 0 && aeThinMax e == 0 else aeMask e == 0)

/-- An archive entry takes effect, its thin level back to 0 (R357). -/
def arcSet (s : State) (k : Nat) (e : List Byte) : State :=
  let s := s.setLanding { s.landing with table := sput (fun _ => zeroEntry 16) s.landing.table k e,
                                         thinDue := s.landing.thinDue.filter (·.1 != k) }
  (s.setFlag (F.LND_ARCk_STAT.EN k) (aeEn e)).set (F.LND_ARCk_STAT.T k) 0

/-- The load of archive-table entries (R357, R363). -/
def loadArchive (s : State) (it : Item) (bytes : List Byte) : LoadResult :=
  let first := dFirst it.desc
  let es := entriesOf 16 bytes
  match firstBad (fun _ e => arcEntryOk e) first es with
  | some i => .refused stBadEntry i s
  | none => .loaded ((List.range es.length).foldl (fun s i =>
      let e := es.getD i []
      if s.arcEntry (first + i) == e then s else arcSet s (first + i) e) s)

/-- TABLE_LOAD_ARCHIVE (R357). -/
def execTableLoadArchive (ring : Fin 16) (payload : List Byte) (s : State) : Host.Outcome State Fault Refusal :=
  .next (tableRun s ring 0x22 payload loadArchive)

/-- R_allow in bytes per second as a quotient (R358); where t_40 is not in the future, or not yet known, its value is
open. -/
def rAllow (s : State) (peMean : Nat) : Nat × Nat :=
  let t40 := match s.landing.firstOperational with
    | some t => t + 14610 * 86400 * 1000000000
    | none => 0
  if t40 ≤ s.tai then (Config.openOf 21 (t40 : Int) % 4000001, 1)
  else
    let n := (30000 - peMean) * 2 ^ 38 * 1000000000 * 2
    let d := (t40 - s.tai) * 3
    if n < 4000000 * d then (n, d) else (4000000, 1)

/-- The source an up step thins: lowest PRIO, then highest index, among those below THIN_MAX (R358). -/
def arcUp (s : State) : Option Nat :=
  (List.range 8).foldl (fun best k =>
    let e := s.arcEntry k
    if aeEn e && decide (s.get (F.LND_ARCk_STAT.T k) < aeThinMax e) then
      match best with
      | none => some k
      | some b => if aePrio e ≤ aePrio (s.arcEntry b) then some k else best
    else best) none

/-- The source a down step restores: highest PRIO, then lowest index, among those above level 0 (R358). -/
def arcDown (s : State) : Option Nat :=
  (List.range 8).foldl (fun best k =>
    let e := s.arcEntry k
    if aeEn e && decide (0 < s.get (F.LND_ARCk_STAT.T k)) then
      match best with
      | none => some k
      | some b => if aePrio (s.arcEntry b) < aePrio e then some k else best
    else best) none

/-- One throttle step (R358, R362). -/
def arcStep (s : State) (k : Nat) (up : Bool) : State :=
  let t := if up then s.get (F.LND_ARCk_STAT.T k) + 1 else s.get (F.LND_ARCk_STAT.T k) - 1
  let s := s.set (F.LND_ARCk_STAT.T k) t
  let s := s.setLanding { s.landing with thinDue := (k, up) :: s.landing.thinDue.filter (·.1 != k),
                                         lastStep := some s.elapsed }
  (s.set F.LND_EVT.THROTTLE 1).event 0xB2 up ([BitVec.ofNat 8 k, BitVec.ofNat 8 t, 0, 0]
    ++ leBytes 2 (s.get F.LND_BUDGET.ALLOW) ++ leBytes 2 (s.get F.LND_BUDGET.AVG))

/-- LND_THROTTLE (R358): the hourly projection, with the mean program/erase count and the projected years as measured. -/
def execLndThrottle (peMean : BitVec 16) (projYears : BitVec 8) (s : State) : Host.Outcome State Fault Refusal :=
  let s := (s.set F.LND_LIFE.PE_MEAN peMean.toNat).set F.LND_LIFE.PROJ_YEARS projYears.toNat
  let day := s.landing.written.filter fun e => decide (s.elapsed < e.1 + 86400000000000)
  let s := s.setLanding { s.landing with written := day }
  let a := (day.map (·.2)).sum
  let r := rAllow s peMean.toNat
  let s := s.set F.LND_BUDGET.ALLOW (satTo 65535 (roundOpen (r.1 : Int) (r.2 * 10000)).toNat)
  let s := s.set F.LND_BUDGET.AVG (satTo 65535 (roundOpen (a : Int) 864000000).toNat)
  let exceeds := decide (r.1 * 86400 < a * r.2)
  let under := decide (2 * a * r.2 < r.1 * 86400)
  let quiet := match s.landing.lastStep with
    | some t => decide (t + 86400000000000 ≤ s.elapsed)
    | none => true
  .next (if exceeds then
      match arcUp s with
      | some k => arcStep (s.set F.LND_STAT.OVER_BUDGET 0) k true
      | none => s.set F.LND_STAT.OVER_BUDGET 1
    else
      let s := s.set F.LND_STAT.OVER_BUDGET 0
      if under && quiet then
        match arcDown s with
        | some k => arcStep s k false
        | none => s
      else s)

/-! ### Reading and deleting (R359) -/

/-- What an LND_READ has gathered. -/
structure LndGather where
  bytes : List Byte
  count : Nat
  /-- The status and the POS of the next record, once known. -/
  stop : Option (Nat × Nat × Nat)
  deriving DecidableEq, Repr

/-- Whole records into a buffer of `room` bytes (R359). `recs` holds each record with its POS and the next one's. -/
def gather : List (LndRec × Nat × Nat) → Nat → LndGather → LndGather
  | [], _, g => { g with stop := some (stOk, 2 ^ 64 - 1, 0) }
  | (r, pos, next) :: t, room, g =>
    if r.lost then { g with stop := some (stLndUncorr, next, 0) }
    else
      let off := (g.bytes.length + 7) / 8 * 8
      if room < off + r.bytes.length then
        { g with stop := some (if g.count = 0 then (stBufShort, pos, r.bytes.length) else (stOk, pos, 0)) }
      else gather t room { g with bytes := g.bytes ++ List.replicate (off - g.bytes.length) 0 ++ r.bytes, count := g.count + 1 }

/-- Records with the POS of each and of the one after it, for a list of positions. -/
def withPos (l : List LndRec) (pos : Nat → Nat) : List (LndRec × Nat × Nat) :=
  (List.range l.length).map fun i =>
    (l.getD i ⟨[], 0, false, 0⟩, pos i, if i + 1 < l.length then pos (i + 1) else 2 ^ 64 - 1)

/-- LND_READ (R359): whole records of a capture or of the archive from POS on. -/
def execLndRead (ring : Fin 16) (s : State) : Host.Outcome State Fault Refusal :=
  .next (match running s ring 0x18 with
  | none => s
  | some it =>
    let d := it.desc
    let area := le d 20 1
    let obj := le d 24 4
    let pos := le d 32 8
    let e := s.capEntry obj
    if area = 0 && (decide (1024 ≤ obj) || e.state == 0) then complete s it (.just stNoObject)
    else
      let l := if area = 0 then withPos e.records (recPos e.records)
        else withPos s.landing.archive fun i => match s.landing.archive[i]? with | some r => r.time | none => 0
      let g := gather (l.dropWhile fun x => decide (x.2.1 < pos)) (dLength d) ⟨[], 0, none⟩
      let stop := g.stop.getD (stOk, 2 ^ 64 - 1, 0)
      let s := if g.bytes.isEmpty then s else s.emit (.hostWrite (dAddr d) g.bytes)
      let info1 := if stop.1 = stBufShort then stop.2.2 else g.count
      complete s it ⟨stop.1, g.bytes.length, stop.2.1, info1, false, false⟩)

/-- LND_DELETE (R359). -/
def execLndDelete (ring : Fin 16) (s : State) : Host.Outcome State Fault Refusal :=
  .next (match running s ring 0x19 with
  | none => s
  | some it =>
    let obj := le it.desc 24 4
    let e := s.capEntry obj
    if 1024 ≤ obj ∨ e.state = 0 then complete s it (.just stNoObject)
    else if e.state = 1 then complete s it (.just stConflict)
    else complete (s.setCapEntry obj CapEntry.zero) it (.just stOk))

/-! ### Power loss (R360) -/

/-- What Landing keeps over a reset without warning: captures that were WRITING become INCOMPLETE, each without some of the
records of the last 20 ms, and the archive loses at most those of its last 2 s; how many is left free (R360, log entry 17). -/
def lndPowerLoss (s : State) : State :=
  let keep (l : List LndRec) (ns k : Nat) : List LndRec :=
    let young := (l.filter fun r => decide (s.elapsed < r.since + ns)).length
    l.take (l.length - Config.freeValue (s.freeCount + k) % (young + 1))
  let s := s.each (s.landing.dir.map (·.1)) fun s i =>
    let e := s.capEntry i
    if e.state = 1 then s.setCapEntry i { e with state := 4, records := keep e.records 20000000 (i + 1) } else s
  let archive := keep s.landing.archive 2000000000 0
  let s := s.setLanding { s.landing with archive := archive }
  { s with freeCount := s.freeCount + 1025 }

/-- LND_CTL.CNT_CLR (R364). -/
def lndCntClr (s : State) : State :=
  s.clearAll ([F.LND_CE_CNT.SECTORS, F.LND_UE_CNT.SECTORS, F.LND_REFRESH_CNT.BLOCKS]
    ++ (List.range 8).map F.LND_ARCk_STAT.THINNED)

end Sys2Proof.Machine
end

