-- ==== Sys2Proof/Machine/Capture.lean ====
section
/-! DEFINITION. Captures of the pre-trigger ring: the cut of a slot record, the three destinations, and the steps at which
captures go on (R306, R307, R331, R355). -/

namespace Sys2Proof.Machine

/-! ### Cutting a record (R78 to R81, R307) -/

/-- The runs of a COMPACT record, as words. -/
def runWords (raw : List Byte) : List Nat := (List.range (le raw 32 4)).map fun i => le raw (36 + 4 * i) 4

/-- The runs that meet points `lo` to `hi − 1`, the first starting at `lo` (R80). -/
def cutRuns (lo hi : Nat) : List Nat → List Nat
  | [] => []
  | [r] => if r % 2 ^ 17 < hi then [r - r % 2 ^ 17 + max lo (r % 2 ^ 17)] else []
  | r :: n :: t =>
    if n % 2 ^ 17 ≤ lo then cutRuns lo hi (n :: t)
    else if hi ≤ r % 2 ^ 17 then []
    else (r - r % 2 ^ 17 + max lo (r % 2 ^ 17)) :: cutRuns lo hi (n :: t)

/-- A slot record cut to a range of points, FIRST and COUNT set to match (R307). -/
def cutRecord (raw : List Byte) (first count : Nat) : List Byte :=
  let f0 := le raw 24 4
  let n0 := le raw 28 4
  let lo := max f0 first
  let hi := min (f0 + n0) (first + count)
  let n := hi - lo
  let head := slice raw 0 24 ++ leBytes 4 (if n0 = 0 then first else lo) ++ leBytes 4 n
  if n = 0 then head
  else if bit (le raw 1 1) 4 then
    let runs := runWords raw
    let body := 36 + 4 * runs.length
    let cut := cutRuns lo hi runs
    pad8 (head ++ leBytes 4 cut.length ++ cut.flatMap (leBytes 4) ++ slice raw (body + 2 * (lo - f0)) (2 * n))
  else pad8 (head ++ slice raw (32 + 4 * (lo - f0)) (4 * n))

/-! ### The start of a capture -/

/-- The port a CAPTURE names. -/
def capPort (it : Item) : Nat := bits (le it.desc 22 1) 0 0

/-- The ring records a capture finds when it begins. -/
def inWindow (s : State) (it : Item) : List RingRec := s.deck.ring.filter fun r => wants it r

/-- The item with its window fixed at its start (R307): the end of a window that does not wait is the present instant at
the latest, and the records held then are all it copies. -/
def capWindow (s : State) (it : Item) : Item :=
  let tEnd := le it.desc 32 8
  let waits := bit (le it.desc 22 1) 1 && decide (s.tai < tEnd)
  let early := match s.deck.ring.head? with
    | some r => decide (le it.desc 24 8 < r.launch)
    | none => false
  let order := s.hif.items.foldl (fun m x => max m x.run.order) 0 + 1
  { it with run := { CapRun.zero with cursor := 1, endAt := if waits then tEnd else min tEnd s.tai,
                                      limit := if waits then none else some s.deck.nextNum,
                                      partialFlag := early, order := order } }

/-- Whether a stream carries CAPTURE records (R331). -/
def captureStream (s : State) (n : Nat) : Bool := seEn (s.streamEntry n) && seSrc (s.streamEntry n) == 4

/-- Whether a capture ring is enabled with SRC = CAPTURE (R307). -/
def captureRingOn (s : State) (n : Nat) : Bool := s.flag (ringEn .cap n) && s.get (F.HIF_CAPn_CFG.SRC n) == 4

/-- A CAP_START or CAP_END marker of a capture to Flume (R330). -/
def capMarker (s : State) (it : Item) (kind count : Nat) : List Byte :=
  marker kind 0 count s.tai (dTag it.desc) (le it.desc 48 4)

/-- A capture begins, or completes at once (R307, R331, R353, R355). -/
def capBegin (s : State) (it : Item) : State :=
  let w := capWindow s it
  let n := dInst it.desc
  let dest := dId it.desc
  if dest = 0 && !captureRingOn s n then complete s it (.just stRingOff)
  else if dest = 2 && !captureStream s n then complete s it (.just stStreamOff)
  else if dest = 1 && s.get F.LND_STAT.STATE = 2 then complete s it (.just stLndReadonly)
  else if w.run.limit.isSome && (inWindow s w).isEmpty then complete s it (.just stWindowGone)
  else if dest = 1 then
    match dirOpen s with
    | none => complete s it (.just stDirFull)
    | some (s, i) =>
      let s := s.setCapEntry i (newCapEntry s it.desc)
      let s := s.setLanding { s.landing with serial := s.landing.serial + 1 }
      updItem s { w with run := { w.run with entry := i } }
  else updItem s w

/-! ### The progress of a capture -/

/-- What came of a record offered to a capture's destination. -/
inductive CapStep where
  | done
  /-- The record is longer than the buffer: it is not written (R306). -/
  | skipped
  | waits
  | full
  deriving DecidableEq, Repr

/-- A record put to a capture ring at the pace of its buffers (R306, R307). The first argument bounds the buffers. -/
def hostPut : Nat → State → Nat → List Byte → Nat → State × CapStep
  | 0, s, _, _, _ => (s, .waits)
  | fuel + 1, s, n, bytes, time =>
    match fillItem s n with
    | none => (s, .waits)
    | some it =>
      let r := s.capRing n
      if (r.fill + 7) / 8 * 8 + bytes.length ≤ dLength it.desc then ((capPut 1 s n bytes time).1, .done)
      else if r.records = 0 then ((capPut 1 s n bytes time).1, .skipped)
      else hostPut fuel (finishBuffer s n it) n bytes time

/-- A record put to a capture's destination. -/
def destPut (s : State) (it : Item) (bytes : List Byte) (launch : Nat) : State × CapStep :=
  let n := dInst it.desc
  match dId it.desc with
  | 0 => hostPut 2 s n bytes launch
  | 1 =>
    let len := (bytes.length + 7) / 8 * 8
    let x := captureRoom s.landing.dir.length s it.run.entry len
    if x.2 then (capturePut x.1 it.run.entry bytes launch, .done) else (x.1, .full)
  | _ =>
    if queueRoom s (sePort (s.streamEntry n)) bytes.length then (pushRecord s n bytes (le bytes 4 8) false, .done)
    else (s, .waits)

/-- Whether no record of a capture's window is still to come: its end has passed and every slot of its port launched before
it has its record (R307). -/
def windowOver (s : State) (it : Item) : Bool :=
  it.run.limit.isSome || (decide (it.run.endAt ≤ s.tai)
    && (s.probePort (s.lead (capPort it))).slots.all fun t => decide (it.run.endAt ≤ t.launch))

/-- A capture whose records are all delivered: it completes, to Landing once the last is programmed (R307, R331, R355). -/
def capDone (s : State) (it : Item) : State :=
  let gone := it.run.delivered == 0 && it.run.lost == 0
  let out := captureOutcome it (if gone then stWindowGone else stOk) false
  match dId it.desc with
  | 0 => complete s it out
  | 1 =>
    if gone then complete (s.setCapEntry it.run.entry CapEntry.zero) it out
    else updItem s { it with run := { it.run with drained := true } }
  | _ => complete (pushMarker s (dInst it.desc) (capMarker s it 4 it.run.delivered) false) it out

/-- A capture in progress goes on as far as it can. The first argument bounds the records. -/
def capAdvance : Nat → State → Item → State
  | 0, s, _ => s
  | fuel + 1, s, it0 =>
    match s.hif.items.find? fun x => sameItem x it0 with
    | none => s
    | some it =>
      if it.run.cursor = 0 || it.run.drained then s
      else match (inWindow s it).head? with
        | none => if windowOver s it then capDone s it else s
        | some r =>
          let next := { it.run with cursor := r.num + 1 }
          if r.lost then
            capAdvance fuel (updItem s { it with run := { next with lost := it.run.lost + 1, partialFlag := true } }) it
          else
            let x := destPut s it (cutRecord r.raw (le it.desc 40 4) (le it.desc 44 4)) r.launch
            match x.2 with
            | .done =>
              let run := { next with delivered := it.run.delivered + 1,
                                     first := if it.run.delivered = 0 then some r.launch else it.run.first }
              capAdvance fuel (updItem x.1 { it with run := run }) it
            | .skipped => capAdvance fuel (updItem x.1 { it with run := next }) it
            | .waits => x.1
            | .full =>
              complete (dirPartial x.1 it) it (captureOutcome it stLndFull true)

/-- A capture to a stream waits behind the captures to it that began before (R331). -/
def capTurn (s : State) (it : Item) : Bool :=
  dId it.desc != 2 || s.hif.items.all fun x =>
    !(isCapture x && x.run.cursor != 0 && dId x.desc == 2 && dInst x.desc == dInst it.desc)
      || decide (it.run.order ≤ x.run.order)

/-- A capture to a stream queues its CAP_START marker when its turn comes (R331); `entry` tells that it has. -/
def capStart (s : State) (it : Item) : State :=
  if dId it.desc == 2 && it.run.entry == 0 && it.run.cursor != 0 then
    updItem (pushMarker s (dInst it.desc) (capMarker s it 3 0) false) { it with run := { it.run with entry := 1 } }
  else s

/-- Every capture in progress goes on as far as it can, in the order in which they began. -/
def pumpCaptures (s : State) : State :=
  s.each s.hif.items fun s it => if isCapture it && capTurn s it then capAdvance (s.deck.ring.length + 2) (capStart s it) it else s

/-- The captures that come to their turn behind others: two passes reach those an ended capture lets go on. -/
def pumpCaptures2 (s : State) : State := pumpCaptures (pumpCaptures s)

/-- A CAPTURE of a destination at the front of a ring begins, or goes on. -/
def captureStep (s : State) (ring dest : Nat) : State :=
  match running s ring 0x04 with
  | none => s
  | some it =>
    if dId it.desc != dest then s
    else pumpCaptures2 (if it.run.cursor = 0 then capBegin s it else s)

/-- CAPTURE_HOST (R307). -/
def execCaptureHost (ring : Fin 16) (s : State) : Host.Outcome State Fault Refusal := .next (captureStep s ring 0)
/-- CAPTURE_LANDING (R355). -/
def execCaptureLanding (ring : Fin 16) (s : State) : Host.Outcome State Fault Refusal := .next (captureStep s ring 1)
/-- CAPTURE_FLUME (R331). -/
def execCaptureFlume (ring : Fin 16) (s : State) : Host.Outcome State Fault Refusal := .next (captureStep s ring 2)

/-- LANDING_CAPTURE_COMPLETE (R355): the last record is programmed, and the capture completes. -/
def execLandingCaptureComplete (entry : Fin 1024) (s : State) : Host.Outcome State Fault Refusal :=
  .next (match s.hif.items.find? fun it => isCapture it && it.run.drained && it.run.entry == entry.val with
  | none => s
  | some it =>
    let e := s.capEntry entry
    let st := if e.records.any (·.lost) then 5 else if it.run.partialFlag then 3 else 2
    complete (s.setCapEntry entry { e with state := st }) it (captureOutcome it stOk false))

/-! ### Steps after which captures go on -/

/-- DESCRIPTOR_ACCEPT (R297): the next descriptor of a command or capture ring, as the bytes fetched. -/
def execDescriptorAccept (cap : Bool) (ring : Fin 16) (desc : List Byte) (s : State) :
    Host.Outcome State Fault Refusal :=
  .next (pumpCaptures2 (acceptItem s cap ring desc))

/-- BUF (R306): a BUF descriptor is accepted on a capture ring and offers its buffer. -/
def execBuf (ring : Fin 16) (desc : List Byte) (s : State) : Host.Outcome State Fault Refusal :=
  .next (if dOpcode desc = 0x08 then pumpCaptures2 (acceptItem s true ring desc) else s)

/-- DATAGRAM_SEND (R322). -/
def execDatagramSend (stream : Fin 16) (s : State) : Host.Outcome State Fault Refusal :=
  .next (pumpCaptures2 (sendFull s stream))

/-- DATAGRAM_FLUSH (R322, R326). -/
def execDatagramFlush (stream : Fin 16) (s : State) : Host.Outcome State Fault Refusal :=
  .next (pumpCaptures2 (sendFlush s stream))

end Sys2Proof.Machine
end

