-- ==== Sys2Proof/Machine/Probe.lean ====
section
/-! DEFINITION. Probe: lasers and source duty, the port states, sweeps and slots, eye safety, fibre end and cuts, and loop
mode (R31 to R59), with what Kerf does at a sweep boundary (R62, R66, R75, R82). -/

namespace Sys2Proof.Machine

/-! ### Kerf at a sweep boundary (R62, R66, R69, R82) -/

/-- KRF_Px_NOISE follows the average, 0x8000 until 64 sweeps are in it (R66). -/
def noiseRegs (s : State) (p : Nat) : State :=
  let fl := (s.kerfPort p).floors
  let band (b : Nat) : Nat :=
    if fl.length < 64 then 0x8000
    else enc 16 (Config.centiDb (fl.map fun l => l.getD b 0).sum (200 * fl.length))
  let s := (s.set (F.KRF_Px_NOISE01.BAND0 p) (band 0)).set (F.KRF_Px_NOISE01.BAND1 p) (band 1)
  (s.set (F.KRF_Px_NOISE23.BAND2 p) (band 2)).set (F.KRF_Px_NOISE23.BAND3 p) (band 3)

/-- The average of the noise floor restarts (R66). -/
def noiseRestart (s : State) (p : Nat) : State := noiseRegs (s.setKerf p { s.kerfPort p with floors := [] }) p

/-- Kerf's settings take effect at a boundary (R62, R69, R85). Answers whether GAUGE changed. -/
def krfSettings (s : State) (p : Nat) : State × Bool :=
  let k := s.kerfPort p
  let src := if s.loopMode then 0 else p
  let g := s.get (F.KRF_Px_CFG.GAUGE src)
  let gain := s.get (F.KRF_Px_CFG.RX_GAIN p)
  let last := s.lastPoint p
  let s := if gain != k.gain || last != k.last then noiseRestart s p else s
  (s.setKerf p { s.kerfPort p with gauge := g, fade := s.get (F.KRF_Px_CFG.FADE_THR p),
                                   shift := s.get (F.KRF_Px_CFG.OFS_SHIFT src), gain := gain,
                                   fmt := s.get F.KRF_CTL.RING_FMT, last := last }, g != k.gauge)

/-- The division of the Kerf clock at an operating point (R373). -/
def krfDiv : Nat → Nat
  | 0 => 4
  | 1 => 5
  | 2 => 6
  | _ => 8

/-- A port's demand in point-samples per second, over P (R82). -/
def krfDemand (s : State) (p : Nat) : Nat × Nat :=
  if s.portState p = psSweeping || s.portState p = psMeasuring then ((s.lastPoint p + 1) * 4000000, s.sweepPeriod p)
  else (0, 1)

/-- LOAD and OVERLOAD recomputed (R82): the capacity is 1.64 samples per Kerf cycle. -/
def krfLoad (s : State) : State :=
  let a := krfDemand s 0
  let b := krfDemand s 1
  let num := (a.1 * b.2 + b.1 * a.2) * krfDiv s.clk.oppDiv
  let den := a.2 * b.2 * 6560000000
  let exceeds := decide (den < num)
  let s := s.set F.KRF_STAT.LOAD (satTo 127 (num * 100 / den))
  let s := if exceeds && !s.flag F.KRF_STAT.OVERLOAD then s.set F.KRF_EVT.OVERLOAD 1 else s
  s.setFlag F.KRF_STAT.OVERLOAD exceeds

/-! ### States -/

/-- What follows a change of port states or lasers: ACTIVE, LOOP_ACTIVE, staleness (R44, R82, R101). -/
def portsChanged (s : State) : State :=
  let act (p : Nat) : Bool := s.portState p == psSweeping || s.portState p == psMeasuring
  let s := (s.setFlag F.KRF_STAT.ACTIVE_A (act 0)).setFlag F.KRF_STAT.ACTIVE_B (act 1)
  let s := s.setFlag F.PRB_STAT.LOOP_ACTIVE
    (s.loopMode && s.portState 0 == psSweeping && s.portState 1 == psSweeping)
  staleCheck s

/-- A port takes a state. -/
def setPortState (s : State) (p st : Nat) : State := s.set (portStateF p) st

/-- A port becomes OFF (R45, R62). -/
def portOff (s : State) (p : Nat) : State :=
  let s := s.setProbe p { s.probePort p with running := false, stopping := false, held := none, holdDue := false }
  portsChanged (refreshTiming ((setPortState s p psOff).write (R.KRF_Px_ADC_MON p) 0xFFFFFFFF#32) p 0)

/-- A port enters SWEEPING with a restart of the given kind at its first sweep (R45, R50, R75). -/
def enterSweeping (s : State) (p kind : Nat) : State :=
  let q := s.probePort p
  let lead := s.lead p
  let kind := if q.resetDue then 2 else kind
  let s := s.setProbe p { q with swept := true, resetDue := false, held := none, holdDue := false }
  let s := s.setProbe lead { s.probePort lead with restart := max kind (s.probePort lead).restart }
  let s := setPortState s p psSweeping
  portsChanged (refreshTiming s p (s.sweepPeriod p))

/-- A port enters MEASURING afresh (R45, R55). -/
def enterMeasuring (s : State) (p : Nat) : State :=
  let s := setPortState s p psMeasuring
  let s := s.setProbe p { s.probePort p with measSweeps := 0, measured := false }
  portsChanged (refreshTiming s p (s.sweepPeriod p))

/-- The start of a port goes on once its test slots are clean (R45, R50, R55). -/
def startOn (s : State) (p : Nat) : State :=
  if s.loopMode then
    let len := s.get F.PRB_LOOP_CFG.LEN
    if len ≠ 0 then
      enterSweeping ((s.set F.PRB_LOOP_MEAS.LEN_USED len).set F.PRB_LOOP_MEAS.MEASURED 0) p 2
    else if s.loopLen ≠ 0 then enterSweeping s p 2
    else enterMeasuring s p
  else if s.flag (F.PRB_Px_CFG.AUTO_END p) && !(s.probePort p).measured then enterMeasuring s p
  else enterSweeping s p 2

/-! ### Slots and sweeps (R33, R37, R39, R42) -/

/-- The slot of a port's schedule that launches now. -/
def slotNow (s : State) (p : Nat) (n kind : Nat) : Slot :=
  let q := s.probePort p
  let k := s.kerfPort p
  { sweep := q.number, slot := n, launch := s.tai, since := s.elapsed, period := s.sweepPeriod p, last := s.lastPoint p,
    lag := s.loopLag, source := s.get F.PRB_STAT.SOURCE, gauge := k.gauge, fade := k.fade, shift := k.shift,
    fmt := k.fmt, ready := decide (64 ≤ k.floors.length),
    readyB := decide (64 ≤ (s.kerfPort 1).floors.length), fadeB := (s.kerfPort 1).fade, borrowed := false, failed := false, skipped := false,
    meas := s.portState p == psMeasuring, restart := kind, set := 0,
    own := if s.loopMode then s.loop.own else [] }

/-- A slot is in reception: fewer than END × τ + 2 µs since its launch, with the lag of port B in loop mode (R42, R64). -/
def inReception (s : State) (t : Slot) : Bool :=
  !t.skipped && decide ((s.elapsed - t.since) * tauDen * 1000
    < t.last * tauNum * 1000 + 2000000 * tauDen + t.lag * tauDen)

/-- A sweep starts with the launch of its slot 0: pending settings and loads take effect, then the slot launches (R42, R62,
R75, R110, R117). -/
def startSweep (s : State) (p : Nat) : State :=
  let a := krfSettings s p
  let b := if s.loopMode then krfSettings a.1 1 else (a.1, false)
  let s := b.1
  let q := s.probePort p
  let kind := if a.2 && s.sweeping p then 2 else q.restart
  let q1 := { q with number := q.next, next := (q.next + 1) % 2 ^ 64, running := true }
  let s := s.setProbe p { q1 with done := 1, restart := 0, kind := kind }
  let s := s.set (F.PRB_Px_SWEEP_LO.SWEEP_LO p) (q.next % 2 ^ 32)
  let s := if kind = 0 then s else s.set (if p = 0 then F.KRF_EVT.RESTART_A else F.KRF_EVT.RESTART_B) 1
  let s := bkgBoundary s p q.next
  let s := if s.loopMode then refreshTiming s 1 (s.sweepPeriod 1) else s
  let s := krfLoad (refreshTiming s p (s.sweepPeriod p))
  s.setProbe p { s.probePort p with slots := (s.probePort p).slots ++ [slotNow s p 0 kind] }

/-- Sweeps of a port with a slot in reception are reported failed: their records to come are FAILED, those of slots that
never launched included, and the sweeps are counted (R33, R38). The schedule stops. -/
def failFlight (s : State) (p : Nat) : State :=
  let q := s.probePort p
  let hit := ((q.slots.filter fun t => inReception s t && !t.failed).map (·.sweep)).eraseDups
  let slots := q.slots.map fun t => if hit.contains t.sweep then { t with failed := true } else t
  let extra := match slots.getLast? with
    | none => []
    | some t =>
      if q.running && t.sweep == q.number && t.failed then
        (List.range (4 - q.done)).map fun i =>
          { t with slot := q.done + i, launch := t.launch + (q.done + i - t.slot) * t.period * 250, borrowed := false }
      else []
  let s := s.setProbe p { q with slots := slots ++ extra, running := false }
  let s := s.count (F.PRB_Px_FAIL_CNT.FAILED p) hit.length
  if s.loopMode then s.count (F.PRB_Px_FAIL_CNT.FAILED 1) hit.length else s

/-- A port in hold reports its SKIPPED sweeps, one for each period the hold covers in whole or part, and leaves the hold
(R37). -/
def leaveHold (s : State) (p : Nat) : State :=
  let q := s.probePort p
  match q.held with
  | none => s.setProbe p { q with holdDue := false }
  | some t0 =>
    let per := s.sweepPeriod p
    let n := ceilDiv (s.elapsed - t0) (per * 1000)
    let at0 := s.tai - (s.elapsed - t0)
    let t := { slotNow s p 0 0 with skipped := true }
    let sk := (List.range (4 * n)).map fun i =>
      { t with sweep := (q.next + i / 4) % 2 ^ 64, slot := i % 4, launch := at0 + i * per * 250 }
    s.setProbe p { q with slots := q.slots ++ sk, next := (q.next + n) % 2 ^ 64, held := none, holdDue := false }

/-- The ports that lead a schedule. -/
def leads (s : State) : List Nat := if s.loopMode then [0] else [0, 1]

/-- A port's schedule is in SWEEPING or MEASURING. -/
def scheduled (s : State) (p : Nat) : Bool :=
  if s.loopMode then s.portState 0 == psSweeping || s.portState 0 == psMeasuring || s.portState 1 == psSweeping
    || s.portState 1 == psMeasuring
  else s.portState p == psSweeping || s.portState p == psMeasuring

/-- A change of source restarts the reference of every sweeping port, and of the others at their next entry (R75). -/
def sourceChanged (s : State) : State :=
  (List.range 2).foldl (fun s p =>
    if s.portState p = psSweeping then
      s.setProbe (s.lead p) { s.probePort (s.lead p) with restart := 2 }
    else s.setProbe p { s.probePort p with resetDue := true }) s

/-- Both ports lose their source: sweeping and measuring ports enter NO_SOURCE, their sweeps in reception failed (R38). -/
def loseSource (s : State) : State :=
  let s := { s with returning := false }
  let s := s.each (leads s) fun s p => failFlight (leaveHold s p) p
  let s := (List.range 2).foldl (fun s p =>
    let st := s.portState p
    if (st = psSweeping || st = psMeasuring) && !(s.probePort p).stopping then
      setPortState (s.setProbe p { s.probePort p with resumeTo := st }) p psNoSource
    else s) s
  portsChanged s

/-- Ports in NO_SOURCE resume once a locked laser has source duty, with a restart that resets the offsets (R38, R75). -/
def resumePorts (s : State) : State :=
  if !s.hasSource then s
  else
    (List.range 2).foldl (fun s p =>
      if s.portState p != psNoSource then s
      else if (s.probePort p).resumeTo = psMeasuring then enterMeasuring s p
      else enterSweeping s p 2) s

/-! ### Lasers (R31 to R38) -/

/-- The handover of source duty to laser B (R33): gates close, sweeps in reception fail, the switch moves. -/
def handover (s : State) : State :=
  let s := { s.each (leads s) failFlight with failedAt := some s.elapsed }
  let s := s.set F.PRB_STAT.SOURCE 1
  let s := (s.set F.PRB_EVT.HANDOVER 1).bump F.PRB_LASER_CNT.HANDOVERS
  let s := portsChanged (sourceChanged s)
  s.event 0x41 true []

/-- The return is abandoned: held ports restart from laser B with the offsets kept (R38, R75). -/
def abandonReturn (s : State) : State :=
  let s := { s with returning := false }
  s.each (leads s) fun s p =>
    let held := (s.probePort p).held.isSome
    let s := leaveHold s p
    if held then startSweep (s.setProbe p { s.probePort p with restart := max 1 (s.probePort p).restart }) p else s

/-- LASER_A_FAILURE (R32, R33, R38). -/
def execLaserAFailure (s : State) : Host.Outcome State Fault Refusal :=
  .next (if !s.flag F.PRB_STAT.A_LOCK then s
  else
    let s := (s.set F.PRB_STAT.A_LOCK 0).set F.PRB_EVT.A_FAIL 1
    let s := s.event 0x40 true [0]
    let s := s.set F.PRB_STAT.RETURN_PENDING 0
    if s.returning then portsChanged (abandonReturn s)
    else if s.flag F.PRB_STAT.SOURCE then portsChanged s
    else if s.flag F.PRB_STAT.B_LOCK then handover s
    else loseSource { s with failedAt := some s.elapsed })

/-- HANDOVER_SWEEP_RESTART (R33): the ports restart with slot 0 of a new sweep from laser B. -/
def execHandoverSweepRestart (s : State) : Host.Outcome State Fault Refusal :=
  .next (s.each (leads s) fun s p =>
    let q := s.probePort p
    if s.flag F.PRB_STAT.SOURCE && s.hasSource && scheduled s p && !q.running && !q.stopping && q.held.isNone
      then startSweep s p else s)

/-- A laser is locked (R31, R37, R38): it takes duty where there is none, and RETURN_PENDING follows laser A. -/
def laserLocked (s : State) (b : Bool) : State :=
  let had := s.dutyLocked
  let s := s.set (if b then F.PRB_STAT.B_LOCK else F.PRB_STAT.A_LOCK) 1
  let old := s.get F.PRB_STAT.SOURCE
  let s := if had then s else s.set F.PRB_STAT.SOURCE (b2n b)
  let s := if !had && old != b2n b then sourceChanged s else s
  let s := if !b && s.flag F.PRB_STAT.SOURCE && !s.flag F.PRB_STAT.RETURN_PENDING then
      { s.set F.PRB_STAT.RETURN_PENDING 1 with returnAt := s.elapsed }
    else s
  portsChanged (if had then s else resumePorts s)

/-- LASER_A_RELOCK (R37): a failed laser A locks again. -/
def execLaserARelock (s : State) : Host.Outcome State Fault Refusal :=
  .next (if s.flag F.PRB_STAT.A_LOCK then s else laserLocked s false)

/-- LASER_LOCK (R31, R38): a laser locks, at start-up or after a failure. -/
def execLaserLock (b : Bool) (s : State) : Host.Outcome State Fault Refusal :=
  .next (if s.flag (if b then F.PRB_STAT.B_LOCK else F.PRB_STAT.A_LOCK) then s else laserLocked s b)

/-- LASER_B_FAILURE (R36, R38). -/
def execLaserBFailure (s : State) : Host.Outcome State Fault Refusal :=
  .next (if !s.flag F.PRB_STAT.B_LOCK then s
  else
    let s := (s.set F.PRB_STAT.B_LOCK 0).set F.PRB_EVT.B_FAIL 1
    let s := s.event 0x40 true [1]
    if !s.flag F.PRB_STAT.SOURCE then portsChanged s
    else
      let s := loseSource { s with failedAt := some s.elapsed }
      if s.flag F.PRB_STAT.A_LOCK then
        let s := (s.set F.PRB_STAT.SOURCE 0).set F.PRB_STAT.RETURN_PENDING 0
        portsChanged (resumePorts (sourceChanged s))
      else s)

/-- The return to laser A is triggered: every sweeping port is to hold at its next boundary (R37). -/
def returnTrigger (s : State) : State :=
  if s.returning || !s.flag F.PRB_STAT.RETURN_PENDING then s
  else
    let s := { s with returning := true }
    s.each (leads s) fun s p =>
      if s.sweeping p && !(s.probePort p).stopping then s.setProbe p { s.probePort p with holdDue := true } else s

/-- RETURN_HOLD_EXPIRY (R37): laser A has stayed locked for RETURN_HOLD seconds under AUTO_RETURN. -/
def execReturnHoldExpiry (s : State) : Host.Outcome State Fault Refusal :=
  .next (if s.flag F.PRB_CTL.AUTO_RETURN
      && decide (s.returnAt + s.get F.PRB_LASER_CFG.RETURN_HOLD * 1000000000 ≤ s.elapsed) then returnTrigger s
    else s)

/-- RETURN_SWITCH (R37): every port in hold has held for a period of its own; duty switches back and they restart. -/
def execReturnSwitch (s : State) : Host.Outcome State Fault Refusal :=
  let ready (p : Nat) : Bool :=
    let q := s.probePort p
    !q.holdDue && match q.held with
      | some t => decide (t + s.sweepPeriod p * 1000 ≤ s.elapsed)
      | none => true
  .next (if !s.returning || !(leads s).all ready then s
  else
    let held := (leads s).filter fun p => (s.probePort p).held.isSome
    let s := s.each held leaveHold
    let s := { (s.set F.PRB_STAT.SOURCE 0).set F.PRB_STAT.RETURN_PENDING 0 with returning := false }
    let s := (s.set F.PRB_EVT.RETURN 1).bump F.PRB_LASER_CNT.RETURNS
    let s := portsChanged (sourceChanged s)
    let s := s.event 0x41 false []
    s.each held startSweep)

/-- HANDOVER_TEST written (R59): a handover as if laser A had failed, or ignored and counted. Laser A stays locked, so the
return is pending at once (R37). -/
def handoverTest (s : State) : State :=
  if s.lc == 3 && !s.flag F.PRB_STAT.SOURCE && s.flag F.PRB_STAT.A_LOCK && s.flag F.PRB_STAT.B_LOCK then
    { (handover s).set F.PRB_STAT.RETURN_PENDING 1 with returnAt := s.elapsed }
  else s.wrErr

/-! ### Enable, disable and eye safety (R45, R49, R50) -/

/-- In loop mode the start of the first port starts the loop: its length is to be found again (R55). -/
def loopAfresh (s : State) (p : Nat) : State :=
  if s.loopMode && s.portState (1 - p) == psOff then
    { (s.set F.PRB_LOOP_MEAS.LEN_USED 0).set F.PRB_LOOP_MEAS.MEASURED 0 with loop := LoopState.zero }
  else s

/-- PA_EN or PB_EN written 1 (R45, R55, R66). -/
def portEnable (s : State) (p : Nat) : State :=
  let s := loopAfresh s p
  let q := s.probePort p
  let s := s.setProbe p { ProbePort.zero with slots := q.slots, next := q.next, number := q.number, cut := q.cut,
                                              running := q.running && s.loopMode, done := q.done, restart := q.restart }
  let s := noiseRestart (s.write (R.KRF_Px_ADC_MON p) 0xFFFFFFFF#32) p
  portsChanged (refreshTiming (setPortState s p psStarting) p 0)

/-- PA_EN or PB_EN written 0 (R45): launches stop; the slots in reception complete, then the port is OFF. -/
def portDisable (s : State) (p : Nat) : State :=
  let other := s.loopMode && s.portState (1 - p) != psOff
  let s := if other then s else leaveHold s p
  let q := s.probePort p
  let s := s.setFlag (F.PRB_Px_APR_STAT.ACTIVE p) false
  let s := s.setFlag (F.PRB_Px_APR_STAT.WAIT_RESUME p) false
  if other || q.slots.isEmpty || !(s.portState p == psSweeping || s.portState p == psMeasuring) then
    let running := q.running
    let s := portOff s p
    if other then s.setProbe p { s.probePort p with running := running && p == 0 } else s
  else portsChanged (s.setProbe p { q with running := false, stopping := true })

/-- A port enters APR (R49, R50). -/
def aprEntry (s : State) (p : Nat) : State :=
  let shared := s.loopMode && s.portState (1 - p) == psSweeping
  let s := if shared then s else leaveHold s p
  let q := s.probePort p
  let s := s.setProbe p { q with running := q.running && shared, clean := 0, bad := 0, resumed := false }
  let s := (s.bump (F.PRB_Px_APR_STAT.APR_CNT p)).set (F.PRB_Px_APR_STAT.ACTIVE p) 1
  let s := s.setFlag (F.PRB_Px_APR_STAT.WAIT_RESUME p) (s.flag (F.PRB_Px_POWER.APR_MANUAL p))
  let s := s.set (if p = 0 then F.PRB_EVT.APR_A else F.PRB_EVT.APR_B) 1
  let s := portsChanged (setPortState s p psApr)
  s.post (portReq 0x42 true (p == 1) false [])

/-- APR_ENTRY (R49): two consecutive slots with the signature, of a port that sweeps. -/
def execAprEntry (port : Port) (s : State) : Host.Outcome State Fault Refusal :=
  let st := s.portState port.num
  .next (if (st = psSweeping || st = psMeasuring) && !(s.probePort port.num).stopping then aprEntry s port.num else s)

/-- A port leaves APR (R50, R75). -/
def aprExit (s : State) (p : Nat) : State :=
  let s := (s.set (F.PRB_Px_APR_STAT.ACTIVE p) 0).set (F.PRB_Px_APR_STAT.WAIT_RESUME p) 0
  let s := s.set (if p = 0 then F.PRB_EVT.APR_A else F.PRB_EVT.APR_B) 1
  let s := if (s.probePort p).swept then enterSweeping s p 1 else startOn s p
  s.post (portReq 0x42 false (p == 1) false [])

/-- APR_RESUME written (R50). -/
def aprResume (s : State) (p : Nat) : State :=
  if s.portState p = psApr then
    (s.setProbe p { s.probePort p with resumed := true, clean := 0 }).set (F.PRB_Px_APR_STAT.WAIT_RESUME p) 0
  else s

/-- TEST_SLOT (R45, R50): a test slot is judged for the open-connector signature. -/
def execTestSlot (port : Port) (signature : Bool) (s : State) : Host.Outcome State Fault Refusal :=
  let p := port.num
  let q := s.probePort p
  let st := s.portState p
  .next (if !s.hasSource || (st != psStarting && st != psApr) then s
  else if st = psStarting then
    if signature then
      if 1 ≤ q.bad then aprEntry s p else s.setProbe p { q with bad := q.bad + 1, clean := 0 }
    else if 2 ≤ q.clean then startOn (s.setProbe p { q with clean := 0, bad := 0 }) p
    else s.setProbe p { q with clean := q.clean + 1, bad := 0 }
  else if signature || (s.flag (F.PRB_Px_POWER.APR_MANUAL p) && !q.resumed) then s.setProbe p { q with clean := 0 }
  else if 2 ≤ q.clean then aprExit (s.setProbe p { q with clean := 0 }) p
  else s.setProbe p { q with clean := q.clean + 1 })

/-! ### Loop ownership (R57, R58) -/

/-- Whether a port's latest records of all four slots lay within 3 dB of the noise floor at a point of its own. -/
def lostAt (k : KerfPort) (x : Nat) : Bool :=
  (List.range 4).all fun n => match k.recent.find? (·.slot == n) with
    | some r => r.near.getD x true
    | none => true

/-- The owner of a loop point for the next sweep (R57). `snr` is the averages of port A and port B in 0.01 dB; answers the
owner, and whether it changed by a loss of signal. -/
def decideOwner (old : Nat) (okA okB lostA lostB : Bool) (snr : Int × Int) (hyst : Nat) : Nat × Bool :=
  let a := okA && !lostA
  let b := okB && !lostB
  if !a && !b then (2, old != 2)
  else if !b then (0, old == 1)
  else if !a then (1, old == 0)
  else if old = 2 then (if snr.1 < snr.2 then (1, false) else (0, false))
  else if old = 0 then (if snr.1 + 25 * hyst < snr.2 then (1, false) else (0, false))
  else (if snr.2 + 25 * hyst < snr.1 then (0, false) else (1, false))

/-- The REPARTITION payload (R147). -/
def repartPayload (s : State) : List Byte :=
  leBytes 4 (s.read R.PRB_LOOP_SPLIT).toNat ++ leBytes 4 (s.get F.PRB_LOOP_OWN_A.COUNT)
    ++ leBytes 4 (s.get F.PRB_LOOP_OWN_B.COUNT) ++ leBytes 4 (s.get F.PRB_LOOP_UNOWNED.COUNT)

/-- The counts and the split of an ownership list (R59). -/
def ownerRegs (s : State) (own : List Nat) : State :=
  let a := own.countP (· == 0)
  let b := own.countP (· == 1)
  let s := (s.set F.PRB_LOOP_OWN_A.COUNT a).set F.PRB_LOOP_OWN_B.COUNT b
  let s := s.set F.PRB_LOOP_UNOWNED.COUNT (own.countP (· == 2))
  let contig := decide (0 < a) && decide (0 < b) && (own.take a).all (· == 0) && (own.drop a).all (· == 1)
  (s.set F.PRB_LOOP_SPLIT.SPLIT (if contig then a else 0)).setFlag F.PRB_LOOP_SPLIT.CONTIG contig

/-- The decision of every loop point's owner at a sweep boundary (R57, R58). -/
def loopOwners (s : State) (snr : List (Int × Int)) : State :=
  let len := s.lastPoint 0
  let ok (p : Nat) : Bool := s.portState p == psSweeping
  let first := s.loop.own.isEmpty
  let dec := (List.range (len + 1)).map fun x =>
    decideOwner (if first then 2 else s.loop.own.getD x 2) (ok 0) (ok 1)
      (!first && lostAt (s.kerfPort 0) x) (!first && lostAt (s.kerfPort 1) (len - x)) (snr.getD x (0, 0))
      (s.get F.PRB_LOOP_CFG.HYST)
  let own := dec.map (·.1)
  let loss := !first && dec.any (·.2)
  let due := s.loop.due
  let s := { s with loop := ⟨own, s.loop.own, (s.probePort 0).next, false⟩ }
  let s := ownerRegs s own
  let s := if loss then s.bump F.PRB_LOOP_REPART_CNT.REPART else s
  if loss || due then s.post (portReq 0x44 true false true (repartPayload s)) else s

/-! ### The steps of a sweep -/

/-- SWEEP_BOUNDARY (R42): slot 0 of a new sweep launches, with all that takes effect there; a port due to hold enters its
hold and launches nothing (R37). -/
def execSweepBoundary (port : Port) (snr : List (Int × Int)) (s : State) : Host.Outcome State Fault Refusal :=
  let p := port.num
  let q := s.probePort p
  .next (if s.lead p != p || !scheduled s p || !s.hasSource || q.stopping || q.held.isSome
      || (q.running && q.done != 4) then s
  else if q.holdDue then s.setProbe p { q with holdDue := false, held := some s.elapsed, running := false }
  else startSweep (if s.loopMode then loopOwners s snr else s) p)

/-- SLOT_LAUNCH (R39, R43, R86): the next of slots 1 to 3 of the sweep launches; slot 3 as Scaler's pulse on a borrowed
sweep. Slot 0 launches at SWEEP_BOUNDARY. -/
def execSlotLaunch (port : Port) (s : State) : Host.Outcome State Fault Refusal :=
  let p := port.num
  let q := s.probePort p
  .next (if !q.running || q.done = 0 || 4 ≤ q.done || s.lead p != p then s
  else
    let s := s.setProbe p { q with done := q.done + 1 }
    let s := refreshTiming s p (s.sweepPeriod p)
    let t := slotNow s p q.done q.kind
    let borrow := q.done == 3 && borrows s p q.number
    let a := if borrow then sclBorrow s p else (s, 0)
    let s := if borrow && s.loopMode then
        let r := a.1.sclPort 1
        if r.sets.any (·.id == a.2) then a.1 else a.1.setScl 1 { r with sets := r.sets ++ [newSet s a.2] }
      else a.1
    s.setProbe p { s.probePort p with slots := (s.probePort p).slots ++ [{ t with borrowed := borrow, set := a.2 }] })

/-- One cut evaluation of a port (R53): C where it could be made. -/
def cutEvaluate (s : State) (p : Nat) (made : Bool) (c : Option Nat) : State :=
  let ref := s.get (F.PRB_Px_CUT_CFG.REF_END p)
  if ref = 0 then s
  else
    let exceed := match c with | some c => decide (c + s.get (F.PRB_Px_CUT_CFG.MARGIN p) < ref) | none => false
    let x := (s.probePort p).cut.eval (s.get (F.PRB_Px_CUT_TALLY.TALLY p)) (if made then some exceed else none)
    let s := s.setProbe p { s.probePort p with cut := x.1 }
    let s := match made, c with
      | true, some c => s.set (F.PRB_Px_CUT_STAT.POS p) c
      | _, _ => s
    let s := s.setFlag (F.PRB_Px_CUT_STAT.EXCEED p) (made && exceed)
    let s := s.setFlag (F.PRB_Px_CUT_STAT.LASTING p) x.1.lasting
    let s := (s.set (F.PRB_Px_CUT_CNT.TRANSIENT p) x.1.transient).set (F.PRB_Px_CUT_CNT.MISSED p) x.1.missed
    let pay := leBytes 4 (s.get (F.PRB_Px_CUT_STAT.POS p))
    match x.2 with
    | .none => s
    | .began =>
      (s.set (if p = 0 then F.PRB_EVT.CUT_A else F.PRB_EVT.CUT_B) 1).post (portReq 0x43 true (p == 1) false pay)
    | .ended => s.post (portReq 0x43 false (p == 1) false pay)

/-- The measured end of a port (R52). -/
def endMeasured (s : State) (p : Nat) (e : Option Nat) (refl : Bool) : State :=
  match e with
  | none => s
  | some e =>
    let beyond := decide (s.lastPoint p < e)
    let s := (s.set (F.PRB_Px_END_MEAS.E p) e).set (F.PRB_Px_END_MEAS.VALID p) 1
    let s := (s.setFlag (F.PRB_Px_END_MEAS.REFL p) refl).setFlag (F.PRB_Px_END_MEAS.OVERLEN p) beyond
    if beyond then s.set (if p = 0 then F.PRB_EVT.OVERLEN_A else F.PRB_EVT.OVERLEN_B) 1 else s

/-- SWEEP_COMPLETE (R42): the reception of a sweep's slot 3 ends; E, noise floors, levels and the cut evaluation are updated
(R52, R53, R62, R66). In APR it stands for the evaluation of the sweep that could not be made. -/
def execSweepComplete (port : Port) (i : SweepInput) (s : State) : Host.Outcome State Fault Refusal :=
  let p := port.num
  let st := s.portState p
  .next (if st = psApr then cutEvaluate s p false none
  else if st != psSweeping && st != psMeasuring then s
  else
    let s := endMeasured s p i.endPoint i.refl
    let k := s.kerfPort p
    let s := noiseRegs (s.setKerf p { k with floors := (i.floor :: k.floors).take 64 }) p
    let s := s.write (R.KRF_Px_ADC_MON p) i.rms
    let s := s.setProbe p { s.probePort p with measSweeps := (s.probePort p).measSweeps + 1 }
    cutEvaluate s p true i.cut)

/-- END_MEASUREMENT_DONE (R45): after 256 sweeps in MEASURING the port sets END and enters SWEEPING. -/
def execEndMeasurementDone (port : Port) (endPoint : Option Nat) (refl : Bool) (s : State) :
    Host.Outcome State Fault Refusal :=
  let p := port.num
  .next (if s.loopMode || s.portState p != psMeasuring || (s.probePort p).measSweeps < 256 then s
  else
    let s := endMeasured s p endPoint refl
    let e := match endPoint with | some e => min (e + 200) 131071 | none => 131071
    let s := (s.set (F.PRB_Px_CFG.END p) e)
    let s := s.setFlag (F.PRB_Px_END_MEAS.OVERLEN p) (match endPoint with | some x => decide (e < x) | none => false)
    let s := s.setProbe p { s.probePort p with measured := true }
    enterSweeping s p 2)

/-- LOOP_LENGTH_MEASURED (R55): the measurement over 256 sweeps ends, with a length or with none. -/
def execLoopLengthMeasured (length : Option Nat) (s : State) : Host.Outcome State Fault Refusal :=
  let meas (p : Nat) : Bool := s.portState p == psMeasuring
  .next (if !s.loopMode || !(meas 0 || meas 1) || s.get F.PRB_LOOP_CFG.LEN ≠ 0 then s
  else
    let failed := s.flag F.PRB_LOOP_MEAS.FAILED
    match length with
    | some len =>
      let s := (s.set F.PRB_LOOP_MEAS.LEN_USED len).set F.PRB_LOOP_MEAS.MEASURED 1
      let s := s.set F.PRB_LOOP_MEAS.FAILED 0
      let s := { s with loop := { LoopState.zero with due := failed } }
      let s := if meas 0 then enterSweeping s 0 2 else s.setProbe 0 { s.probePort 0 with restart := 2 }
      let s := if meas 1 then enterSweeping s 1 2 else s
      if failed then s.post (portReq 0x45 false false true (leBytes 4 len)) else s
    | none =>
      let s := (s.set F.PRB_LOOP_MEAS.FAILED 1).set F.PRB_LOOP_MEAS.LEN_USED 0
      let s := if meas 0 then enterSweeping s 0 2 else s
      if failed && !meas 0 then s else s.post (portReq 0x45 true false true (leBytes 4 0)))

/-- REF_CAPTURE written (R53): E is copied into REF_END once it has been measured. -/
def refCapture (s : State) (p : Nat) : State :=
  if s.flag (F.PRB_Px_END_MEAS.VALID p) then s.set (F.PRB_Px_CUT_CFG.REF_END p) (s.get (F.PRB_Px_END_MEAS.E p)) else s

/-- The ownership map, two bits a point (R58). -/
def ownerMap (s : State) : List Byte :=
  (List.range 32768).map fun i =>
    let o (k : Nat) := s.loop.own.getD (4 * i + k) 2
    BitVec.ofNat 8 (o 0 + 4 * o 1 + 16 * o 2 + 64 * o 3)

/-- SNAPSHOT_LOOP_OWNERSHIP (R58, R305). -/
def execSnapshotLoopOwnership (ring : Fin 16) (s : State) : Host.Outcome State Fault Refusal :=
  .next (snapshotRun s ring 0x02 fun s _ => ownerMap s)

end Sys2Proof.Machine
end

