-- ==== Sys2Proof/Machine/Clocks.lean ====
section
/-! DEFINITION. Clocks: the oscillators and the root PLL, domain switches, the held start, clock gates and Kerf's operating points
(R365 to R373). -/

namespace Sys2Proof.Machine

/-- The state with the clocks' record set. -/
def State.setClk (s : State) (c : ClockState) : State := { s with clk := c }

/-- A CLOCK record (R387). -/
def clockRecord (s : State) (cause domain : Nat) : State := s.event 0xC0 true [BitVec.ofNat 8 cause, BitVec.ofNat 8 domain]

/-! ### Oscillators (R365, R366) -/

/-- TRIM_SRC: REFIN, else the crystal, else none (R366); the interval counters are trimmed while the crystal is proven
(R216). -/
def trimUpdate (s : State) : State :=
  let src := if s.flag F.CLK_TB_CFG.REFIN_EN && s.flag F.CLK_STAT.REFIN_OK then 2 else if s.flag F.CLK_STAT.XTAL_OK then 1 else 0
  (s.set F.CLK_STAT.TRIM_SRC src).setFlag F.WDG_STAT.TRIMMED (s.flag F.CLK_STAT.XTAL_OK)

/-- PLL_REF: the crystal while XTAL_OK = 1, otherwise the warm oscillator (R367). -/
def pllRef (s : State) : State := s.setFlag F.CLK_STAT.PLL_REF (!s.flag F.CLK_STAT.XTAL_OK)

/-- WARM_READY (R365). -/
def execWarmReady (s : State) : Host.Outcome State Fault Refusal :=
  .next (if s.start.held then s else pllRef (s.set F.CLK_STAT.WARM_READY 1))

/-- CRYSTAL_PROVEN (R365): once per reset, against the running warm oscillator. -/
def execCrystalProven (s : State) : Host.Outcome State Fault Refusal :=
  .next (if s.clk.tripped || s.flag F.CLK_STAT.XTAL_OK || !s.flag F.CLK_STAT.WARM_READY then s
    else trimUpdate (pllRef (s.set F.CLK_STAT.XTAL_OK 1)))

/-- The six clocked domains. -/
def clockDomains : List Nat := [0, 1, 2, 3, 4, 5]

/-- A domain takes a state and a division. -/
def domainTo (s : State) (d st div : Nat) : State := (s.set (F.CLK_Dd.STATE d) st).set (F.CLK_Dd.DIV d) div

/-- XTAL_LOST (R365, R367, R370): the PLL moves to the warm oscillator; where that does not run yet, every clocked domain is
held. -/
def execXtalLost (s : State) : Host.Outcome State Fault Refusal :=
  .next (
    let warm := s.flag F.CLK_STAT.WARM_READY
    if s.clk.tripped || s.start.held || (warm && !s.flag F.CLK_STAT.XTAL_OK) then s
    else
      let s := s.setClk { s.clk with tripped := true }
      let s := ((s.set F.CLK_STAT.XTAL_OK 0).set F.CLK_EVT.XTAL_LOST 1).bump F.CLK_CNT.XTAL_LOST
      let s := trimUpdate (if warm then pllRef s else s)
      let s := if warm then s
        else (s.each clockDomains fun s d => domainTo s d 3 0).setClk { s.clk with retryAt := s.elapsed }
      clockRecord s 0 0xFF)

/-- REFIN_CHECK (R366): every 10 ms REFIN is measured; its deviation from 10 MHz in 0.001 ppm, none without edges. -/
def execRefinCheck (dev : Option Int) (s : State) : Host.Outcome State Fault Refusal :=
  .next (trimUpdate (s.setFlag F.CLK_STAT.REFIN_OK (match dev with
    | none => false
    | some x => decide (x.natAbs ≤ 100000))))

/-! ### The root PLL and the domains (R367 to R371) -/

/-- The division of a domain from the root (R368, R373). -/
def rootDiv (s : State) (d : Nat) : Nat :=
  match d with
  | 0 => 4
  | 1 => krfDiv s.clk.oppDiv
  | 2 => 8
  | 3 => 10
  | 4 => 200
  | _ => 1000

/-- PLL_LOCK (R367, R371): the root PLL locks; the fabric is switched to it first. -/
def execPllLock (s : State) : Host.Outcome State Fault Refusal :=
  .next (
    if s.flag F.CLK_STAT.PLL_LOCK || s.start.held || s.get (F.CLK_Dd.STATE 3) = 3
        || !(s.flag F.CLK_STAT.WARM_READY || s.flag F.CLK_STAT.XTAL_OK) then s
    else
      let again := s.get (F.CLK_Dd.STATE 3) != 0
      let s := (s.set F.CLK_STAT.PLL_LOCK 1).set (F.CLK_Dd.STATE 3) 2
      let s := s.setClk { s.clk with toWarm := false, request := none }
      if again then clockRecord s 2 0xFF else s)

/-- PLL_UNLOCK (R371): domains 0, 1, 2, 4 and 5 stop, the fabric is to switch to WARM, and both ports enter NO_SOURCE. -/
def execPllUnlock (s : State) : Host.Outcome State Fault Refusal :=
  .next (
    if !s.flag F.CLK_STAT.PLL_LOCK then s
    else
      let s := ((s.set F.CLK_STAT.PLL_LOCK 0).set F.CLK_EVT.PLL_UNLOCK 1).bump F.CLK_CNT.UNLOCK
      let s := s.each [0, 1, 2, 4, 5] fun s d => domainTo s d 0 0
      let s := s.set (F.CLK_Dd.STATE 3) 2
      let s := s.setClk { s.clk with toWarm := true, request := some s.elapsed, down := true }
      clockRecord (loseSource s) 1 0xFF)

/-- FORCED_SWITCH (R370): 1 µs after the request to a source that gives no edge. -/
def execForcedSwitch (domain : Fin 6) (s : State) : Host.Outcome State Fault Refusal :=
  .next (
    match s.clk.request with
    | none => s
    | some t =>
      if domain != 3 || decide (s.elapsed < t + 1000) then s
      else
        let s := s.setClk { s.clk with request := none }
        clockRecord ((s.bump F.CLK_CNT.FORCED).set F.CLK_EVT.FORCED 1) 3 domain)

/-- START_RETRY (R370): every 10 ms while the domains are held; it proceeds once WARM_READY = 1. -/
def execStartRetry (s : State) : Host.Outcome State Fault Refusal :=
  .next (
    if s.get (F.CLK_Dd.STATE 3) != 3 || decide (s.elapsed < s.clk.retryAt + 10000000) then s
    else
      let s := s.setClk { s.clk with retryAt := s.elapsed }
      let s := (s.bump F.CLK_CNT.RETRY).set F.CLK_EVT.START_RETRY 1
      let s := if s.flag F.CLK_STAT.WARM_READY then s.each clockDomains fun s d => domainTo s d 0 0 else s
      clockRecord s 4 0xFF)

/-! ### Kerf's operating points (R373) -/

/-- The point asked for: OP0 outside legacy mode. -/
def oppWanted (s : State) : Nat := if s.flag F.CLK_KRF_OPP.LEGACY then s.get F.CLK_KRF_OPP.OPP else 0

/-- The sequencer's next step toward the point asked for: to raise the clock the supply is set first, to lower it the division is
ramped first; at the point, BUSY falls. -/
def oppNextStep (s : State) : State :=
  let t := oppWanted s
  let c := s.clk
  if t = c.oppDiv && t = c.oppSupply then
    ((s.setClk { c with oppStep := 0 }).set F.CLK_KRF_OPP.BUSY 0).set F.CLK_KRF_OPP.CUR t
  else
    let step := if t < c.oppSupply then 1 else if t = c.oppDiv then 1 else 2
    let s := (s.setClk { c with oppStep := step, oppNext := t }).set F.CLK_KRF_OPP.BUSY 1
    if step = 2 && s.get (F.CLK_Dd.STATE 1) == 1 then s.set (F.CLK_Dd.STATE 1) 2 else s

/-- A step of the sequencer completes, and a later written point takes effect. -/
def oppAdvance (s : State) : State :=
  let c := s.clk
  match c.oppStep with
  | 0 => s
  | 1 => oppNextStep (s.setClk { c with oppSupply := c.oppNext })
  | _ =>
    let s := s.setClk { c with oppDiv := c.oppNext }
    let s := if s.get (F.CLK_Dd.STATE 1) = 2 then domainTo s 1 1 (rootDiv s 1) else s
    krfLoad (oppNextStep s)

/-- OPP_STEP_DONE (R373). -/
def execOppStepDone (s : State) : Host.Outcome State Fault Refusal := .next (oppAdvance s)

/-- An accepted write of CLK_KRF_OPP: while BUSY it waits for the step in progress (R373). -/
def oppWrite (s : State) (v : Nat) : State :=
  let s := (s.set F.CLK_KRF_OPP.OPP (bits v 1 0)).setFlag F.CLK_KRF_OPP.LEGACY (bit v 2)
  if s.flag F.CLK_KRF_OPP.BUSY || oppWanted s == s.get F.CLK_KRF_OPP.CUR then s else oppNextStep s

/-- A domain's switch completes (R369, R371): the fabric to WARM once its silent source is overcome; on the root, domains 2, 4
and 5 start and domains 0 and 1 ramp from /64; with both of these running again the ports leave NO_SOURCE. -/
def domainDone (s : State) (d : Nat) : State :=
  if s.get (F.CLK_Dd.STATE d) != 2 then s
  else if d = 3 then
    if s.clk.toWarm then
      if s.clk.request.isSome then s
      else ((domainTo s 3 1 1).set (F.CLK_Dd.SRC 3) 1).setClk { s.clk with toWarm := false }
    else if !s.flag F.CLK_STAT.PLL_LOCK then s
    else
      let s := (domainTo s 3 1 (rootDiv s 3)).set (F.CLK_Dd.SRC 3) 0
      let start (s : State) (d div : Nat) : State := if s.get (F.CLK_Dd.STATE d) = 0 then domainTo s d 2 div else s
      let s := s.each [2, 4, 5] fun s d => start s d 0
      s.each [0, 1] fun s d => start s d 64
  else if !s.flag F.CLK_STAT.PLL_LOCK then s
  else if d = 1 && s.clk.oppStep = 2 && s.get (F.CLK_Dd.DIV 1) != 64 then oppAdvance s
  else
    let s := domainTo s d 1 (rootDiv s d)
    if s.clk.down && s.get (F.CLK_Dd.STATE 0) == 1 && s.get (F.CLK_Dd.STATE 1) == 1 then
      portsChanged (resumePorts (s.setClk { s.clk with down := false }))
    else s

/-- The counts that CLK_CTL.CNT_CLR clears (R388). -/
def clkCntClr (s : State) : State :=
  s.clearAll [F.CLK_GATED.COUNT, F.CLK_CNT.FORCED, F.CLK_CNT.RETRY, F.CLK_CNT.XTAL_LOST, F.CLK_CNT.UNLOCK]

/-! ### Clock gates (R372) -/

/-- The blocks whose gate bits always read 1. -/
def neverGated : List Nat := [0, 1, 7, 8, 9, 10, 11, 12, 13]

/-- A block's function is enabled. -/
def blockInUse (s : State) (b : Nat) : Bool :=
  match b with
  | 2 | 3 => s.flag F.PRB_CTL.PA_EN || s.flag F.PRB_CTL.PB_EN || s.portState 0 != psOff || s.portState 1 != psOff
  | 4 => s.flag F.SCL_CTL.EN
  | 5 => s.bkg.sets.any (fun e => stEn e.2) || s.bkg.setLoaded.any fun e => stEn e.2
  | 6 => s.flag F.CRU_CTL.EN
  | 14 => s.flag (F.FLM_Pp_CFG.EN 0) || s.flag (F.FLM_Pp_CFG.EN 1) || s.flume.table.any fun e => seEn e.2
  | 15 => [0, 1, 2, 3].any fun k => s.get (chipMode k) != 0
  | 16 => s.flag F.DCK_RING_CFG.EN
  | 17 => s.landing.table.any fun e => aeEn e.2
  | 18 => s.flag F.SST_STAT.RUNNING
  | _ => false

/-- Landing without what a start does not keep. -/
def LandingState.cold (l : LandingState) : LandingState := { l with table := [], thinDue := [], written := [], lastStep := none }

/-- A block restarts from its reset values (R372); what is non-volatile, and Deck's partition, stays. -/
def blockRestart (s : State) (b : Nat) : State :=
  match b with
  | 2 => { resetWindow s 2 [] with probe := [], loop := LoopState.zero, returning := false, returnAt := 0 }
  | 3 => { resetWindow s 3 [] with kerf := [] }
  | 4 => baseValid { resetWindow s 4 [] with scaler := [], comp := [], profileBuf := [] }
  | 5 => { resetWindow s 5 [] with bkg := BkgState.zero }
  | 6 => { resetWindow s 6 [] with cru := CruState.zero }
  | 14 =>
    let s := resetWindow s 14 []
    { s with flume := { FlumeState.zero with ctx := s.flume.ctx } }
  | 15 =>
    let s := resetWindow s 15 []
    { s with flume := { s.flume with ctx := [] } }
  | 16 =>
    let ring := s.get F.DCK_STAT.RING_ACT
    let flume := s.get F.DCK_STAT.FLUME_ACT
    partPending (partApply { resetWindow s 16 [] with deck := DeckState.zero } ring flume)
  | 17 =>
    let s := resetWindow s 17 [R.LND_PART, R.LND_LIFE, R.LND_SPARE, R.LND_BUDGET]
    { s with landing := s.landing.cold }
  | 18 => (resetWindow s 18 [R.SST_LAST, R.SST_REPAIR, R.SST_SPARE]).set F.SST_STAT.RUNNING 0
  | _ => s

/-- A write of CLK_GATE (R372): gating a block in use is a reserved encoding; an ungated block restarts. -/
def gateWrite (s : State) (v : Nat) : State :=
  let old := s.get F.CLK_GATE.EN
  let new := neverGated.foldl (fun m b => putBit m b true) (v % 2 ^ 19)
  if (List.range 19).any fun b => bit old b && !bit new b && blockInUse s b then s.wrErr
  else
    let s := s.set F.CLK_GATE.EN new
    s.each ((List.range 19).filter fun b => !bit old b && bit new b) blockRestart

/-- An access to a gated block is counted (R372). -/
def gatedAccess (s : State) (b : Nat) : State :=
  ((s.bump F.CLK_GATED.COUNT).set F.CLK_GATED.LAST b).set F.CLK_EVT.GATED 1

/-- GATED_ACCESS (R372): a read returns zero, a write is ignored. -/
def execGatedAccess (block : Fin 19) (off : BitVec 16) (wr : Bool) (s : State) : Host.Outcome State Fault Refusal :=
  .next (
    let b : Nat := block
    if !gated s b then s
    else
      let s := gatedAccess s b
      if wr then s else s.emit (.readData (0x10000 * b + off.toNat) 0))

end Sys2Proof.Machine
end

