-- ==== Sys2Proof/Machine/FieldIo.lean ====
section
/-! DEFINITION. Isolated 24 V field I/O: channel modes and their claims, inputs, outputs, diagnostics, the coupler link, the safe
state and the field supply (R272 to R289). -/

namespace Sys2Proof.Machine

/-! ### Channels -/

/-- A field channel's record. -/
def State.fioChan (s : State) (n : Nat) : FioChan := sget (fun _ => FioChan.zero) s.fio n
/-- The state with a field channel's record set. -/
def State.setFio (s : State) (n : Nat) (x : FioChan) : State := { s with fio := sput (fun _ => FioChan.zero) s.fio n x }

/-- The sixteen channels. -/
def fioChannels : List Nat := List.range 16

/-- MODE of a channel: 0 OFF, 1 INPUT, 2 OUTPUT. -/
def fioMode (s : State) (n : Nat) : Nat := s.get (F.FIO_IOn_CFG.MODE n)

/-- A bit of a channel in FIO_IN.STATE, FIO_IN.STALE, FIO_OUT, FIO_RB.RB, FIO_RB.DRIVE and FIO_STAT.SAFE. -/
def fioBit (addr lo n : Nat) : Field := ⟨addr, lo + n, lo + n⟩

/-- The level commanded of an output: bit n of FIO_OUT, or the phase of its pulse cycle while the bit is 1 (R278). -/
def fioCommand (s : State) (n : Nat) : Bool :=
  s.flag (fioBit R.FIO_OUT 0 n) && (s.get (F.FIO_IOn_CFG.OSRC n) != 1 || (s.fioChan n).phase)

/-- What drives an output's pin: none for high-impedance, else high or low. Over-temperature and a reset frame turn both
transistors off; the safe state is OFF or LOW (R278, R280, R285, R286). -/
def fioDrive (s : State) (n : Nat) : Option Bool :=
  if fioMode s n != 2 || (s.fioChan n).hot || (s.fioChan n).reset then none
  else if s.flag (F.FIO_IOn_STAT.SAFE n) then (if s.flag (F.FIO_IOn_CFG.SAFE n) then some false else none)
  else some (fioCommand s n)

/-- FIO_IN.STATE, FIO_RB.RB and FIO_RB.DRIVE of a channel: the level that the field side reports, STALE_VAL while STALE, 0 where
the mode is another (R284, R289). -/
def fioRefresh (s : State) (n : Nat) : State :=
  let v := if s.flag (F.FIO_IOn_STAT.STALE n) then s.flag (F.FIO_IOn_CFG.STALE_VAL n) else (s.fioChan n).level
  let s := s.setFlag (fioBit R.FIO_IN 0 n) (fioMode s n == 1 && v)
  let s := s.setFlag (fioBit R.FIO_RB 0 n) (fioMode s n == 2 && v)
  s.setFlag (fioBit R.FIO_RB 16 n) (fioDrive s n == some true)

/-- A FIO_LINK record: 0 STALE, 1 the safe state (R288). -/
def linkRecord (s : State) (n kind : Nat) (state : Bool) : State := s.event 0x8B state [BitVec.ofNat 8 n, BitVec.ofNat 8 kind]

/-! ### Modes and claims (R273, R279) -/

/-- Interval timer k. -/
def timerRes (k : Nat) : Resource := .timer ⟨k % 16, Nat.mod_lt _ (by decide)⟩
/-- The ownership resource of a channel. -/
def fieldRes (n : Nat) : Resource := .field ⟨n % 16, Nat.mod_lt _ (by decide)⟩

/-- The timer that a value of FIO_IOn_CFG claims. -/
def cfgTimer (v : Nat) : Option Nat := if bits v 1 0 != 0 && bits v 7 6 == 1 then some (bits v 11 8) else none

/-- The timer that a channel holds. -/
def fioTimer (s : State) (n : Nat) : Option Nat := cfgTimer (s.read (R.FIO_IOn_CFG n)).toNat

/-- A claim that field channel n is refused: another claimant owns the resource, or another channel the timer (R279). -/
def fioRefused (s : State) (n : Nat) (r : Resource) : Bool :=
  !claimable s cField r || fioChannels.any fun m => m != n && (fioTimer s m).map timerRes == some r

/-- A value of FIO_IOn_CFG that R273 and R289 reserve. -/
def fieldReserved (s : State) (n v : Nat) : Bool :=
  let mode := bits v 1 0
  let old := fioMode s n
  mode == 3 || decide (2 ≤ bits v 7 6) || bits v 24 15 == 0 || decide (1000 < bits v 24 15)
    || (mode != 0 && old != 0 && mode != old)

/-- An output leaves its safe state (R285). -/
def leaveSafe (s : State) (n : Nat) : State :=
  if s.flag (F.FIO_IOn_STAT.SAFE n) then
    let s := (s.set (F.FIO_IOn_STAT.SAFE n) 0).set (fioBit R.FIO_STAT 16 n) 0
    linkRecord (fioRefresh (s.setFio n { s.fioChan n with resumed := false }) n) n 1 false
  else s

/-- A channel turned OFF: no drive, no sampling (R273). -/
def fieldOff (s : State) (n : Nat) : State :=
  let s := leaveSafe s n
  let s := s.setFio n { s.fioChan n with level := false, hot := false, phase := false, reset := false, heldSince := 0 }
  s.clearAll [F.FIO_IOn_STAT.RAW n, F.FIO_IOn_STAT.OVL n, F.FIO_IOn_STAT.OPEN n, F.FIO_IOn_STAT.OTEMP n, F.FIO_IOn_STAT.CONT n]

/-- An accepted write of FIO_IOn_CFG, its value free of reserved bits (R273, R278, R279). -/
def fieldCfgWrite (s : State) (n v : Nat) : State :=
  if fieldReserved s n v then s.wrErr
  else
    let mode := bits v 1 0
    let old := fioMode s n
    let had := fioTimer s n
    let wants := cfgTimer v
    let rs := (if mode != 0 && old == 0 then [fieldRes n] else [])
      ++ (if wants != had then wants.toList.map timerRes else [])
    let bad := rs.filter (fioRefused s n)
    if !bad.isEmpty then
      let s := s.each bad fun s r => refuseClaim s r cField
      (s.set (F.FIO_IOn_STAT.CONFLICT n) 1).set F.FIO_EVT.CONFLICT 1
    else
      let s := s.each rs fun s r => s.set (ownerF r) cField
      let s := if wants != had then s.each (had.toList.map timerRes) fun s r => releaseOwn s cField r else s
      let s := if mode = 0 && old != 0 then releaseOwn (fieldOff s n) cField (fieldRes n) else s
      let s := if mode = 2 && old != 2 then s.set (fioBit R.FIO_OUT 0 n) 0 else s
      let s := if mode != old then s.setFio n { s.fioChan n with level := false } else s
      let s := (s.write (R.FIO_IOn_CFG n) (BitVec.ofNat 32 v)).set (F.FIO_IOn_STAT.CONFLICT n) 0
      let s := if wants.isSome && had.isNone then s.setFio n { s.fioChan n with phase := true, phaseAt := s.elapsed } else s
      fioRefresh s n

/-! ### Inputs (R277) -/

/-- FIO_INPUT (R277): a debounced change, stamped by the field side. While the channel is STALE none can arrive. -/
def execFioInput (ch : Fin 16) (on : Bool) (stamp : BitVec 64) (s : State) : Host.Outcome State Fault Refusal :=
  .next (
    let n : Nat := ch
    let x := s.fioChan n
    if fioMode s n != 1 || s.flag (F.FIO_IOn_STAT.STALE n) || x.level == on then s
    else
      let s := fioRefresh (s.setFio n { x with level := on }) n
      let s := (s.bump (F.FIO_IOn_CNT.EDGES n)).set F.FIO_EVT.EDGE 1
      if s.flag (F.FIO_IOn_CFG.EVT_EN n) then s.post ⟨0x89, on, false, false, some stamp.toNat, [BitVec.ofNat 8 n]⟩ else s)

/-! ### Outputs (R278, R280, R281) -/

/-- FIO_OUT takes a value on the bits of outputs; a PULSE output whose bit is set begins its high phase (R278). -/
def outWrite (s : State) (v : Nat) : State :=
  s.each (fioChannels.filter fun n => fioMode s n == 2 && s.flag (fioBit R.FIO_OUT 0 n) != bit v n) fun s n =>
    let s := s.setFlag (fioBit R.FIO_OUT 0 n) (bit v n)
    let s := if bit v n && s.get (F.FIO_IOn_CFG.OSRC n) == 1 then
        s.setFio n { s.fioChan n with phase := true, phaseAt := s.elapsed }
      else s
    fioRefresh s n

/-- A write of FIO_OUT_SET. -/
def outSet (s : State) (v : Nat) : State := outWrite s (s.get F.FIO_OUT.OUT ||| v % 2 ^ 16)

/-- A write of FIO_OUT_CLR. -/
def outClr (s : State) (v : Nat) : State := outWrite s (s.get F.FIO_OUT.OUT &&& (0xFFFF ^^^ v % 2 ^ 16))

/-- PULSE_PHASE_EXPIRY (R278): the timer of a PULSE output ends its high or low phase. -/
def execPulsePhaseExpiry (ch : Fin 16) (s : State) : Host.Outcome State Fault Refusal :=
  .next (
    let n : Nat := ch
    let x := s.fioChan n
    let ms := if x.phase then s.get (F.FIO_IOn_PULSE.ON_MS n) else s.get (F.FIO_IOn_PULSE.OFF_MS n)
    if fioMode s n != 2 || s.get (F.FIO_IOn_CFG.OSRC n) != 1 || !s.flag (fioBit R.FIO_OUT 0 n)
        || decide (s.elapsed < x.phaseAt + ms * 1000000) then s
    else fioRefresh (s.setFio n { x with phase := !x.phase, phaseAt := s.elapsed }) n)

/-- A diagnostic of a channel: 0 OVL, 1 OPEN, 2 OTEMP, 3 CONT, in FIO_IOn_STAT. -/
def diagF (n k : Nat) : Field := ⟨R.FIO_IOn_STAT n, 2 + k, 2 + k⟩

/-- The TALLY word of a diagnostic. -/
def diagTally (s : State) (k : Nat) : Nat :=
  match k with
  | 0 => s.get F.FIO_TALLY0.OVL
  | 1 => s.get F.FIO_TALLY0.OPEN
  | 2 => s.get F.FIO_TALLY1.OTEMP
  | _ => s.get F.FIO_TALLY1.CONT

/-- The conditions present, bits OVL, OPEN, OTEMP, CONT. -/
def diagNow (s : State) (n : Nat) : Nat := s.get ⟨R.FIO_IOn_STAT n, 5, 2⟩

/-- One evaluation of a diagnostic (R281). -/
def diagEval (s : State) (n k : Nat) : State :=
  let x := s.fioChan n
  let made := if s.flag (F.FIO_IOn_STAT.STALE n) || ((k == 1 || k == 3) && s.flag F.FIO_STAT.FSUP_LOW) then none
    else some (bit (x.heldSince ||| diagNow s n) k)
  let r := Tally.eval (sget (fun _ => Tally.zero) x.tally k) (diagTally s k) made
  let s := s.setFio n { x with tally := sput (fun _ => Tally.zero) x.tally k r.1 }
  let s := s.setFlag ⟨R.FIO_IOn_STAT n, 6 + k, 6 + k⟩ r.1.lasting
  faultRecord s 0x88 F.FIO_EVT.FAULT [BitVec.ofNat 8 n, BitVec.ofNat 8 k] r.1 r.2

/-- OUTPUT_DIAG_EVALUATION (R281): every 10 ms of TAI each diagnostic of each output makes one evaluation. -/
def execOutputDiagEvaluation (s : State) : Host.Outcome State Fault Refusal :=
  .next (s.each (fioChannels.filter fun n => fioMode s n == 2) fun s n =>
    let s := [0, 1, 2, 3].foldl (fun s k => diagEval s n k) s
    s.setFio n { s.fioChan n with heldSince := diagNow s n })

/-- OUTPUT_OVERTEMP (R280): the driver reaches its thermal limit; both transistors are off. -/
def execOutputOvertemp (ch : Fin 16) (s : State) : Host.Outcome State Fault Refusal :=
  .next (
    let n : Nat := ch
    let x := s.fioChan n
    if fioMode s n != 2 || x.hot then s
    else fioRefresh ((s.setFio n { x with hot := true, hotAt := s.elapsed }).set (diagF n 2) 1) n)

/-- OUTPUT_OVERTEMP_RECOVER (R280): the driver has cooled; drive resumes once 100 ms has passed. -/
def execOutputOvertempRecover (ch : Fin 16) (s : State) : Host.Outcome State Fault Refusal :=
  .next (
    let n : Nat := ch
    let x := s.fioChan n
    if !x.hot || decide (s.elapsed < x.hotAt + 100000000) then s
    else fioRefresh ((s.setFio n { x with hot := false, heldSince := putBit x.heldSince 2 true }).set (diagF n 2) 0) n)

/-! ### The coupler link (R282 to R286) -/

/-- A valid frame from the field side: STALE ends, and the raw level, the read-back level and the conditions are its own. The
conditions hold since the frame before; OPEN needs OW_EN, and OPEN and CONT the field supply (R280, R282, R284). -/
def fieldFrame (s : State) (n : Nat) (raw : Bool) (pin : Option Bool) (ovl openWire cont : Bool) : State :=
  let stale := s.flag (F.FIO_IOn_STAT.STALE n)
  let x := s.fioChan n
  let out := fioMode s n == 2
  let supply := !s.flag F.FIO_STAT.FSUP_LOW
  let now := if out then b2n ovl + 2 * b2n (openWire && supply && s.flag (F.FIO_IOn_CFG.OW_EN n))
    + 8 * b2n (cont && supply) else 0
  let s := s.setFio n { x with inAt := s.elapsed, level := if out then pin.getD x.level else x.level,
                               heldSince := x.heldSince ||| now }
  let s := s.setFlag (F.FIO_IOn_STAT.RAW n) (fioMode s n == 1 && raw)
  let s := s.each [0, 1, 3] fun s k => s.setFlag (diagF n k) (bit now k)
  let s := (s.set (F.FIO_IOn_STAT.STALE n) 0).set (fioBit R.FIO_IN 16 n) 0
  let s := fioRefresh s n
  if stale then linkRecord s n 0 false else s

/-- A valid frame to the field side: drive commands again after a reset; in the safe state it ends it, or with SAFE_LATCH = 1
allows its release (R285, R286). -/
def commandFrame (s : State) (n : Nat) : State :=
  let s := s.setFio n { s.fioChan n with outAt := s.elapsed, reset := false }
  let s := if s.flag (F.FIO_IOn_STAT.SAFE n) then
      if s.flag (F.FIO_IOn_CFG.SAFE_LATCH n) then s.setFio n { s.fioChan n with resumed := true } else leaveSafe s n
    else s
  fioRefresh s n

/-- COUPLER_FRAME (R283): a valid frame in one direction. While the interlock holds, only reset frames go to the field side
(R395). -/
def execCouplerFrame (ch : Fin 16) (frame : FieldFrame) (s : State) : Host.Outcome State Fault Refusal :=
  .next (match frame with
  | .toField => if interlocked s then s else commandFrame s ch
  | .fromField raw pin ovl openWire cont => fieldFrame s ch raw pin ovl openWire cont)

/-- CHANNEL_STALE (R284): 1 ms without a valid frame from the field side. -/
def execChannelStale (ch : Fin 16) (s : State) : Host.Outcome State Fault Refusal :=
  .next (
    let n : Nat := ch
    if s.flag (F.FIO_IOn_STAT.STALE n) || decide (s.elapsed < max (s.fioChan n).inAt s.powerAt + 1000000) then s
    else
      let s := ((s.set (F.FIO_IOn_STAT.STALE n) 1).set (fioBit R.FIO_IN 16 n) 1).set F.FIO_EVT.STALE 1
      linkRecord (fioRefresh s n) n 0 true)

/-- SILENCE_TIMEOUT (R285): SILENCE ms without a valid frame to the field side put an output in its safe state. -/
def execSilenceTimeout (ch : Fin 16) (s : State) : Host.Outcome State Fault Refusal :=
  .next (
    let n : Nat := ch
    let x := s.fioChan n
    if fioMode s n != 2 || decide (s.elapsed < max x.outAt s.powerAt + s.get (F.FIO_IOn_CFG.SILENCE n) * 1000000) then s
    else if s.flag (F.FIO_IOn_STAT.SAFE n) then s.setFio n { x with resumed := false }
    else
      let s := ((s.set (F.FIO_IOn_STAT.SAFE n) 1).set (fioBit R.FIO_STAT 16 n) 1).set F.FIO_EVT.SAFE 1
      let s := (s.setFio n { x with resumed := false }).bump (F.FIO_IOn_CNT.SILENCES n)
      linkRecord (fioRefresh s n) n 1 true)

/-- A write of FIO_SAFE_CLR: it has no effect before frames have resumed (R285). -/
def safeClr (s : State) (v : Nat) : State :=
  s.each (fioChannels.filter fun n => bit v n && (s.fioChan n).resumed) leaveSafe

/-- Reset frames on every channel: every output is OFF until drive commands come again (R286). -/
def resetFrames (s : State) : State :=
  let s := s.emit .fieldReset
  s.each fioChannels fun s n => fioRefresh (s.setFio n { s.fioChan n with reset := true }) n

/-- VMAIN_LOSS (R286): VMAIN leaves its operating range. -/
def execVmainLoss (s : State) : Host.Outcome State Fault Refusal := .next (resetFrames s)

/-! ### Field-side power (R287) -/

/-- FSUP_LOW becomes a value: reported when it changes. -/
def fsupLevel (s : State) (low : Bool) : State :=
  if s.flag F.FIO_STAT.FSUP_LOW == low then s
  else
    let s := s.setFlag F.FIO_STAT.FSUP_LOW low
    let s := if low then s.set F.FIO_EVT.FSUP_LOW 1 else s
    s.event 0x8A low (leBytes 2 (s.get F.FIO_FSUP.VAL) ++ [BitVec.ofNat 8 (s.get F.FIO_STAT.SRC)])

/-- FSUP_HANDOVER (R287): FSUP has stayed at or above 19.2 V for 100 ms; the field side hands over to it unless a self-test
runs. -/
def execFsupHandover (value : BitVec 10) (s : State) : Host.Outcome State Fault Refusal :=
  .next (
    let s := s.set F.FIO_FSUP.VAL value.toNat
    if value.toNat < 192 then s
    else fsupLevel (if s.flag F.SST_STAT.RUNNING then s else s.set F.FIO_STAT.SRC 1) false)

/-- FSUP_LOW (R287): FSUP has stayed below 18.0 V for 1 ms; the field side returns to AUX. -/
def execFsupLow (value : BitVec 10) (s : State) : Host.Outcome State Fault Refusal :=
  .next (
    let s := s.set F.FIO_FSUP.VAL value.toNat
    if value.toNat < 180 then fsupLevel (s.set F.FIO_STAT.SRC 0) true else s)

/-- The counts that FIO_CTL.CNT_CLR clears, with those of the tally instances (R28, R289). -/
def fioCntClr (s : State) : State :=
  let s := s.each fioChannels fun s n => s.clearAll [F.FIO_IOn_CNT.EDGES n, F.FIO_IOn_CNT.SILENCES n]
  s.each (s.fio.map (·.1)) fun s n =>
    let x := s.fioChan n
    s.setFio n { x with tally := x.tally.map fun e => (e.1, e.2.clearCounts) }

end Sys2Proof.Machine
end

