-- ==== Sys2Proof/Machine/Kerf.lean ====
section
/-! DEFINITION. Kerf: the samples of a slot record, their quality codes and output phases, the θ offsets, the record's
bytes, and its delivery to every consumer (R60 to R85). -/

namespace Sys2Proof.Machine

/-! ### Raw samples (R67 to R70) -/

/-- The point level L, in the operands' scale (R67). -/
def levelOf (c : Compressed) : Nat := (c.xr * c.xr + c.xi * c.xi + c.yr * c.yr + c.yi * c.yi).toNat

/-- A compressed value that is not there. -/
def noPoint : Compressed := ⟨0, 0, 0, 0, false⟩

/-- A raw sample: gauge phase, amplitude code, direct, clipped, within 3 dB of the noise floor, endpoints in range. -/
structure RawSample where
  psi : Nat
  amp : Nat
  direct : Bool
  clip : Bool
  near : Bool
  inside : Bool
  deriving DecidableEq, Repr

/-- The noise floor of a port's band as a quotient: the sum over the sweeps averaged, and its divisor (R66). -/
def bandFloor (k : KerfPort) (band : Nat) : Nat × Nat := ((k.floors.map fun l => l.getD band 0).sum, 200 * k.floors.length)

/-- A raw sample of a point (R67 to R70). `last` is END or LEN, `fade` the threshold in 0.5 dB. The spec gives no AMP where
the endpoints or the floor are missing. -/
def rawSample (pts : List Compressed) (floor : Nat × Nat) (gauge fade last x : Nat) : RawSample :=
  let inside := decide (gauge / 2 ≤ x) && decide (x - gauge / 2 + gauge ≤ last)
  let a := pts.getD (x - gauge / 2) noPoint
  let b := pts.getD (x - gauge / 2 + gauge) noPoint
  let psi := Config.arg (b.xr * a.xr + b.xi * a.xi + b.yr * a.yr + b.yi * a.yi)
    (b.xi * a.xr - b.xr * a.xi + b.yi * a.yr - b.yr * a.yi) % 65536
  let code := Config.ampCode (min (levelOf a) (levelOf b)) floor.1 floor.2
  let known := inside && decide (0 < floor.2)
  let amp := if known then satTo 511 code.toNat else Config.openOf 23 x % 512
  let clip := inside && (a.clip || b.clip)
  ⟨psi, amp, known && decide (2 * fade ≤ amp) && !clip, clip,
    decide (levelOf (pts.getD x noPoint) * floor.2 < 2 * floor.1), inside⟩

/-- The raw samples of a port's points. -/
def rawSamples (s : State) (p : Nat) (t : Slot) (i : SlotInput) : List RawSample :=
  let k := s.kerfPort p
  let fade := if p = 0 || !s.loopMode then t.fade else t.fadeB
  (List.range (t.last + 1)).map fun x => rawSample i.points (bandFloor k t.slot) t.gauge fade t.last x

/-! ### Offsets and bridging (R70, R72) -/

/-- A point of a port. -/
def KerfPort.pt (k : KerfPort) (x : Nat) : KPoint := k.pts.getD x KPoint.zero

/-- θ of a slot at a point, 0 for slot 0 (R70). -/
def KPoint.offset (q : KPoint) (slot : Nat) : Nat := if slot = 0 then 0 else q.theta.getD (slot - 1) 0

/-- The newest record of a slot that Kerf keeps, and the one before it. -/
def KerfPort.latest (k : KerfPort) (slot : Nat) : List KRecent := k.recent.filter fun r => r.slot == slot

/-- A kept sample of a record at a point: ψ, AMP, direct. -/
def KRecent.at (r : KRecent) (x : Nat) : Nat × Nat × Bool := r.pts.getD x (0, 0, false)

/-- The index of a record (R104). -/
def KRecent.idx (r : KRecent) : Nat := 4 * r.sweep + r.slot

/-- The slots among the four most recent samples of every point (R72). -/
def recentSlots (k : KerfPort) : List Nat :=
  let l := k.recent.map KRecent.idx
  let four := l.filter fun i => decide ((l.filter fun j => decide (i < j)).length < 4)
  [0, 1, 2, 3].filter fun n => four.any fun i => i % 4 == n

/-- The bridging slot of a point and its d_b: the highest AMP, then the lowest slot, among those whose newest sample and
whose sample one sweep earlier were direct (R72). -/
def bridgeOf (k : KerfPort) (slots : List Nat) (x : Nat) : Option (Nat × Int) :=
  (slots.foldl (fun (best : Option (Nat × Nat × Int)) n =>
    match k.latest n with
    | a :: b :: _ =>
      let u := a.at x
      let v := b.at x
      if a.sweep == b.sweep + 1 && u.2.2 && v.2.2 && (match best with | none => true | some (m, _, _) => decide (m < u.2.1)) then
        some (u.2.1, n, wrap16 ((u.1 : Int) - v.1))
      else best
    | _ => best) none).map (·.2)

/-- θ of one slot after sweep `k` (R70): none where the samples do not allow an update. -/
def learn (kp : KerfPort) (sweep shift slot x : Nat) (q : KPoint) : Option (Nat × Bool) :=
  let find (n w : Nat) : Option (Nat × Nat × Bool) := ((kp.latest n).find? (·.sweep == w)).map (·.at x)
  match find 0 sweep, find 0 (sweep - 1), find slot (sweep - 1) with
  | some a, some b, some c =>
    if a.2.2 && b.2.2 && c.2.2 then
      let d0 := wrap16 ((a.1 : Int) - b.1)
      let ref := (b.1 : Int) + roundDiv (slot * d0) 4
      let e := wrap16 ((c.1 : Int) - q.offset slot - ref)
      let done := q.learned.getD (slot - 1) false
      some (enc 16 ((q.offset slot : Int) + if done then roundDiv e (2 ^ shift) else e), true)
    else none
  | _, _, _ => none

/-- The offsets of every point after a sweep whose samples, and those of the sweep before, lie after the latest restart
(R70). -/
def learnAll (s : State) (p : Nat) (t : Slot) : State :=
  let k := s.kerfPort p
  if t.sweep = 0 || decide (t.sweep < k.restartAt + 1) then s
  else
    let pts := (List.range (t.last + 1)).map fun x =>
      if t.sweep < (k.pt x).since + 1 then k.pt x
      else [1, 2, 3].foldl (fun q n => match learn k t.sweep t.shift n x q with
        | some (v, l) => { q with theta := q.theta.set (n - 1) v, learned := q.learned.set (n - 1) l }
        | none => q) (k.pt x)
    s.setKerf p { k with pts := pts }

/-! ### Samples (R71 to R74) -/

/-- An output sample: phase, quality, owner, bridging slot, amplitude. -/
structure OutSample where
  phase : Nat
  q : Nat
  owner : Nat
  bslot : Nat
  amp : Nat
  fresh : Bool
  deriving DecidableEq, Repr

/-- BSLOT of a sample whose phase no slot gave, which the spec does not state (R79). -/
def openSlot (x : Nat) : Nat := Config.openOf 22 x % 4

/-- A sample by R71 to R74. `prev` and `fresh` are the point's last output phase and whether it starts afresh, `d` the
bridging slot and Δ. -/
def sampleOf (t : Slot) (fade : Nat) (r : RawSample) (invalid : Bool) (theta prev : Nat) (fresh settling : Bool)
    (d : Option (Nat × Int)) (owner x : Nat) : OutSample :=
  let own := enc 16 ((r.psi : Int) - theta)
  let delta := match d with | some (_, v) => v | none => 0
  let step := enc 16 ((prev : Int) + delta)
  let slew (o : Nat) : Bool := decide (24576 < (wrap16 ((o : Int) - prev)).natAbs)
  let bs := match d with | some (n, _) => n | none => openSlot x
  if invalid then ⟨prev, 0, owner, openSlot x, r.amp, true⟩
  else if t.borrowed then ⟨prev, 1, owner, openSlot x, r.amp, fresh⟩
  else if fresh then
    if r.direct then ⟨own, 2, owner, t.slot, r.amp, false⟩ else ⟨prev, 2, owner, openSlot x, r.amp, false⟩
  else if r.clip then ⟨step, 7, owner, bs, r.amp, false⟩
  else if !r.direct then
    match d with
    | none => ⟨prev, 4, owner, openSlot x, r.amp, false⟩
    | some _ => ⟨step, if slew step then 6 else 5, owner, bs, r.amp, false⟩
  else if slew own then ⟨own, 6, owner, t.slot, r.amp, false⟩
  else if settling then ⟨own, 3, owner, t.slot, r.amp, false⟩
  else ⟨own, 8 + min 7 ((r.amp - 2 * fade) / 12), owner, t.slot, r.amp, false⟩

/-- Whether a sample's instant lies within 10 µs before the last failure of the source laser (R33, R74). `lag` is the
launch's delay in ps. -/
def beforeFailure (s : State) (t : Slot) (lag x : Nat) : Bool :=
  match s.failedAt with
  | none => false
  | some f =>
    let at_ := t.since * tauDen * 1000 + x * tauNum * 1000 + lag * tauDen
    decide (f * tauDen * 1000 ≤ at_ + 10000000 * tauDen) && decide (at_ ≤ f * tauDen * 1000)

/-- The samples of a slot record, in the index space of the leading port (R71 to R74). `ra` and `rb` are the raw samples of
the leading port and, in loop mode, of port B. -/
def samplesOf (s : State) (p : Nat) (t : Slot) (ra rb : List RawSample) : List OutSample :=
  let k := s.kerfPort p
  let kb := s.kerfPort 1
  let slotsA := recentSlots k
  let slotsB := recentSlots kb
  let none_ : RawSample := ⟨0, 0, false, false, true, false⟩
  let j := 4 * t.sweep + t.slot
  let cutA := s.cutPoint p
  let cutB := s.cutPoint 1
  let sweeping (o : Nat) : Bool := s.portState o == psSweeping
  let settle := t.slot != 0 && decide (t.sweep < k.resetAt + 2 ^ t.shift)
  (List.range (t.last + 1)).map fun x =>
    let o := if s.loopMode then t.own.getD x 2 else p
    let isB := s.loopMode && o == 1
    let y := if isB then t.last - x else x
    let r := if isB then rb.getD y none_ else ra.getD y none_
    let kp := if isB then kb else k
    let port := if s.loopMode then o else p
    let cut := match (if isB then cutB else cutA) with | some c => decide (c < y) | none => false
    let invalid := (s.loopMode && o == 2) || !sweeping port || t.meas || t.failed
      || !(if isB then t.readyB else t.ready) || cut || !r.inside || beforeFailure s t (if isB then t.lag else 0) y
    let d := match bridgeOf kp (if isB then slotsB else slotsA) y with
      | some (n, v) => some (n, roundDiv (v * ((j : Int) - k.lastIdx)) 4)
      | none => none
    let pt := k.pt x
    sampleOf t (if isB then t.fadeB else t.fade) r invalid ((kp.pt y).offset t.slot) pt.phase pt.fresh settle d (if isB then 1 else 0) x

/-! ### Records (R78 to R81) -/

/-- The 32-byte header of a slot record (R78). `dropped` and the COUNT are the record's own. -/
def slotHeader (s : State) (p : Nat) (t : Slot) (compact dropped : Bool) (count : Nat) : List Byte :=
  let loop := s.loopMode
  [0x31, BitVec.ofNat 8 ((if loop then 0 else p) + 2 * t.slot + 8 * b2n loop + 16 * b2n compact + 32 * t.source),
    BitVec.ofNat 8 (b2n t.borrowed + 2 * b2n t.failed + 4 * b2n t.skipped + 8 * b2n dropped
      + 16 * b2n (t.restart != 0)),
    BitVec.ofNat 8 t.gauge] ++ leBytes 8 t.sweep ++ leBytes 8 t.launch ++ leBytes 4 t.lag ++ leBytes 4 0
    ++ leBytes 4 count

/-- The FULL word of a sample (R79). -/
def OutSample.word (o : OutSample) : Nat := o.phase + 2 ^ 16 * o.q + 2 ^ 20 * o.owner + 2 ^ 21 * o.bslot + 2 ^ 23 * o.amp

/-- The runs of equal Q and OWNER, as run entries (R80). -/
def runsOf : Nat → Option (Nat × Nat) → List OutSample → List Nat
  | _, _, [] => []
  | x, last, o :: t =>
    if last = some (o.q, o.owner) then runsOf (x + 1) last t
    else (x + 2 ^ 17 * o.q + 2 ^ 21 * o.owner) :: runsOf (x + 1) (some (o.q, o.owner)) t

/-- A slot record in either format (R78 to R81). -/
def slotBytes (s : State) (p : Nat) (t : Slot) (compact : Bool) (l : List OutSample) : List Byte :=
  if compact then
    let runs := runsOf 0 none l
    pad8 (slotHeader s p t true false l.length ++ leBytes 4 runs.length ++ runs.flatMap (leBytes 4)
      ++ l.flatMap fun o => leBytes 2 o.phase)
  else pad8 (slotHeader s p t false false l.length ++ l.flatMap fun o => leBytes 4 o.word)

/-! ### Restarts at the first record of a sweep (R57, R70, R75) -/

/-- The restart of a sweep and, in loop mode, its changes of owner, applied before its first record (R75). -/
def applyRestart (s : State) (p : Nat) (t : Slot) : State :=
  let k := s.kerfPort p
  if k.applied = some t.sweep then s
  else
    let moved (x : Nat) : Bool := s.loopMode && !k.owner.isEmpty && t.own.getD x 2 != k.owner.getD x 2
    let mend (mine : Bool) (x : Nat) (q : KPoint) : KPoint :=
      { q with since := if moved (if mine then x else t.last - x) then t.sweep else q.since, fresh := q.fresh || (mine && (t.restart != 0 || moved x)),
               theta := if t.restart = 2 then [0, 0, 0] else q.theta,
               learned := if t.restart = 2 then [false, false, false] else q.learned }
    let fix (mine : Bool) (k : KerfPort) : KerfPort :=
      { k with pts := (List.range (t.last + 1)).map fun x => mend mine x (k.pt x),
               restartAt := if t.restart = 0 then k.restartAt else t.sweep,
               resetAt := if t.restart = 2 then t.sweep else k.resetAt,
               applied := some t.sweep, owner := t.own }
    let s := s.setKerf p (fix true k)
    if s.loopMode then s.setKerf 1 (fix false (s.kerfPort 1)) else s

/-- A record kept for bridging and the offsets, the two newest of each slot (R70, R72). A sample without new phase
information is not direct. -/
def keepRecent (s : State) (p : Nat) (t : Slot) (l : List RawSample) (dead : Bool) : State :=
  let k := s.kerfPort p
  let r : KRecent := ⟨t.sweep, t.slot, l.map fun x => (x.psi, x.amp, x.direct && !dead), l.map (·.near)⟩
  let old := k.latest t.slot
  s.setKerf p { k with recent := r :: (k.recent.filter fun x => x.slot != t.slot) ++ old.take 1 }

/-! ### Delivery -/

/-- The first slot record of a start is timed, and the START record follows once the kind of the start is decided
(R380, R387). -/
def startRecord (s : State) : State :=
  if s.startPosted || !s.firstSlot || s.get F.GEN_START.KIND = 0 then s
  else
    let s := { s.set F.GEN_EVT.START 1 with startPosted := true }
    s.event 0xC2 true ([BitVec.ofNat 8 (s.get F.GEN_START.KIND), BitVec.ofNat 8 (s.get F.GEN_START.FAILS), 0, 0]
      ++ leBytes 4 (s.get F.GEN_START_T.MS))

/-- A slot record has left Kerf (R380). -/
def slotSeen (s : State) : State :=
  if s.firstSlot then s
  else
    startRecord ({ s with firstSlot := true }.set F.GEN_START_T.MS (satTo (2 ^ 32 - 1) ((s.elapsed - s.powerAt) / 1000000)))

/-- A slot record goes to the Deck ring, to the streams, the capture rings and the captures in progress (R83, R346). -/
def deliverSlot (s : State) (port : Port) (t : Slot) (bytes : List Byte) : State :=
  let s := ringStore s port t.launch bytes
  let s := publish s 2 port.num bytes t.sweep t.launch false
  slotSeen (pumpCaptures2 s)

/-- The quality codes of a record, kept for the quality map, which a complete sweep replaces (R81). -/
def qualityMap (s : State) (p : Nat) (t : Slot) (l : List OutSample) : State :=
  let k := s.kerfPort p
  let codes := k.codes.set t.slot (l.map (·.q))
  if t.slot = 3 then
    let at_ (n x : Nat) : Nat := (codes.getD n []).getD x 0
    let map := (List.range (t.last + 1)).map fun x => at_ 0 x + 16 * at_ 1 x + 256 * at_ 2 x + 4096 * at_ 3 x
    s.setKerf p { k with codes := [[], [], [], []], qmap := map }
  else s.setKerf p { k with codes := codes }

/-- The counts of a record's samples by their owner's port (R84, R85). -/
def countSamples (s : State) (p : Nat) (l : List OutSample) : State :=
  (List.range 2).foldl (fun s o =>
    let n (q : Nat) : Nat := l.countP fun x => x.q == q && (if s.loopMode then x.owner == o else o == p)
    let s := (s.count (F.KRF_Px_BRIDGED_CNT.BRIDGED o) (n 5)).count (F.KRF_Px_HELD_CNT.HELD o) (n 4)
    (s.count (F.KRF_Px_SLEW_CNT.SLEW o) (n 6)).count (F.KRF_Px_RESTART_CNT.RESTART o) (n 2)) s

/-- Clipped ADC samples and saturations of a port's slot (R61, R84). -/
def countInput (s : State) (p : Nat) (i : SlotInput) : State :=
  let s := s.count (F.KRF_Px_CLIP_CNT.CLIP p) i.clipped
  let s := if 0 < i.clipped then s.set (if p = 0 then F.KRF_EVT.CLIP_A else F.KRF_EVT.CLIP_B) 1 else s
  let s := s.count F.KRF_SAT_CNT.SAT i.saturated
  if 0 < i.saturated then s.set F.KRF_EVT.SAT 1 else s

/-- A SKIPPED or DROPPED record: a header alone (R37, R78, R82). -/
def bareRecord (s : State) (port : Port) (t : Slot) (dropped : Bool) : State :=
  let p := port.num
  let s := deliverSlot s port t (slotHeader s p t (t.fmt == 1) dropped 0)
  let s := if t.borrowed then sclRecord s p t.set true [] [] else s
  bkgRecord s p (4 * t.sweep + t.slot) t.launch false (t.borrowed && !t.failed) false []

/-- A record that Kerf cannot complete in time under overload, and drops (R82). -/
def droppedRecord (s : State) (port : Port) (t : Slot) : State :=
  let p := port.num
  let s := (s.bump (F.KRF_Px_DROP_CNT.DROP p)).set (if p = 0 then F.KRF_EVT.DROP_A else F.KRF_EVT.DROP_B) 1
  let s := bareRecord s port t true
  if t.slot = 3 then learnAll s p t else s

/-- The body of a slot record, from its samples to its consumers (R65 to R84). -/
def fullRecord (s : State) (port : Port) (t : Slot) (a b : SlotInput) : State :=
  let p := port.num
  let loop := s.loopMode
  let s := countInput s p a
  let s := if loop then countInput s 1 b else s
  let s := applyRestart s p t
  let ra := rawSamples s p t a
  let rb := if loop then rawSamples s 1 t b else []
  let dead := t.failed || t.borrowed || t.meas
  let s := keepRecent s p t ra (dead || !t.ready)
  let s := if loop then keepRecent s 1 t rb (dead || !t.readyB) else s
  let l := samplesOf s p t ra rb
  let k := s.kerfPort p
  let pts := (List.range (t.last + 1)).map fun x =>
    let o := l.getD x ⟨0, 0, 0, 0, 0, true⟩
    { k.pt x with phase := o.phase, fresh := o.fresh }
  let j := 4 * t.sweep + t.slot
  let s := s.setKerf p { k with pts := pts, lastIdx := if t.borrowed && !t.failed then k.lastIdx else j }
  let s := countSamples s p l
  let s := if t.slot = 3 && !t.failed then
      let s := learnAll s p t
      if loop then learnAll s 1 t else s
    else s
  let s := if t.failed then s else qualityMap s p t l
  let s := deliverSlot s port t (slotBytes s p t (t.fmt == 1) l)
  let s := if t.borrowed then
      let s := sclRecord s p t.set t.failed a.spectra a.noise
      if loop then sclRecord s 1 t.set t.failed b.spectra b.noise else s
    else s
  bkgRecord s p j t.launch (t.failed || !t.borrowed) t.borrowed (!t.borrowed || t.failed)
    (l.map fun o => (o.phase, o.q, o.owner))

/-- SLOT_RECORD_COMPLETE (R65, R78 to R84): the oldest slot of a port is completed and delivered. `a` is what the port's
receivers gave, `b` in loop mode port B's in its own index space. -/
def execSlotRecordComplete (port : Port) (a b : SlotInput) (s : State) : Host.Outcome State Fault Refusal :=
  let p := port.num
  let q := s.probePort p
  .next (if s.loopMode && p == 1 then s
  else match q.slots with
    | [] => s
    | t :: rest =>
      let s := s.setProbe p { q with slots := rest }
      let s := if t.skipped then bareRecord s port t false
        else if s.flag F.KRF_STAT.OVERLOAD && a.late && !t.failed then droppedRecord s port t
        else fullRecord s port t a b
      let s := if t.failed && t.slot == 3 then
          let s := cutEvaluate s p false none
          if s.loopMode then cutEvaluate s 1 false none else s
        else s
      if rest.isEmpty then
        (List.range 2).foldl (fun s o => if s.lead o == p && (s.probePort o).stopping then portOff s o else s) s
      else s)

/-- SNAPSHOT_QUALITY_MAP (R81, R305): two bytes a point. -/
def execSnapshotQualityMap (ring : Fin 16) (s : State) : Host.Outcome State Fault Refusal :=
  .next (snapshotRun s ring 0x01 fun s d =>
    (snapRange d 131072).flatMap fun x => leBytes 2 ((s.kerfPort (dInst d)).qmap.getD x 0))

/-- KRF_CTL.CNT_CLR (R85). -/
def krfCntClr (s : State) : State :=
  s.clearAll ([F.KRF_SAT_CNT.SAT] ++ (List.range 2).flatMap fun p =>
    [F.KRF_Px_CLIP_CNT.CLIP p, F.KRF_Px_BRIDGED_CNT.BRIDGED p, F.KRF_Px_HELD_CNT.HELD p, F.KRF_Px_SLEW_CNT.SLEW p,
     F.KRF_Px_RESTART_CNT.RESTART p, F.KRF_Px_DROP_CNT.DROP p])

end Sys2Proof.Machine
end

