-- ==== Sys2Proof/Machine/Supervision.lean ====
section
/-! DEFINITION. Lamp supervision: comparator trips, retries, lit when commanded dark, the LSUP monitor, the adjacent-pin test
and the supervision snapshot (R180, R181, R183, R186, R188, R189, R191, R210). -/

namespace Sys2Proof.Machine

/-- The object that a trip latches: a STRING's bank latches as one, by its sink (R181, R187). -/
def tripObject (s : State) : OcTarget → Option Nat
  | .bypass b => if s.bankMode b = 1 then some (12 * b + 11) else none
  | .object n =>
    let k : Nat := n
    if !supervised s k then none
    else if k < 96 && s.owner (objRes k) == cString then some (k / 12 * 12 + 11)
    else some k

/-- OVERCURRENT_TRIP (R181): Wedge removes gate drive, the object is latched off and DARK; an exceeding OC evaluation. -/
def execOvercurrentTrip (target : OcTarget) (s : State) : Host.Outcome State Fault Refusal :=
  .next (match tripObject s target with
    | none => s
    | some n =>
      let o := s.lampObj n
      if o.latched then s
      else
        let s := s.setObj n { o with latched := true, resume := false, tripAt := s.elapsed, conducting := false,
                                     proof := if o.en then 3 else o.proof }
        let b := n / 12
        let s := if n < 96 && s.owner (objRes n) == cString then s.setBankSt b { s.bankSt b with byp := 0 } else s
        pinEval s n 0 (some true))

/-- OC_RETRY (R188): 100 ms after the trip, while Wedge enables the object, one test pulse or row slot. One that passes restores
drive from the next period or frame unless the OC condition is lasting. -/
def execOcRetry (obj : Fin 112) (trips : Bool) (s : State) : Host.Outcome State Fault Refusal :=
  .next (
    let o := s.lampObj obj
    if !o.latched || o.resume || !o.en || decide (s.elapsed < o.tripAt + 100000000) then s
    else
      let s := pinEval (s.setObj obj { o with tripAt := s.elapsed }) obj 0 (some trips)
      let o := s.lampObj obj
      s.setObj obj { o with resume := !trips && !o.oc.lasting })

/-- LIT_UNCMD (R183): OFFC, or with `volt` OFFV, trips or clears. OFFC watches an object without Wedge's enable, OFFV a pin
outside MATRIX or a row switch that does not conduct (R180). -/
def execLitUncmd (obj : Fin 112) (volt : Bool) (on : Bool) (s : State) : Host.Outcome State Fault Refusal :=
  .next (
    let n : Nat := obj
    let o := s.lampObj n
    let watched := supervised s n && (if volt then !o.conducting && !(decide (n < 96) && s.owner (objRes n) == cMatrix) else !o.en)
    if on && !watched then s
    else
      let o := if volt then { o with offv := on } else { o with offc := on }
      s.setObj n { o with offTrip := o.offTrip || on })

/-- PROOF_TIMEOUT (R183): 12 ms of enabled time without a present pulse make a pin in the proof regime DARK. -/
def execProofTimeout (pin : Fin 96) (s : State) : Host.Outcome State Fault Refusal :=
  .next (
    let o := s.lampObj pin
    if inProof s pin && decide (12000000 ≤ o.blindAcc + (s.elapsed - o.blindFrom)) then s.setObj pin { o with proof := 3 } else s)

/-- LSUP_MONITOR_READING (R186): a reading in 0.1 V; `below` and `above` say that LSUP has stayed below 20.0 V or above 21.0 V
for 1 ms. A waiting supply test of a string is decided (R165). -/
def execLsupMonitorReading (value : BitVec 12) (below above : Bool) (s : State) : Host.Outcome State Fault Refusal :=
  .next (
    let s := s.set F.CAL_LSUP.VAL value.toNat
    let s := if below && !s.flag F.CAL_STAT.LSUP_LOW then
        ((s.set F.CAL_STAT.LSUP_LOW 1).set F.CAL_EVT.LSUP_LOW 1).event 0x68 true (leBytes 2 value.toNat)
      else if above && !below && s.flag F.CAL_STAT.LSUP_LOW then
        (s.set F.CAL_STAT.LSUP_LOW 0).event 0x68 false (leBytes 2 value.toNat)
      else s
    (List.range 8).foldl supplyTest s)

/-- The CAL_ADJ_STALE bit of a pair (R191). -/
def adjStale (n : Nat) : Field := ⟨R.CAL_ADJ_STALE0 + 4 * (n / 32), n % 32, n % 32⟩

/-- ADJACENT_PIN_TEST (R191): whether Ln+1 read low at the end of the test of a claimed pair that does not conduct, or none
where the pair was skipped. -/
def execAdjacentPinTest (pair : Fin 95) (low : Option Bool) (s : State) : Host.Outcome State Fault Refusal :=
  .next (
    let n : Nat := pair
    let p := s.adjPair n
    if !supervised s n || !supervised s (n + 1) then s
    else match low with
      | none =>
        let t := p.skipped.getD s.elapsed
        let s := s.setAdj n { p with skipped := some t }
        if t + 10000000000 ≤ s.elapsed then s.set (adjStale n) 1 else s
      | some l =>
        if (s.lampObj n).conducting || (s.lampObj (n + 1)).conducting then s
        else
          let r := Tally.eval p.tally (s.get F.CAL_TALLY1.ADJ) (some l) true
          faultRecord ((s.setAdj n ⟨r.1, none⟩).set (adjStale n) 0) 0x65 F.CAL_EVT.ADJ_SHORT [BitVec.ofNat 8 n] r.1 r.2)

/-- An object's entry of the supervision snapshot (R210). -/
def supervisionEntry (s : State) (n : Nat) : Nat :=
  let o := s.lampObj n
  let b := n / 12
  let node := decide (n < 96) && s.bankMode b == 1 && decide (n % 12 < 11)
    && (sget (fun _ => Tally.zero) (s.bankSt b).node (n % 12)).lasting
  proofState s n + 2 ^ 2 * b2n (supervised s n) + 2 ^ 3 * b2n o.uncmd + 2 ^ 4 * b2n o.latched + 2 ^ 5 * b2n o.oc.lasting
    + 2 ^ 6 * b2n o.off.lasting + 2 ^ 7 * b2n o.lowcur.lasting
    + 2 ^ 8 * b2n (decide (n < 95) && (s.adjPair n).tally.lasting) + 2 ^ 9 * b2n node
    + 2 ^ 10 * b2n (decide (n < 96) && inProof s n) + 2 ^ 16 * satTo 255 o.missing

/-- SNAPSHOT_SUPERVISION (R210): entries FIRST on, 4 bytes each. -/
def execSnapshotSupervision (ring : Fin 16) (s : State) : Host.Outcome State Fault Refusal :=
  .next (snapshotRun s ring 0x08 fun s d =>
    let n := if dCount d = 0 then 112 - dFirst d else dCount d
    (List.range n).flatMap fun i => leBytes 4 (supervisionEntry s (dFirst d + i)))

/-- The levels of CAL_STAT beside LSUP_LOW: pins in the proof regime, objects flagged and latched (R211). -/
def calStatWord (s : State) : Nat :=
  let cnt (f : Nat → Bool) (n : Nat) := ((List.range n).filter f).length
  s.get F.CAL_STAT.LSUP_LOW + 2 * cnt (inProof s) 96 + 2 ^ 8 * cnt (fun n => (s.lampObj n).uncmd) 112
    + 2 ^ 15 * cnt (fun n => (s.lampObj n).latched) 112

end Sys2Proof.Machine
end

