-- ==== Sys2Proof/Machine/Wedge.lean ====
section
/-! DEFINITION. Wedge: lanes and voting, groups and their steps, lit fraction, fallback and failure policy, timed events, the
image commit and the start (R17, R212 to R237, R246, R247). -/

namespace Sys2Proof.Machine

/-! ### Groups and WDG_Gg (R247) -/

/-- The mask that aspects make. -/
def aspectMask (l : List Nat) : Nat := l.foldl (fun m a => putBit m a true) 0

/-- MODE of a group. -/
def groupMode (i : Image) (g : Nat) (w : WGroup) : Nat :=
  if !i.gEn g then 0
  else if !w.causes.isEmpty then (if i.gDark g then 5 else 4)
  else if w.start then 6
  else if w.held.isSome then 3
  else if w.wait.isSome then 2
  else 1

/-- WDG_Gg of a group. -/
def groupWord (i : Image) (g : Nat) (w : WGroup) : Nat :=
  w.cur.getD 0 + 2 ^ 3 * b2n w.cur.isSome
    + 2 ^ 4 * (match w.winner with
        | some q => q.1
        | none => i.rest g)
    + 2 ^ 7 * b2n w.winner.isSome + 2 ^ 8 * w.wait.getD 0 + 2 ^ 11 * groupMode i g w + 2 ^ 14 * w.cls + 2 ^ 16 * b2n w.fb
    + 2 ^ 17 * aspectMask (w.blocked.map (·.1))
    + 2 ^ 25 * (match w.winner with
        | some q => q.2.1
        | none => 0)

/-- The state with Wedge set. -/
def State.setWedge (s : State) (w : WedgeState) : State := { s with wedge := w }

/-- The state with a group's record set and its register brought up to date. -/
def State.setWgroup (s : State) (g : Nat) (w : WGroup) : State :=
  let s := s.setWedge { s.wedge with group := sput (fun _ => WGroup.zero) s.wedge.group g w }
  match s.wedge.image with
  | none => s
  | some i => s.write (R.WDG_Gg g) (BitVec.ofNat 32 (groupWord i g w))

/-- An aspect in a record: 0xFF for none. -/
def aspectByte (a : Option Nat) : Byte := BitVec.ofNat 8 (a.getD 0xFF)

/-- The ASPECT record of a change, while GRANT_EVT = 1 (R246). -/
def aspectRecord (s : State) (g : Nat) (before after : Option Nat) (cause : Nat) : State :=
  if s.flag F.WDG_CTL.GRANT_EVT then
    let w := s.wgroup g
    let q := w.winner.getD (0, 0, 0xFFFF)
    s.event 0x70 true ([BitVec.ofNat 8 g, aspectByte before, aspectByte after, BitVec.ofNat 8 cause] ++ leBytes 2 q.2.2
      ++ [BitVec.ofNat 8 q.2.1])
  else s

/-- The payload of a HELD record. -/
def heldPayload (g : Nat) (h : Nat × Nat × Nat) : List Byte :=
  [BitVec.ofNat 8 g, BitVec.ofNat 8 h.1, BitVec.ofNat 8 h.2.1, BitVec.ofNat 8 h.2.2]

/-- A conflict hold ends (R230). -/
def heldEnd (s : State) (g : Nat) : State :=
  match (s.wgroup g).held with
  | none => s
  | some h => (s.setWgroup g { s.wgroup g with held := none }).event 0x74 false (heldPayload g h)

/-- A group leaves its aspect: it occupies it for 1 ms more, and a fallback in use ends (R228, R232). -/
def leaveAspect (s : State) (g : Nat) : State :=
  let w := s.wgroup g
  match w.cur with
  | none => s
  | some a =>
    let s := s.setWgroup g { w with cur := none, fb := false, left := (w.left.filter fun e => e.1 != a) ++ [(a, s.elapsed)] }
    if w.fb then s.event 0x72 false [BitVec.ofNat 8 g, BitVec.ofNat 8 a] else s

/-- The chains of the HEAD channels among pool indices (R263). A chain that is OFF carries no share, and is not waited for. -/
def headChains (i : Image) (l : List Nat) : List Nat :=
  ((l.filter fun k => cdKind (i.chan k) == 4).map fun k => cdUnit (i.chan k) / 64).eraseDups

/-- An aspect is granted (R221, R228, R231). -/
def grant (s : State) (i : Image) (g a cause : Nat) : State :=
  let before := (s.wgroup g).cur
  let s := leaveAspect (heldEnd s g) g
  let w := s.wgroup g
  let s := s.setWgroup g { w with cur := some a, grantAt := s.elapsed, dwelt := 0, flashOn := true, phaseAt := s.elapsed,
                                  fb := false, cls := 0, open_ := false, onAcc := 0, onFrom := s.elapsed,
                                  awaiting := (headChains i (i.primary g a)).filter fun c => s.get (F.SKY_Cc_STAT.STATE c) != 0,
                                  wait := none,
                                  left := w.left.filter fun e => e.1 != a }
  aspectRecord s g before (some a) cause

/-! ### Failure policy (R233 to R235) -/

/-- The FAILSAFE record of one group. -/
def failRecord (s : State) (i : Image) (g cause : Nat) (state : Bool) : State :=
  s.event 0x73 state (leBytes 2 g ++ [BitVec.ofNat 8 cause, BitVec.ofNat 8 (b2n (i.gDark g))])

/-- A cause of a group ends; a dark group with no cause left is granted its INITIAL aspect first (R234, R235). -/
def endCause (s : State) (i : Image) (g cause : Nat) : State :=
  let w := s.wgroup g
  if !w.causes.contains cause then s
  else
    let left := w.causes.filter (· != cause)
    let s := s.setWgroup g { w with causes := left }
    let s := if cause = 2 || cause = 3 then failRecord s i g cause false else s
    if left.isEmpty && w.cur.isNone then grant s i g (i.initial g) 4 else s

/-- A failing MOST_RESTRICTIVE group moves toward aspect 0 once its dwell is met, at once from a FAILED aspect (R235). Cause
ASPECT_FAILED ends when the move reaches aspect 0 (R234). -/
def failMove (s : State) (i : Image) (g : Nat) : State :=
  let w := s.wgroup g
  if w.causes.isEmpty || i.gDark g then s
  else match w.cur with
    | none => s
    | some c =>
      if c = 0 then s
      else match i.hop g c 0 with
        | none => s
        | some h =>
          if w.cls = 3 || i.dwell g c h ≤ w.dwelt then
            let s := grant s i g h 3
            if h = 0 then endCause s i g 2 else s
          else s.setWgroup g { w with wait := some h }

/-- A group enters failure policy for a cause (R233 to R235). -/
def enterFail (s : State) (i : Image) (g cause : Nat) : State :=
  let w := s.wgroup g
  if w.causes.contains cause then s
  else
    let s := heldEnd s g
    let s := s.setWgroup g { s.wgroup g with causes := w.causes ++ [cause], wait := none, start := false }
    let s := if w.causes.isEmpty then (s.set F.WDG_EVT.FAILSAFE 1).bump F.WDG_CNT.FAILSAFES else s
    let s := if cause = 2 || cause = 3 then failRecord s i g cause true else s
    if i.gDark g then
      let s := if w.cur.isSome then aspectRecord (leaveAspect s g) g w.cur none 3 else s
      if cause = 2 then endCause s i g 2 else s
    else failMove s i g

/-! ### Classification and fallback (R231 to R233) -/

/-- 1 normal, 2 DEGRADED, 3 FAILED by MIN_LIT (R176). -/
def classOf (m els lit : Nat) : Nat :=
  if lit * 256 < m * els then 3 else if lit * 512 < (256 + m) * els then 2 else 1

/-- Elements and lit elements of the channels in use. -/
def groupLit (s : State) (i : Image) (g : Nat) : Nat × Nat :=
  (groupChans i g (s.wgroup g)).foldl (fun a k => let e := chanElements s (i.chan k); (a.1 + e.1, a.2 + e.2)) (0, 0)

/-- A LITCLASS record (R231). -/
def litRecord (s : State) (g a cls : Nat) (els lit : Nat) : State :=
  let f := if els = 0 then 0 else satTo 255 (roundOpen ((lit * 256 : Nat)) els).toNat
  s.event 0x71 (cls != 1) ([BitVec.ofNat 8 g, BitVec.ofNat 8 a, BitVec.ofNat 8 (cls - 1), BitVec.ofNat 8 f] ++ leBytes 2 els
    ++ leBytes 2 lit)

/-- The fallback of a group is lit: FB_LAZY pins are claimed as it is (R232). -/
def fallbackOn (s : State) (i : Image) (g a : Nat) : State :=
  let l := i.fallback g a
  let s := if i.fbLazy g a then
      s.each (l.filter fun k => cdHeld (i.chan k)) fun s k => wedgePin s (cdUnit (i.chan k))
    else s
  let s := s.setWgroup g { s.wgroup g with fb := true, cls := 0, open_ := false, onAcc := 0, onFrom := s.elapsed, awaiting := [] }
  ((s.set F.WDG_EVT.FALLBACK 1).bump F.WDG_CNT3.FALLBACKS).event 0x72 true [BitVec.ofNat 8 g, BitVec.ofNat 8 a]

/-- An aspect that became FAILED (R232, R233). -/
def aspectFailed (s : State) (i : Image) (g a : Nat) : State :=
  let w := s.wgroup g
  if !w.fb && !(i.fallback g a).isEmpty then fallbackOn s i g a
  else if a = 0 && !i.gDark g then failRecord s i g 2 true
  else
    let s := s.setWgroup g { w with blocked := (w.blocked.filter fun e => e.1 != a) ++ [(a, s.elapsed)] }
    let s := s.event 0x7D true [BitVec.ofNat 8 g, BitVec.ofNat 8 a, 0]
    enterFail s i g 2

/-- The class of a flashing aspect stays as it was in the OFF phase, and after an ON edge until its elements are proven again
(R231). -/
def classWaits (s : State) (i : Image) (g a : Nat) : Bool :=
  let w := s.wgroup g
  !w.flashOn || (i.flashOf g a != 0 && (groupChans i g w).any fun k => chanUnproven s (i.chan k))

/-- Stage 2 for a group: its class, with what a class that became FAILED brings, then a pending failure move. -/
def classify (s : State) (i : Image) (g : Nat) : State :=
  let w := s.wgroup g
  let s := match w.cur with
    | none => s
    | some a =>
      if !w.open_ || classWaits s i g a then s
      else
        let e := groupLit s i g
        let cls := classOf (i.minLit g a) e.1 e.2
        if cls = w.cls then s
        else
          let s := s.setWgroup g { w with cls := cls }
          let s := if cls != 1 || decide (2 ≤ w.cls) then litRecord s g a cls e.1 e.2 else s
          let s := if cls = 2 then s.set F.WDG_EVT.DEGRADED 1 else s
          if cls = 3 then aspectFailed s i g a else s
  failMove s i g

/-! ### Lit when commanded dark (R237) -/

/-- Whether a descriptor contains an object, or a head output numbered 112 + 16 × (64 c + h) + j. -/
def chanHas (s : State) (d : List Byte) (x : Nat) : Bool :=
  match cdKind d with
  | 0 => cdUnit d == x
  | 1 => decide (x < 96) && x / 12 == cdUnit d
  | 4 => decide (112 ≤ x) && (x - 112) / 16 == cdUnit d && bit (cdRows d) ((x - 112) % 16)
  | _ =>
    if x < 96 then match pinColumn s x with
      | none => false
      | some c => decide (cdCol d ≤ c) && decide (c < cdCol d + cdCols d)
    else decide (x < 112) && bit (cdRows d) (x - 96)

/-- The objects and head outputs flagged lit when commanded dark. -/
def flaggedNow (s : State) : List Nat :=
  (List.range 112).filter (fun n => supervised s n && (s.lampObj n).uncmd)
    ++ s.sky.flatMap fun c => c.2.head.flatMap fun h =>
      ((List.range 16).filter (bit h.2.uncmd)).map fun j => 112 + 16 * (64 * c.1 + h.1) + j

/-- The aspects whose channels contain one of some objects, as 8 g + a: they count as occupied. -/
def aspectsWith (s : State) (i : Image) (xs : List Nat) : List Nat :=
  if xs.isEmpty then []
  else (i.liveAspects.filter fun q =>
    (i.primary q.1 q.2 ++ i.fallback q.1 q.2).any fun k => xs.any (chanHas s (i.chan k))).map fun q => 8 * q.1 + q.2

/-- A flagged object in a record. -/
def flagByte (x : Nat) : Byte := if x < 112 then BitVec.ofNat 8 x else 0xFF

/-- A flag appears: the groups that it concerns enter failure policy with cause UNCMD (R237). -/
def flagSet (s : State) (i : Image) (x : Nat) : State :=
  let occ := aspectsWith s i [x]
  let hit := i.live.filter fun g =>
    let cur := (s.wgroup g).cur
    (match cur with
      | none => false
      | some a => occ.any fun y => i.conflicts (8 * g + a) y)
    || occ.any fun y => y / 8 == g && cur != some (y % 8)
  let s := s.each hit fun s g => enterFail (s.setWgroup g { s.wgroup g with uncmd := (s.wgroup g).uncmd ++ [x] }) i g 3
  (s.set F.WDG_EVT.UNCMD 1).event 0x77 true [flagByte x, BitVec.ofNat 8 (hit.headD 0xFF)]

/-- A flag clears: cause UNCMD ends where it was the last (R234). -/
def flagCleared (s : State) (i : Image) (x : Nat) : State :=
  let s := s.each (i.live.filter fun g => (s.wgroup g).uncmd.contains x) fun s g =>
    let l := (s.wgroup g).uncmd.filter (· != x)
    let s := s.setWgroup g { s.wgroup g with uncmd := l }
    if l.isEmpty then endCause s i g 3 else s
  s.event 0x77 false [flagByte x, 0xFF]

/-- Stage 3: flags that appeared or cleared since the last step. -/
def flagStage (s : State) (i : Image) : State :=
  let now := flaggedNow s
  let was := s.wedge.flagged
  let s := s.setWedge { s.wedge with flagged := now }
  let s := s.each (was.filter fun x => !now.contains x) fun s x => flagCleared s i x
  s.each (now.filter fun x => !was.contains x) fun s x => flagSet s i x

/-! ### Admission (R227 to R230) -/

/-- The aspects that the other groups occupy: granted, left within 1 ms, or lit when commanded dark. -/
def occupiedBy (s : State) (i : Image) (g : Nat) : List Nat :=
  ((i.live.filter (· != g)).flatMap fun h =>
      let w := s.wgroup h
      (match w.cur with
        | none => []
        | some a => [8 * h + a]) ++ w.left.map fun e => 8 * h + e.1)
    ++ (aspectsWith s i s.wedge.flagged).filter fun y => y / 8 != g

/-- The target of a group: its winning request, ignored beyond NASP, else REST (R227). -/
def targetOf (i : Image) (g : Nat) (w : WGroup) : Nat :=
  match w.winner with
  | some q => if q.1 < i.nasp g then q.1 else i.rest g
  | none => i.rest g

/-- A target is refused: blocked or unreachable. -/
def refused (s : State) (g : Nat) : State :=
  (heldEnd s g).setWgroup g { (heldEnd s g).wgroup g with wait := none } |>.bump F.WDG_CNT2.REFUSED

/-- One group's admission. -/
def admitGroup (s : State) (i : Image) (g : Nat) : State :=
  let w := s.wgroup g
  if !w.causes.isEmpty || w.start then s
  else match w.cur with
    | none => s
    | some c =>
      let t := targetOf i g w
      if t = c then
        let s := heldEnd s g
        s.setWgroup g { s.wgroup g with wait := none }
      else if w.blocked.any fun e => e.1 == t then refused s g
      else match i.hop g c t with
        | none => refused s g
        | some h =>
          if w.dwelt < i.dwell g c h then
            let s := heldEnd s g
            s.setWgroup g { s.wgroup g with wait := some h }
          else match (occupiedBy s i g).find? fun y => i.conflicts (8 * g + h) y with
            | none => grant s i g h (if h != t then 2 else if w.winner.isSome then 0 else 1)
            | some y =>
              let again := match w.held with
                | none => false
                | some q => q.1 == h
              if again then s
              else
                let s := heldEnd s g
                let q := (h, y / 8, y % 8)
                let s := s.setWgroup g { s.wgroup g with held := some q, wait := some h }
                ((s.set F.WDG_EVT.HELD 1).bump F.WDG_CNT2.HELD).event 0x74 true (heldPayload g q)

/-- The groups in admission order: by PRIO of the winning request, descending, then by index; those without one last. -/
def admissionOrder (s : State) (i : Image) : List Nat :=
  let prio (g : Nat) := (s.wgroup g).winner.map fun q => q.2.1
  ((List.range 16).reverse.flatMap fun p => i.live.filter fun g => prio g == some p)
    ++ i.live.filter fun g => (prio g).isNone

/-- All groups enter failure policy for PRES_TIMEOUT (0) or START_WAIT (1), in one record; every request counts as withdrawn
(R17, R226). -/
def failAll (s : State) (i : Image) (cause : Nat) : State :=
  let s := s.each i.live fun s g => enterFail (s.setWgroup g { s.wgroup g with winner := none }) i g cause
  (s.set F.WDG_EVT.FAILSAFE 1).event 0x73 true (leBytes 2 0xFFFF ++ [BitVec.ofNat 8 cause, 0])

/-- A presentation has arrived: START ends, and with it the causes that wait for one (R226, R234). -/
def presentationSeen (s : State) (i : Image) : State :=
  let had (c : Nat) := i.live.any fun g => (s.wgroup g).causes.contains c
  let gone := [0, 1].filter had
  let s := s.setWedge { s.wedge with arrived := false, startLost := false }
  let s := s.each i.live fun s g => s.setWgroup g { s.wgroup g with start := false }
  s.each gone fun s c => (s.each i.live fun s g => endCause s i g c).event 0x73 false (leBytes 2 0xFFFF ++ [BitVec.ofNat 8 c, 0])

/-- The stages of a step after voting (R228): 2 classification, 3 lit when commanded dark, 4 a timeout, 5 admission; then the
enables as voted. In NONE the lanes do nothing. -/
def wedgeStages (s : State) (lost : Option Nat) : State :=
  match s.wedge.image with
  | none => applyEnables s
  | some i =>
    if s.get F.WDG_STAT.VOTE = 2 || s.wedge.group.isEmpty then applyEnables s
    else
      let s := i.live.foldl (fun s g => classify s i g) s
      let s := flagStage s i
      let s := if s.wedge.arrived then presentationSeen s i else s
      let s := match lost with
        | none => s
        | some c => failAll s i c
      applyEnables ((admissionOrder s i).foldl (fun s g => admitGroup s i g) s)

/-! ### Lanes and voting (R212 to R215) -/

/-- A lane's state in WDG_LANE: 0 ACTIVE, 1 ISOLATED, 2 REJOINING, 3 OUT. -/
def laneF (l : Nat) : Field := ⟨R.WDG_LANE, 2 * l + 1, 2 * l⟩
/-- A lane's record. -/
def State.laneSt (s : State) (l : Nat) : LaneSt := sget (fun _ => LaneSt.zero) s.wedge.lane l
/-- The state with a lane's record set. -/
def State.setLane (s : State) (l : Nat) (r : LaneSt) : State :=
  s.setWedge { s.wedge with lane := sput (fun _ => LaneSt.zero) s.wedge.lane l r }
/-- The lanes in service. -/
def lanesOn (s : State) : List Nat := [0, 1, 2].filter fun l => s.get (laneF l) == 0

/-- Times within the last hour. -/
def lastHour (now : Nat) (l : List Nat) : List Nat := l.filter fun t => decide (now < t + 3600000000000)

/-- A lane is isolated (R214); the third time within one hour it is out of service until reset (R215). -/
def isolate (s : State) (l cause : Nat) : State :=
  let times := s.elapsed :: lastHour s.elapsed (s.laneSt l).times
  let out := decide (3 ≤ times.length)
  let c := if out then 3 else cause
  let s := (s.setLane l ⟨times, c⟩).set (laneF l) (if out then 3 else 1)
  ((s.set F.WDG_EVT.LANE 1).bump F.WDG_CNT.ISOLATIONS).event 0x75 true [BitVec.ofNat 8 l, BitVec.ofNat 8 c]

/-- VOTE follows the lanes in service, or NONE where the two in service disagree; the entry into NONE is reported (R213,
R215). -/
def voteNow (s : State) (disagree : Bool) : State :=
  let n := (lanesOn s).length
  let was := s.get F.WDG_STAT.VOTE
  let now := if was = 2 || disagree || n < 2 then 2 else 3 - n
  let s := s.set F.WDG_STAT.VOTE now
  if now = 2 && was != 2 then
    let s := s.setWedge { s.wedge with nones := s.elapsed :: s.wedge.nones }
    (s.set F.WDG_EVT.NONE 1).event 0x76 true []
  else s

/-- Stage 1: the digests of the lanes in service, the counters' bound, and rejoining lanes whose digest matches (R213 to
R215). -/
def laneStage (s : State) (v : LaneView) : State :=
  let dig (l : Nat) := if l = 0 then v.d0 else if l = 1 then v.d1 else v.d2
  let s := s.each v.voter fun s n =>
    ((s.set F.WDG_EVT.VOTER 1).bump F.WDG_CNT3.VOTER).event 0x7C true [BitVec.ofNat 8 n]
  let s := match v.drift with
    | none => s
    | some l => if (lanesOn s).contains l then isolate s l 2 else s
  let on := lanesOn s
  let odd := on.filter fun l => on.all fun m => m == l || dig m != dig l
  let s := if on.length = 3 && odd.length = 1 then isolate s (odd.headD 0) 0 else s
  let disagree := if on.length = 3 then odd.length == 3 else on.length == 2 && odd.length == 2
  let s := s.each ([0, 1, 2].filter fun l => s.get (laneF l) == 2) fun s l =>
    if (lanesOn s).any fun m => dig m == dig l then
      (s.set (laneF l) 0).event 0x75 false [BitVec.ofNat 8 l, BitVec.ofNat 8 (s.laneSt l).cause]
    else s.set (laneF l) 1
  voteNow s disagree

/-- WEDGE_STEP (R228). -/
def execWedgeStep (view : LaneView) (s : State) : Host.Outcome State Fault Refusal :=
  .next (wedgeStages (laneStage s view) none)

/-- LANE_STALL_TIMEOUT (R214): a lane in service has not completed a step 200 µs after the other two. -/
def execLaneStallTimeout (lane : Fin 3) (s : State) : Host.Outcome State Fault Refusal :=
  .next (if (lanesOn s).contains lane then applyEnables (voteNow (isolate s lane 1) false) else s)

/-- LANE_REJOIN_ATTEMPT (R215): 1 s after its isolation a lane reloads the image and copies the state of the others; it
rejoins at the next step whose digest matches. -/
def execLaneRejoinAttempt (lane : Fin 3) (s : State) : Host.Outcome State Fault Refusal :=
  .next (if s.get (laneF lane) = 1 && decide (((s.laneSt lane).times.headD 0) + 1000000000 ≤ s.elapsed) then
      s.set (laneF lane) 2
    else s)

/-! ### Timed events (R216) -/

/-- PRESENTATION_TIMEOUT (R17): 100 ms without a presentation. -/
def execPresentationTimeout (s : State) : Host.Outcome State Fault Refusal :=
  .next (match s.wedge.presAt with
    | none => s
    | some t =>
      if s.flag F.WDG_STAT.PRESENTING && decide (t + 100000000 ≤ s.elapsed) then
        wedgeStages (s.set F.WDG_STAT.PRESENTING 0) (some 0)
      else s)

/-- START_WAIT_TIMEOUT (R226): no presentation within START_WAIT of the start or activation. -/
def execStartWaitTimeout (s : State) : Host.Outcome State Fault Refusal :=
  .next (match s.wedge.image with
    | none => s
    | some i =>
      if s.flag F.WDG_STAT.START_WAIT && s.wedge.started && !s.wedge.startLost
          && decide (s.wedge.waitAt + i.startWait * 1000000000 ≤ s.elapsed) then
        wedgeStages (s.setWedge { s.wedge with startLost := true }) (some 1)
      else s)

/-- DWELL_EXPIRY (R229): the second lane's counter has timed `units` × 100 ms since the grant, never short (R216). -/
def execDwellExpiry (group : Fin 256) (units : BitVec 8) (s : State) : Host.Outcome State Fault Refusal :=
  .next (
    let w := s.wgroup group
    if w.cur.isNone || decide (s.elapsed < w.grantAt + units.toNat * 100000000) then s
    else wedgeStages (s.setWgroup group { w with dwelt := max w.dwelt units.toNat }) none)

/-- FLASH_EDGE (R221): a phase of the granted aspect's pattern has expired. -/
def execFlashEdge (group : Fin 256) (s : State) : Host.Outcome State Fault Refusal :=
  .next (
    let w := s.wgroup group
    match s.wedge.image, w.cur with
    | some i, some a =>
      let p := i.flashOf group a
      let len := if w.flashOn then (i.pattern p).2 else (i.pattern p).1 - (i.pattern p).2
      if p = 0 || decide (s.elapsed < w.phaseAt + len * 10000000) then s
      else
        let on := !w.flashOn
        let acc := if w.flashOn && w.awaiting.isEmpty then w.onAcc + (s.elapsed - w.onFrom) else w.onAcc
        wedgeStages (s.setWgroup group { w with flashOn := on, phaseAt := s.elapsed, onAcc := acc, onFrom := s.elapsed }) none
    | _, _ => s)

/-- OCCUPANCY_RELEASE (R228): 1 ms after a group left an aspect it stops occupying it. -/
def execOccupancyRelease (group : Fin 256) (aspect : Fin 8) (s : State) : Host.Outcome State Fault Refusal :=
  .next (
    let w := s.wgroup group
    let keep := w.left.filter fun e => !(e.1 == (aspect : Nat) && decide (e.2 + 1000000 ≤ s.elapsed))
    if keep.length = w.left.length then s else wedgeStages (s.setWgroup group { w with left := keep }) none)

/-- CLASSIFICATION_START (R231): 40 ms of enabled time after the grant, 15 ms for a fallback. -/
def execClassificationStart (group : Fin 256) (s : State) : Host.Outcome State Fault Refusal :=
  .next (
    let w := s.wgroup group
    let on := w.onAcc + if w.flashOn && w.awaiting.isEmpty then s.elapsed - w.onFrom else 0
    if w.cur.isNone || w.open_ || decide (on < if w.fb then 15000000 else 40000000) then s
    else wedgeStages (s.setWgroup group { w with open_ := true }) none)

/-- An aspect is unblocked (R236): by RETRY (1) or by WDG_UNBLOCK (2). -/
def unblock (s : State) (g a how : Nat) : State :=
  let w := s.wgroup g
  if w.blocked.any fun e => e.1 == a then
    (s.setWgroup g { w with blocked := w.blocked.filter fun e => e.1 != a }).event 0x7D false
      [BitVec.ofNat 8 g, BitVec.ofNat 8 a, BitVec.ofNat 8 how]
  else s

/-- BLOCK_RETRY_EXPIRY (R236): RETRY minutes after blocking; never with RETRY 0. -/
def execBlockRetryExpiry (group : Fin 256) (aspect : Fin 8) (s : State) : Host.Outcome State Fault Refusal :=
  .next (match s.wedge.image, (s.wgroup group).blocked.find? fun e => e.1 == (aspect : Nat) with
    | some i, some e =>
      if i.retry group != 0 && decide (e.2 + i.retry group * 60000000000 ≤ s.elapsed) then
        wedgeStages (unblock s group aspect 1) none
      else s
    | _, _ => s)

/-- A write of WDG_UNBLOCK (R236). -/
def wdgUnblock (s : State) (v : Nat) : State :=
  s.each ((List.range 8).filter fun a => bit v (8 + a)) fun s a => unblock s (v % 256) a 2

/-- The counts that WDG_CTL.CNT_CLR clears (R247). -/
def wdgCntClr (s : State) : State :=
  s.clearAll [F.WDG_CNT.ISOLATIONS, F.WDG_CNT.FAILSAFES, F.WDG_CNT2.HELD, F.WDG_CNT2.REFUSED, F.WDG_CNT3.FALLBACKS,
    F.WDG_CNT3.VOTER]

/-! ### Activation, start and commit (R224 to R226) -/

/-- The tally words of the image in force, and their instances afresh (R28, R187). -/
def tallyWords (s : State) (l : List Nat) : State :=
  let fs := [F.CAL_TALLY0.OC, F.CAL_TALLY0.OFF, F.CAL_TALLY1.LOWCUR, F.CAL_TALLY1.ADJ, F.CAL_TALLY2.NODE]
  let s := s.each (fs.zip l) fun s e => s.set e.1 e.2
  let s := s.each (s.lamp.obj.map (·.1)) fun s n =>
    let o := s.lampObj n
    s.setObj n { o with oc := o.oc.restart, off := o.off.restart, lowcur := o.lowcur.restart }
  let s := s.each (s.lamp.adj.map (·.1)) fun s n => s.setAdj n { s.adjPair n with tally := (s.adjPair n).tally.restart }
  s.each (s.lamp.bank.map (·.1)) fun s b =>
    let r := s.bankSt b
    s.setBankSt b { r with node := r.node.map fun e => (e.1, e.2.restart) }

/-- Every enable is withdrawn and every group is dark. -/
def allDark (s : State) : State :=
  let gs := s.wedge.group.map (·.1)
  let s := s.setWedge { s.wedge with group := [] }
  applyEnables (s.each gs fun s g => s.write (R.WDG_Gg g) 0)

/-- Steps 2 to 4 of R225: dark, the lanes load the image, Wedge claims and releases pins, and every group is granted its
INITIAL aspect and waits for a presentation (R226). -/
def activate (s : State) (i : Image) (cause : Nat) : State :=
  let s := allDark s
  let s := s.setWedge { s.wedge with image := some i, presAt := none, waitAt := s.elapsed, startLost := false, arrived := false }
  let s := s.each ((List.range 96).filter fun n => !i.claimed.contains n) fun s n => releaseOwn s cWedge (objRes n)
  let s := s.each i.claimed wedgePin
  let s := tallyWords s i.tally
  let s := (s.set F.WDG_IMG_SERIAL.SERIAL i.serial).set F.WDG_IMG_ID.BUILD_ID i.build
  let s := ((s.set F.WDG_STAT.IMG 1).set F.WDG_STAT.START_WAIT 1).set F.WDG_STAT.PRESENTING 0
  let s := s.each i.live fun s g => grant (s.setWgroup g { WGroup.zero with start := true }) i g (i.initial g) cause
  applyEnables s

/-- Enabled inert rules under the image and table in force (R245). -/
def inertRule (s : State) (e : List Byte) : Bool :=
  match s.wedge.image with
  | none => true
  | some i => !i.gEn (le e 1 1) || decide (i.nasp (le e 1 1) ≤ bits (le e 2 1) 2 0)

/-- RULES and INERT of MRK_STAT (R245, R248). -/
def markStat (s : State) : State :=
  let on := s.mark.rules.filter fun e => bit (le e 0 1) 7
  (s.set F.MRK_STAT.RULES on.length).set F.MRK_STAT.INERT (on.filter (inertRule s)).length

/-- The payload of an IMAGE record. -/
def imagePayload (serial copy : Nat) (repaired : Bool) : List Byte :=
  leBytes 4 serial ++ [BitVec.ofNat 8 copy, BitVec.ofNat 8 (b2n repaired)]

/-- The checks of a commit, in the order of R224, that hold for an image and a marking table alike, with the faults of the
content; the serial in force is `serial`. Answers the status and INFO0 (R303). -/
def commitCheck (s : State) (bytes : List Byte) (serial : Nat) (faults : List Nat) : Option (Nat × Nat) :=
  if s.wedge.commit.isSome then some (stBusy, 0)
  else if !signed s bytes then some (stBadSignature, 0)
  else if le bytes 8 4 ≤ serial then some (stStale, 0)
  else if !faults.isEmpty then some (stBadEntry, faultEntry faults)
  else none

/-- A Wedge image is checked; accepted, its writing to the store begins (R224, R225). -/
def loadImage (s : State) (_ : Item) (bytes : List Byte) : LoadResult :=
  match commitCheck s bytes (s.get F.WDG_IMG_SERIAL.SERIAL) (imageFaults bytes) with
  | some q => .refused q.1 q.2 s
  | none => .later ((s.setWedge { s.wedge with commit := some bytes }).set F.WDG_STAT.IMG 3)

/-- TABLE_LOAD_WEDGE_IMAGE (R224). -/
def execTableLoadWedgeImage (ring : Fin 16) (payload : List Byte) (s : State) : Host.Outcome State Fault Refusal :=
  .next (tableRun s ring 0x0A payload loadImage)

/-- An image that is being committed is activated (R225): both copies are written, the image comes into force, and the TABLE_LOAD completes. -/
def imageActivation (s : State) : State :=
  match s.wedge.commit with
    | none => s
    | some b =>
      let i := parseImage b
      let s := s.setWedge { s.wedge with commit := none, store := [storeCopy b, storeCopy b] }
      let s := (s.set F.WDG_STAT.COPY0_VALID 1).set F.WDG_STAT.COPY1_VALID 1
      let s := markStat (activate s i 5)
      let s := (s.set F.WDG_EVT.COMMIT 1).event 0x78 true (imagePayload i.serial 0 false)
      match s.hif.items.find? fun it => it.started && dOpcode it.desc == 0x02 && dId it.desc == 0x0A with
      | none => s
      | some it => complete s it { Outcome.just stOk with xfer := dLength it.desc }

/-- A marking table comes into force: every hold and latch is cleared (R241, R245). -/
def markInForce (s : State) (b : List Byte) : State :=
  let s := { s with mark := { s.mark with next := none, rules := tableRules b, rule := [], clear := [], clearAll := false } }
  let s := (s.set F.MRK_STAT.LOADED 1).set F.MRK_SERIAL.SERIAL (le b 8 4)
  (markStat (s.set F.MRK_EVT.LOAD 1)).event 0x79 true (leBytes 4 (le b 8 4))

/-- The copy of a store to load, and the store with an invalid copy rewritten from the valid one (R226). -/
def repairStore (l : List StoreCopy) : Option (Nat × List Byte) × List StoreCopy × Bool :=
  match loadCopy l with
  | none => (none, l, false)
  | some q =>
    let bad := !(copyAt l 0).valid || !(copyAt l 1).valid
    (some q, if bad then [storeCopy q.2, storeCopy q.2] else l, bad)

/-- The marking table's store at a start (R226, R245). -/
def markStart (s : State) : State :=
  let r := repairStore s.mark.store
  let s := { s with mark := { s.mark with store := r.2.1 } }
  match r.1 with
  | none => s
  | some q => markInForce ((s.set F.MRK_STAT.COPY0_VALID 1).set F.MRK_STAT.COPY1_VALID 1) q.2

/-- Wedge starts (R226): at a start, or when the lanes restart together from NONE, unless that was the second NONE within one
hour (R215). -/
def wedgeStart (s : State) : State :=
  let none_ := s.get F.WDG_STAT.VOTE == 2
  let again := decide (2 ≤ (lastHour s.elapsed s.wedge.nones).length)
  if s.wedge.started && (!none_ || again) then s
  else
    let first := !s.wedge.started
    let s := if none_ then
        let s := s.each ([0, 1, 2].filter fun l => s.get (laneF l) != 3) fun s l => s.set (laneF l) 0
        let s := s.set F.WDG_STAT.VOTE 0
        (voteNow s false).event 0x76 false []
      else s
    let r := repairStore s.wedge.store
    let s := s.setWedge { s.wedge with store := r.2.1, started := true }
    let s := if first then markStart s else s
    match r.1 with
    | none => (s.set F.WDG_STAT.IMG 0).setWedge { s.wedge with image := none }
    | some q =>
      let i := parseImage q.2
      let s := (s.set F.WDG_STAT.COPY0_VALID 1).set F.WDG_STAT.COPY1_VALID 1
      let s := if r.2.2 then s.set F.WDG_EVT.STORE 1 else s
      markStat ((activate s i 4).event 0x78 true (imagePayload i.serial (1 + q.1) r.2.2))

end Sys2Proof.Machine
end

