-- ==== Sys2Proof/Machine/Marking.lean ====
section
/-! DEFINITION. The marking table: rules and their triggers, holds and latches, arbitration, presentations, host request bits
and the commit of a table (R239 to R248). -/

namespace Sys2Proof.Machine

/-- The state with the marking table set. -/
def State.setMark (s : State) (m : MarkState) : State := { s with mark := m }
/-- A rule between passes. -/
def State.ruleSt (s : State) (r : Nat) : RuleSt := sget (fun _ => RuleSt.zero) s.mark.rule r
/-- The state with a rule's record set. -/
def State.setRule (s : State) (r : Nat) (x : RuleSt) : State :=
  s.setMark { s.mark with rule := sput (fun _ => RuleSt.zero) s.mark.rule r x }

/-! ### Triggers (R240) -/

/-- The level of a field channel for FIELD rules: its debounced input, or an output's read-back. -/
def fieldLevel (s : State) (n : Nat) : Bool :=
  match s.get (F.FIO_IOn_CFG.MODE n) with
  | 1 => bit (s.get F.FIO_IN.STATE) n
  | 2 => bit (s.get F.FIO_RB.RB) n
  | _ => false

/-- The levels of IO0 to IO15. -/
def fieldWord (s : State) : Nat := (List.range 16).foldl (fun m n => putBit m n (fieldLevel s n)) 0

/-- ALL or ANY of R240 over a 16-bit state. -/
def maskMatch (any : Bool) (state mask val : Nat) : Bool :=
  if any then (List.range 16).any fun k => bit mask k && bit state k == bit val k
  else (List.range 16).all fun k => !bit mask k || bit state k == bit val k

/-- A TRACK condition: a confirmed track in the zone's point span whose speed lies within the limits. -/
def trackMatch (s : State) (e : List Byte) : Bool :=
  s.cru.tracks.any fun t =>
    t.confirmed && trackIn s (le e 8 2) t && (!bit (le e 14 2) 0 || t.stopped)
      && decide (sgn 16 (le e 10 2) ≤ clampS 16 (trackSpeed s t)) && decide (clampS 16 (trackSpeed s t) ≤ sgn 16 (le e 12 2))

/-- A host request bit (R242). -/
def hreqF (i : Nat) : Field := ⟨R.MRK_HREQk (i / 32), i % 32, i % 32⟩

/-- Whether a rule's trigger is live (R240). -/
def trigger (s : State) (e : List Byte) : Bool :=
  let k := le e 0 1
  let cond := match bits k 2 0 with
    | 0 => maskMatch (bit k 4) (zoneWord s (le e 8 2)) (le e 10 2) (le e 12 2)
    | 1 => maskMatch (bit k 4) (fieldWord s) (le e 8 2) (le e 10 2)
    | 2 => trackMatch s e
    | _ => s.flag (hreqF (le e 8 1))
  cond != bit k 3

/-! ### Liveness (R241) -/

/-- One rule at a pass: its record for the next pass, and whether its request is live. A clear takes effect on a latch whose
trigger is not live, and HOLD then counts from this pass. -/
def rulePass (s : State) (r : Nat) (e : List Byte) : RuleSt × Bool :=
  let x := s.ruleSt r
  let trig := trigger s e
  let latch := bit (le e 0 1) 5
  let asked := s.mark.clearAll || s.mark.clear.contains r
  let cleared := x.latched && asked && !trig
  let last := if trig || cleared then some s.elapsed else x.last
  let latched := latch && (trig || (x.latched && !cleared))
  let hold := le e 4 2 * 100000000
  let held := match last with
    | none => false
    | some t => decide (s.elapsed < t + hold)
  (⟨last, latched⟩, trig || latched || held)

/-- The better of two live requests of a group, each aspect, PRIO and rule: the higher PRIO, then the lower aspect, then the
lower rule (R244). -/
def better (a b : Nat × Nat × Nat) : Bool :=
  decide (b.2.1 < a.2.1) || (a.2.1 == b.2.1 && (decide (a.1 < b.1) || (a.1 == b.1 && decide (a.2.2 < b.2.2))))

/-- The winners by group of live requests. -/
def arbitrate (live : List (Nat × Nat × Nat × Nat)) : List (Nat × Nat × Nat × Nat) :=
  live.foldl (fun l q =>
    match l.find? fun w => w.1 == q.1 with
    | none => l ++ [q]
    | some w => if better q.2 w.2 then l.map fun x => if x.1 = q.1 then q else x else l) []

/-- A host request bit expires (R242). -/
def hreqExpire (s : State) (i : Nat) : State :=
  ((s.set (hreqF i) 0).set F.MRK_EVT.HREQ_EXP 1).event 0x7B true [BitVec.ofNat 8 i]

/-- Whether a set bit's lifetime has passed (R242). -/
def hreqDue (s : State) (i : Nat) : Bool :=
  let ttl := s.get F.MRK_CFG.HREQ_TTL
  s.flag (hreqF i) && ttl != 0 && decide (sget (fun _ => 0) s.mark.hreqAt i + ttl * 1000000000 ≤ s.elapsed)

/-- The RULE record of a rule that became or ceased to be a group's winner, while RULE_EVT = 1 (R246). -/
def ruleRecord (s : State) (g : Nat) (w : Option (Nat × Nat × Nat)) (state : Bool) : State :=
  match w with
  | none => s
  | some q => if s.flag F.MRK_CTL.RULE_EVT then
      s.event 0x7A state (leBytes 2 q.2.2 ++ [BitVec.ofNat 8 g, BitVec.ofNat 8 q.1, BitVec.ofNat 8 q.2.1])
    else s

/-- A group's winner as presented. -/
def presentGroup (s : State) (wins : List (Nat × Nat × Nat × Nat)) (g : Nat) : State :=
  let new := (wins.find? fun w => w.1 == g).map (·.2)
  let old := (s.wgroup g).winner
  if new = old then s
  else
    let s := if old.map (·.2.2) = new.map (·.2.2) then s else ruleRecord s g old false
    let s := s.setWgroup g { s.wgroup g with winner := new }
    if old.map (·.2.2) = new.map (·.2.2) then s else ruleRecord s g new true

/-- The live requests of a pass: group, aspect, PRIO and rule, inert and disabled rules left out (R244, R245). -/
def liveRequests (s : State) (verdicts : List (Nat × List Byte × RuleSt × Bool)) : List (Nat × Nat × Nat × Nat) :=
  (verdicts.filter fun v => v.2.2.2 && bit (le v.2.1 0 1) 7 && !inertRule s v.2.1).map fun v =>
    (le v.2.1 1 1, bits (le v.2.1 2 1) 2 0, bits (le v.2.1 2 1) 7 4, v.1)

/-- MARKING_PASS (R243): a new table comes into force, every rule is evaluated on the state at the pass's start, and the set of
winners is presented to Wedge. Without an image the marking table presents nothing (R226). -/
def execMarkingPass (s : State) : Host.Outcome State Fault Refusal :=
  .next (
    let s := match s.mark.next with
      | none => s
      | some b => markInForce s b
    let s := s.each ((List.range 256).filter (hreqDue s)) hreqExpire
    let rules := (List.range s.mark.rules.length).zip s.mark.rules
    let verdicts := rules.map fun e => (e.1, e.2, if bit (le e.2 0 1) 7 then rulePass s e.1 e.2 else (RuleSt.zero, false))
    let s := s.each verdicts fun s v => s.setRule v.1 v.2.2.1
    let s := { s.setMark { s.mark with clear := [], clearAll := false } with presented := [] }
    match s.wedge.image with
    | none => s
    | some i =>
      let wins := arbitrate (liveRequests s verdicts)
      let s := s.each i.live fun s g => presentGroup s wins g
      let s := s.setWedge { s.wedge with presAt := some s.elapsed, arrived := true }
      let s := (s.set F.WDG_STAT.PRESENTING 1).set F.WDG_STAT.START_WAIT 0
      s.write R.MRK_PASS_CNT (BitVec.ofNat 32 (satTo (2 ^ 32 - 1) (s.get F.MRK_PASS_CNT.PASSES + 1))))

/-! ### Host requests and latches (R241, R242) -/

/-- A write of MRK_HREQ_SET. -/
def hreqSet (s : State) (v : Nat) : State :=
  let i := v % 256
  (s.setMark { s.mark with hreqAt := sput (fun _ => 0) s.mark.hreqAt i s.elapsed }).set (hreqF i) 1

/-- A write of MRK_HREQ_CLR. -/
def hreqClr (s : State) (v : Nat) : State := s.set (hreqF (v % 256)) 0

/-- HREQ_EXPIRED (R242): a bit not set again within HREQ_TTL. A bit that had outlived a new HREQ_TTL when it was written waits
for the next pass. -/
def execHreqExpired (index : Fin 256) (s : State) : Host.Outcome State Fault Refusal :=
  .next (
    let lived := sget (fun _ => 0) s.mark.hreqAt index + s.get F.MRK_CFG.HREQ_TTL * 1000000000
    if hreqDue s index && decide (s.mark.ttlAt < lived) then hreqExpire s index else s)

/-- A write of MRK_LATCH_CLR, for the next pass. -/
def latchClr (s : State) (v : Nat) : State :=
  if bit v 13 then s.setMark { s.mark with clearAll := true }
  else s.setMark { s.mark with clear := s.mark.clear ++ [bits v 12 0] }

/-- The counts that MRK_CTL.CNT_CLR clears (R248). -/
def mrkCntClr (s : State) : State := s.clearAll [F.MRK_PASS_CNT.PASSES]

/-! ### The commit of a table (R245) -/

/-- A marking table is checked and written as two copies; it takes effect at the next pass. -/
def loadMark (s : State) (_ : Item) (bytes : List Byte) : LoadResult :=
  let serial := match s.mark.next with
    | none => s.get F.MRK_SERIAL.SERIAL
    | some b => le b 8 4
  match commitCheck s bytes serial (markFaults bytes) with
  | some q => .refused q.1 q.2 s
  | none =>
    let s := s.setMark { s.mark with next := some bytes, store := [storeCopy bytes, storeCopy bytes] }
    .loaded ((s.set F.MRK_STAT.COPY0_VALID 1).set F.MRK_STAT.COPY1_VALID 1)

/-- TABLE_LOAD_MARKING_TABLE (R245). -/
def execTableLoadMarkingTable (ring : Fin 16) (payload : List Byte) (s : State) : Host.Outcome State Fault Refusal :=
  .next (tableRun s ring 0x0B payload loadMark)

end Sys2Proof.Machine
end

