-- ==== Sys2Proof/Machine/SelfTest.lean ====
section
/-! DEFINITION. The shutdown self-test and the start checks: steps, partitions and the power rule, the interlock, repairs and the
result records (R389 to R407). -/

namespace Sys2Proof.Machine

/-- The state with the self-test's own data set. -/
def State.setSst (s : State) (x : SstState) : State := { s with sst := x }

/-- The state with the test that runs set. -/
def State.setRun (s : State) (r : SstRun) : State := s.setSst { s.sst with run := some r }

/-! ### The table of steps (R390) -/

/-- The partitions of each step. -/
def sstParts (step : Nat) : Nat := [1, 1, 1, 4, 4, 1, 6, 1, 4, 9, 1, 2, 4, 3, 1].getD step 0

/-- The increment of each step in 0.1 W. -/
def sstIncrement (step : Nat) : Nat := [0, 60, 20, 40, 50, 0, 60, 0, 5, 30, 10, 30, 70, 20, 20].getD step 0

/-- The steps planned, by the kind of the test (R399). -/
def sstPlanned (kind : Nat) : Nat := if kind = 1 then 15 else 6

/-- The first step and the last one of a kind (R390, R401). -/
def sstFirst (kind : Nat) : Nat := if kind = 1 then 0 else 1
/-- The last step of a kind. -/
def sstLastStep (kind : Nat) : Nat := if kind = 1 then 14 else 6

/-- The steps that find and repair weak memory elements (R397). -/
def sstMemory (step : Nat) : Bool := step == 3 || step == 4 || step == 11

/-! ### Result records (R399, R400) -/

/-- Bytes with some of them replaced from an offset. -/
def patch (b : List Byte) (off : Nat) (v : List Byte) : List Byte := b.take off ++ v ++ b.drop (off + v.length)

/-- Powered seconds of the unit. -/
def lifeSeconds (s : State) : Nat := s.elapsed / 1000000000

/-- The header of a record, the rest of it zero. -/
def recordHeader (s : State) (kind serial : Nat) : List Byte :=
  let h := leBytes 4 0x31545353 ++ leBytes 1 kind ++ leBytes 1 (sstPlanned kind) ++ [0, 0] ++ leBytes 4 serial
    ++ leBytes 4 (lifeSeconds s) ++ leBytes 8 s.tai ++ leBytes 1 (s.lc + 8 * s.get F.SST_CFG.FUSE_EN)
  h ++ List.replicate (608 - h.length) 0

/-- KIND of a record. -/
def recKind (b : List Byte) : Nat := le b 4 1

/-- RESULT of a step's entry. -/
def recResult (b : List Byte) (step : Nat) : Nat := le b (64 + 32 * step + 1) 1

/-- The steps a record plans. -/
def recSteps (b : List Byte) : List Nat := (List.range 15).filter fun k => decide (sstFirst (recKind b) ≤ k) && decide (k ≤ sstLastStep (recKind b))

/-- The steps that ran to their end, with PASS, REPAIRED or FAIL. -/
def recRan (b : List Byte) : List Nat := (recSteps b).filter fun k => decide (1 ≤ recResult b k) && decide (recResult b k ≤ 3)

/-- The bytes that the CRC of the final page covers. -/
def recCrc (b : List Byte) : Nat := crc32 (slice b 0 576)

/-- A record with its final page (R399). -/
def recordFinal (s : State) (r : SstRun) (b : List Byte) : List Byte :=
  let ran := recRan b
  let page := leBytes 4 0x5A5AC3C3 ++ leBytes 1 ran.length ++ [0] ++ leBytes 2 (s.get F.SST_POWER.PEAK)
    ++ leBytes 4 ((s.elapsed - r.startAt) / 1000000) ++ leBytes 4 (lifeSeconds s)
    ++ leBytes 8 (Config.sstCompact (ran.map fun k => le b (64 + 32 * k + 24) 4)) ++ leBytes 8 (Config.sstExpected ran)
  let b := patch b 544 page
  patch b 576 (leBytes 4 (recCrc b))

/-- The verdict derived from a record: 1 PASS, 2 REPAIRED, 3 FAIL, 4 INCOMPLETE, 5 VOID (R400). -/
def verdict (b : List Byte) : Nat :=
  let results := (recSteps b).map (recResult b)
  if bit (le b 584 1) 0 then 5
  else if le b 544 4 != 0x5A5AC3C3 || le b 576 4 != recCrc b || le b 548 1 != le b 5 1
      || results.any (fun v => v == 0 || v == 4 || v == 5) then 4
  else if results.contains 3 || le b 560 8 != le b 568 8 then 3
  else if results.contains 2 then 2
  else 1

/-- The newest SHUTDOWN record. -/
def newestShutdown (s : State) : Option (List Byte) := s.sst.records.find? fun b => recKind b == 1

/-- Seconds since a record was written, powered and unpowered (R380). -/
def recordAge (s : State) (b : List Byte) : Nat :=
  let at_ := if le b 544 4 = 0x5A5AC3C3 then le b 556 4 else le b 12 4
  lifeSeconds s - at_ + s.start.unpowered

/-- SST_LAST as it reads (R400, R407). -/
def sstLastWord (s : State) : Nat :=
  match newestShutdown s with
  | none => 0xFF * 8
  | some b => verdict b + 8 * satTo 255 (recordAge s b / 86400) + 2048 * (recRan b).length

/-- The state with the record being written changed. -/
def State.updRecord (s : State) (f : List Byte → List Byte) : State :=
  match s.sst.records with
  | [] => s
  | b :: t => s.setSst { s.sst with records := f b :: t }

/-- A new record: the header is programmed, and of nine records the oldest goes (R399). -/
def newRecord (s : State) (kind : Nat) : State :=
  let serial := s.sst.serial + 1
  let b := recordHeader s kind serial
  s.setSst { s.sst with records := (b :: s.sst.records).take 8, serial := serial }

/-! ### Steps -/

/-- STEP and PARTS of SST_STAT follow the test (R407). -/
def sstStat (s : State) : State :=
  match s.sst.run with
  | none => (s.set F.SST_STAT.STEP 0xF).set F.SST_STAT.PARTS 0
  | some r => (s.set F.SST_STAT.STEP r.step).set F.SST_STAT.PARTS r.parts.length

/-- The Caliper units of which the self-test holds both modulators (R393). -/
def unitsHeld (s : State) : List Nat :=
  [0, 1, 2, 3].filter fun u => s.owner (modRes (2 * u)) == cSelfTest && s.owner (modRes (2 * u + 1)) == cSelfTest

/-- A step begins (R390). -/
def enterStep (s : State) (r : SstRun) (step : Nat) : State :=
  let units := unitsHeld s
  let todo := if step = 8 then units else List.range (sstParts step)
  let worst := if step = 8 && units.length != 4 then 5 else 1
  sstStat (s.setRun { r with step := step, stepAt := s.elapsed, waitAt := s.elapsed, todo := todo, parts := [], ran := 0,
                             faults := 0, soft := 0, fused := 0, worst := worst, detail := none, sig := 0, coverage := 0 })

/-- The entry of the step that ends. -/
def stepEntry (s : State) (r : SstRun) : List Byte :=
  let detail := match r.detail with
    | none => 0
    | some (p, o) => p + 256 * o
  leBytes 1 r.step ++ leBytes 1 r.worst ++ leBytes 2 r.coverage ++ leBytes 4 ((r.stepAt - r.startAt) / 1000000)
    ++ leBytes 4 ((s.elapsed - r.stepAt) / 1000000) ++ leBytes 2 r.faults ++ leBytes 2 r.soft ++ leBytes 2 r.fused
    ++ leBytes 1 r.ran ++ leBytes 1 (sstParts r.step) ++ leBytes 4 detail ++ leBytes 4 r.sig ++ [0, 0, 0, 0]

/-- The repair table after the memory steps: what they found is what is repaired; if one of them did not run to its end, what
was repaired before stays as well (R397). -/
def repairTable (s : State) (r : SstRun) : State :=
  let whole := match s.sst.records with
    | [] => false
    | b :: _ => (recRan b).contains 3 && (recRan b).contains 4
  let old := if whole then [] else s.sst.repairs
  s.setSst { s.sst with repairs := (old ++ r.found).eraseDups }

/-- FUSE ends: the signal die's repairs, and with FUSE_EN the elements repaired at two consecutive shutdown tests, become
permanent (R397). Answers how many. -/
def fuseStep (s : State) (r : SstRun) : State × Nat :=
  let twice := if s.flag F.SST_CFG.FUSE_EN then r.found.filter s.sst.previous.contains else []
  let n := twice.length + r.signalDie.length
  let s := s.setSst { s.sst with repairs := s.sst.repairs.filter fun e => !twice.contains e, previous := r.found }
  (s.count F.SST_REPAIR.FUSED n, n)

/-- A step ends: its entry is programmed, a failure is reported, and the next step begins (R390, R399, R406). -/
def closeStep (s : State) (r : SstRun) : State :=
  let fuse := if r.step = 14 && r.worst ≤ 3 then fuseStep s r else (s, 0)
  let s := fuse.1
  let r := { r with fused := fuse.2 }
  let s := s.updRecord fun b => patch b (64 + 32 * r.step) (stepEntry s r)
  let s := if r.step = 4 then repairTable s r else s
  let s := if r.step = 5 && r.worst == 1 then s.set F.SST_STAT.SECRETS_CLR 1 else s
  let s := if r.worst ≤ 2 then s
    else (s.set F.SST_EVT.STEP_FAIL 1).event 0xD1 true
      ([BitVec.ofNat 8 r.step, BitVec.ofNat 8 r.worst, 0, 0] ++ slice (stepEntry s r) 20 4)
  if r.step = sstLastStep r.kind then sstStat (s.setRun { r with step := 15, todo := [], parts := [] })
  else enterStep s r (r.step + 1)

/-- A step ends, and the one after it as well when it has no partition to run (R393). -/
def endStep (s : State) (r : SstRun) : State :=
  let s := closeStep s r
  match s.sst.run with
  | none => s
  | some q => if q.step ≤ 14 && q.todo.isEmpty then closeStep s q else s

/-! ### Partitions -/

/-- The power measured over the last 10 ms is reported (R391). -/
def sstPower (s : State) (p : Nat) : State :=
  (s.set F.SST_POWER.NOW p).set F.SST_POWER.PEAK (max p (s.get F.SST_POWER.PEAK))

/-- The power rule of R391, in 0.1 W. -/
def powerAdmits (s : State) (p step : Nat) : Bool :=
  decide (p + (if s.flag F.SST_STAT.INTERLOCK then 0 else 140) + 20 + sstIncrement step ≤ 580)

/-- Whether the rules beside power admit a step's next partition: WEDGE_SCAN runs one at a time (R390), and DECK_MEM of the
start checks runs after the wipe (R401). -/
def orderAdmits (s : State) (r : SstRun) : Bool :=
  !(r.step == 13 && !r.parts.isEmpty) && !(r.kind == 2 && r.step == 4 && s.flag F.DCK_STAT.WIPING)

/-- The next partition starts. INTERLOCK engages: every output goes dark (R395). -/
def startPart (s : State) (r : SstRun) : State :=
  match r.todo with
  | [] => s
  | p :: t =>
    let s := sstStat (s.setRun { r with todo := t, parts := r.parts ++ [p], waitAt := s.elapsed })
    if r.step = 7 then applyEnables (resetFrames s) else s

/-- SST_PARTITION_START (R391): the next partition of the step starts if the power measured admits it. -/
def execSstPartitionStart (power : BitVec 10) (s : State) : Host.Outcome State Fault Refusal :=
  .next (match s.sst.run with
  | none => s
  | some r =>
    let s := sstPower s power.toNat
    if powerAdmits s power.toNat r.step && orderAdmits s r then startPart s r else s)

/-- The result of a partition: 3 FAIL, 2 REPAIRED, 1 PASS (R397). -/
def partResult (step : Nat) (x : PartResult) : Nat :=
  let repaired := sstMemory step && !x.repaired.isEmpty
  if x.unrepaired || (x.faults.toNat != 0 && !repaired) then 3 else if repaired then 2 else 1

/-- The first failing partition of a step, with the object concerned. -/
def firstDetail (old : Option (Nat × Nat)) (p : Nat) (x : PartResult) (res : Nat) : Option (Nat × Nat) :=
  if res != 3 then old
  else match old with
    | none => some (p, x.object.toNat)
    | some q => if p < q.1 then some (p, x.object.toNat) else old

/-- Spares used: the smallest share of spare elements that is left is measured (R407, log entry 4). -/
def sparesUsed (s : State) : State :=
  let low := s.freeVal 8 % (s.get F.SST_SPARE.LOW_PCT + 1)
  let s := (s.set F.SST_SPARE.LOW_PCT low).tookFree
  (s.set F.SST_SPARE.MEM (s.freeVal 8)).tookFree

/-- A partition of a test ends with its result. -/
def partDone (s : State) (r : SstRun) (p : Nat) (x : PartResult) : State :=
  let res := partResult r.step x
  let used := if sstMemory r.step then x.repaired else []
  let soft := r.step == 3 || r.step == 4
  let s := if used.isEmpty then s else sparesUsed s
  let lane := r.step == 13 && res == 3
  let s := if lane then s.setSst { s.sst with lanesOut := (s.sst.lanesOut ++ [p]).eraseDups } else s
  let r := { r with parts := r.parts.filter (· != p), ran := r.ran + 1, faults := satTo 0xFFFF (r.faults + x.faults.toNat),
                    soft := satTo 0xFFFF (r.soft + if soft then used.length else 0), worst := max r.worst res,
                    detail := firstDetail r.detail p x res, sig := x.sig.toNat, coverage := x.coverage.toNat,
                    found := if soft then r.found ++ used else r.found,
                    signalDie := if soft then r.signalDie else r.signalDie ++ used }
  let r := if r.parts.isEmpty then { r with waitAt := s.elapsed } else r
  let s := sstStat (s.setRun r)
  if r.parts.isEmpty && r.todo.isEmpty then endStep s r else s

/-- SST_PARTITION_COMPLETE (R390): a partition that runs ends; with the last of its step the step ends. -/
def execSstPartitionComplete (part : Fin 9) (result : PartResult) (s : State) : Host.Outcome State Fault Refusal :=
  .next (match s.sst.run with
  | none => s
  | some r => if r.step != 7 && r.parts.contains part.val then partDone s r part result else s)

/-- SST_POWER_TIMEOUT (R392): 5 s with no partition of the step running and power too high for the next. -/
def execSstPowerTimeout (power : BitVec 10) (s : State) : Host.Outcome State Fault Refusal :=
  .next (match s.sst.run with
  | none => s
  | some r =>
    let s := sstPower s power.toNat
    if r.todo.isEmpty || !r.parts.isEmpty || powerAdmits s power.toNat r.step || decide (s.elapsed < r.waitAt + 5000000000)
    then s else endStep s { r with worst := 4 })

/-- INTERLOCK (R395): the interlock engages, or, 55 ms after it engaged, holds and ends its step. -/
def execInterlock (s : State) : Host.Outcome State Fault Refusal :=
  .next (match s.sst.run with
  | none => s
  | some r =>
    if r.step != 7 then s
    else if r.parts.isEmpty then (if powerAdmits s (s.get F.SST_POWER.NOW) 7 then startPart s r else s)
    else if s.elapsed < r.waitAt + 55000000 then s
    else endStep (s.set F.SST_STAT.INTERLOCK 1) { r with parts := [], ran := 1 })

/-! ### The test begins (R389, R393) -/

/-- The SELFTEST record (R406). -/
def sstRecord (s : State) (kind : Nat) (state : Bool) (verdict done_ dur : Nat) : State :=
  s.event 0xD0 state ([BitVec.ofNat 8 kind, BitVec.ofNat 8 verdict, BitVec.ofNat 8 done_, BitVec.ofNat 8 (sstPlanned kind)]
    ++ leBytes 4 dur)

/-- A test or the start checks begin: the header is programmed, the start is reported and the first step begins (R399, R406). -/
def sstBegin (s : State) (kind : Nat) : State :=
  let s := ((s.set F.SST_STAT.RUNNING 1).set F.SST_STAT.KIND kind).set F.SST_POWER.PEAK 0
  let s := sstRecord (newRecord s kind) kind true 0 0 0
  enterStep s { SstRun.zero with kind := kind, startAt := s.elapsed } (sstFirst kind)

/-- A Caliper unit's sequence table is unloaded, its modulators released (R393, R24). -/
def seqUnload (s : State) (u : Nat) : State :=
  let s := s.each [0, 1] fun s q => releaseOwn s cSequence (modRes (2 * u + q))
  let s := s.setCal u { s.calUnit u with table := [], loopAt := [] }
  let s := dropPart (dropPart s u 0) u 1
  let s := (s.set (F.CAL_Un_STAT.ARR u) 0).set (F.CAL_Un_STAT.NSEQ u) 0
  s.each [0, 1] fun s q => s.set (seqEntryF u q) 0

/-- A table entry with its EN bit, bit 0 of its first byte, cleared. -/
def entryOff (e : List Byte) : List Byte := patch e 0 [BitVec.ofNat 8 (putBit (le e 0 1) 0 false)]

/-- A port is disabled if it is enabled. -/
def portQuiesce (s : State) (p : Nat) : State :=
  let f := if p = 0 then F.PRB_CTL.PA_EN else F.PRB_CTL.PB_EN
  if s.flag f then portDisable (s.set f 0) p else s

/-- The items that wait complete IN_SELFTEST, and captures in progress end ABORTED with PARTIAL (R315). -/
def itemsQuiesce (s : State) : State :=
  let s := s.each (s.hif.items.filter fun it => !it.started && dOpcode it.desc != 0x01) fun s it =>
    finishItem s it (.just stInSelftest)
  pumpAll (s.each (s.hif.items.filter fun it => isCapture it && it.started) abortCapture)

/-- QUIESCE: service functions stop and the Caliper modulators are claimed (R393). -/
def quiesce (s : State) : State :=
  let s := itemsQuiesce s
  let s := portQuiesce (portQuiesce s 0) 1
  let s := staleCheck (s.set F.SCL_CTL.EN 0)
  let s := if s.flag F.CRU_CTL.EN then cruEnable (s.set F.CRU_CTL.EN 0) false else s
  let cfg := (s.read R.DCK_RING_CFG).toNat
  let s := if s.flag F.DCK_RING_CFG.EN then ringCfgWrite s (putBit cfg 0 false) else s
  let s := s.each ((List.range 16).filter fun n => seEn (s.streamEntry n)) fun s n =>
    streamChanged s n (entryOff (s.streamEntry n))
  let s := waitingAll (releaseStreams s)
  let s := s.each ((List.range 8).filter fun k => aeEn (s.arcEntry k)) fun s k => arcSet s k (entryOff (s.arcEntry k))
  let s := s.each [0, 1, 2, 3] seqUnload
  s.each (List.range 8) fun s k => (claimAll s [modRes k] cSelfTest).1

/-- The shutdown self-test begins: its only partition of QUIESCE runs. -/
def shutdownBegin (s : State) : State :=
  let s := s.setSst { s.sst with due := false }
  let s := { s with start := { s.start with unpowered := 0 } }
  let s := quiesce (sstBegin s 1)
  match s.sst.run with
  | none => s
  | some r => startPart s r

/-- Whether a SHUTDOWN write is deferred: an image commit or a save runs (R389). -/
def shutdownWaits (s : State) : Bool := s.wedge.commit.isSome || s.start.saving.isSome

/-- A deferred shutdown begins once nothing holds it back (R389). -/
def shutdownPending (s : State) : State := if s.sst.due && !shutdownWaits s then shutdownBegin s else s

/-- A SHUTDOWN write outside RETIRED (R389, R403): refused while a self-test runs, deferred, or begun. -/
def shutdownWrite (s : State) : State :=
  if s.flag F.SST_STAT.RUNNING then s.wrErr
  else
    let s := (s.set F.SST_STAT.RUNNING 1).set F.SST_STAT.KIND 1
    let s := (s.set F.HIF_STAT.SELFTEST 1).set F.FIO_STAT.SRC 0
    shutdownPending (s.setSst { s.sst with due := true })

/-! ### Voiding and reading records -/

/-- A write of SST_CTL.VOID marks the newest SHUTDOWN record (R405). -/
def sstVoid (s : State) : State :=
  if s.lc = 4 || s.flag F.SST_STAT.RUNNING then s
  else match s.sst.records.findIdx? fun b => recKind b == 1 with
    | none => s
    | some i =>
      let mark (b : List Byte) : List Byte := patch b 584 [1]
      (s.setSst { s.sst with records := s.sst.records.modify i mark }).set F.SST_EVT.VOID 1

/-- SNAPSHOT 0x21 (R399): the result record of an instance, zeros where there is none. -/
def execSnapshotResultRecords (ring : Fin 16) (s : State) : Host.Outcome State Fault Refusal :=
  .next (snapshotRun s ring 0x21 fun s d => s.sst.records.getD (dInst d) (zeroEntry 608))

end Sys2Proof.Machine
end

