-- ==== Sys2Proof/Machine/Reset.lean ====
section
/-! DEFINITION. Resets of the TJ120 and what they preserve, the life-cycle, the start set as it is saved, and the end of the
shutdown self-test in the hold (R374 to R378, R381, R382, R399, R404). -/

namespace Sys2Proof.Machine

/-- The state with the starts' record set. -/
def State.setStart (s : State) (x : StartState) : State := { s with start := x }

/-! ### What a reset preserves (R376) -/

/-- Registers that a reset leaves: the unit's identity and key hash, Landing's partition and wear, and the spares. -/
def keptRegs : List Nat :=
  [R.GEN_SERIAL_LO, R.GEN_SERIAL_HI, R.LND_PART, R.LND_LIFE, R.LND_SPARE, R.LND_BUDGET, R.SST_REPAIR, R.SST_SPARE]
    ++ (List.range 12).map R.WDG_KEY_HASHk

/-- The image store when a commit is cut: each copy is written in turn, and a copy cut while it is written is invalid (R225,
log entry 17). -/
def storeCut (s : State) : List StoreCopy :=
  match s.wedge.commit with
  | none => s.wedge.store
  | some b =>
    let a1 := copyAt s.wedge.store 1
    match Config.freeValue s.freeCount % 4 with
    | 0 => [StoreCopy.zero, a1]
    | 1 => [storeCopy b, a1]
    | 2 => [storeCopy b, StoreCopy.zero]
    | _ => [storeCopy b, storeCopy b]

/-- The state after a reset, before its registers are set: what is non-volatile stays, everything else starts afresh. -/
def resetBase (s : State) : State :=
  { State.reset with
    pending := s.pending, regs := s.regs.filter fun c => keptRegs.contains c.1, elapsed := s.elapsed,
    freeCount := s.freeCount + 1, out := s.out, landing := s.landing.cold, baseline := s.baseline,
    wedge := { WedgeState.zero with store := storeCut s }, mark := { MarkState.zero with store := s.mark.store },
    start := { StartState.zero with signal := s.start.signal, sensing := s.start.sensing, unpowered := s.start.unpowered },
    sst := { SstState.zero with records := s.sst.records, serial := s.sst.serial, repairs := s.sst.repairs,
                                previous := s.sst.previous },
    powerAt := s.elapsed }

/-- The Wedge lanes whose scan failed start OUT (R398). -/
def lanesStart (s : State) (out : List Nat) : State :=
  if out.isEmpty then s else voteNow (s.each out fun s l => s.set (laneF l) 3) false

/-- A reset of the TJ120 for a cause (R375, R376). -/
def resetCore (s : State) (cause : Nat) : State :=
  let ring := s.get F.DCK_PART.RING
  let flume := s.get F.DCK_PART.FLUME
  let epoch := s.get F.HIF_EPOCH.EPOCH
  let lc := s.lc
  let out := s.sst.lanesOut
  let s := ((resetBase s).set F.GEN_LC_STAT.STATE lc).set F.GEN_RESET_CAUSE.CAUSE cause
  let s := s.set F.HIF_EPOCH.EPOCH (epoch + 1)
  let s := partPending (partApply s ring flume)
  let s := baseValid (s.set F.SST_REPAIR.SOFT s.sst.repairs.length)
  lanesStart (s.emit .fieldReset) out

/-- A reset without warning: records that Landing was still programming may be lost (R316, R350, log entry 17). -/
def resetCut (s : State) (cause : Nat) : State := resetCore (lndPowerLoss s) cause

/-! ### Resets (R374 to R377, R404) -/

/-- POWER_GOOD (R374): the start after a time without power; where VMAIN stayed up through the hold, a SHUTDOWN reset
(R375, R377). -/
def execPowerGood (unpowered : Nat) (s : State) : Host.Outcome State Fault Refusal :=
  .next (
    let cause := if s.start.held && unpowered == 0 then 5 else 0
    let s := resetCut s cause
    s.setStart { s.start with unpowered := s.start.unpowered + unpowered })

/-- BROWN_OUT (R374): it ends a hold as well, VMAIN having left its range. -/
def execBrownOut (s : State) : Host.Outcome State Fault Refusal := .next (resetCut s 1)

/-- THERMAL_RESET (R375). -/
def execThermalReset (s : State) : Host.Outcome State Fault Refusal :=
  .next (if s.start.held then s else resetCut s 4)

/-- Every outstanding item completes RESET before a requested reset (R315, R376). -/
def itemsReset (s : State) : State :=
  s.each s.hif.items fun s it =>
    finishItem (dirPartial s it) it { captureOutcome it stReset false with partialFlag := false }

/-- A reset is requested; one already requested stands. -/
def requestReset (s : State) (cause : Nat) (target : Option Nat) : State :=
  if s.start.resetDue.isSome || s.start.held then s
  else
    let s := itemsReset s
    s.setStart { s.start with resetDue := some (cause, target) }

/-- The image store, the marking-table copies and the signal part of the start set are erased on entry to RETIRED (R382). -/
def eraseStores (s : State) : State :=
  let s := s.setWedge { s.wedge with store := [], commit := none }
  let s := { s with mark := { s.mark with store := [] } }
  s.setStart { s.start with signal := none }

/-- What every erasing life-cycle change erases: Landing, the baseline, the sensing part of the start set and the self-test
records (R382). -/
def eraseData (s : State) (first : Option Nat) : State :=
  let s := s.setLanding { LandingState.zero with firstOperational := first }
  let s := { s with baseline := [] }
  let s := s.setStart { s.start with sensing := none }
  s.setSst { s.sst with records := [], repairs := [], previous := [] }

/-- What an erasing life-cycle change erases; the time of the first entry to OPERATIONAL stays (R382). -/
def erase (s : State) (target : Nat) : State :=
  let first := s.landing.firstOperational
  let s := eraseData s (if target = 2 && first.isNone then some s.tai else first)
  if target = 4 then eraseStores s else s

/-- A change of life-cycle state is reported (R382, R387). -/
def lcRecord (s : State) (old target : Nat) : State :=
  ((s.set F.GEN_LC_STAT.STATE target).set F.GEN_EVT.LC 1).event 0xC3 true [BitVec.ofNat 8 old, BitVec.ofNat 8 target]

/-- TJ120_RESET (R376): the reset that was requested; a life-cycle change through it is posted at the start that follows. -/
def execTj120Reset (s : State) : Host.Outcome State Fault Refusal :=
  .next (match s.start.resetDue with
  | none => s
  | some (cause, none) => resetCore s cause
  | some (cause, some target) => lcRecord (resetCore (erase s target) cause) s.lc target)

/-! ### Life-cycle changes (R381) -/

/-- Whether a change is allowed and its condition holds, and whether it goes through a reset: none where refused. -/
def lcChange (s : State) (target : Nat) : Option Bool :=
  let key := (List.range 12).any fun k => s.read (R.WDG_KEY_HASHk k) != 0
  let active := s.get F.WDG_STAT.IMG == 1
  if s.flag F.SST_STAT.RUNNING || s.start.saving.isSome || s.wedge.commit.isSome then none
  else match s.lc, target with
    | 0, 1 => if key then some true else none
    | 1, 2 => if active then some true else none
    | 2, 3 => some false
    | 3, 2 => if active then some false else none
    | 1, 4 | 3, 4 => some true
    | _, _ => none

/-- A change disarms with a result. -/
def lcDisarm (s : State) (result : Nat) : State :=
  ((s.set F.GEN_LC_STAT.ARMED 0).set F.GEN_LC_STAT.TARGET 0).set F.GEN_LC_STAT.RESULT result

/-- The armed change is made or refused. -/
def lcConfirm (s : State) (target : Nat) : State :=
  match lcChange s target with
  | none => lcDisarm s 2
  | some true => requestReset (lcDisarm s 1) 3 (some target)
  | some false => lcRecord (lcDisarm s 1) s.lc target

/-- A write of GEN_LC_REQ (R381). -/
def lcReqWrite (s : State) (v : Nat) : State :=
  let target := bits v 2 0
  let confirm := bits v 15 8
  if 5 ≤ target then s.wrErr
  else if s.flag F.GEN_LC_STAT.ARMED then
    let late := decide (s.start.armedAt + 1000000000 ≤ s.elapsed)
    if confirm = 0x5A && target = s.get F.GEN_LC_STAT.TARGET && !late then lcConfirm s target else lcDisarm s 3
  else if confirm = 0 then
    ((s.set F.GEN_LC_STAT.ARMED 1).set F.GEN_LC_STAT.TARGET target).setStart { s.start with armedAt := s.elapsed }
  else s

/-- LC_ARM_EXPIRY (R381): 1 s without a second write. -/
def execLcArmExpiry (s : State) : Host.Outcome State Fault Refusal :=
  .next (if s.flag F.GEN_LC_STAT.ARMED && decide (s.start.armedAt + 1000000000 ≤ s.elapsed) then lcDisarm s 3 else s)

/-! ### Saving the start set (R378) -/

/-- The registers of the signal part, in the order in which they are restored (R379). -/
def signalRegs : List Nat :=
  ((List.range 8).flatMap fun b =>
    [R.BLZ_Bb_SEGVF0 b, R.BLZ_Bb_SEGVF0 b + 4, R.BLZ_Bb_SEGVF0 b + 8] ++ ((List.range 12).map fun k => R.BLZ_Bb_PINk b k)
      ++ [R.BLZ_Bb_CFG b])
  ++ [R.BLZ_MX_BRIGHT, R.BLZ_MX_CFG] ++ (List.range 4).map R.CAL_Un_CTL
  ++ [R.SKY_TALLY] ++ ((List.range 4).flatMap fun c => [R.SKY_Cc_LEVEL c, R.SKY_Cc_CFG c])
  ++ [R.FIO_TALLY0, R.FIO_TALLY1] ++ ((List.range 16).flatMap fun n => [R.FIO_IOn_DEB n, R.FIO_IOn_PULSE n, R.FIO_IOn_CFG n])

/-- The addresses of a register row. -/
def RegRow.addrs (r : RegRow) : List Nat :=
  (List.range r.count1).flatMap fun i => (List.range r.count2).map fun j => r.base + i * r.stride1 + j * r.stride2

/-- The RW mask of a register. -/
def rwMask (addr : Nat) : Nat :=
  match regRow addr with
  | none => 0
  | some r => r.rw.toNat

/-- The registers of the sensing part: every RW register of the PRB, KRF, SCL, BKG, CRU, FLM and DCK blocks, and the two of
CLK. -/
def sensingRegs : List Nat :=
  ([2, 3, 4, 5, 6, 14, 16].flatMap fun b => ((blockRows b).filter fun r => r.rw != 0).flatMap RegRow.addrs)
    ++ [R.CLK_TB_CFG, R.CLK_KRF_OPP]

/-- Registers with the values of their RW fields. -/
def savedRegs (s : State) (l : List Nat) : List (Nat × Nat) := l.map fun a => (a, (s.read a).toNat &&& rwMask a)

/-- The signal part as it stands. -/
def signalPart (s : State) : SignalPart :=
  ⟨savedRegs s signalRegs, (List.range 4).map fun u => (u, (s.calUnit u).table)⟩

/-- The sensing part as it stands, GEN_CTL.AUTO_START with it. -/
def sensingPart (s : State) : SensingPart :=
  ⟨savedRegs s sensingRegs ++ [(R.GEN_CTL, 8 * s.get F.GEN_CTL.AUTO_START)],
   [(0x01, s.bkg.chanLoaded), (0x02, s.bkg.setLoaded), (0x03, s.bkg.banks), (0x04, s.cru.zoneLoaded),
    (0x05, s.cru.tplLoaded), (0x07, s.comp), (0x20, s.flume.table), (0x21, s.flume.ports), (0x22, s.landing.table)]⟩

/-- A write of GEN_CTL.SAVE (R378, R403). -/
def saveWrite (s : State) : State :=
  if !(s.lc == 2 || s.lc == 3) || s.flag F.HIF_STAT.SELFTEST then s.wrErr
  else s.setStart { s.start with saving := some (signalPart s, sensingPart s) }

/-- The save ends: both parts are stored, or the earlier start set stays whole (R378). A shutdown that waited begins (R389). -/
def saveDone (s : State) (ok : Bool) : State :=
  match s.start.saving with
  | none => s
  | some q =>
    let stored := ok && s.get F.LND_STAT.STATE == 1
    let s := s.setStart { s.start with saving := none }
    let s := if stored then
        (s.setStart { s.start with signal := some q.1, sensing := some q.2 }).set F.GEN_EVT.SAVE_DONE 1
      else s.set F.GEN_EVT.SAVE_FAIL 1
    shutdownPending s

/-- SAVE_DONE (R378). -/
def execSaveDone (ok : Bool) (s : State) : Host.Outcome State Fault Refusal := .next (saveDone s ok)

/-! ### The hold (R377, R399) -/

/-- The unit holds itself in reset, every output off (R377). The reset that HIF_EPOCH counts, and lanes that start OUT, wait for
the return to operation. -/
def hold (s : State) : State :=
  let epoch := s.get F.HIF_EPOCH.EPOCH
  let out := s.sst.lanesOut
  let s := resetCore s (s.get F.GEN_RESET_CAUSE.CAUSE)
  let s := (s.set F.HIF_EPOCH.EPOCH epoch).setSst { s.sst with lanesOut := out }
  s.setStart { s.start with held := true }

/-- A write of GEN_CTL.SHUTDOWN (R389): in RETIRED the test is skipped. -/
def shutdownCtl (s : State) : State :=
  if s.lc = 4 && !s.flag F.SST_STAT.RUNNING then hold s else shutdownWrite s

/-- The final page of the record that is being written, and the end record (R399, R406). -/
def finalPage (s : State) (r : SstRun) : State :=
  let s := s.updRecord (recordFinal s r)
  match s.sst.records with
  | [] => s
  | b :: _ => sstRecord s r.kind false (verdict b) (recRan b).length ((s.elapsed - r.startAt) / 1000000)

/-- SST_FINAL_PAGE (R399): after FUSE the record is completed, and the hold in reset begins. -/
def execSstFinalPage (s : State) : Host.Outcome State Fault Refusal :=
  .next (match s.sst.run with
  | none => s
  | some r =>
    if r.kind = 1 && r.step = 15 then
      let s := finalPage s r
      hold (s.setStart { s.start with unpowered := 0 })
    else s)

end Sys2Proof.Machine
end

