-- ==== Sys2Proof/Machine/Skyline.lean ====
section
/-! DEFINITION. Skyline head chains: exchanges, shares and statuses, what Wedge sees of heads, line faults, edge traces and the
head snapshot (R249 to R271). -/

namespace Sys2Proof.Machine

/-! ### Chains and words -/

/-- The state with a head of a chain set. -/
def State.setHead (s : State) (c h : Nat) (x : SkyHead) : State :=
  s.setChain c { s.chain c with head := sput (fun _ => SkyHead.zero) (s.chain c).head h x }

/-- A chain's STATE: 0 OFF, 1 STARTING, 2 RUNNING, 3 FAULT. -/
def State.chainState (s : State) (c : Nat) : Nat := s.get (F.SKY_Cc_STAT.STATE c)

/-- STATE of a chain and its copy in SKY_STAT (R270). -/
def setChainState (s : State) (c v : Nat) : State :=
  (s.set (F.SKY_Cc_STAT.STATE c) v).set ⟨R.SKY_STAT, 2 * c + 1, 2 * c⟩ v

/-- The exchange period in ns: 10 ms up to 32 heads, 20 ms beyond (R251). -/
def chainPeriod (n : Nat) : Nat := if n ≤ 32 then 10000000 else 20000000

/-- N as configured. -/
def chainHeads (s : State) (c : Nat) : Nat := s.get (F.SKY_Cc_CFG.NHEADS_M1 c) + 1

/-- The CRC-8 register after one bit shift: polynomial 0x07 (R256). -/
def crc8Bit (v : BitVec 8) : BitVec 8 := if v.getLsbD 7 then (v <<< 1) ^^^ 7#8 else v <<< 1

/-- CRC-8 of bytes: initial value 0, no reflection, no final XOR (R256). -/
def crc8 (bs : List Byte) : Nat :=
  (bs.foldl (fun v b => crc8Bit (crc8Bit (crc8Bit (crc8Bit (crc8Bit (crc8Bit (crc8Bit (crc8Bit (v ^^^ b)))))))))
    (0 : BitVec 8)).toNat

/-- A word of 24 bits with its CRC in bits 31:24 (R256, R257). -/
def withCrc (v : Nat) : Nat := v % 2 ^ 24 + 2 ^ 24 * crc8 (leBytes 3 v)

/-- A share word (R256). -/
def shareWord (en level cmd num : Nat) : Nat :=
  withCrc (en % 2 ^ 16 + 2 ^ 16 * (level % 16) + 2 ^ 20 * (cmd % 4) + 2 ^ 22 * (num % 4))

/-- The cells of a word, bit 0 first (R250). -/
def wordCells (w : Nat) : List Bool := (List.range 32).map (bit w)

/-! ### Exchange starts (R251, R256, R259) -/

/-- The exchange of a chain that starts at or before a TAI time (R251). -/
def exchangeNumber (tai c period : Nat) : Nat := (tai - c * 2500000) / period

/-- CMD of a head's share (R256). -/
def shareCmd (s : State) (c h : Nat) : Nat :=
  let x := s.chain c
  if x.fltClr then 2
  else match x.ident with
    | none => 0
    | some q => if q.1 = h && decide (s.elapsed < q.2 + 3000000000) then 1 else 0

/-- A head's share in an exchange: EN = 0 in STARTING (R265). -/
def shareOf (s : State) (c h num : Nat) : Nat :=
  shareWord (if s.chainState c = 1 then 0 else headEnable s c h) (s.get (F.SKY_Cc_LEVEL.LEVEL c)) (shareCmd s c h) num

/-- The enabled time of groups that waited for this chain begins (R263). -/
def enableCarried (s : State) (c : Nat) : State :=
  let gs := (s.wedge.group.filter fun q => q.2.flashOn && q.2.awaiting.contains c).map (·.1)
  s.each gs fun s g =>
    let w := s.wgroup g
    s.setWgroup g { w with awaiting := w.awaiting.filter (· != c), onFrom := s.elapsed }

/-- EXCHANGE_START (R251, R259, R266): the down frame is built from the enables at this instant and sent; `high` says that the
line read high in the 20 µs before, and then nothing is sent. -/
def execExchangeStart (chain : Fin 4) (high : Bool) (s : State) : Host.Outcome State Fault Refusal :=
  .next (
    let c : Nat := chain
    let x := s.chain c
    if s.chainState c = 0 || x.open_ || interlocked s then s
    else
      let n := chainHeads s c
      let period := chainPeriod n
      let num := exchangeNumber s.tai c period
      let shares := (List.range n).map fun h => shareOf s c h num
      let s := s.set (F.SKY_Cc_STAT.PERIOD c) (b2n (decide (32 < n)))
      let s := s.setChain c { x with num := num, open_ := true, startAt := s.elapsed, heads := n, closing := false,
                                     recording := x.trace.isSome, line := if high then some 1 else none, cutAt := none }
      let s := if s.chainState c = 1 then s else enableCarried s c
      if high then s.bump (F.SKY_Cc_ERR2.LINE c)
      else
        let s := s.each ((List.range n).zip shares) fun s e =>
          let h := (s.chain c).headAt e.1
          s.setHead c e.1 { h with prev := h.share, share := e.2 }
        let s := s.setChain c { s.chain c with fltClr := false, sent := (s.chain c).sent + 1 }
        (s.write (R.SKY_Cc_EXCH c) (BitVec.ofNat 32 (satTo (2 ^ 32 - 1) (s.get (F.SKY_Cc_EXCH.EXCH c) + 1)))).emit
          (.downFrame c (shares.flatMap wordCells)))

/-- LINE_SHORT (R266): the line read low 1 µs after a rising edge that the TJ120 drove; the driver is off for the rest of the
exchange. -/
def execLineShort (chain : Fin 4) (s : State) : Host.Outcome State Fault Refusal :=
  .next (
    let c : Nat := chain
    let x := s.chain c
    if !x.open_ || x.line.isSome then s
    else (s.setChain c { x with line := some 0, cutAt := some (s.elapsed - x.startAt) }).bump (F.SKY_Cc_ERR2.LINE c))

/-! ### Edge traces (R269) -/

/-- A trace entry: time in 2.5 ns, whether the edge was received, and the level after it. -/
def traceEntry (t : Nat) (ret lvl : Bool) : Nat := t % 2 ^ 23 + 2 ^ 30 * b2n lvl + 2 ^ 31 * b2n ret

/-- The edges of a down frame in 2.5 ns: an SOF of 8 µs high in 12 µs, then cells of 4 µs, high for 1 µs or 3 µs (R249). -/
def downEdges (cells : List Bool) : List (Nat × Bool) :=
  [(0, true), (3200, false)] ++ ((List.range cells.length).zip cells).flatMap fun e =>
    [(4800 + 1600 * e.1, true), (4800 + 1600 * e.1 + (if e.2 then 1200 else 400), false)]

/-- A return edge put among entries in order of time. -/
def putEdge (q : Nat × Bool) : List (Nat × Bool × Bool) → List (Nat × Bool × Bool)
  | [] => [(q.1, true, q.2)]
  | e :: t => if q.1 < e.1 then (q.1, true, q.2) :: e :: t else e :: putEdge q t

/-- The entries of an exchange, down and return edges by time. -/
def traceEdges (s : State) (c : Nat) (edges : List (Nat × Bool)) : List (Nat × Bool × Bool) :=
  let x := s.chain c
  let cells := (List.range x.heads).flatMap fun h => wordCells (x.headAt h).share
  let down := if x.line = some 1 then [] else downEdges cells
  let down := match x.cutAt with
    | none => down
    | some t => down.filter fun e => decide (e.1 * 5 ≤ t * 2)
  edges.foldl (fun l q => putEdge q l) (down.map fun e => (e.1, false, e.2))

/-- The buffer of a trace is released, unless another chain still traces into it. -/
def traceRelease (s : State) (n : Nat) : State :=
  if [0, 1, 2, 3].any fun d => (s.chain d).trace == some n then s
  else releaseOwn s cSkyline (.buffer ⟨n % 16, Nat.mod_lt _ (by decide)⟩)

/-- TRACE_DONE (R269): at the end of the traced exchange its entries stand in the buffer, which is released. -/
def traceEnd (s : State) (c : Nat) (edges : List (Nat × Bool)) : State :=
  let x := s.chain c
  match x.trace with
  | none => s
  | some n =>
    if !x.recording then s
    else
      let l := traceEdges s c edges
      let bytes := (l.take 16384).flatMap fun e => leBytes 4 (traceEntry e.1 e.2.1 e.2.2)
      let s := (wbWrite s n 0 bytes).setChain c { x with trace := none, recording := false }
      let s := (s.set (F.SKY_Cc_STAT.TRACE_BUSY c) 0).set (F.SKY_Cc_STAT.TRACE_TRUNC c) (b2n (decide (16384 < l.length)))
      traceRelease (s.set F.SKY_EVT.TRACE_DONE 1) n

/-- A write of TRACE = 1 (R269): the buffer is claimed and the next exchange traced. A trace already armed or recording goes
on. -/
def traceArm (s : State) (c : Nat) : State :=
  if s.flag (F.SKY_Cc_STAT.TRACE_BUSY c) then s
  else
    let n := s.get (F.SKY_Cc_CFG.TRACE_WB c)
    let r := claimAll s [.buffer ⟨n % 16, Nat.mod_lt _ (by decide)⟩] cSkyline
    if r.2 then
      ((r.1.setChain c { r.1.chain c with trace := some n, recording := false }).set (F.SKY_Cc_STAT.TRACE_BUSY c) 1).set
        (F.SKY_Cc_STAT.CONFLICT c) 0
    else (r.1.set (F.SKY_Cc_STAT.CONFLICT c) 1).set F.SKY_EVT.CONFLICT 1

/-! ### The end of an exchange (R257, R260, R261, R265 to R267) -/

/-- A CHAIN record (R268). -/
def chainRecord (s : State) (c kind : Nat) (state : Bool) : State :=
  let s := if state then s.set F.SKY_EVT.CHAIN 1 else s
  s.event 0x81 state [BitVec.ofNat 8 c, BitVec.ofNat 8 kind, BitVec.ofNat 8 (s.get (F.SKY_Cc_STAT.SEEN c))]

/-- A chain enters STARTING (R265). -/
def chainStarting (s : State) (c : Nat) : State :=
  let x := s.chain c
  setChainState (s.setChain c { x with sent := 0, head := x.head.map fun e => (e.1, { e.2 with trimmed := false }) }) c 1

/-- A chain is OFF: the line idles low and its outputs are dark at Wedge (R258, R265). -/
def chainOff (s : State) (c : Nat) : State :=
  let s := s.setChain c { s.chain c with closing := false, dark := false }
  setChainState (enableCarried s c) c 0

/-- The chain's STATE after an exchange with or without a line fault: reports at onset and clearing, FAULT while a fault is
present in consecutive exchanges, STARTING after one of more than 100 ms (R265 to R267). -/
def chainFault (s : State) (c : Nat) (fault : Option Nat) : State :=
  let x := s.chain c
  let was := x.fault
  let s := s.setChain c { x with fault := fault, faultAt := if was.isSome then x.faultAt else x.startAt }
  let s := if was = fault then s
    else
      let s := match was with
        | none => s
        | some k => chainRecord s c k false
      match fault with
        | none => s
        | some k => chainRecord s c k true
  let st := s.chainState c
  if st = 2 && was.isSome && fault.isSome then setChainState s c 3
  else if st = 3 && fault.isNone then
    if x.faultAt + 100000000 < s.elapsed then chainStarting s c else setChainState s c 2
  else if st = 1 then
    let x := s.chain c
    if (decide (3 ≤ x.sent) && (List.range x.heads).all fun h => (x.headAt h).trimmed) || decide (10 ≤ x.sent) then
      setChainState s c 2
    else s
  else s

/-- A valid status of a head (R261). -/
def headValid (x : SkyHead) (status : Nat) : SkyHead :=
  let en := bits x.prev 15 0
  let lit := bits status 15 0
  { x with status := status, since := 0, missing := false, run := 0, lit := lit &&& en,
           uncmd := (x.uncmd ||| (lit &&& (0xFFFF ^^^ en))) &&& lit, judged := en, trimmed := x.trimmed || bit status 21 }

/-- A missing status of a head: its outputs are dark, with GRACE = 1 from the second in a row (R261). -/
def headMissing (x : SkyHead) (cause : Nat) (grace : Bool) : SkyHead :=
  let keep := grace && x.run == 0
  { x with since := satTo 0xFFFF (x.since + 1), missing := true, cause := cause, run := x.run + 1,
           lit := if keep then x.lit else 0, judged := if keep then x.judged else 0xFFFF }

/-- One head's result: its status word, or the cause of the missing one; then its tally while the chain is RUNNING
(R261, R267). -/
def headResult (s : State) (c h : Nat) (r : Nat ⊕ Nat) : State :=
  let x := (s.chain c).headAt h
  let x := match r with
    | .inl w => headValid x w
    | .inr k => headMissing x k (s.flag (F.SKY_Cc_CFG.GRACE c))
  if s.chainState c != 2 then s.setHead c h x
  else
    let t := Tally.eval x.tally (s.get F.SKY_TALLY.TALLY) (some x.missing)
    let s := s.setHead c h { x with tally := t.1 }
    faultRecord s 0x80 F.SKY_EVT.HEAD_STATUS
      [BitVec.ofNat 8 c, BitVec.ofNat 8 h, BitVec.ofNat 8 x.cause, BitVec.ofNat 8 (b2n (bit x.status 20))] t.1 t.2

/-- The missing heads of a chain as a 64-bit mask. -/
def missMask (s : State) (c : Nat) : Nat :=
  (List.range 64).foldl (fun m h => putBit m h ((s.chain c).headAt h).missing) 0

/-- An exchange ends: the result of every head, the status registers, the line fault, the trace, and OFF where the chain was
disabled meanwhile. `res` gives each head's result; `brk` the heads before a break. -/
def exchangeEnd (s : State) (c : Nat) (res : Nat → Nat ⊕ Nat) (brk : Option Nat) (edges : List (Nat × Bool)) : State :=
  let x := s.chain c
  let n := x.heads
  let s := (List.range n).foldl (fun s h => headResult s c h (res h)) s
  let s := s.each ((List.range 64).filter (n ≤ ·)) fun s h =>
    s.setHead c h { (s.chain c).headAt h with missing := false, lit := 0 }
  let seen := ((List.range n).filter fun h => (res h).isLeft).length
  let s := (s.set (F.SKY_Cc_STAT.SEEN c) seen).set (F.SKY_Cc_STAT.BREAK c) (b2n brk.isSome)
  let s := match brk with
    | none => s
    | some m => s.set (F.SKY_Cc_STAT.BREAK_AT c) m
  let s := (s.set (F.SKY_Cc_STAT.LINE_SHORT c) (b2n (x.line == some 0))).set (F.SKY_Cc_STAT.LINE_HIGH c) (b2n (x.line == some 1))
  let s := s.write (R.SKY_Cc_MISS_LO c) (BitVec.ofNat 32 (missMask s c))
  let s := chainFault s c (if x.line.isSome then x.line else if brk.isSome then some 2 else none)
  let s := traceEnd s c edges
  let s := s.setChain c { s.chain c with open_ := false, resultAt := s.elapsed, dark := false }
  if x.closing then chainOff s c else s

/-- A status as the cells spell it, bit 0 first; none with a cell error or CRC mismatch (R260). -/
def statusOf (cells : List (Option Bool)) : Option Nat :=
  if cells.all Option.isSome then
    let w := (List.range 32).foldl (fun m i => putBit m i (cells.getD i none == some true)) 0
    if withCrc w = w then some w else none
  else none

/-- The result of head h of a return frame with M statuses, head 0's the last (R260). -/
def frameResult (cells : List (Option Bool)) (m num h : Nat) : Nat ⊕ Nat :=
  if m ≤ h then .inr 2
  else match statusOf ((cells.drop (32 * (m - 1 - h))).take 32) with
    | none => .inr 3
    | some w => if bit w 16 && bits w 18 17 == (num + 3) % 4 then .inl w else .inr 4

/-- When an exchange's return frame is late: 500 µs before the period's end (R255). -/
def returnDeadline (x : SkyChain) : Nat := x.startAt + chainPeriod x.heads - 500000

/-- RETURN_FRAME_END (R260): a return frame has ended in time, with its cells after the SOF; a cell error gives none. `edges`
are the return edges, for a trace, as time since the start in 2.5 ns and level. -/
def execReturnFrameEnd (chain : Fin 4) (cells : List (Option Bool)) (edges : List (Nat × Bool)) (s : State) :
    Host.Outcome State Fault Refusal :=
  .next (
    let c : Nat := chain
    let x := s.chain c
    if !x.open_ || x.line.isSome || decide (returnDeadline x < s.elapsed) then s
    else
      let last := (roundOpen ((s.elapsed - x.startAt : Nat)) 1000).toNat
      let s := (s.set (F.SKY_Cc_RT.LAST c) (satTo 0xFFFF last)).set (F.SKY_Cc_RT.MAX c)
        (max (s.get (F.SKY_Cc_RT.MAX c)) (satTo 0xFFFF last))
      let m := cells.length / 32
      if cells.length % 32 ≠ 0 || x.heads < m then
        exchangeEnd (s.bump (F.SKY_Cc_ERR.FRAMING c)) c (fun _ => .inr 1) none edges
      else
        let res := frameResult cells m x.num
        let s := s.count (F.SKY_Cc_ERR.CRC c) ((List.range m).filter fun h => res h == .inr 3).length
        let brk := match statusOf (cells.take 32) with
          | none => none
          | some w => if decide (m < x.heads) && bit w 19 then some m else none
        exchangeEnd s c res brk edges)

/-- RETURN_FRAME_DEADLINE (R255): 500 µs before the end of the exchange no return frame has ended; every head is missing. An
exchange with LINE_SHORT or LINE_HIGH ends here too, and counts no late frame. -/
def execReturnFrameDeadline (chain : Fin 4) (edges : List (Nat × Bool)) (s : State) : Host.Outcome State Fault Refusal :=
  .next (
    let c : Nat := chain
    let x := s.chain c
    if !x.open_ || decide (s.elapsed < returnDeadline x) then s
    else
      let s := if x.line.isSome then s else s.bump (F.SKY_Cc_ERR2.LATE c)
      exchangeEnd s c (fun _ => .inr 0) none edges)

/-- CHAIN_RESULT_TIMEOUT (R262): no result for twice the exchange period and 5 ms; every output of the chain is dark at Wedge until
results resume. -/
def execChainResultTimeout (chain : Fin 4) (s : State) : Host.Outcome State Fault Refusal :=
  .next (
    let c : Nat := chain
    let x := s.chain c
    if s.chainState c = 0 || decide (s.elapsed < x.resultAt + 2 * chainPeriod (chainHeads s c) + 5000000) then s
    else s.setChain c { x with dark := true })

/-! ### Register writes (R256, R265, R270) -/

/-- A write of SKY_Cc_CFG, its value free of reserved bits (R265). -/
def skyCfgWrite (s : State) (c v : Nat) : State :=
  let old := (s.read (R.SKY_Cc_CFG c)).toNat
  if bit old 0 && bit v 0 && bits old 7 1 != bits v 7 1 then s.wrErr
  else
    let s := s.write (R.SKY_Cc_CFG c) (BitVec.ofNat 32 v)
    let x := s.chain c
    if bit v 0 && !bit old 0 then
      let s := s.set (F.SKY_Cc_STAT.PERIOD c) (b2n (decide (32 < chainHeads s c)))
      chainStarting (s.setChain c { x with closing := false, resultAt := s.elapsed, dark := false }) c
    else if !bit v 0 && bit old 0 then
      if x.open_ then s.setChain c { x with closing := true } else chainOff s c
    else s

/-- A write of IDENT = 1 with its head (R256). -/
def identWrite (s : State) (c h : Nat) : State := s.setChain c { s.chain c with ident := some (h, s.elapsed) }

/-- A write of FLT_CLR = 1 (R256). -/
def fltClrWrite (s : State) (c : Nat) : State := s.setChain c { s.chain c with fltClr := true }

/-- A write of SKY_Cc_CTL. -/
def skyCtlWrite (s : State) (c v : Nat) : State :=
  let s := if bit v 1 then fltClrWrite s c else s
  let s := if bit v 2 then identWrite s c (bits v 8 3) else s
  if bit v 0 then traceArm s c else s

/-- IDENT_EXPIRY (R256): 3 s after the write. -/
def execIdentExpiry (chain : Fin 4) (s : State) : Host.Outcome State Fault Refusal :=
  .next (
    let x := s.chain chain
    match x.ident with
    | none => s
    | some q => if q.2 + 3000000000 ≤ s.elapsed then s.setChain chain { x with ident := none } else s)

/-- A head with its snapshot counts at zero (R270). -/
def SkyHead.cleared (x : SkyHead) : SkyHead := { x with tally := x.tally.clearCounts, since := 0 }

/-- The counts that SKY_CTL.CNT_CLR clears, the snapshot counts among them (R270). -/
def skyCntClr (s : State) : State :=
  let s := s.each [0, 1, 2, 3] fun s c =>
    s.clearAll [F.SKY_Cc_EXCH.EXCH c, F.SKY_Cc_ERR.CRC c, F.SKY_Cc_ERR.FRAMING c, F.SKY_Cc_ERR2.LATE c, F.SKY_Cc_ERR2.LINE c,
      F.SKY_Cc_RT.MAX c]
  s.each [0, 1, 2, 3] fun s c => s.setChain c { s.chain c with head := (s.chain c).head.map fun e => (e.1, e.2.cleared) }

/-! ### The head snapshot (R271) -/

/-- A head's entry. SHARE is of the last exchange that ended. -/
def headEntry (x : SkyChain) (h : Nat) : List Byte :=
  let y := x.headAt h
  leBytes 4 y.status ++ leBytes 4 (if x.open_ && x.line != some 1 then y.prev else y.share) ++ leBytes 2 y.tally.transient
    ++ leBytes 2 y.since ++ [BitVec.ofNat 8 (b2n y.missing + 2 * b2n y.tally.lasting + 4 * b2n (y.uncmd != 0)), 0, 0, 0]

/-- SNAPSHOT_HEADS (R271). -/
def execSnapshotHeads (ring : Fin 16) (s : State) : Host.Outcome State Fault Refusal :=
  .next (snapshotRun s ring 0x09 fun s d =>
    let n := if dCount d = 0 then 64 - dFirst d else dCount d
    (List.range n).flatMap fun i => headEntry (s.chain (dInst d)) (dFirst d + i))

end Sys2Proof.Machine
end

