-- ==== Sys2Proof/Machine/Timebase.lean ====
section
/-! DEFINITION. The timebase: its count, the disciplines of PPS and PTP, steps, slews and states (R11, R383 to R386). -/

namespace Sys2Proof.Machine

/-- The state with the discipline's record set. -/
def State.setTb (s : State) (t : TimebaseState) : State := { s with tb := t }

/-- One nanosecond passes: the timebase counts it with the frequency correction, and the model's clock without (R383, log
entry 1). -/
def tick (s : State) : State :=
  let n := (1000000000 + sgn 32 (s.get F.CLK_TB_FREQ.PPB) + s.tb.frac).toNat
  if s.start.held then { s with elapsed := s.elapsed + 1 }
  else { s with now := s.now + BitVec.ofNat 64 (n / 1000000000), elapsed := s.elapsed + 1,
                tb := { s.tb with frac := n % 1000000000 } }

/-- STATE of the timebase: 0 FREE, 1 ACQUIRING, 2 LOCKED, 3 HOLDOVER; entering and leaving LOCKED is reported (R387). -/
def tbTo (s : State) (st : Nat) : State :=
  let old := s.get F.CLK_TB_STAT.STATE
  if old = st then s
  else
    let s := (s.set F.CLK_TB_STAT.STATE st).set F.CLK_EVT.TB_STATE 1
    if st = 2 || old = 2 then s.event 0xC1 (st == 2) [BitVec.ofNat 8 st] else s

/-- The rate correction takes a value within ±1,000 ppm; the loop that finds it is not specified (R385, log entry 4). -/
def newRate (s : State) : State :=
  s.tookFree.set F.CLK_TB_FREQ.PPB (enc 32 ((s.freeVal 32 % 2000001 : Nat) - 1000000))

/-- An offset of the timebase from the reference is measured and corrected (R385): a step forward, or a slew. -/
def discipline (s : State) (ofs : Int) : State :=
  let s := s.set F.CLK_TB_OFS.OFS (enc 32 (clampS 32 ofs))
  let s := if ofs < -1000000 && s.flag F.CLK_TB_CFG.STEP_EN then
      let step := ofs.natAbs
      let s := { s with now := s.now + BitVec.ofNat 64 step }
      (s.set F.CLK_EVT.TB_STEP 1).event 0xC1 true
        ([BitVec.ofNat 8 (s.get F.CLK_TB_STAT.STATE)] ++ List.replicate 7 0 ++ leBytes 8 step)
    else newRate s
  let run := if ofs.natAbs ≤ 1000 then s.tb.run + 1 else 0
  let s := s.setTb { s.tb with run := run }
  if 16 ≤ run then tbTo s 2 else if s.get F.CLK_TB_STAT.STATE = 2 then s else tbTo s 1

/-- PPSIN_EDGE (R384, R385): the start of the TAI second in CLK_TB_SEC; before that has been written, edges give frequency only. -/
def execPpsinEdge (s : State) : Host.Outcome State Fault Refusal :=
  .next (
    if s.get F.CLK_TB_CFG.SRC != 1 then s
    else
      let s := s.setTb { s.tb with refAt := s.elapsed }
      if !s.flag F.CLK_TB_STAT.LABELLED then tbTo (newRate s) 1
      else
        let sec := s.get F.CLK_TB_SEC.SEC
        discipline (s.set F.CLK_TB_SEC.SEC (sec + 1)) ((s.tai : Int) - ((sec * 1000000000 : Nat) : Int)))

/-- A Sync of the accepted master is complete: with a known path delay it is an offset measurement. -/
def syncDone (s : State) (t1 t2 : Nat) : State :=
  let diff : Int := (t2 : Int) - t1
  let s := s.setTb { s.tb with diff := some diff, await_ := none }
  match s.tb.delay with
  | none => s
  | some d => discipline s (diff - d)

/-- PTP_MESSAGE (R386): a message in the configured domain, port and IP version. Which master the best master clock algorithm
selects comes with its Announce. -/
def execPtpMessage (port : EthPort) (v6 : Bool) (ptpDomain : BitVec 8) (msg : PtpMessage) (s : State) :
    Host.Outcome State Fault Refusal :=
  .next (
    if s.get F.CLK_TB_CFG.SRC != 2 || s.get F.CLK_TB_CFG.PTP_PORT != port.num || s.flag F.CLK_TB_CFG.PTP_IPV6 != v6
        || s.get F.CLK_TB_CFG.DOMAIN != ptpDomain.toNat then s
    else
      let t := s.tb
      match msg with
      | .announce master ptp best =>
        if !best || (ptp && t.master == some master.toNat) then s
        else
          let s := s.setTb { t with master := if ptp then some master.toNat else none, delay := none, diff := none,
                                    await_ := none, req := none, run := 0 }
          if ptp then s else tbTo s 1
      | .sync master seq t1 t2 =>
        if t.master != some master.toNat then s
        else
          let s := s.setTb { t with refAt := s.elapsed }
          match t1 with
          | some t1 => syncDone s t1.toNat t2.toNat
          | none => s.setTb { s.tb with await_ := some (seq.toNat, t2.toNat) }
      | .followUp master seq t1 =>
        match t.await_ with
        | none => s
        | some q => if t.master == some master.toNat && q.1 == seq.toNat then syncDone s t1.toNat q.2 else s
      | .delayResp master seq t4 =>
        match t.req, t.diff with
        | some q, some d =>
          if t.master == some master.toNat && q.1 == seq.toNat then
            s.setTb { t with req := none, delay := some (nearestOpen (d + ((t4.toNat : Int) - q.2)) 2) }
          else s
        | _, _ => s)

/-- DELAY_REQ_SEND (R386): one Delay_Req a second, its time t3 taken as it is sent. -/
def execDelayReqSend (s : State) : Host.Outcome State Fault Refusal :=
  .next (
    let t := s.tb
    if s.get F.CLK_TB_CFG.SRC != 2 || t.master.isNone || decide (s.elapsed < t.reqAt + 1000000000) then s
    else
      let port : EthPort := if s.flag F.CLK_TB_CFG.PTP_PORT then .fp1 else .fp0
      let s := s.setTb { t with reqSeq := (t.reqSeq + 1) % 2 ^ 16, req := some (t.reqSeq, s.tai), reqAt := s.elapsed }
      s.emit (.delayReq port (s.flag F.CLK_TB_CFG.PTP_IPV6) (s.get F.CLK_TB_CFG.DOMAIN) t.reqSeq))

/-- TIMEBASE_HOLDOVER (R385): no PPSIN edge for 2 s, or no Sync for 4 s. -/
def execTimebaseHoldover (s : State) : Host.Outcome State Fault Refusal :=
  .next (
    let src := s.get F.CLK_TB_CFG.SRC
    let limit := if src = 1 then 2000000000 else 4000000000
    if src = 0 || decide (s.elapsed < s.tb.refAt + limit) then s
    else tbTo (s.setTb { s.tb with run := 0 }) 3)

/-- An accepted write of CLK_TB_CFG: another source starts the discipline afresh, and FREE has none (R384). -/
def tbCfgWrite (s : State) (v : Nat) : State :=
  let old := s.get F.CLK_TB_CFG.SRC
  let s := s.write R.CLK_TB_CFG (BitVec.ofNat 32 v)
  let src := bits v 1 0
  let s := if src = old then s
    else
      let s := s.setTb { TimebaseState.zero with frac := s.tb.frac, reqSeq := s.tb.reqSeq, refAt := s.elapsed }
      if src = 0 then tbTo (s.set F.CLK_TB_FREQ.PPB 0) 0 else tbTo s 1
  trimUpdate s

end Sys2Proof.Machine
end

