-- ==== Sys2Proof/Machine/Registers.lean ====
section
/-! DEFINITION. BAR0 accesses: what a write of each register does, what a read answers, and the commands that are such accesses
(R4 to R8, R19, R158, R292, R293, R372, R403). -/

namespace Sys2Proof.Machine

/-! ### Writes of one register -/

/-- The bits of a register that a write can change or act on. -/
def writableMask (r : RegRow) : Nat := (r.rw ||| r.w1c ||| r.wo ||| r.rwl).toNat

/-- A write's plain effect: RW and RWL fields take the value, W1C bits written 1 clear, everything else stays (R4, R5). -/
def storeReg (s : State) (addr v : Nat) : State :=
  match regRow addr with
  | none => s
  | some r =>
    let w := BitVec.ofNat 32 v
    let old := s.read addr
    let set_ := r.rw ||| r.rwl
    s.write addr ((old &&& ~~~(set_ ||| r.w1c)) ||| (w &&& set_) ||| (old &&& r.w1c &&& ~~~w))

/-- The instance of a register family that stands at an address. -/
def instanceAt (f : Nat → Nat) (n addr : Nat) : Option Nat := (List.range n).find? fun i => f i == addr

/-- A write of an ownership register (R19); a claim and a release together are a reserved encoding. -/
def ownWrite (s : State) (r : Resource) (v : Nat) : State :=
  if bit v 8 && bit v 9 then s.wrErr else ownAction s r (bit v 8) (bit v 9) (bit v 24)

/-- A write of a GEN register (R376, R378, R381, R388). -/
def genWrite (s : State) (addr v : Nat) : State :=
  if addr = R.GEN_LC_REQ then lcReqWrite s v
  else if addr = R.GEN_CTL then
    let s := storeReg s addr v
    let s := if bit v 2 then saveWrite s else s
    let s := if bit v 1 then shutdownCtl s else s
    if bit v 0 then requestReset s 2 none else s
  else storeReg s addr v

/-- A write of a CLK register (R372, R373, R384, R388). -/
def clkWrite (s : State) (addr v : Nat) : State :=
  if addr = R.CLK_CTL then (if bit v 0 then clkCntClr s else s)
  else if addr = R.CLK_GATE then gateWrite s v
  else if addr = R.CLK_KRF_OPP then oppWrite s v
  else if addr = R.CLK_TB_CFG then (if bits v 1 0 = 3 then s.wrErr else tbCfgWrite s v)
  else if addr = R.CLK_TB_SEC then (storeReg s addr v).set F.CLK_TB_STAT.LABELLED 1
  else storeReg s addr v

/-- An enable bit of PRB_CTL takes its new value (R45). -/
def portSwitch (s : State) (p : Nat) (was on : Bool) : State :=
  if on && !was then portEnable s p else if was && !on then portDisable s p else s

/-- A write of PRB_CTL (R37, R45, R54, R59). -/
def prbCtlWrite (s : State) (v : Nat) : State :=
  let a := s.flag F.PRB_CTL.PA_EN
  let b := s.flag F.PRB_CTL.PB_EN
  if bit v 2 != s.loopMode && !(s.portState 0 == psOff && s.portState 1 == psOff) then s.wrErr
  else
    let s := storeReg s R.PRB_CTL v
    let s := portSwitch (portSwitch s 0 a (bit v 0)) 1 b (bit v 1)
    let s := if bit v 4 then returnTrigger s else s
    if bit v 5 then handoverTest s else s

/-- A write of PRB_Px_CUT_CFG (R53). -/
def cutCfgWrite (s : State) (p v : Nat) : State :=
  if bits v 26 17 = 0 then s.wrErr
  else
    let s := storeReg s (R.PRB_Px_CUT_CFG p) v
    if bit v 27 then refCapture s p else s

/-- A write of PRB_Px_CUT_TALLY: the instance starts afresh (R28). -/
def cutTallyWrite (s : State) (p v : Nat) : State :=
  if !tallyOk v then s.wrErr
  else
    let s := storeReg s (R.PRB_Px_CUT_TALLY p) v
    (s.setProbe p { s.probePort p with cut := (s.probePort p).cut.restart }).set (F.PRB_Px_CUT_STAT.LASTING p) 0

/-- A write of PRB_Px_POWER (R48, R50); WAIT_RESUME follows APR_MANUAL while the port is in APR. -/
def powerWrite (s : State) (p v : Nat) : State :=
  if 130 < bits v 7 0 then s.wrErr
  else
    let s := storeReg s (R.PRB_Px_POWER p) v
    let s := if s.portState p = psApr then
        s.setFlag (F.PRB_Px_APR_STAT.WAIT_RESUME p) (bit v 8 && !(s.probePort p).resumed)
      else s
    if bit v 9 then aprResume s p else s

/-- A write of a PRB register. -/
def prbWrite (s : State) (addr v : Nat) : State :=
  let at_ (f : Nat → Nat) := instanceAt f 2 addr
  if addr = R.PRB_CTL then prbCtlWrite s v
  else if addr = R.PRB_LASER_CFG then (if bits v 7 0 = 0 then s.wrErr else storeReg s addr v)
  else if addr = R.PRB_LOOP_CFG then (if 10 < bits v 24 21 then s.wrErr else storeReg s addr v)
  else match at_ R.PRB_Px_CFG, at_ R.PRB_Px_POWER, at_ R.PRB_Px_GIC, at_ R.PRB_Px_CUT_CFG, at_ R.PRB_Px_CUT_TALLY with
    | some p, _, _, _, _ => if s.portState p = psOff then storeReg s addr v else s.wrErr
    | _, some p, _, _, _ => powerWrite s p v
    | _, _, some _, _, _ => if 0x4000 ≤ bits v 15 0 ∧ bits v 15 0 ≤ 0xBFFF then storeReg s addr v else s.wrErr
    | _, _, _, some p, _ => cutCfgWrite s p v
    | _, _, _, _, some p => cutTallyWrite s p v
    | _, _, _, _, _ => storeReg s addr v

/-- A write of a KRF register (R69, R70, R85). -/
def krfWrite (s : State) (addr v : Nat) : State :=
  if addr = R.KRF_CTL then
    if 2 ≤ bits v 1 0 then s.wrErr
    else
      let s := storeReg s addr v
      if bit v 2 then krfCntClr s else s
  else match instanceAt R.KRF_Px_CFG 2 addr with
    | some _ =>
      let gauge := bits v 6 0
      let shift := bits v 19 16
      if 2 ≤ gauge ∧ gauge ≤ 64 ∧ 1 ≤ shift ∧ shift ≤ 12 then storeReg s addr v else s.wrErr
    | none => storeReg s addr v

/-- A write of SCL_CTL (R86, R94, R96, R101, R103). -/
def sclCtlWrite (s : State) (v : Nat) : State :=
  let was := s.flag F.SCL_CTL.EN
  let s := storeReg s R.SCL_CTL v
  let s := if bit v 0 == was then s else staleCheck s
  let s := if bit v 1 then baseCapture s else s
  if bit v 2 then sclCntClr s else s

/-- A write of an SCL register. -/
def sclWrite (s : State) (addr v : Nat) : State :=
  if addr = R.SCL_CTL then sclCtlWrite s v
  else if addr = R.SCL_CFG then (if 6 ≤ bits v 7 4 ∧ bits v 7 4 ≤ 14 then storeReg s addr v else s.wrErr)
  else if addr = R.SCL_BASE_TEMP then
    (if -4000 ≤ sgn 16 v ∧ sgn 16 v ≤ 30000 then storeReg s addr v else s.wrErr)
  else if addr = R.SCL_COMP_CFG then (if 100 ≤ bits v 9 0 ∧ bits v 9 0 ≤ 1000 then storeReg s addr v else s.wrErr)
  else storeReg s addr v

/-- A write of a BKG register (R118, R120, R124). -/
def bkgWrite (s : State) (addr v : Nat) : State :=
  if addr = R.BKG_CTL then (if bit v 0 then bkgCntClr s else s)
  else match instanceAt R.BKG_FPn_CFG 16 addr, instanceAt R.BKG_FPn_SWAP 16 addr with
    | some k, _ => if s.bkg.setLoaded.any fun e => stEn e.2 && stProfile e.2 == k then s.wrErr else storeReg s addr v
    | _, some k => fadeRequest s k (bits v 0 0) (bits v 31 16 + 1)
    | _, _ => storeReg s addr v

/-- A write of CRU_CTL (R153, R154). -/
def cruCtlWrite (s : State) (v : Nat) : State :=
  let was := s.flag F.CRU_CTL.EN
  let s := storeReg s R.CRU_CTL v
  let s := if bit v 0 == was then s else cruEnable s (bit v 0)
  if bit v 3 then cruCntClr s else s

/-- A write of a CRU register. -/
def cruWrite (s : State) (addr v : Nat) : State :=
  if addr = R.CRU_CTL then cruCtlWrite s v
  else if addr = R.CRU_TRK_CFG then (if bits v 27 16 = 0 then s.wrErr else storeReg s addr v)
  else if addr = R.CRU_TRK_CONF then (if bits v 7 0 = 0 ∨ bits v 23 16 = 0 then s.wrErr else storeReg s addr v)
  else storeReg s addr v

/-- A write of BLZ_Bb_PINk (R168). -/
def pinWrite (s : State) (n v : Nat) : State :=
  let b := n / 12
  let iset := bits v 18 12
  let ok := if s.bankMode b = 2 then simpleOk (isetsWith s b (n % 12) iset) else decide (iset ≤ 70)
  if ok then storeReg s (R.BLZ_Bb_PINk b (n % 12)) v else s.wrErr

/-- A write of BLZ_Bb_CTL (R166, R167). -/
def bankCtlWrite (s : State) (b v : Nat) : State :=
  let s := if bit v 1 then openClr s b else s
  if bit v 0 then testStart s b else s

/-- The four bytes of a SEGVF register are at most 12.0 V (R163). -/
def segvfOk (v : Nat) : Bool := (List.range 4).all fun j => decide (bits v (8 * j + 7) (8 * j) ≤ 120)

/-- A write of a BLZ register. -/
def blzWrite (s : State) (addr v : Nat) : State :=
  if addr = R.BLZ_CTL then (if bit v 0 then blzCntClr s else s)
  else if addr = R.BLZ_MX_CFG then matrixCfgWrite s v
  else if addr = R.BLZ_MX_CTL then (if bit v 0 then swapWrite s else s)
  else match instanceAt R.BLZ_Bb_CFG 8 addr, instanceAt R.BLZ_Bb_CTL 8 addr,
      instanceAt (fun n => R.BLZ_Bb_PINk (n / 12) (n % 12)) 96 addr with
    | some b, _, _ => bankCfgWrite s b v
    | _, some b, _ => bankCtlWrite s b v
    | _, _, some n => pinWrite s n v
    | _, _, _ =>
      let vf := (List.range 8).any fun b => addr == R.BLZ_Bb_SEGVF0 b || addr == R.BLZ_Bb_SEGVF1 b || addr == R.BLZ_Bb_SEGVF2 b
      if vf && !segvfOk v then s.wrErr else storeReg s addr v

/-- A write of CAL_Un_CTL (R197, R208): the reference stays on while a pin of the unit is claimed. -/
def calCtlWrite (s : State) (u v : Nat) : State :=
  if !bit v 0 && unitClaimed s u then s.wrErr
  else
    let s := refSwitch s u (bit v 0)
    if bit v 1 then accClearAll s u else s

/-- A write of a CAL register. -/
def calWrite (s : State) (addr v : Nat) : State :=
  if addr = R.CAL_CTL then (if bit v 0 then calCntClr s else s)
  else match instanceAt R.CAL_Un_CTL 4 addr, instanceAt R.CAL_Un_URG_CFG 4 addr, instanceAt R.CAL_Un_URG 4 addr with
    | some u, _, _ => calCtlWrite s u v
    | _, some _, _ => if bits v 15 13 = 7 then s.wrErr else storeReg s addr v
    | _, _, some u => calUrgWrite s u v
    | _, _, _ => storeReg s addr v

/-- A write of a WDG register (R217, R236, R247). -/
def wdgWrite (s : State) (addr v : Nat) : State :=
  if addr = R.WDG_CTL then
    let s := storeReg s addr v
    if bit v 0 then wdgCntClr s else s
  else if addr = R.WDG_UNBLOCK then wdgUnblock s v
  else storeReg s addr v

/-- A write of MRK_CFG: a new lifetime applies at once to every bit already set; a bit that has outlived it expires at the
next pass (R242). -/
def mrkCfgWrite (s : State) (v : Nat) : State :=
  let was := s.get F.MRK_CFG.HREQ_TTL
  let s := storeReg s R.MRK_CFG v
  if s.get F.MRK_CFG.HREQ_TTL = was then s else s.setMark { s.mark with ttlAt := s.elapsed }

/-- A write of an MRK register (R241, R242, R248). -/
def mrkWrite (s : State) (addr v : Nat) : State :=
  if addr = R.MRK_CTL then
    let s := storeReg s addr v
    if bit v 0 then mrkCntClr s else s
  else if addr = R.MRK_CFG then mrkCfgWrite s v
  else if addr = R.MRK_HREQ_SET then hreqSet s v
  else if addr = R.MRK_HREQ_CLR then hreqClr s v
  else if addr = R.MRK_LATCH_CLR then latchClr s v
  else storeReg s addr v

/-- A write of SKY_TALLY: every head's instance starts afresh (R28, R267). -/
def skyTallyWrite (s : State) (v : Nat) : State :=
  if !tallyOk v then s.wrErr
  else
    let s := storeReg s R.SKY_TALLY v
    let fresh (e : Nat × SkyHead) : Nat × SkyHead := (e.1, { e.2 with tally := e.2.tally.restart })
    s.each [0, 1, 2, 3] fun s c => s.setChain c { s.chain c with head := (s.chain c).head.map fresh }

/-- A write of a SKY register (R256, R265, R269, R270). -/
def skyWrite (s : State) (addr v : Nat) : State :=
  if addr = R.SKY_CTL then (if bit v 0 then skyCntClr s else s)
  else if addr = R.SKY_TALLY then skyTallyWrite s v
  else match instanceAt R.SKY_Cc_CFG 4 addr, instanceAt R.SKY_Cc_CTL 4 addr with
    | some c, _ => skyCfgWrite s c v
    | _, some c => skyCtlWrite s c v
    | _, _ => storeReg s addr v

/-- A write of an FIO_TALLY register: the instances of its two words start afresh (R28, R281). -/
def fioTallyWrite (s : State) (addr first v : Nat) : State :=
  if !(tallyOk (bits v 15 0) && tallyOk (bits v 31 16)) then s.wrErr
  else
    (storeReg s addr v).each fioChannels fun s n =>
      s.each [first, first + 1] fun s k =>
        let x := s.fioChan n
        let t := (sget (fun _ => Tally.zero) x.tally k).restart
        (s.setFio n { x with tally := sput (fun _ => Tally.zero) x.tally k t }).setFlag ⟨R.FIO_IOn_STAT n, 6 + k, 6 + k⟩ false

/-- A write of an FIO register (R273, R275, R278, R285, R289). -/
def fioWrite (s : State) (addr v : Nat) : State :=
  if addr = R.FIO_CTL then (if bit v 0 then fioCntClr s else s)
  else if addr = R.FIO_OUT then outWrite s v
  else if addr = R.FIO_OUT_SET then outSet s v
  else if addr = R.FIO_OUT_CLR then outClr s v
  else if addr = R.FIO_SAFE_CLR then safeClr s v
  else if addr = R.FIO_TALLY0 then fioTallyWrite s addr 0 v
  else if addr = R.FIO_TALLY1 then fioTallyWrite s addr 2 v
  else match instanceAt R.FIO_IOn_CFG 16 addr, instanceAt R.FIO_IOn_DEB 16 addr, instanceAt R.FIO_IOn_PULSE 16 addr with
    | some n, _, _ => fieldCfgWrite s n v
    | _, some _, _ => if bits v 15 0 = 0 then s.wrErr else storeReg s addr v
    | _, _, some _ => if bits v 15 0 = 0 ∨ bits v 31 16 = 0 then s.wrErr else storeReg s addr v
    | _, _, _ => storeReg s addr v

/-- A write of a ring's CFG register (R296, R315, R317). -/
def ringCfgReg (s : State) (k : RingKind) (n v : Nat) : State :=
  let addr := ringBase k n + 0x10
  let was := s.flag (ringEn k n)
  let old := (s.read addr).toNat &&& rwMask addr
  let size := bits v 5 1
  if size < 6 || 16 < size || (k == .cap && decide (4 < bits v 13 11)) || (was && decide (v / 2 ≠ old / 2)) then s.wrErr
  else
    let s := storeReg s addr v
    if bit v 0 && !was then ringStart s k n else if was && !bit v 0 then ringStop s k n else s

/-- The kind and number of the ring whose registers stand at an address, with the offset among them. -/
def ringAt (addr : Nat) : Option (RingKind × Nat × Nat) :=
  [RingKind.cmd, .cpl, .evr, .cap].findSome? fun k =>
    (List.range 16).findSome? fun n =>
      if ringBase k n ≤ addr ∧ addr < ringBase k n + 0x40 then some (k, n, addr - ringBase k n) else none

/-- A write of an HIF register (R313 to R317). -/
def hifWrite (s : State) (addr v : Nat) : State :=
  if addr = R.HIF_CTL then
    let s := storeReg s addr v
    let s := if bit v 7 then discardAll s else s
    if bit v 0 then hifCntClr s else s
  else match ringAt addr with
    | some (k, n, off) =>
      if off = 0x10 then ringCfgReg s k n v
      else if s.flag (ringEn k n) && (decide (off < 0x10) || (off == 0x20 && decide (v ≠ (s.read addr).toNat &&& rwMask addr)))
      then s.wrErr
      else storeReg s addr v
    | none => match instanceAt R.HIF_MSIX_CTL 32 addr with
      | some n =>
        let s := storeReg s addr v
        if bit v 0 then s else s.msixUnmask n
      | none => storeReg s addr v

/-- A write of an FLM register (R341). -/
def flmWrite (s : State) (addr v : Nat) : State :=
  if addr = R.FLM_CTL then (if bit v 0 then flmCntClr s else s)
  else match instanceAt R.FLM_Pp_CFG 2 addr with
    | some p =>
      let mtu := bits v 18 5
      let old := (s.read addr).toNat
      if bits v 2 1 = 3 || bits v 4 3 = 3 || mtu < 1280 || 9000 < mtu || bits v 26 19 = 0
          || (s.flag (F.FLM_Pp_CFG.EN p) && bits v 26 3 != bits old 26 3) then s.wrErr
      else waitingAll (storeReg s addr v)
    | none => storeReg s addr v

/-- A write of a DCK register (R343, R346, R364). -/
def dckWrite (s : State) (addr v : Nat) : State :=
  if addr = R.DCK_CTL then (if bit v 0 then dckCntClr s else s)
  else if addr = R.DCK_RING_CFG then ringCfgWrite s v
  else if addr = R.DCK_PART then
    let ring := bits v 6 0
    let flume := bits v 12 7
    if ring < 4 || 60 < ring || flume < 2 || 32 < flume || 63 < ring + flume then s.wrErr
    else partPending (storeReg s addr v)
  else storeReg s addr v

/-- A write of an LND register (R351, R354, R364). -/
def lndWrite (s : State) (addr v : Nat) : State :=
  if addr = R.LND_CTL then
    let s := if bit v 0 then lndCntClr s else s
    if bit v 1 then scrubNow s else s
  else if addr = R.LND_PART then (if bits v 7 0 < 8 || 244 < bits v 7 0 then s.wrErr else lndPartWrite s (bits v 7 0))
  else storeReg s addr v

/-- A write of an accepted value to a register, by block: reserved encodings are refused, and the register's own actions
follow (R4, R7). -/
def regWrite (s : State) (addr v : Nat) : State :=
  match ownAt addr with
  | some r => ownWrite s r v
  | none => match addr / 0x10000 with
    | 0 => genWrite s addr v
    | 1 => clkWrite s addr v
    | 2 => prbWrite s addr v
    | 3 => krfWrite s addr v
    | 4 => sclWrite s addr v
    | 5 => bkgWrite s addr v
    | 6 => cruWrite s addr v
    | 7 => blzWrite s addr v
    | 8 => calWrite s addr v
    | 9 => wdgWrite s addr v
    | 10 => mrkWrite s addr v
    | 11 => skyWrite s addr v
    | 12 => fioWrite s addr v
    | 13 => hifWrite s addr v
    | 14 => flmWrite s addr v
    | 15 => if addr = R.CHP_CTL then (if bit v 0 then chpCntClr s else s) else storeReg s addr v
    | 16 => dckWrite s addr v
    | 17 => lndWrite s addr v
    | _ => if addr = R.SST_CTL then (if bit v 0 then sstVoid s else s) else storeReg s addr v

/-! ### Whether a write is accepted -/

/-- The registers accepted in the states of R158 only. -/
def configReg (addr : Nat) : Bool :=
  addr == R.BLZ_MX_CFG || addr == R.DCK_PART || (instanceAt R.BLZ_Bb_CFG 8 addr).isSome
    || (instanceAt R.SKY_Cc_CFG 4 addr).isSome || (instanceAt R.FIO_IOn_CFG 16 addr).isSome
    || (instanceAt R.FIO_IOn_DEB 16 addr).isSome || (instanceAt R.FIO_IOn_PULSE 16 addr).isSome

/-- Whether the life-cycle state admits a write of a register (R4, R158). -/
def stateAdmits (s : State) (r : RegRow) (addr : Nat) : Bool :=
  (r.rwl == 0 || s.lc == 0 || (addr == R.LND_PART && s.lc == 1)) && (!configReg addr || s.cfgOpen)

/-- What the shutdown self-test leaves of a write to a block other than HIF and SST (R403): a requested reset, life-cycle
requests, which R381 refuses, and urgent Caliper requests, which R203 refuses; the rest is ignored and counted. -/
def selfTestWrite (s : State) (addr v : Nat) : State :=
  if addr = R.GEN_CTL ∧ bit v 0 = true then requestReset s 2 none
  else if addr = R.GEN_LC_REQ then lcReqWrite s v
  else match instanceAt R.CAL_Un_URG 4 addr with
    | some u => calUrgWrite s u v
    | none => s.wrErr

/-- One aligned 32-bit write. -/
def writeWord (s : State) (addr v : Nat) : State :=
  if s.start.held then s
  else match regRow addr with
  | none => s.wrErr
  | some r =>
    let b := addr / 0x10000
    let v := v &&& writableMask r
    if gated s b then gatedAccess s b
    else if s.flag F.HIF_STAT.SELFTEST && b != 13 && b != 18 then selfTestWrite s addr v
    else if !stateAdmits s r addr then s.wrErr
    else regWrite s addr v

/-- An ignored write is counted once, whatever applies to it (R8). -/
def countOnce (old s : State) : State :=
  let n := old.get F.GEN_WRERR_CNT.COUNT
  if s.get F.GEN_WRERR_CNT.COUNT ≤ n + 1 then s else s.set F.GEN_WRERR_CNT.COUNT (n + 1)

/-- A BAR0 write (R6): 32 bits wide and aligned; 64 bits are two, lower address first; fewer are ignored and counted. A unit held
in reset answers nothing (R377). -/
def hostWrite (s : State) (addr width v : Nat) : State :=
  if s.start.held then s
  else if addr % 4 ≠ 0 then s.wrErr
  else if width = 4 then countOnce s (writeWord s addr (v % 2 ^ 32))
  else if width = 8 then
    let t := countOnce s (writeWord s addr (v % 2 ^ 32))
    countOnce t (writeWord t (addr + 4) (v / 2 ^ 32 % 2 ^ 32))
  else s.wrErr

/-! ### Reads -/

/-- Milliseconds of a duration in a 32-bit field that saturates. -/
def msAge (s : State) (since : Nat) : Nat := satTo 0xFFFFFFFF ((s.elapsed - since) / 1000000)

/-- A measured monitor: an open value at each read (log entry 4). -/
def measured (s : State) (w : Nat) : State × Nat := (s.tookFree, s.freeVal w)

/-- The link's speed and width as negotiated (R290, R317): open values among those the field can hold while the link is up. -/
def hifStat (s : State) : State × Nat :=
  let speed := 1 + s.freeVal 2
  let s := s.tookFree
  let width := [1, 2, 4].getD (s.freeVal 8 % 3) 1
  let s := s.tookFree
  (s, ((s.set F.HIF_STAT.SPEED speed).set F.HIF_STAT.WIDTH width).read R.HIF_STAT |>.toNat)

/-- The rest of a value whose low word is read (R6): the _HI register that the read snapshots, with its content. -/
def snapshotHi (s : State) (addr : Nat) : Option (Nat × Nat) :=
  if addr = R.CLK_TB_NOW_LO then some (R.CLK_TB_NOW_HI, s.tai / 2 ^ 32)
  else if addr = R.DCK_RING_OLD_LO then
    some (R.DCK_RING_OLD_HI, match s.deck.ring.head? with
      | some r => r.launch / 2 ^ 32
      | none => 0)
  else if addr = R.LND_ARC_OLD_LO then
    some (R.LND_ARC_OLD_HI, match s.landing.archive.head? with
      | some r => r.time / 2 ^ 32
      | none => 0)
  else match instanceAt R.PRB_Px_SWEEP_LO 2 addr, instanceAt R.SKY_Cc_MISS_LO 4 addr with
    | some p, _ => some (R.PRB_Px_SWEEP_HI p, (s.probePort p).number / 2 ^ 32)
    | _, some c => some (R.SKY_Cc_MISS_HI c, missMask s c / 2 ^ 32)
    | _, _ => none

/-- The accumulator that a Caliper LO or LOC register names, and whether the read clears it (R207). -/
def accAt (addr : Nat) : Option (Nat × Nat × Bool) :=
  (List.range 4).findSome? fun u =>
    match instanceAt (R.CAL_Un_ACCn_LO u) 64 addr, instanceAt (R.CAL_Un_ACCn_LOC u) 64 addr with
    | some n, _ => some (u, n, false)
    | _, some n => some (u, n, true)
    | _, _ => none

/-- What a register of an ungated block answers, and what the read itself does. -/
def regRead (s : State) (addr : Nat) : State × Nat :=
  if addr = R.CLK_TB_NOW_LO then
    ((s.write R.CLK_TB_NOW_HI (BitVec.ofNat 32 (s.tai / 2 ^ 32))), s.tai % 2 ^ 32)
  else if addr = R.PRB_LASER_MON then measured s 32
  else if addr = R.HIF_STAT then hifStat s
  else if addr = R.CHP_STAT then
    let m := measured s 8
    (m.1, ((s.set F.CHP_STAT.LOAD m.2).read addr).toNat)
  else if addr = R.CAL_STAT then (s, calStatWord s)
  else if addr = R.LND_SCRUB_AGE then (s, scrubHours s)
  else if addr = R.SST_LAST then (s, sstLastWord s)
  else if addr = R.WDG_PRES_AGE then
    (s, match s.wedge.presAt with
      | none => 0xFFFFFFFF
      | some t => msAge s t)
  else match instanceAt R.SCL_Px_AGE 2 addr, accAt addr, snapshotHi s addr with
    | some p, _, _ => (s, if (s.sclPort p).profile = 0 then 0xFFFFFFFF else msAge s (s.sclPort p).pubAt)
    | _, some (u, n, clear), _ =>
      let v := sumLow s u n
      let s := loadShadow s u n
      (if clear then accClear s u n else s, v)
    | _, _, some (hi, w) => (s.write hi (BitVec.ofNat 32 w), (s.read addr).toNat)
    | _, _, _ => (s, (s.read addr).toNat)

/-- Whether a partition of the shutdown self-test scans a block (R403). -/
def scanned (s : State) (b : Nat) : Bool :=
  match s.sst.run with
  | none => false
  | some r => r.kind == 1 && (r.step == 6 || r.step == 12 || r.step == 13) && !r.parts.isEmpty && (testedBlocks r.step).contains b

/-- One aligned 32-bit read: zero where no block names the address, from a gated block, counted, and from a block that is being
scanned (R293, R372, R403). -/
def readWord (s : State) (addr : Nat) : State × Nat :=
  let b := addr / 0x10000
  if (regRow addr).isNone then (s, 0)
  else if gated s b then (gatedAccess s b, 0)
  else if scanned s b then (s, 0)
  else regRead s addr

/-- A BAR0 read (R6): the addressed bytes of the aligned words it touches, lower address first. -/
def readAccess (s : State) (addr width : Nat) : State :=
  if s.start.held then s
  else
    let base := addr / 4 * 4
    let lo := readWord s base
    let two := if base + 4 < addr + width then readWord lo.1 (base + 4) else (lo.1, 0)
    two.1.emit (.readData addr ((lo.2 + 2 ^ 32 * two.2) / 2 ^ (8 * (addr % 4)) % 2 ^ (8 * width)))

/-! ### Commands that are accesses -/

/-- A write that acts through some bits of a register and leaves its RW fields as they are. -/
def actWrite (s : State) (addr act : Nat) : State := hostWrite s addr 4 (((s.read addr).toNat &&& rwMask addr) ||| act)

/-- A write that sets or clears one RW bit and leaves the rest. -/
def bitWrite (s : State) (addr i : Nat) (b : Bool) : State :=
  hostWrite s addr 4 (putBit ((s.read addr).toNat &&& rwMask addr) i b)

/-- REGISTER_WRITE (R4 to R8). -/
def execRegisterWrite (addr width : Nat) (value : BitVec 64) (s : State) : Host.Outcome State Fault Refusal :=
  .next (hostWrite s addr width value.toNat)

/-- LO_REGISTER_SNAPSHOT_READ (R6). -/
def execLoRegisterSnapshotRead (addr width : Nat) (s : State) : Host.Outcome State Fault Refusal :=
  .next (readAccess s addr width)

/-- CLAIM_HOST (R19). -/
def execClaimHost (res : Resource) (s : State) : Host.Outcome State Fault Refusal := .next (hostWrite s (ownAddr res) 4 0x100)
/-- RELEASE_HOST (R19, R24). -/
def execReleaseHost (res : Resource) (s : State) : Host.Outcome State Fault Refusal := .next (hostWrite s (ownAddr res) 4 0x200)
/-- OWNERSHIP_CNT_CLR (R19): the count clears before any claim or release of the same write. -/
def execOwnershipCntClr (res : Resource) (claim release : Bool) (s : State) : Host.Outcome State Fault Refusal :=
  .next (hostWrite s (ownAddr res) 4 (2 ^ 24 + 0x100 * b2n claim + 0x200 * b2n release))

/-- RETURN_NOW (R37). -/
def execReturnNow (s : State) : Host.Outcome State Fault Refusal := .next (actWrite s R.PRB_CTL 0x10)
/-- HANDOVER_TEST (R59). -/
def execHandoverTest (s : State) : Host.Outcome State Fault Refusal := .next (actWrite s R.PRB_CTL 0x20)
/-- PORT_ENABLE (R45). -/
def execPortEnable (port : Port) (s : State) : Host.Outcome State Fault Refusal := .next (bitWrite s R.PRB_CTL port.num true)
/-- PORT_DISABLE (R45). -/
def execPortDisable (port : Port) (s : State) : Host.Outcome State Fault Refusal := .next (bitWrite s R.PRB_CTL port.num false)
/-- APR_RESUME (R50). -/
def execAprResume (port : Port) (s : State) : Host.Outcome State Fault Refusal := .next (actWrite s (R.PRB_Px_POWER port.num) 0x200)
/-- REF_CAPTURE (R53). -/
def execRefCapture (port : Port) (s : State) : Host.Outcome State Fault Refusal :=
  .next (actWrite s (R.PRB_Px_CUT_CFG port.num) (2 ^ 27))
/-- KRF_CNT_CLR (R85). -/
def execKrfCntClr (s : State) : Host.Outcome State Fault Refusal := .next (actWrite s R.KRF_CTL 4)
/-- BASE_CAPTURE (R94). -/
def execBaseCapture (s : State) : Host.Outcome State Fault Refusal := .next (actWrite s R.SCL_CTL 2)
/-- SCL_CNT_CLR (R103). -/
def execSclCntClr (s : State) : Host.Outcome State Fault Refusal := .next (actWrite s R.SCL_CTL 4)
/-- SCL_ENABLE (R86, R101). -/
def execSclEnable (on : Bool) (s : State) : Host.Outcome State Fault Refusal := .next (bitWrite s R.SCL_CTL 0 on)
/-- FPN_SWAP (R118). -/
def execFpnSwap (profile : Fin 16) (value : BitVec 32) (s : State) : Host.Outcome State Fault Refusal :=
  .next (hostWrite s (R.BKG_FPn_SWAP profile) 4 value.toNat)
/-- BKG_CNT_CLR (R124). -/
def execBkgCntClr (s : State) : Host.Outcome State Fault Refusal := .next (actWrite s R.BKG_CTL 1)
/-- CRU_ENABLE (R153). -/
def execCruEnable (on : Bool) (s : State) : Host.Outcome State Fault Refusal := .next (bitWrite s R.CRU_CTL 0 on)
/-- CRU_CNT_CLR (R154). -/
def execCruCntClr (s : State) : Host.Outcome State Fault Refusal := .next (actWrite s R.CRU_CTL 8)
/-- BANK_MODE_WRITE (R157, R158). -/
def execBankModeWrite (bank : Fin 8) (value : BitVec 32) (s : State) : Host.Outcome State Fault Refusal :=
  .next (hostWrite s (R.BLZ_Bb_CFG bank) 4 value.toNat)
/-- OPEN_CLR (R166). -/
def execOpenClr (bank : Fin 8) (s : State) : Host.Outcome State Fault Refusal := .next (actWrite s (R.BLZ_Bb_CTL bank) 2)
/-- SEGTEST (R167). -/
def execSegtest (bank : Fin 8) (s : State) : Host.Outcome State Fault Refusal := .next (actWrite s (R.BLZ_Bb_CTL bank) 1)
/-- MATRIX_CFG_WRITE (R158, R169). -/
def execMatrixCfgWrite (value : BitVec 32) (s : State) : Host.Outcome State Fault Refusal :=
  .next (hostWrite s R.BLZ_MX_CFG 4 value.toNat)
/-- SWAP (R172). -/
def execSwap (s : State) : Host.Outcome State Fault Refusal := .next (actWrite s R.BLZ_MX_CTL 1)
/-- BLZ_CNT_CLR (R179). -/
def execBlzCntClr (s : State) : Host.Outcome State Fault Refusal := .next (actWrite s R.BLZ_CTL 1)
/-- CAL_URG (R203). -/
def execCalUrg (unit : Fin 4) (value : BitVec 32) (s : State) : Host.Outcome State Fault Refusal :=
  .next (hostWrite s (R.CAL_Un_URG unit) 4 value.toNat)
/-- ACC_LO_READ (R207). -/
def execAccLoRead (unit : Fin 4) (n : Fin 64) (s : State) : Host.Outcome State Fault Refusal :=
  .next (readAccess s (R.CAL_Un_ACCn_LO unit n) 4)
/-- ACC_LOC_READ (R207). -/
def execAccLocRead (unit : Fin 4) (n : Fin 64) (s : State) : Host.Outcome State Fault Refusal :=
  .next (readAccess s (R.CAL_Un_ACCn_LOC unit n) 4)
/-- ACC_CLR (R208). -/
def execAccClr (unit : Fin 4) (s : State) : Host.Outcome State Fault Refusal := .next (actWrite s (R.CAL_Un_CTL unit) 2)
/-- REF_EN_WRITE (R197). -/
def execRefEnWrite (unit : Fin 4) (value : BitVec 32) (s : State) : Host.Outcome State Fault Refusal :=
  .next (hostWrite s (R.CAL_Un_CTL unit) 4 value.toNat)
/-- CAL_CNT_CLR (R211). -/
def execCalCntClr (s : State) : Host.Outcome State Fault Refusal := .next (actWrite s R.CAL_CTL 1)
/-- WDG_UNBLOCK (R236). -/
def execWdgUnblock (value : BitVec 32) (s : State) : Host.Outcome State Fault Refusal :=
  .next (hostWrite s R.WDG_UNBLOCK 4 value.toNat)
/-- WDG_CNT_CLR (R247). -/
def execWdgCntClr (s : State) : Host.Outcome State Fault Refusal := .next (actWrite s R.WDG_CTL 1)
/-- MRK_HREQ_SET (R242). -/
def execMrkHreqSet (value : BitVec 32) (s : State) : Host.Outcome State Fault Refusal :=
  .next (hostWrite s R.MRK_HREQ_SET 4 value.toNat)
/-- MRK_HREQ_CLR (R242). -/
def execMrkHreqClr (value : BitVec 32) (s : State) : Host.Outcome State Fault Refusal :=
  .next (hostWrite s R.MRK_HREQ_CLR 4 value.toNat)
/-- HREQ_TTL_WRITE (R242). -/
def execHreqTtlWrite (value : BitVec 32) (s : State) : Host.Outcome State Fault Refusal :=
  .next (hostWrite s R.MRK_CFG 4 value.toNat)
/-- MRK_LATCH_CLR (R241). -/
def execMrkLatchClr (value : BitVec 32) (s : State) : Host.Outcome State Fault Refusal :=
  .next (hostWrite s R.MRK_LATCH_CLR 4 value.toNat)
/-- MRK_CNT_CLR (R248). -/
def execMrkCntClr (s : State) : Host.Outcome State Fault Refusal := .next (actWrite s R.MRK_CTL 1)
/-- CHAIN_ENABLE (R265). -/
def execChainEnable (chain : Fin 4) (value : BitVec 32) (s : State) : Host.Outcome State Fault Refusal :=
  .next (hostWrite s (R.SKY_Cc_CFG chain) 4 value.toNat)
/-- TRACE (R269). -/
def execTrace (chain : Fin 4) (s : State) : Host.Outcome State Fault Refusal := .next (actWrite s (R.SKY_Cc_CTL chain) 1)
/-- FLT_CLR (R256). -/
def execFltClr (chain : Fin 4) (s : State) : Host.Outcome State Fault Refusal := .next (actWrite s (R.SKY_Cc_CTL chain) 2)
/-- IDENT (R256). -/
def execIdent (chain : Fin 4) (head : Fin 64) (s : State) : Host.Outcome State Fault Refusal :=
  .next (actWrite s (R.SKY_Cc_CTL chain) (4 + 8 * head))
/-- SKY_CNT_CLR (R270). -/
def execSkyCntClr (s : State) : Host.Outcome State Fault Refusal := .next (actWrite s R.SKY_CTL 1)
/-- FIELD_CFG_WRITE (R273). -/
def execFieldCfgWrite (ch : Fin 16) (value : BitVec 32) (s : State) : Host.Outcome State Fault Refusal :=
  .next (hostWrite s (R.FIO_IOn_CFG ch) 4 value.toNat)
/-- FIO_OUT_WRITE (R278). -/
def execFioOutWrite (value : BitVec 32) (s : State) : Host.Outcome State Fault Refusal := .next (hostWrite s R.FIO_OUT 4 value.toNat)
/-- FIO_OUT_SET (R278). -/
def execFioOutSet (value : BitVec 32) (s : State) : Host.Outcome State Fault Refusal :=
  .next (hostWrite s R.FIO_OUT_SET 4 value.toNat)
/-- FIO_OUT_CLR (R278). -/
def execFioOutClr (value : BitVec 32) (s : State) : Host.Outcome State Fault Refusal :=
  .next (hostWrite s R.FIO_OUT_CLR 4 value.toNat)
/-- FIO_SAFE_CLR (R285). -/
def execFioSafeClr (value : BitVec 32) (s : State) : Host.Outcome State Fault Refusal :=
  .next (hostWrite s R.FIO_SAFE_CLR 4 value.toNat)
/-- FIO_CNT_CLR (R289). -/
def execFioCntClr (s : State) : Host.Outcome State Fault Refusal := .next (actWrite s R.FIO_CTL 1)
/-- RING_ENABLE (R296, R315): a write of the ring's CFG register with EN = 1. -/
def execRingEnable (kind : RingKind) (ring : Fin 16) (cfg : BitVec 32) (s : State) : Host.Outcome State Fault Refusal :=
  .next (hostWrite s (ringBase kind ring + 0x10) 4 (putBit cfg.toNat 0 true))
/-- RING_DISABLE (R315). -/
def execRingDisable (kind : RingKind) (ring : Fin 16) (s : State) : Host.Outcome State Fault Refusal :=
  .next (bitWrite s (ringBase kind ring + 0x10) 0 false)
/-- HIF_DISCARD (R315). -/
def execHifDiscard (s : State) : Host.Outcome State Fault Refusal := .next (actWrite s R.HIF_CTL 0x80)
/-- HIF_CNT_CLR (R317). -/
def execHifCntClr (s : State) : Host.Outcome State Fault Refusal := .next (actWrite s R.HIF_CTL 1)
/-- FLM_CNT_CLR (R341). -/
def execFlmCntClr (s : State) : Host.Outcome State Fault Refusal := .next (actWrite s R.FLM_CTL 1)
/-- CHP_CNT_CLR (R341). -/
def execChpCntClr (s : State) : Host.Outcome State Fault Refusal := .next (actWrite s R.CHP_CTL 1)
/-- RING_CFG_WRITE (R346, R347). -/
def execRingCfgWrite (value : BitVec 32) (s : State) : Host.Outcome State Fault Refusal :=
  .next (hostWrite s R.DCK_RING_CFG 4 value.toNat)
/-- DCK_CNT_CLR (R364). -/
def execDckCntClr (s : State) : Host.Outcome State Fault Refusal := .next (actWrite s R.DCK_CTL 1)
/-- SCRUB_NOW (R354). -/
def execScrubNow (s : State) : Host.Outcome State Fault Refusal := .next (actWrite s R.LND_CTL 2)
/-- LND_PART_WRITE (R351). -/
def execLndPartWrite (value : BitVec 32) (s : State) : Host.Outcome State Fault Refusal :=
  .next (hostWrite s R.LND_PART 4 value.toNat)
/-- LND_CNT_CLR (R364). -/
def execLndCntClr (s : State) : Host.Outcome State Fault Refusal := .next (actWrite s R.LND_CTL 1)
/-- CLK_GATE_WRITE (R372). -/
def execClkGateWrite (value : BitVec 32) (s : State) : Host.Outcome State Fault Refusal :=
  .next (hostWrite s R.CLK_GATE 4 value.toNat)
/-- KRF_OPP_WRITE (R373). -/
def execKrfOppWrite (value : BitVec 32) (s : State) : Host.Outcome State Fault Refusal :=
  .next (hostWrite s R.CLK_KRF_OPP 4 value.toNat)
/-- CLK_CNT_CLR (R388). -/
def execClkCntClr (s : State) : Host.Outcome State Fault Refusal := .next (actWrite s R.CLK_CTL 1)
/-- GEN_RESET (R376). -/
def execGenReset (s : State) : Host.Outcome State Fault Refusal := .next (actWrite s R.GEN_CTL 1)
/-- SAVE (R378). -/
def execSave (s : State) : Host.Outcome State Fault Refusal := .next (actWrite s R.GEN_CTL 4)
/-- SHUTDOWN (R389). -/
def execShutdown (s : State) : Host.Outcome State Fault Refusal := .next (actWrite s R.GEN_CTL 2)
/-- LC_REQ_ARM (R381). -/
def execLcReqArm (target : Fin 8) (s : State) : Host.Outcome State Fault Refusal := .next (hostWrite s R.GEN_LC_REQ 4 target)
/-- LC_REQ_CONFIRM (R381). -/
def execLcReqConfirm (target : Fin 8) (s : State) : Host.Outcome State Fault Refusal :=
  .next (hostWrite s R.GEN_LC_REQ 4 (target + 0x5A00))
/-- SST_VOID (R405). -/
def execSstVoid (s : State) : Host.Outcome State Fault Refusal := .next (actWrite s R.SST_CTL 1)

end Sys2Proof.Machine
end

