-- ==== Sys2Proof/Machine/Start.lean ====
section
/-! DEFINITION. Starts: the restore of the start set, the quick or cold decision, and the end of the start checks (R225, R226, R359,
R378 to R380, R401, R402). -/

namespace Sys2Proof.Machine

/-! ### Restoring the start set (R379) -/

/-- A refused item of the start set. -/
def restoreFail (s : State) : State := s.bump F.GEN_START.FAILS

/-- A register restored as if it had been written, but in every life-cycle state; a value it does not take is a refused item,
which GEN_WRERR_CNT does not count. -/
def restoreReg (s : State) (addr v : Nat) : State :=
  let n := s.get F.GEN_WRERR_CNT.COUNT
  let s := (regWrite s addr v).set F.GEN_WRERR_CNT.COUNT n
  if (s.read addr).toNat &&& rwMask addr = v then s else restoreFail s

/-- A load that a restore makes. -/
def restoreLoad (s : State) (r : LoadResult) : State :=
  match r with
  | .refused _ _ s => restoreFail s
  | .loaded s => s
  | .later _ => s

/-- The item that a TABLE_LOAD of one instance from one entry would be. -/
def restoreItem (inst first : Nat) : Item :=
  ⟨false, 0, 0, 0, slice (List.replicate 21 0 ++ leBytes 1 inst ++ [0, 0] ++ leBytes 4 first) 0 64, true, false, CapRun.zero⟩

/-- A register of the signal part restored, with its unit's sequence table after CAL_Un_CTL. -/
def restoreSignalReg (tables : List (Nat × List Byte)) (s : State) (e : Nat × Nat) : State :=
  let s := restoreReg s e.1 e.2
  match instanceAt R.CAL_Un_CTL 4 e.1 with
  | none => s
  | some u => match tables.find? fun t => t.1 == u with
    | some (_, b) => if b.isEmpty then s else restoreLoad s (loadSequence s (restoreItem u 0) b)
    | none => s

/-- RESTORED: both parts are restored (R388). -/
def restored (s : State) : State :=
  if s.start.signalDone && s.start.sensingDone && s.start.signal.isSome && s.start.sensing.isSome then
    s.set F.GEN_START.RESTORED 1
  else s

/-- The signal part is restored once the fabric domain runs on the root and Wedge has claimed its pins (R379). -/
def restoreSignal (s : State) : State :=
  let ready := s.get (F.CLK_Dd.STATE 3) == 1 && s.get (F.CLK_Dd.SRC 3) == 0 && s.wedge.started
  if s.start.signalDone || !ready then s
  else
    let s := s.setStart { s.start with signalDone := true }
    match s.start.signal with
    | none => s
    | some p => restored (s.each p.regs (restoreSignalReg p.tables))

/-- The value of a register in the sensing part. -/
def SensingPart.value (p : SensingPart) (addr : Nat) : Nat :=
  match p.regs.find? fun e => e.1 == addr with
  | none => 0
  | some e => e.2

/-- A sensing register as it is restored before the enables: the ports, Scaler, Cruiser and the ring stay as they are (R379). -/
def withoutEnable (s : State) (addr v : Nat) : Nat :=
  if addr = R.PRB_CTL then putBit (putBit v 0 false) 1 false
  else if addr = R.SCL_CTL ∨ addr = R.CRU_CTL then putBit v 0 false
  else if addr = R.DCK_RING_CFG then putBit v 0 (s.flag F.DCK_RING_CFG.EN)
  else v

/-- One entry of a saved table loaded again. A coefficient bank is restored as it was saved, though one of a profile's banks is
ACTIVE: nothing uses it at a start. -/
def restoreEntry (id : Nat) (s : State) (e : Nat × List Byte) : State :=
  let it := restoreItem 0 e.1
  match id with
  | 0x01 => restoreLoad s (loadChannels s it e.2)
  | 0x02 => restoreLoad s (loadSets s it e.2)
  | 0x03 => s.setBkg { s.bkg with banks := sput (fun _ => bankReset) s.bkg.banks e.1 e.2 }
  | 0x04 => restoreLoad s (loadZones s it e.2)
  | 0x05 => restoreLoad s (loadTemplates s it e.2)
  | 0x20 => restoreLoad s (loadStreams s it e.2)
  | 0x21 => restoreLoad s (loadPorts s it e.2)
  | 0x22 => restoreLoad s (loadArchive s it e.2)
  | _ => s

/-- A saved table loaded again; the compensation table as a whole. -/
def restoreTable (s : State) (t : Nat × List (Nat × List Byte)) : State :=
  if t.1 = 0x07 then
    if t.2.isEmpty then s
    else
      let n := (t.2.map fun e => e.1 + 1).foldl max 0
      let b := (List.range n).flatMap fun i => sget (fun _ => zeroEntry 16) t.2 i
      restoreLoad s (loadCompensation s (restoreItem 0 0) b)
  else s.each t.2 (restoreEntry t.1)

/-- The sensing part is restored when Landing is READY (R379). -/
def restoreSensing (s : State) : State :=
  let s := s.setStart { s.start with sensingDone := true }
  match s.start.sensing with
  | none => s
  | some p =>
    let s := s.each p.regs fun s e => restoreReg s e.1 (withoutEnable s e.1 e.2)
    restored (s.each p.tables restoreTable)

/-- The sensing enables as saved, with AUTO_START = 1 (R379). -/
def sensingEnable (s : State) : State :=
  let s := s.setStart { s.start with enableDone := true }
  match s.start.sensing with
  | none => s
  | some p =>
    if bit (p.value R.GEN_CTL) 3 then
      s.each [R.PRB_CTL, R.SCL_CTL, R.CRU_CTL, R.DCK_RING_CFG] fun s a => restoreReg s a (p.value a)
    else s

/-! ### Clocks and Wedge at a start -/

/-- DOMAIN_SWITCH_DONE (R370, R371): a domain runs from its new source; with the fabric on the root the signal part is
restored. -/
def execDomainSwitchDone (domain : Fin 6) (s : State) : Host.Outcome State Fault Refusal :=
  .next (restoreSignal (domainDone s domain))

/-- WEDGE_START (R226): the restore of the signal part follows it. -/
def execWedgeStart (s : State) : Host.Outcome State Fault Refusal :=
  .next (if s.start.held then s else restoreSignal (wedgeStart s))

/-- IMAGE_ACTIVATION (R225): a shutdown that waited for the commit begins (R389). -/
def execImageActivation (s : State) : Host.Outcome State Fault Refusal := .next (shutdownPending (imageActivation s))

/-! ### Landing READY and the decision (R359, R380, R401) -/

/-- Whether the newest SHUTDOWN record makes the start quick (R380): complete, no older than 30 days, at most 25 of them
unpowered. -/
def quickRecord (s : State) : Bool :=
  match newestShutdown s with
  | none => false
  | some b => decide (verdict b ≤ 2) && decide (recordAge s b ≤ 30 * 86400) && decide (s.start.unpowered ≤ 25 * 86400)

/-- The record's age in days, 0xFF for none (R388). -/
def ageDays (s : State) : Nat :=
  match newestShutdown s with
  | none => 0xFF
  | some b => satTo 255 (recordAge s b / 86400)

/-- Landing is ready: blocks found bad at the start are retired (R353). -/
def landingUp (s : State) (retired : Nat) : State :=
  let s := (List.range retired).foldl (fun s _ => retireBlock s) (s.set F.LND_STAT.STATE 1)
  if s.get F.LND_SPARE.SPARES = 0 then s.set F.LND_STAT.STATE 2 else s

/-- The start is quick or cold: a cold one runs the start checks (R380, R401). -/
def startDecide (s : State) : State :=
  let s := s.set F.GEN_START.AGE_DAYS (ageDays s)
  if quickRecord s then
    sensingEnable ((s.set F.GEN_START.KIND 1).set F.SST_STAT.RUNNING 0)
  else sstBegin (s.set F.GEN_START.KIND 2) 2

/-- LANDING_READY (R359, R379, R380): Landing is mounted, the record is read, the start is decided, and the sensing part is
restored. -/
def execLandingReady (retired : Nat) (s : State) : Host.Outcome State Fault Refusal :=
  .next (if s.start.held || s.start.sensingDone || s.get F.LND_STAT.STATE != 0 then s
    else startRecord (pumpAll (startDecide (restoreSensing (landingUp s retired)))))

/-- START_CHECKS_DONE (R402): the record is completed, items that waited start, and the sensing enables take effect. -/
def execStartChecksDone (s : State) : Host.Outcome State Fault Refusal :=
  .next (match s.sst.run with
  | none => s
  | some r =>
    if r.kind = 2 && r.step = 15 then
      let s := finalPage s r
      let s := sstStat (s.setSst { s.sst with run := none })
      let s := s.clearAll [F.SST_STAT.RUNNING, F.SST_STAT.KIND, F.SST_STAT.SECRETS_CLR]
      pumpAll (sensingEnable (s.set F.SST_EVT.START_DONE 1))
    else s)

end Sys2Proof.Machine
end

