-- ==== Sys2Proof/Machine/Dispatch.lean ====
section
/-! DEFINITION. The dispatch of commands: one arm per constructor of Instr, one direct call of its meaning. -/

namespace Sys2Proof.Machine

def exec (i : Instr) (s : State) : Host.Outcome State Fault Refusal :=
  match i with
  | .registerWrite addr width value => Sys2Proof.Machine.execRegisterWrite addr width value s
  | .loRegisterSnapshotRead addr width => Sys2Proof.Machine.execLoRegisterSnapshotRead addr width s
  | .claimHost res => Sys2Proof.Machine.execClaimHost res s
  | .releaseHost res => Sys2Proof.Machine.execReleaseHost res s
  | .ownershipCntClr res claim release => Sys2Proof.Machine.execOwnershipCntClr res claim release s
  | .presentationTimeout => Sys2Proof.Machine.execPresentationTimeout s
  | .laserAFailure => Sys2Proof.Machine.execLaserAFailure s
  | .handoverSweepRestart => Sys2Proof.Machine.execHandoverSweepRestart s
  | .laserBFailure => Sys2Proof.Machine.execLaserBFailure s
  | .laserARelock => Sys2Proof.Machine.execLaserARelock s
  | .returnHoldExpiry => Sys2Proof.Machine.execReturnHoldExpiry s
  | .returnNow => Sys2Proof.Machine.execReturnNow s
  | .handoverTest => Sys2Proof.Machine.execHandoverTest s
  | .returnSwitch => Sys2Proof.Machine.execReturnSwitch s
  | .portEnable port => Sys2Proof.Machine.execPortEnable port s
  | .portDisable port => Sys2Proof.Machine.execPortDisable port s
  | .testSlot port signature => Sys2Proof.Machine.execTestSlot port signature s
  | .aprEntry port => Sys2Proof.Machine.execAprEntry port s
  | .aprResume port => Sys2Proof.Machine.execAprResume port s
  | .slotLaunch port => Sys2Proof.Machine.execSlotLaunch port s
  | .sweepBoundary port snr => Sys2Proof.Machine.execSweepBoundary port snr s
  | .sweepComplete port input => Sys2Proof.Machine.execSweepComplete port input s
  | .endMeasurementDone port endPoint refl => Sys2Proof.Machine.execEndMeasurementDone port endPoint refl s
  | .loopLengthMeasured length => Sys2Proof.Machine.execLoopLengthMeasured length s
  | .refCapture port => Sys2Proof.Machine.execRefCapture port s
  | .slotRecordComplete port a b => Sys2Proof.Machine.execSlotRecordComplete port a b s
  | .krfCntClr => Sys2Proof.Machine.execKrfCntClr s
  | .profilePublish port => Sys2Proof.Machine.execProfilePublish port s
  | .baseCapture => Sys2Proof.Machine.execBaseCapture s
  | .profileAgeTimeout port => Sys2Proof.Machine.execProfileAgeTimeout port s
  | .sclCntClr => Sys2Proof.Machine.execSclCntClr s
  | .channelRecordOutput set => Sys2Proof.Machine.execChannelRecordOutput set s
  | .fpnSwap profile value => Sys2Proof.Machine.execFpnSwap profile value s
  | .bkgCntClr => Sys2Proof.Machine.execBkgCntClr s
  | .zoneFrameEvaluation zone => Sys2Proof.Machine.execZoneFrameEvaluation zone s
  | .staleTemperatureEvaluation port => Sys2Proof.Machine.execStaleTemperatureEvaluation port s
  | .trackerTick => Sys2Proof.Machine.execTrackerTick s
  | .zoneReloadEffect zone => Sys2Proof.Machine.execZoneReloadEffect zone s
  | .cruEnable on => Sys2Proof.Machine.execCruEnable on s
  | .cruCntClr => Sys2Proof.Machine.execCruCntClr s
  | .bankModeWrite bank value => Sys2Proof.Machine.execBankModeWrite bank value s
  | .pwmPeriodBoundary => Sys2Proof.Machine.execPwmPeriodBoundary s
  | .subPulseStart pin => Sys2Proof.Machine.execSubPulseStart pin s
  | .subPulseEnd pulse => Sys2Proof.Machine.execSubPulseEnd pulse s
  | .headroomSample bank h volts => Sys2Proof.Machine.execHeadroomSample bank h volts s
  | .openSearchRetry bank => Sys2Proof.Machine.execOpenSearchRetry bank s
  | .openClr bank => Sys2Proof.Machine.execOpenClr bank s
  | .segtest bank => Sys2Proof.Machine.execSegtest bank s
  | .segtestAutoDue bank => Sys2Proof.Machine.execSegtestAutoDue bank s
  | .matrixCfgWrite value => Sys2Proof.Machine.execMatrixCfgWrite value s
  | .rowSlotStart => Sys2Proof.Machine.execRowSlotStart s
  | .frameBoundary => Sys2Proof.Machine.execFrameBoundary s
  | .swap => Sys2Proof.Machine.execSwap s
  | .msyncEdge => Sys2Proof.Machine.execMsyncEdge s
  | .thermalShutdown sensor temp => Sys2Proof.Machine.execThermalShutdown sensor temp s
  | .thermalResume sensor temp => Sys2Proof.Machine.execThermalResume sensor temp s
  | .blzCntClr => Sys2Proof.Machine.execBlzCntClr s
  | .overcurrentTrip target => Sys2Proof.Machine.execOvercurrentTrip target s
  | .litUncmd obj volt on => Sys2Proof.Machine.execLitUncmd obj volt on s
  | .proofTimeout pin => Sys2Proof.Machine.execProofTimeout pin s
  | .ocRetry obj trips => Sys2Proof.Machine.execOcRetry obj trips s
  | .lsupMonitorReading value below above => Sys2Proof.Machine.execLsupMonitorReading value below above s
  | .adjacentPinTest pair low => Sys2Proof.Machine.execAdjacentPinTest pair low s
  | .caliperEntryComplete unit src words => Sys2Proof.Machine.execCaliperEntryComplete unit src words s
  | .caliperOverRange unit src words positive => Sys2Proof.Machine.execCaliperOverRange unit src words positive s
  | .calUrg unit value => Sys2Proof.Machine.execCalUrg unit value s
  | .accLoRead unit n => Sys2Proof.Machine.execAccLoRead unit n s
  | .accLocRead unit n => Sys2Proof.Machine.execAccLocRead unit n s
  | .accClr unit => Sys2Proof.Machine.execAccClr unit s
  | .refEnWrite unit value => Sys2Proof.Machine.execRefEnWrite unit value s
  | .refReady unit => Sys2Proof.Machine.execRefReady unit s
  | .calCntClr => Sys2Proof.Machine.execCalCntClr s
  | .wedgeStep view => Sys2Proof.Machine.execWedgeStep view s
  | .laneStallTimeout lane => Sys2Proof.Machine.execLaneStallTimeout lane s
  | .laneRejoinAttempt lane => Sys2Proof.Machine.execLaneRejoinAttempt lane s
  | .dwellExpiry group units => Sys2Proof.Machine.execDwellExpiry group units s
  | .flashEdge group => Sys2Proof.Machine.execFlashEdge group s
  | .occupancyRelease group aspect => Sys2Proof.Machine.execOccupancyRelease group aspect s
  | .classificationStart group => Sys2Proof.Machine.execClassificationStart group s
  | .blockRetryExpiry group aspect => Sys2Proof.Machine.execBlockRetryExpiry group aspect s
  | .wdgUnblock value => Sys2Proof.Machine.execWdgUnblock value s
  | .startWaitTimeout => Sys2Proof.Machine.execStartWaitTimeout s
  | .wedgeStart => Sys2Proof.Machine.execWedgeStart s
  | .wdgCntClr => Sys2Proof.Machine.execWdgCntClr s
  | .markingPass => Sys2Proof.Machine.execMarkingPass s
  | .mrkHreqSet value => Sys2Proof.Machine.execMrkHreqSet value s
  | .mrkHreqClr value => Sys2Proof.Machine.execMrkHreqClr value s
  | .hreqExpired index => Sys2Proof.Machine.execHreqExpired index s
  | .hreqTtlWrite value => Sys2Proof.Machine.execHreqTtlWrite value s
  | .mrkLatchClr value => Sys2Proof.Machine.execMrkLatchClr value s
  | .mrkCntClr => Sys2Proof.Machine.execMrkCntClr s
  | .exchangeStart chain high => Sys2Proof.Machine.execExchangeStart chain high s
  | .lineShort chain => Sys2Proof.Machine.execLineShort chain s
  | .returnFrameEnd chain cells edges => Sys2Proof.Machine.execReturnFrameEnd chain cells edges s
  | .returnFrameDeadline chain edges => Sys2Proof.Machine.execReturnFrameDeadline chain edges s
  | .chainResultTimeout chain => Sys2Proof.Machine.execChainResultTimeout chain s
  | .chainEnable chain value => Sys2Proof.Machine.execChainEnable chain value s
  | .trace chain => Sys2Proof.Machine.execTrace chain s
  | .fltClr chain => Sys2Proof.Machine.execFltClr chain s
  | .ident chain head => Sys2Proof.Machine.execIdent chain head s
  | .identExpiry chain => Sys2Proof.Machine.execIdentExpiry chain s
  | .skyCntClr => Sys2Proof.Machine.execSkyCntClr s
  | .fieldCfgWrite ch value => Sys2Proof.Machine.execFieldCfgWrite ch value s
  | .fioInput ch on stamp => Sys2Proof.Machine.execFioInput ch on stamp s
  | .fioOutWrite value => Sys2Proof.Machine.execFioOutWrite value s
  | .fioOutSet value => Sys2Proof.Machine.execFioOutSet value s
  | .fioOutClr value => Sys2Proof.Machine.execFioOutClr value s
  | .pulsePhaseExpiry ch => Sys2Proof.Machine.execPulsePhaseExpiry ch s
  | .outputDiagEvaluation => Sys2Proof.Machine.execOutputDiagEvaluation s
  | .outputOvertemp ch => Sys2Proof.Machine.execOutputOvertemp ch s
  | .outputOvertempRecover ch => Sys2Proof.Machine.execOutputOvertempRecover ch s
  | .couplerFrame ch frame => Sys2Proof.Machine.execCouplerFrame ch frame s
  | .channelStale ch => Sys2Proof.Machine.execChannelStale ch s
  | .silenceTimeout ch => Sys2Proof.Machine.execSilenceTimeout ch s
  | .fioSafeClr value => Sys2Proof.Machine.execFioSafeClr value s
  | .vmainLoss => Sys2Proof.Machine.execVmainLoss s
  | .fsupHandover value => Sys2Proof.Machine.execFsupHandover value s
  | .fsupLow value => Sys2Proof.Machine.execFsupLow value s
  | .fioCntClr => Sys2Proof.Machine.execFioCntClr s
  | .hostInterfaceReset => Sys2Proof.Machine.execHostInterfaceReset s
  | .busMasterDisable => Sys2Proof.Machine.execBusMasterDisable s
  | .busMasterEnable => Sys2Proof.Machine.execBusMasterEnable s
  | .commandDoorbell offset width value => Sys2Proof.Machine.execCommandDoorbell offset width value s
  | .completionDoorbell offset width value => Sys2Proof.Machine.execCompletionDoorbell offset width value s
  | .eventDoorbell offset width value => Sys2Proof.Machine.execEventDoorbell offset width value s
  | .captureDoorbell offset width value => Sys2Proof.Machine.execCaptureDoorbell offset width value s
  | .descriptorAccept cap ring desc => Sys2Proof.Machine.execDescriptorAccept cap ring desc s
  | .nop ring => Sys2Proof.Machine.execNop ring s
  | .tableLoadChannel ring payload => Sys2Proof.Machine.execTableLoadChannel ring payload s
  | .tableLoadSet ring payload => Sys2Proof.Machine.execTableLoadSet ring payload s
  | .tableLoadCoefficientBank ring payload => Sys2Proof.Machine.execTableLoadCoefficientBank ring payload s
  | .tableLoadZone ring payload => Sys2Proof.Machine.execTableLoadZone ring payload s
  | .tableLoadTemplate ring payload => Sys2Proof.Machine.execTableLoadTemplate ring payload s
  | .tableLoadBaseline ring payload => Sys2Proof.Machine.execTableLoadBaseline ring payload s
  | .tableLoadCompensation ring payload => Sys2Proof.Machine.execTableLoadCompensation ring payload s
  | .tableLoadCaliperSequence ring payload => Sys2Proof.Machine.execTableLoadCaliperSequence ring payload s
  | .tableLoadFrameMemory ring payload => Sys2Proof.Machine.execTableLoadFrameMemory ring payload s
  | .tableLoadWedgeImage ring payload => Sys2Proof.Machine.execTableLoadWedgeImage ring payload s
  | .imageActivation => Sys2Proof.Machine.execImageActivation s
  | .tableLoadMarkingTable ring payload => Sys2Proof.Machine.execTableLoadMarkingTable ring payload s
  | .tableLoadStream ring payload => Sys2Proof.Machine.execTableLoadStream ring payload s
  | .tableLoadPort ring payload => Sys2Proof.Machine.execTableLoadPort ring payload s
  | .tableLoadArchive ring payload => Sys2Proof.Machine.execTableLoadArchive ring payload s
  | .snapshotQualityMap ring => Sys2Proof.Machine.execSnapshotQualityMap ring s
  | .snapshotLoopOwnership ring => Sys2Proof.Machine.execSnapshotLoopOwnership ring s
  | .snapshotProfileBuffer ring => Sys2Proof.Machine.execSnapshotProfileBuffer ring s
  | .snapshotChannelStatus ring => Sys2Proof.Machine.execSnapshotChannelStatus ring s
  | .snapshotZoneStatus ring => Sys2Proof.Machine.execSnapshotZoneStatus ring s
  | .snapshotTracks ring => Sys2Proof.Machine.execSnapshotTracks ring s
  | .snapshotAccumulators ring => Sys2Proof.Machine.execSnapshotAccumulators ring s
  | .snapshotSupervision ring => Sys2Proof.Machine.execSnapshotSupervision ring s
  | .snapshotHeads ring => Sys2Proof.Machine.execSnapshotHeads ring s
  | .snapshotCaptureDirectory ring => Sys2Proof.Machine.execSnapshotCaptureDirectory ring s
  | .snapshotResultRecords ring => Sys2Proof.Machine.execSnapshotResultRecords ring s
  | .captureHost ring => Sys2Proof.Machine.execCaptureHost ring s
  | .captureLanding ring => Sys2Proof.Machine.execCaptureLanding ring s
  | .captureFlume ring => Sys2Proof.Machine.execCaptureFlume ring s
  | .captureCancel ring => Sys2Proof.Machine.execCaptureCancel ring s
  | .buf ring desc => Sys2Proof.Machine.execBuf ring desc s
  | .captureBufferFlush ring => Sys2Proof.Machine.execCaptureBufferFlush ring s
  | .ringEnable kind ring cfg => Sys2Proof.Machine.execRingEnable kind ring cfg s
  | .ringDisable kind ring => Sys2Proof.Machine.execRingDisable kind ring s
  | .lossReport ring => Sys2Proof.Machine.execLossReport ring s
  | .interruptDelayExpiry evr ring => Sys2Proof.Machine.execInterruptDelayExpiry evr ring s
  | .dmaError fault => Sys2Proof.Machine.execDmaError fault s
  | .hifDiscard => Sys2Proof.Machine.execHifDiscard s
  | .hifCntClr => Sys2Proof.Machine.execHifCntClr s
  | .flumeLink port up => Sys2Proof.Machine.execFlumeLink port up s
  | .pauseFrame port quanta => Sys2Proof.Machine.execPauseFrame port quanta s
  | .pfcFrame port enables quanta => Sys2Proof.Machine.execPfcFrame port enables quanta s
  | .pauseExpiry port prio => Sys2Proof.Machine.execPauseExpiry port prio s
  | .rxFrameDiscard port => Sys2Proof.Machine.execRxFrameDiscard port s
  | .datagramSend stream => Sys2Proof.Machine.execDatagramSend stream s
  | .datagramFlush stream => Sys2Proof.Machine.execDatagramFlush stream s
  | .thinCheck => Sys2Proof.Machine.execThinCheck s
  | .flmCntClr => Sys2Proof.Machine.execFlmCntClr s
  | .chipEnc ring input upsets => Sys2Proof.Machine.execChipEnc ring input upsets s
  | .chipDec ring input => Sys2Proof.Machine.execChipDec ring input s
  | .chipSave ring => Sys2Proof.Machine.execChipSave ring s
  | .chipRestore ring record => Sys2Proof.Machine.execChipRestore ring record s
  | .chpCntClr => Sys2Proof.Machine.execChpCntClr s
  | .ringCfgWrite value => Sys2Proof.Machine.execRingCfgWrite value s
  | .deckCorrectedError region offset => Sys2Proof.Machine.execDeckCorrectedError region offset s
  | .deckUe region offset => Sys2Proof.Machine.execDeckUe region offset s
  | .deckWipeDone => Sys2Proof.Machine.execDeckWipeDone s
  | .dckRead ring => Sys2Proof.Machine.execDckRead ring s
  | .dckWrite ring payload => Sys2Proof.Machine.execDckWrite ring payload s
  | .dckCntClr => Sys2Proof.Machine.execDckCntClr s
  | .lndUncorr area obj record => Sys2Proof.Machine.execLndUncorr area obj record s
  | .blockRefresh retried => Sys2Proof.Machine.execBlockRefresh retried s
  | .blockProgramFail => Sys2Proof.Machine.execBlockProgramFail s
  | .scrubNow => Sys2Proof.Machine.execScrubNow s
  | .scrubPassComplete => Sys2Proof.Machine.execScrubPassComplete s
  | .landingCaptureComplete entry => Sys2Proof.Machine.execLandingCaptureComplete entry s
  | .lndThrottle peMean projYears => Sys2Proof.Machine.execLndThrottle peMean projYears s
  | .lndRead ring => Sys2Proof.Machine.execLndRead ring s
  | .lndDelete ring => Sys2Proof.Machine.execLndDelete ring s
  | .lndPartWrite value => Sys2Proof.Machine.execLndPartWrite value s
  | .landingReady retired => Sys2Proof.Machine.execLandingReady retired s
  | .lndCntClr => Sys2Proof.Machine.execLndCntClr s
  | .warmReady => Sys2Proof.Machine.execWarmReady s
  | .crystalProven => Sys2Proof.Machine.execCrystalProven s
  | .xtalLost => Sys2Proof.Machine.execXtalLost s
  | .refinCheck dev => Sys2Proof.Machine.execRefinCheck dev s
  | .pllLock => Sys2Proof.Machine.execPllLock s
  | .pllUnlock => Sys2Proof.Machine.execPllUnlock s
  | .forcedSwitch domain => Sys2Proof.Machine.execForcedSwitch domain s
  | .domainSwitchDone domain => Sys2Proof.Machine.execDomainSwitchDone domain s
  | .startRetry => Sys2Proof.Machine.execStartRetry s
  | .clkGateWrite value => Sys2Proof.Machine.execClkGateWrite value s
  | .gatedAccess block off wr => Sys2Proof.Machine.execGatedAccess block off wr s
  | .krfOppWrite value => Sys2Proof.Machine.execKrfOppWrite value s
  | .oppStepDone => Sys2Proof.Machine.execOppStepDone s
  | .clkCntClr => Sys2Proof.Machine.execClkCntClr s
  | .powerGood unpowered => Sys2Proof.Machine.execPowerGood unpowered s
  | .brownOut => Sys2Proof.Machine.execBrownOut s
  | .thermalReset => Sys2Proof.Machine.execThermalReset s
  | .genReset => Sys2Proof.Machine.execGenReset s
  | .tj120Reset => Sys2Proof.Machine.execTj120Reset s
  | .save => Sys2Proof.Machine.execSave s
  | .saveDone ok => Sys2Proof.Machine.execSaveDone ok s
  | .lcReqArm target => Sys2Proof.Machine.execLcReqArm target s
  | .lcReqConfirm target => Sys2Proof.Machine.execLcReqConfirm target s
  | .lcArmExpiry => Sys2Proof.Machine.execLcArmExpiry s
  | .ppsinEdge => Sys2Proof.Machine.execPpsinEdge s
  | .ptpMessage port v6 ptpDomain msg => Sys2Proof.Machine.execPtpMessage port v6 ptpDomain msg s
  | .delayReqSend => Sys2Proof.Machine.execDelayReqSend s
  | .timebaseHoldover => Sys2Proof.Machine.execTimebaseHoldover s
  | .shutdown => Sys2Proof.Machine.execShutdown s
  | .sstPartitionStart power => Sys2Proof.Machine.execSstPartitionStart power s
  | .sstPartitionComplete part result => Sys2Proof.Machine.execSstPartitionComplete part result s
  | .sstPowerTimeout power => Sys2Proof.Machine.execSstPowerTimeout power s
  | .interlock => Sys2Proof.Machine.execInterlock s
  | .sstFinalPage => Sys2Proof.Machine.execSstFinalPage s
  | .startChecksDone => Sys2Proof.Machine.execStartChecksDone s
  | .sstVoid => Sys2Proof.Machine.execSstVoid s
  | .laserLock b => Sys2Proof.Machine.execLaserLock b s
  | .sclEnable on => Sys2Proof.Machine.execSclEnable on s

end Sys2Proof.Machine
end

