-- ==== Sys2Proof/Safety.lean ====
section
/-! DEFINITION. What counts as a safe state and a safe outcome, in the terms claims use. -/

namespace Sys2Proof.Machine

/-- The register file is in canonical form: registers by rising address, none listed at its reset value. -/
def State.wf (s : State) : Bool := swf resetVal s.regs

/-- The working space of Deck is in canonical form, and the pre-trigger ring holds records numbered in storing order, none above
the number stored last (R346). -/
def DeckWf (d : DeckState) : Prop :=
  swf (fun _ => (0 : Byte)) d.space = true ∧ d.ring.Pairwise (fun a b => a.num < b.num)
    ∧ ∀ r ∈ d.ring, 1 ≤ r.num ∧ r.num ≤ d.nextNum

/-- Canonical form of what stands directly in the state. -/
def CoreWf (regs : List (Nat × Word)) (deck : DeckState) (probe : List (Nat × ProbePort))
    (kerf : List (Nat × KerfPort)) (scaler : List (Nat × SclPort)) (comp : List (Nat × List Byte))
    (baseline : List (Nat × List Byte)) (profileBuf : List (Nat × List Byte)) (cal : List (Nat × CalUnit))
    (sky : List (Nat × SkyChain)) (fio : List (Nat × FioChan)) : Prop :=
  swf resetVal regs = true ∧ DeckWf deck ∧ swf (fun _ => ProbePort.zero) probe = true
    ∧ swf (fun _ => KerfPort.zero) kerf = true ∧ swf (fun _ => SclPort.zero) scaler = true
    ∧ swf (fun _ => zeroEntry 16) comp = true ∧ swf (fun _ => noBaseline) baseline = true
    ∧ swf (fun _ => ([] : List Byte)) profileBuf = true ∧ swf (fun _ => CalUnit.zero) cal = true
    ∧ swf (fun _ => SkyChain.zero) sky = true ∧ swf (fun _ => FioChan.zero) fio = true

/-- Canonical form of the rings of the host interface. -/
def HostWf (hifCpl : List (Nat × CplRing)) (hifEvr : List (Nat × EvrRing)) (hifCap : List (Nat × CapRing)) : Prop :=
  swf (fun _ => CplRing.zero) hifCpl = true ∧ swf (fun _ => EvrRing.zero) hifEvr = true
    ∧ swf (fun _ => CapRing.zero) hifCap = true

/-- Canonical form of the tables of Flume and Chipper. -/
def FlumeWf (flumeTable : List (Nat × List Byte)) (flumePorts : List (Nat × List Byte))
    (flumeStreams : List (Nat × FStream)) (flumePort : List (Nat × FPort)) (flumeCtx : List (Nat × ChipCtx)) : Prop :=
  swf (fun _ => zeroEntry 64) flumeTable = true ∧ swf (fun _ => zeroEntry 64) flumePorts = true
    ∧ swf (fun _ => FStream.zero) flumeStreams = true ∧ swf (fun _ => FPort.zero) flumePort = true
    ∧ swf (fun _ => ChipCtx.zero) flumeCtx = true

/-- Canonical form of the tables of Landing. -/
def LandingWf (landingDir : List (Nat × CapEntry)) (landingTable : List (Nat × List Byte)) : Prop :=
  swf (fun _ => CapEntry.zero) landingDir = true ∧ swf (fun _ => zeroEntry 16) landingTable = true

/-- Canonical form of the tables of Bucking. -/
def BkgWf (bkgChanLoaded : List (Nat × List Byte)) (bkgChans : List (Nat × List Byte))
    (bkgSetLoaded : List (Nat × List Byte)) (bkgSets : List (Nat × List Byte)) (bkgBanks : List (Nat × List Byte))
    (bkgChan : List (Nat × BkgChan)) (bkgSet : List (Nat × BkgSet)) (bkgFade : List (Nat × BkgFade))
    (bkgPort : List (Nat × BkgPort)) : Prop :=
  swf (fun _ => zeroEntry 8) bkgChanLoaded = true ∧ swf (fun _ => zeroEntry 8) bkgChans = true
    ∧ swf (fun _ => zeroEntry 16) bkgSetLoaded = true ∧ swf (fun _ => zeroEntry 16) bkgSets = true
    ∧ swf (fun _ => bankReset) bkgBanks = true ∧ swf (fun _ => BkgChan.zero) bkgChan = true
    ∧ swf (fun _ => BkgSet.zero) bkgSet = true ∧ swf (fun _ => BkgFade.zero) bkgFade = true
    ∧ swf (fun _ => BkgPort.zero) bkgPort = true

/-- Canonical form of the tables of Cruiser. -/
def CruWf (cruZoneLoaded : List (Nat × List Byte)) (cruZones : List (Nat × List Byte))
    (cruTplLoaded : List (Nat × List Byte)) (cruTpls : List (Nat × List Byte)) (cruZone : List (Nat × CruZone))
    (cruProfs : List (Nat × List (List Byte))) : Prop :=
  swf (fun _ => zeroEntry 32) cruZoneLoaded = true ∧ swf (fun _ => zeroEntry 32) cruZones = true
    ∧ swf (fun _ => zeroEntry 64) cruTplLoaded = true ∧ swf (fun _ => zeroEntry 64) cruTpls = true
    ∧ swf (fun _ => CruZone.zero) cruZone = true ∧ swf (fun _ => ([] : List (List Byte))) cruProfs = true

/-- Canonical form of the records of outputs, pin pairs and banks. -/
def LampWf (lampObj : List (Nat × LampObj)) (lampAdj : List (Nat × AdjPair))
    (lampBank : List (Nat × BankSt)) : Prop :=
  swf (fun _ => LampObj.zero) lampObj = true ∧ swf (fun _ => AdjPair.zero) lampAdj = true
    ∧ swf (fun _ => BankSt.zero) lampBank = true

/-- Canonical form of the records of groups, lanes, rules and host request bits. -/
def RulesWf (wedgeGroup : List (Nat × WGroup)) (wedgeLane : List (Nat × LaneSt)) (markRule : List (Nat × RuleSt))
    (markHreqAt : List (Nat × Nat)) : Prop :=
  swf (fun _ => WGroup.zero) wedgeGroup = true ∧ swf (fun _ => LaneSt.zero) wedgeLane = true
    ∧ swf (fun _ => RuleSt.zero) markRule = true ∧ swf (fun _ => 0) markHreqAt = true

/-- What every step keeps: the register file, the working space of Deck and every table that the model reads by key are in
canonical form, the pre-trigger ring holds its records in storing order (R346), the next event record has a 32-bit number (R146), and Landing keeps at most eight result records (R399). -/
def State.Sound (s : State) : Prop :=
  CoreWf s.regs s.deck s.probe s.kerf s.scaler s.comp s.baseline s.profileBuf s.cal s.sky s.fio
    ∧ HostWf s.hif.cpl s.hif.evr s.hif.cap
    ∧ FlumeWf s.flume.table s.flume.ports s.flume.streams s.flume.port s.flume.ctx
    ∧ LandingWf s.landing.dir s.landing.table
    ∧ BkgWf s.bkg.chanLoaded s.bkg.chans s.bkg.setLoaded s.bkg.sets s.bkg.banks s.bkg.chan s.bkg.set s.bkg.fade s.bkg.port
    ∧ CruWf s.cru.zoneLoaded s.cru.zones s.cru.tplLoaded s.cru.tpls s.cru.zone s.cru.profs
    ∧ LampWf s.lamp.obj s.lamp.adj s.lamp.bank
    ∧ RulesWf s.wedge.group s.wedge.lane s.mark.rule s.mark.hreqAt
    ∧ s.seq < 2 ^ 32
    ∧ s.sst.records.length ≤ 8

/-! ### What a command leaves as it was -/

/-- The registers that the delivery of an event record may change (R311, R312, R324, R357): the event rings, the flag and the
pending messages of the host interface, the streams and fill of Flume, the contexts that compress them, and the archive. -/
def deliveryReg (a : Nat) : Bool :=
  a == R.HIF_EVT || a == R.HIF_MSIX_PBA || (decide (R.HIF_EVRn_BASE_LO 0 ≤ a) && decide (a < R.HIF_EVRn_BASE_LO 16))
    || a == R.FLM_EVT || a == R.FLM_Pp_STAT 0 || a == R.FLM_Pp_STAT 1
    || (decide (R.FLM_Sn_STAT 0 ≤ a) && decide (a < R.FLM_Sn_STAT 16)) || a == R.CHP_STAT || a == R.CHP_STORED_CNT
    || a == R.LND_ARC_OLD_LO || (decide (R.LND_ARCk_STAT 0 ≤ a) && decide (a < R.LND_ARCk_STAT 8))

/-- A state with its registers and what the delivery of event records may change put back to what they are in `s`: the outputs,
the number of the next record, the event rings, the streams, the archive and the records that the marking table looks at. -/
def State.aside (t s : State) : State :=
  { t with regs := s.regs, out := s.out, seq := s.seq, presented := s.presented, flume := s.flume,
           hif := { t.hif with evr := s.hif.evr },
           landing := { t.landing with archive := s.landing.archive, written := s.landing.written,
                                       thinDue := s.landing.thinDue } }

/-- A state with its registers and what records on their way downstream of Kerf may change put back to what they are in `s`: the
outputs, the posted records, the host interface, Flume's queues, Landing, Scaler with its profile buffers, and Cruiser. -/
def State.upstream (t s : State) : State :=
  { t with regs := s.regs, out := s.out, seq := s.seq, presented := s.presented, hif := s.hif, flume := s.flume,
           landing := s.landing, scaler := s.scaler, cru := s.cru, profileBuf := s.profileBuf }

/-- `t` differs from `s` in the registers listed and in what the delivery of event records may change, and in nothing else. -/
def Frame (l : List Nat) (s t : State) : Prop :=
  t.aside s = s ∧ ∀ a, a ∉ l → deliveryReg a = false → t.read a = s.read a

/-- `t` differs from `s` in the registers listed and in nothing else. -/
def OnlyRegs (l : List Nat) (s t : State) : Prop :=
  { t with regs := s.regs } = s ∧ ∀ a, a ∉ l → t.read a = s.read a

/-- The record that posting a request makes in a state (R146, R311). -/
def State.recordOf (s : State) (q : EventReq) : EventRec :=
  ⟨q.cls, q.state, q.port, q.loop, s.seq, q.time.getD s.tai, q.payload⟩

/-- On the way from `s` to `t` the first record posted was one of this class, STATE and payload, of no port (R146, R311). -/
def Posted (s t : State) (cls : Nat) (state : Bool) (payload : List Byte) : Prop :=
  Output.event (s.recordOf (evReq cls state payload)) ∈ t.out

/-- BAR0 writes to a block take effect: the unit is not held in reset, the block is not gated, and the host interface reports no
self-test (R372, R377, R403). -/
def State.answers (s : State) (block : Nat) : Prop :=
  s.start.held = false ∧ gated s block = false ∧ s.flag F.HIF_STAT.SELFTEST = false

/-- Registers whose RW fields have no behaviour of their own and no reserved encoding: SCL_Px_CFG, BLZ_MX_BRIGHT, SKY_Cc_LEVEL, the
addresses and data of the MSI-X messages, and SST_CFG. -/
def plainRegs : List Nat :=
  [R.BLZ_MX_BRIGHT, R.SST_CFG] ++ (List.range 2).map R.SCL_Px_CFG ++ (List.range 4).map R.SKY_Cc_LEVEL
    ++ (List.range 32).map R.HIF_MSIX_ADDR_LO ++ (List.range 32).map R.HIF_MSIX_ADDR_HI ++ (List.range 32).map R.HIF_MSIX_DATA

/-- The registers of event flags, written to clear. -/
def eventRegs : List Nat :=
  [R.GEN_EVT, R.CLK_EVT, R.PRB_EVT, R.KRF_EVT, R.SCL_EVT, R.BKG_EVT, R.CRU_EVT, R.BLZ_EVT, R.CAL_EVT, R.WDG_EVT, R.MRK_EVT,
   R.SKY_EVT, R.FIO_EVT, R.HIF_EVT, R.FLM_EVT, R.CHP_EVT, R.DCK_EVT, R.LND_EVT, R.SST_EVT]

/-- Registers without behaviour of their own that have reserved encodings, each with the values that its chapter does not reserve:
PRB_LASER_CFG, PRB_LOOP_CFG and PRB_Px_GIC (R59), KRF_Px_CFG (R85), SCL_CFG, SCL_BASE_TEMP and SCL_COMP_CFG (R103),
CRU_TRK_CFG and CRU_TRK_CONF (R154), CAL_Un_URG_CFG (R211). -/
def checkedRegs : List (Nat × (Nat → Bool)) :=
  [(R.PRB_LASER_CFG, fun v => decide (1 ≤ bits v 7 0)),
   (R.PRB_LOOP_CFG, fun v => decide (bits v 24 21 ≤ 10)),
   (R.PRB_Px_GIC 0, fun v => decide (0x4000 ≤ bits v 15 0) && decide (bits v 15 0 ≤ 0xBFFF)),
   (R.PRB_Px_GIC 1, fun v => decide (0x4000 ≤ bits v 15 0) && decide (bits v 15 0 ≤ 0xBFFF)),
   (R.KRF_Px_CFG 0, fun v => decide (2 ≤ bits v 6 0) && decide (bits v 6 0 ≤ 64) && decide (1 ≤ bits v 19 16)
      && decide (bits v 19 16 ≤ 12)),
   (R.KRF_Px_CFG 1, fun v => decide (2 ≤ bits v 6 0) && decide (bits v 6 0 ≤ 64) && decide (1 ≤ bits v 19 16)
      && decide (bits v 19 16 ≤ 12)),
   (R.SCL_CFG, fun v => decide (6 ≤ bits v 7 4) && decide (bits v 7 4 ≤ 14)),
   (R.SCL_BASE_TEMP, fun v => decide (-4000 ≤ sgn 16 v) && decide (sgn 16 v ≤ 30000)),
   (R.SCL_COMP_CFG, fun v => decide (100 ≤ bits v 9 0) && decide (bits v 9 0 ≤ 1000)),
   (R.CRU_TRK_CFG, fun v => decide (1 ≤ bits v 27 16)),
   (R.CRU_TRK_CONF, fun v => decide (1 ≤ bits v 7 0) && decide (1 ≤ bits v 23 16)),
   (R.CAL_Un_URG_CFG 0, fun v => decide (bits v 15 13 ≤ 6)), (R.CAL_Un_URG_CFG 1, fun v => decide (bits v 15 13 ≤ 6)),
   (R.CAL_Un_URG_CFG 2, fun v => decide (bits v 15 13 ≤ 6)), (R.CAL_Un_URG_CFG 3, fun v => decide (bits v 15 13 ≤ 6))]

/-- The registers of `t` after a write of an RW value to a register: its RW bits take the value's, the others stay. -/
def Stored (addr v : Nat) (s t : State) : Prop :=
  t.read addr = (s.read addr &&& ~~~BitVec.ofNat 32 (rwMask addr)) ||| (BitVec.ofNat 32 v &&& BitVec.ofNat 32 (rwMask addr))
    ∧ OnlyRegs [addr] s t

/-- An ignored write: it is counted in GEN_WRERR_CNT, which saturates, and does nothing else (R8). -/
def Ignored (s t : State) : Prop :=
  t.get F.GEN_WRERR_CNT.COUNT = min 0xFFFFFFFF (s.get F.GEN_WRERR_CNT.COUNT + 1) ∧ OnlyRegs [R.GEN_WRERR_CNT] s t

/-- A command completes with a next state of which something holds. -/
def Gives (c : Instr) (s : State) (P : State → Prop) : Prop := ∃ t, exec c s = .next t ∧ P t

/-- The bits of a register that a field takes. -/
def Field.mask (f : Field) : Word := BitVec.ofNat 32 ((2 ^ f.width - 1) * 2 ^ f.lo)

/-- The bits that some fields take of the register at an address. -/
def maskAt : List Field → Nat → Word
  | [], _ => 0
  | f :: l, a => (if f.addr = a then f.mask else 0) ||| maskAt l a

/-- The registers of `t` are those of `s` with the fields listed at zero and every other bit as it was. -/
def Cleared (l : List Field) (s t : State) : Prop := ∀ a, t.read a = s.read a &&& ~~~maskAt l a

/-- The bits that listed fields, each with a value, give the register at an address. -/
def valueAt : List (Field × Nat) → Nat → Word
  | [], _ => 0
  | e :: l, a => (if e.1.addr = a then BitVec.ofNat 32 (e.2 % 2 ^ e.1.width * 2 ^ e.1.lo) else 0) ||| valueAt l a

/-- A register of `t` is that of `s` with the fields listed at the values listed and every other bit as it was. -/
def FieldsAt (l : List (Field × Nat)) (s t : State) (a : Nat) : Prop :=
  t.read a = (s.read a &&& ~~~maskAt (l.map (·.1)) a) ||| valueAt l a

/-- `t` differs from `s` in the fields listed, which hold the values listed, and in nothing else. -/
def Sets (l : List (Field × Nat)) (s t : State) : Prop := { t with regs := s.regs } = s ∧ ∀ a, FieldsAt l s t a

/-- `t` differs from `s` in the fields listed, which hold the values listed, in what the delivery of event records may change, and
in nothing else. -/
def Posts (l : List (Field × Nat)) (s t : State) : Prop :=
  t.aside s = s ∧ ∀ a, deliveryReg a = false → FieldsAt l s t a

/-- A saturating count field after `n` more. -/
def State.up (s : State) (f : Field) (n : Nat := 1) : Field × Nat := (f, min f.max (s.get f + n))

/-- The blocks of the sensing datapath. -/
def sensingBlock (b : Nat) : Bool := decide (2 ≤ b) && decide (b ≤ 6)

/-- A state with what the sensing datapath and the way of its records may change put back to what it is in `s`: the outputs, the
posted records and the free values used, the host interface, Flume, Deck, Landing, and the Probe, Kerf, Scaler, Bucking and
Cruiser with their tables. -/
def State.unsensed (t s : State) : State :=
  { t with regs := s.regs, out := s.out, seq := s.seq, freeCount := s.freeCount, presented := s.presented, hif := s.hif,
           flume := s.flume, deck := s.deck, landing := s.landing, profileBuf := s.profileBuf, probe := s.probe,
           loop := s.loop, kerf := s.kerf, scaler := s.scaler, comp := s.comp, baseline := s.baseline, bkg := s.bkg,
           cru := s.cru, returning := s.returning, returnAt := s.returnAt, failedAt := s.failedAt }

/-- `t` differs from `s` in the fields listed, in what the sensing datapath and the way of its records may change, and in nothing
else; of the registers of the host interface and the blocks above it nothing is said. -/
def Senses (l : List (Field × Nat)) (s t : State) : Prop :=
  t.unsensed s = s ∧ ∀ a, a < 0xD0000 → sensingBlock (a / 0x10000) = false → FieldsAt l s t a

/-- `t` differs from `s` in the fields listed, in what records on their way downstream of Kerf may change, Scaler and Cruiser with
them, and in nothing else; of the registers of the host interface and the blocks above it nothing is said. -/
def Probes (l : List (Field × Nat)) (s t : State) : Prop :=
  t.upstream s = s ∧ ∀ a, a < 0xD0000 → a / 0x10000 ≠ 4 → a / 0x10000 ≠ 6 → FieldsAt l s t a

/-- `t` differs from `s` in the fields listed, in what the completion of an item may change, the host interface, Flume's queues
and Landing, and in nothing else; of the registers of the host interface and the blocks above it nothing is said. -/
def Completes (l : List (Field × Nat)) (s t : State) : Prop :=
  { t with regs := s.regs, out := s.out, seq := s.seq, presented := s.presented, hif := s.hif, flume := s.flume,
           landing := s.landing } = s ∧ ∀ a, a < 0xD0000 → FieldsAt l s t a

/-- On the way from `s` to `t` a record of this class, STATE and payload was posted, of no port, at the time of `s` (R146). -/
def PostedOnce (s t : State) (cls : Nat) (state : Bool) (payload : List Byte) : Prop :=
  ∃ new n, t.out = new ++ s.out ∧ Output.event { s.recordOf (evReq cls state payload) with seq := n } ∈ new

/-- `t` is `s` after a reset for a cause (R375, R376): every register reads its reset value but those that a reset leaves and the
five that it sets, HIF_EPOCH counts it, and of the rest only what is non-volatile stays. Landing's data is not part of it. -/
def AfterReset (cause : Nat) (s t : State) : Prop :=
  t.get F.GEN_RESET_CAUSE.CAUSE = cause ∧ t.lc = s.lc
    ∧ t.get F.HIF_EPOCH.EPOCH = (s.get F.HIF_EPOCH.EPOCH + 1) % 2 ^ F.HIF_EPOCH.EPOCH.width
    ∧ (∀ a ∈ keptRegs, a ≠ R.SST_REPAIR → t.read a = s.read a)
    ∧ (∀ a, a ∉ keptRegs → a ∉ [R.GEN_LC_STAT, R.GEN_RESET_CAUSE, R.HIF_EPOCH, R.DCK_STAT, R.SCL_STAT] →
        t.read a = resetVal a)
    ∧ { t with regs := [], freeCount := 0, elapsed := 0, powerAt := 0, out := [], pending := [], landing := LandingState.zero,
               baseline := [], wedge := WedgeState.zero, mark := MarkState.zero, start := StartState.zero,
               sst := SstState.zero } = State.reset
    ∧ t.wedge = { WedgeState.zero with store := s.wedge.store } ∧ t.mark = { MarkState.zero with store := s.mark.store }
    ∧ t.elapsed = s.elapsed ∧ t.powerAt = s.elapsed ∧ t.pending = s.pending ∧ t.out = .fieldReset :: s.out

/-- What is non-volatile of the starts and the self-test stays. -/
def KeepsStore (s t : State) : Prop :=
  t.baseline = s.baseline
    ∧ t.start = { StartState.zero with signal := s.start.signal, sensing := s.start.sensing, unpowered := s.start.unpowered }
    ∧ t.sst = { SstState.zero with records := s.sst.records, serial := s.sst.serial, repairs := s.sst.repairs,
                                   previous := s.sst.previous }

/-- The blocks of the signal plane: Blaze, Caliper, Wedge, the marking table, Skyline and field I/O. -/
def signalBlock (b : Nat) : Bool := decide (7 ≤ b) && decide (b ≤ 12)

/-- A state with what the signal plane and the delivery of its event records may change put back to what it is in `s`. -/
def State.unsignaled (t s : State) : State :=
  { t.aside s with freeCount := s.freeCount, lamp := s.lamp, cal := s.cal, wedge := s.wedge, mark := s.mark, sky := s.sky,
                   fio := s.fio }

/-- `t` differs from `s` in the fields listed, in what the signal plane and the delivery of its event records may change, and in
nothing else. -/
def Signals (l : List (Field × Nat)) (s t : State) : Prop :=
  t.unsignaled s = s ∧ ∀ a, signalBlock (a / 0x10000) = false → deliveryReg a = false → FieldsAt l s t a

/-- `t` differs from `s` in the fields listed, in what the signal plane and the completion of an item may change, and in nothing
else; of the registers of the host interface and the blocks above it nothing is said. -/
def Activates (l : List (Field × Nat)) (s t : State) : Prop :=
  { t.unsignaled s with hif := s.hif, landing := s.landing } = s
    ∧ ∀ a, a < 0xD0000 → signalBlock (a / 0x10000) = false → FieldsAt l s t a

/-- Fields of the instances 0 to n−1 of a register family. -/
def family (n : Nat) (fs : List (Nat → Field)) : List Field := (List.range n).flatMap fun i => fs.map fun f => f i

/-- The count fields of a block that its CNT_CLR clears (R85, R103, R124, R154, R179, R211, R247, R248, R270, R289, R317, R341,
R364, R388). -/
def countFields (block : Nat) : List Field :=
  match block with
  | 1 => [F.CLK_GATED.COUNT, F.CLK_CNT.FORCED, F.CLK_CNT.RETRY, F.CLK_CNT.XTAL_LOST, F.CLK_CNT.UNLOCK]
  | 3 => F.KRF_SAT_CNT.SAT :: family 2 [F.KRF_Px_CLIP_CNT.CLIP, F.KRF_Px_BRIDGED_CNT.BRIDGED, F.KRF_Px_HELD_CNT.HELD,
      F.KRF_Px_SLEW_CNT.SLEW, F.KRF_Px_RESTART_CNT.RESTART, F.KRF_Px_DROP_CNT.DROP]
  | 4 => F.SCL_ABORT_CNT.ABORT :: family 2 [F.SCL_Px_PROFILE_CNT.PROFILES] ++ family 2 [F.SCL_Px_CLIP_CNT.CLIP]
      ++ family 2 [F.SCL_Px_EXCL_CNT.EXCL]
  | 5 => F.BKG_SAT_CNT.SAT :: family 2 [F.BKG_Px_FILL_CNT.FILL] ++ family 2 [F.BKG_Px_DFILL_CNT.DFILL]
      ++ family 2 [F.BKG_Px_GAP_CNT.GAP] ++ family 16 [F.BKG_FPn_CNT.REPLACED] ++ family 16 [F.BKG_FPn_CNT.NULL]
  | 6 => [F.CRU_TRK_FULL_CNT.REFUSED, F.CRU_DET_DROP_CNT.DROPPED, F.CRU_MISS_CNT.MISSED, F.CRU_REC_CNT.RECORDS]
  | 7 => [F.BLZ_MX_CNT.SWAPS, F.BLZ_MX_CNT.MERGED, F.BLZ_MX_CNT2.ALIGN, F.BLZ_MX_CNT2.MSYNC_IGN]
      ++ family 8 [F.BLZ_Bb_CNT.TSD, F.BLZ_Bb_CNT.SEARCH]
  | 8 => family 4 [F.CAL_Un_CNT.PREEMPT, F.CAL_Un_CNT.OVRWORDS]
  | 9 => [F.WDG_CNT.ISOLATIONS, F.WDG_CNT.FAILSAFES, F.WDG_CNT2.HELD, F.WDG_CNT2.REFUSED, F.WDG_CNT3.FALLBACKS, F.WDG_CNT3.VOTER]
  | 10 => [F.MRK_PASS_CNT.PASSES]
  | 11 => family 4 [F.SKY_Cc_EXCH.EXCH, F.SKY_Cc_ERR.CRC, F.SKY_Cc_ERR.FRAMING, F.SKY_Cc_ERR2.LATE, F.SKY_Cc_ERR2.LINE,
      F.SKY_Cc_RT.MAX]
  | 12 => family 16 [F.FIO_IOn_CNT.EDGES, F.FIO_IOn_CNT.SILENCES]
  | 13 => [F.HIF_DB_ERR_CNT.DB_ERR, F.HIF_DMA_ERR_CNT.DMA_ERR] ++ family 16 [F.HIF_EVRn_CNT.LOST]
      ++ family 16 [F.HIF_CAPn_CNT.MISSED]
  | 14 => family 2 [F.FLM_Pp_TX_CNT.DATAGRAMS] ++ family 2 [F.FLM_Pp_PAUSE_CNT.FRAMES] ++ family 2 [F.FLM_Pp_RX_DISC.FRAMES]
      ++ family 16 [F.FLM_Sn_STAT.STEPS] ++ family 16 [F.FLM_Sn_THINNED.RECORDS] ++ family 16 [F.FLM_Sn_DROP_CNT.RECORDS]
  | 15 => [F.CHP_VERIFY_CNT.BLOCKS, F.CHP_STORED_CNT.BLOCKS]
  | 16 => [F.DCK_CE_CNT.WORDS, F.DCK_UE_CNT.WORDS, F.DCK_RING_RAW_CNT.RECORDS]
  | 17 => [F.LND_CE_CNT.SECTORS, F.LND_UE_CNT.SECTORS, F.LND_REFRESH_CNT.BLOCKS] ++ family 8 [F.LND_ARCk_STAT.THINNED]
  | _ => []

/-- BAR0 reads of a block answer its registers: the unit is not held in reset, the block is not gated, and no partition of the
self-test scans it (R372, R377, R403). -/
def State.readable (s : State) (block : Nat) : Prop :=
  s.start.held = false ∧ gated s block = false ∧ scanned s block = false

/-- The state a port is in after its source is lost: NO_SOURCE if it swept or measured without a stop pending (R38). -/
def afterLoss (s : State) (p : Nat) : Nat :=
  if (s.portState p = psSweeping ∨ s.portState p = psMeasuring) ∧ (s.probePort p).stopping = false then psNoSource else s.portState p

/-- The state a port is in after a laser takes duty: out of NO_SOURCE it goes on as before (R38). -/
def afterResume (s : State) (p st : Nat) : Nat :=
  if st = psNoSource ∧ s.clk.down = false then
    (if (s.probePort p).resumeTo = psMeasuring then psMeasuring else psSweeping)
  else st

/-! ### Completions -/

/-- The completion of an item with an outcome (R309). -/
def Item.completion (it : Item) (o : Outcome) (held : Bool) : Completion :=
  ⟨dTag it.desc, o.xfer, o.status, it.index, it.ring, it.cap, dOpcode it.desc, o.partialFlag, o.lost, held, o.info0, o.info1⟩

/-- Whether a completion ring takes an entry at once: it may be written, nothing is held before it, and it has room (R315). -/
def takesEntry (s : State) (q : Nat) : Prop :=
  cplOpen s q = true ∧ (s.cplRing q).held = [] ∧ ringUsed s .cpl q < ringSize s .cpl q

/-- On the way from `s` to `t` an item left its ring with an outcome: its completion is the next entry of its completion ring, or
is held, marked so (R296, R309, R315). -/
def Completed (it : Item) (o : Outcome) (s t : State) : Prop :=
  (∀ x ∈ t.hif.items, sameItem x it = false)
    ∧ (takesEntry s it.cq → Output.hostWrite (ringAddr s .cpl it.cq + 32 * (s.get (ringProd .cpl it.cq) % ringSize s .cpl it.cq))
        (it.completion o false).bytes ∈ t.out)
    ∧ (¬takesEntry s it.cq → it.completion o true ∈ (t.cplRing it.cq).held)

/-- An item left its ring with an outcome, its completion held. -/
def HeldAs (it : Item) (o : Outcome) (t : State) : Prop :=
  (∀ x ∈ t.hif.items, sameItem x it = false) ∧ it.completion o true ∈ (t.cplRing it.cq).held

/-- In `t` an item has left its ring with an outcome: its completion was written to its completion ring, or is held (R309, R315). -/
def Ended (it : Item) (o : Outcome) (t : State) : Prop :=
  (∀ x ∈ t.hif.items, sameItem x it = false)
    ∧ ((∃ a, Output.hostWrite a (it.completion o false).bytes ∈ t.out) ∨ it.completion o true ∈ (t.cplRing it.cq).held)

/-- How many of the completions that a ring holds a state can write into it, oldest first (R315). -/
def heldRoom (s : State) (q : Nat) : Nat :=
  if cplOpen s q then min (s.cplRing q).held.length (ringSize s .cpl q - ringUsed s .cpl q) else 0

/-- On the way from `s` to `t` the completions that a ring held were written as far as there was room, in order (R315). -/
def Delivers (q : Nat) (s t : State) : Prop :=
  (t.cplRing q).held = (s.cplRing q).held.drop (heldRoom s q)
    ∧ ∀ i c, (s.cplRing q).held[i]? = some c → i < heldRoom s q →
        Output.hostWrite (ringAddr s .cpl q + 32 * ((s.get (ringProd .cpl q) + i) % 2 ^ 32 % ringSize s .cpl q)) c.bytes ∈ t.out

/-- Whether an event ring can take the whole report of its gap (R312). -/
def reports (s : State) (n : Nat) : Prop :=
  (s.evrRing n).gap ≠ [] ∧ evrOpen s n = true ∧ (gapReport (s.evrRing n).gap).length ≤ evrFree s n

/-- On the way from `s` to `t` the gap of an event ring was reported, one LOSS record for each class of the report (R312). -/
def Reported (n : Nat) (s t : State) : Prop :=
  let rep := gapReport (s.evrRing n).gap
  (t.evrRing n).gap = [] ∧ ∀ i g, rep[i]? = some g →
    Output.event ⟨0x90, true, false, false, (s.evrRing n).lastLost, s.tai, lossPayload g rep.length i⟩ ∈ t.out

/-- An outcome that is a next state. -/
def completes (o : Host.Outcome State Fault Refusal) : Bool :=
  match o with
  | .next _ => true
  | .fault _ => false
  | .refused _ => false

end Sys2Proof.Machine
end

