-- ==== Sys2Proof/Certificates/Slice0/Obligations.lean ====
section
/-! DEFINITION. The statements for the provers, made from the numbered rules of the spec. -/

open Sys2Proof Sys2Proof.Machine

/-! ### Steps, the queue and what every command keeps -/

/-- The command at the front of the queue is executed on the state with the queue's rest: step is exec of that command, whatever the
outcome. -/
def Obligations.StepTakesTheFrontCommand : Prop :=
  ∀ (c : Instr) (rest : List Instr) (s : State), s.pending = c :: rest → step s = exec c { s with pending := rest }

/-- On an empty queue a step is one nanosecond of time (log entry 1, the model's choice): the model's clock counts it, and, while
the unit is not held in reset, the timebase counts 0, 1 or more nanoseconds as its frequency correction gives; nothing else
changes, so that a unit with FREQ at 0 and no fraction left counts exactly one. -/
def Obligations.EmptyQueueStepIsANanosecond : Prop :=
  ∀ s : State, s.pending = [] →
    (∃ now frac, step s = .next { s with now := now, elapsed := s.elapsed + 1, tb := { s.tb with frac := frac } })
    ∧ (s.start.held = true → step s = .next { s with elapsed := s.elapsed + 1 })
    ∧ (s.start.held = false → s.read R.CLK_TB_FREQ = 0 → s.tb.frac = 0 →
        step s = .next { s with now := s.now + 1, elapsed := s.elapsed + 1 })

/-- Every command, on every operand and in every state, completes: exec answers a next state, with the queue and the model's clock
as they were, free values only used up and outputs only added. -/
def Obligations.EveryCommandCompletes : Prop :=
  ∀ (c : Instr) (s : State), Gives c s fun t =>
    t.pending = s.pending ∧ t.elapsed = s.elapsed ∧ s.freeCount ≤ t.freeCount ∧ s.out <:+ t.out

/-- The invariant `State.Sound` is kept by every step: the register file and every sparse table stay in canonical form, the
pre-trigger ring keeps its records in storing order (R346), the number of the next event record stays below 2^32 (R146) and Landing keeps at most eight self-test result records (R399). -/
def Obligations.SoundIsKeptByEveryStep : Prop :=
  ∀ s t : State, s.Sound → step s = .next t → t.Sound

/-- The state after reset satisfies the invariant, and its queue is empty. -/
def Obligations.ResetIsSound : Prop :=
  State.reset.Sound ∧ State.reset.pending = []

/-- After reset every register of the map reads the value its table states: control and enable registers 0, PRB_CTL 8, WDG_CTL 2,
the Kerf configuration of both ports 0x48_0C14, and zero where no block names the address. The numbers of ownership registers,
rings and counts are zero: every resource is free and every ring disabled. -/
def Obligations.ResetRegisterValues : Prop :=
  (∀ a, State.reset.read a = resetVal a) ∧ (∀ a, regRow a = none → State.reset.read a = 0)
  ∧ (∀ r : Resource, State.reset.read (ownAddr r) = 0)
  ∧ (∀ (k : RingKind) (n : Fin 16), State.reset.flag (ringEn k n) = false)
  ∧ State.reset.read R.PRB_CTL = 8 ∧ State.reset.read R.WDG_CTL = 2
  ∧ (∀ p : Port, State.reset.read (R.KRF_Px_CFG p.num) = 0x480C14)
  ∧ State.reset.get F.GEN_WRERR_CNT.COUNT = 0 ∧ State.reset.lc = 0

/-! ### Count clears -/

/-- A write of CNT_CLR in a block's CTL register clears every count field of that block, leaves every other bit of every register
as it was, and changes nothing else but the counts that the block's tallies and status snapshots hold: those of Bucking's channels,
of Cruiser's zones, of the lamp and pin tallies, of Skyline's heads and of the field channels. KRF_CTL holds a format that R85
does not reserve. -/
def Obligations.CountClears : Prop :=
  ∀ s : State, s.Sound →
    (s.answers 1 → Gives .clkCntClr s fun t => Cleared (countFields 1) s t ∧ { t with regs := s.regs } = s)
  ∧ (s.answers 3 → s.get F.KRF_CTL.RING_FMT < 2 →
      Gives .krfCntClr s fun t => Cleared (countFields 3) s t ∧ { t with regs := s.regs } = s)
  ∧ (s.answers 4 → Gives .sclCntClr s fun t => Cleared (countFields 4) s t ∧ { t with regs := s.regs } = s)
  ∧ (s.answers 5 → Gives .bkgCntClr s fun t => Cleared (countFields 5) s t ∧ { t with regs := s.regs, bkg := s.bkg } = s
      ∧ { t.bkg with chan := s.bkg.chan } = s.bkg
      ∧ ∀ c, t.bkgChan c = { s.bkgChan c with fill := 0, dfill := 0, gap := 0 })
  ∧ (s.answers 6 → Gives .cruCntClr s fun t => Cleared (countFields 6) s t ∧ { t with regs := s.regs, cru := s.cru } = s
      ∧ { t.cru with zone := s.cru.zone } = s.cru
      ∧ ∀ z, t.cruZone z = { s.cruZone z with vib := (s.cruZone z).vib.clearCounts, tlev := (s.cruZone z).tlev.clearCounts,
                                              trate := (s.cruZone z).trate.clearCounts })
  ∧ (s.answers 7 → Gives .blzCntClr s fun t => Cleared (countFields 7) s t ∧ { t with regs := s.regs } = s)
  ∧ (s.answers 8 → Gives .calCntClr s fun t => Cleared (countFields 8) s t ∧ { t with regs := s.regs, lamp := s.lamp } = s
      ∧ (∀ n, t.lampObj n = { s.lampObj n with oc := (s.lampObj n).oc.clearCounts, off := (s.lampObj n).off.clearCounts,
                                               lowcur := (s.lampObj n).lowcur.clearCounts })
      ∧ (∀ n, t.adjPair n = { s.adjPair n with tally := (s.adjPair n).tally.clearCounts }))
  ∧ (s.answers 9 → Gives .wdgCntClr s fun t => Cleared (countFields 9) s t ∧ { t with regs := s.regs } = s)
  ∧ (s.answers 10 → Gives .mrkCntClr s fun t => Cleared (countFields 10) s t ∧ { t with regs := s.regs } = s)
  ∧ (s.answers 11 → Gives .skyCntClr s fun t => Cleared (countFields 11) s t ∧ { t with regs := s.regs, sky := s.sky } = s
      ∧ ∀ c : Fin 4, { t.chain c with head := (s.chain c).head } = s.chain c
        ∧ ∀ e ∈ (t.chain c).head, e.2.tally.transient = 0 ∧ e.2.tally.missed = 0 ∧ e.2.since = 0)
  ∧ (s.answers 12 → Gives .fioCntClr s fun t => Cleared (countFields 12) s t ∧ { t with regs := s.regs, fio := s.fio } = s
      ∧ ∀ n, { t.fioChan n with tally := (s.fioChan n).tally } = s.fioChan n
        ∧ ∀ e ∈ (t.fioChan n).tally, e.2.transient = 0 ∧ e.2.missed = 0)
  ∧ (s.answers 13 → Gives .hifCntClr s fun t => Cleared (countFields 13) s t ∧ { t with regs := s.regs } = s)
  ∧ (s.answers 14 → Gives .flmCntClr s fun t => Cleared (countFields 14) s t ∧ { t with regs := s.regs } = s)
  ∧ (s.answers 15 → Gives .chpCntClr s fun t => Cleared (countFields 15) s t ∧ { t with regs := s.regs } = s)
  ∧ (s.answers 16 → Gives .dckCntClr s fun t => Cleared (countFields 16) s t ∧ { t with regs := s.regs } = s)
  ∧ (s.answers 17 → Gives .lndCntClr s fun t => Cleared (countFields 17) s t ∧ { t with regs := s.regs } = s)

/-! ### Register accesses -/

/-- A 32-bit aligned BAR0 write to a register without behaviour of its own sets its RW fields to the value's bits, leaves its reserved
and read-only bits and everything else as they were (R4, R5); a value that holds a reserved encoding leaves the whole register
unchanged and is counted once in GEN_WRERR_CNT (R7, R8). A write of 1 to a bit of an event-flag register clears it, a 0 has no
effect (R4). -/
def Obligations.RegisterWriteSetsFields : Prop :=
  ∀ (s : State) (addr : Nat) (v : BitVec 64), s.Sound → s.answers (addr / 0x10000) →
    (addr ∈ plainRegs → Gives (.registerWrite addr 4 v) s (Stored addr v.toNat s))
  ∧ (∀ e ∈ checkedRegs, e.1 = addr →
      Gives (.registerWrite addr 4 v) s fun t => if e.2 (v.toNat % 2 ^ 32) then Stored addr v.toNat s t else Ignored s t)
  ∧ (addr ∈ eventRegs → Gives (.registerWrite addr 4 v) s fun t =>
      t.read addr = s.read addr &&& ~~~(v.setWidth 32 &&& ((regRow addr).map (·.w1c)).getD 0) ∧ OnlyRegs [addr] s t)

/-- A BAR0 write that is narrower than 32 bits or not aligned (R6), or to an address that no block names (R293), is ignored and counted
once in GEN_WRERR_CNT, which saturates (R8); nothing else changes. A 64-bit write is carried out as two 32-bit writes, lower address
first (R6). -/
def Obligations.WriteWidths : Prop :=
  ∀ (s : State) (addr width : Nat) (v : BitVec 64), s.Sound →
    (s.start.held = false → (width ≠ 4 ∧ width ≠ 8) ∨ addr % 4 ≠ 0 → Gives (.registerWrite addr width v) s (Ignored s))
  ∧ (s.start.held = false → addr % 4 = 0 → regRow addr = none → Gives (.registerWrite addr 4 v) s (Ignored s))
  ∧ (addr % 4 = 0 → ∃ t, exec (.registerWrite addr 4 ((v.setWidth 32).setWidth 64)) s = .next t
      ∧ exec (.registerWrite addr 8 v) s = exec (.registerWrite (addr + 4) 4 (v >>> 32)) t)

/-- A 32-bit read of the low word of a value that spans a _LO and a _HI register answers the low word and snapshots the rest into the _HI
register (R6): the timebase, a port's sweep number, a chain's missing heads, and the times of Deck's and Landing's oldest records. -/
def Obligations.LoReadSnapshotsTheRest : Prop :=
  ∀ s : State, s.Sound →
    (s.readable 1 → Gives (.loRegisterSnapshotRead R.CLK_TB_NOW_LO 4) s fun t =>
        t.read R.CLK_TB_NOW_HI = s.now.extractLsb' 32 32 ∧ t.out = .readData R.CLK_TB_NOW_LO (s.now.toNat % 2 ^ 32) :: s.out
        ∧ { t with regs := s.regs, out := s.out } = s ∧ ∀ a, a ≠ R.CLK_TB_NOW_HI → t.read a = s.read a)
  ∧ (∀ p : Port, s.readable 2 → Gives (.loRegisterSnapshotRead (R.PRB_Px_SWEEP_LO p.num) 4) s fun t =>
        t.read (R.PRB_Px_SWEEP_HI p.num) = BitVec.ofNat 32 ((s.probePort p.num).number / 2 ^ 32)
        ∧ t.out = .readData (R.PRB_Px_SWEEP_LO p.num) (s.read (R.PRB_Px_SWEEP_LO p.num)).toNat :: s.out
        ∧ { t with regs := s.regs, out := s.out } = s ∧ ∀ a, a ≠ R.PRB_Px_SWEEP_HI p.num → t.read a = s.read a)
  ∧ (∀ c : Fin 4, s.readable 11 → Gives (.loRegisterSnapshotRead (R.SKY_Cc_MISS_LO c) 4) s fun t =>
        (∀ h : Fin 32, (t.read (R.SKY_Cc_MISS_HI c)).getLsbD h = ((s.chain c).headAt (32 + h)).missing)
        ∧ t.out = .readData (R.SKY_Cc_MISS_LO c) (s.read (R.SKY_Cc_MISS_LO c)).toNat :: s.out
        ∧ { t with regs := s.regs, out := s.out } = s ∧ ∀ a, a ≠ R.SKY_Cc_MISS_HI c → t.read a = s.read a)
  ∧ (∀ r rest, s.readable 16 → s.deck.ring = r :: rest → Gives (.loRegisterSnapshotRead R.DCK_RING_OLD_LO 4) s fun t =>
        t.read R.DCK_RING_OLD_HI = BitVec.ofNat 32 (r.launch / 2 ^ 32)
        ∧ t.out = .readData R.DCK_RING_OLD_LO (s.read R.DCK_RING_OLD_LO).toNat :: s.out
        ∧ { t with regs := s.regs, out := s.out } = s ∧ ∀ a, a ≠ R.DCK_RING_OLD_HI → t.read a = s.read a)
  ∧ (∀ r rest, s.readable 17 → s.landing.archive = r :: rest → Gives (.loRegisterSnapshotRead R.LND_ARC_OLD_LO 4) s fun t =>
        t.read R.LND_ARC_OLD_HI = BitVec.ofNat 32 (r.time / 2 ^ 32)
        ∧ t.out = .readData R.LND_ARC_OLD_LO (s.read R.LND_ARC_OLD_LO).toNat :: s.out
        ∧ { t with regs := s.regs, out := s.out } = s ∧ ∀ a, a ≠ R.LND_ARC_OLD_HI → t.read a = s.read a)

/-! ### Shared resources -/

/-- The actions of an ownership register (R19, R21, R24). CLAIM_HOST on a free resource, or on one the host owns, gives it to the host and
changes nothing else; on one that another claimant owns it is refused: OWNER is unchanged, LAST_LOSER takes 0xF, CONFLICT_CNT
increments up to 0xFF and an OWNERSHIP record names the resource and both claimants. RELEASE_HOST frees a resource that the host owns;
on any other it has no effect on OWNER and is handled as a refused host claim. CNT_CLR clears CONFLICT_CNT before a claim or a release
of the same write, so that a conflict caused by the same write is counted and CONFLICT_CNT then reads 1. A write that sets both actions is a reserved encoding, ignored and counted (R7). -/
def Obligations.OwnershipActions : Prop :=
  ∀ (s : State) (r : Resource), s.Sound → s.answers (ownAddr r / 0x10000) →
    let refused (count : Nat) (t : State) : Prop :=
      t.owner r = s.owner r ∧ t.get (loserF r) = 0xF ∧ t.get (conflictF r) = count
        ∧ Posted s t 0x50 true (ownershipPayload r (s.owner r) 0xF false) ∧ Frame [ownAddr r] s t
    let done (owner count : Nat) (t : State) : Prop :=
      t.owner r = owner ∧ t.get (loserF r) = s.get (loserF r) ∧ t.get (conflictF r) = count ∧ OnlyRegs [ownAddr r] s t
    let count := s.get (conflictF r)
    let free : Prop := s.owner r = 0 ∨ s.owner r = 0xF
    (s.frozen = false → (free → Gives (.claimHost r) s (done 0xF count)) ∧ (¬free → Gives (.claimHost r) s (refused (min 0xFF (count + 1)))))
  ∧ (s.owner r = 0xF → Gives (.releaseHost r) s (done 0 count))
  ∧ (s.owner r ≠ 0xF → Gives (.releaseHost r) s (refused (min 0xFF (count + 1))))
  ∧ (∀ claim release : Bool, s.frozen = false → (claim && release) = false → Gives (.ownershipCntClr r claim release) s
      (if (claim = true ∧ ¬free) ∨ (release = true ∧ s.owner r ≠ 0xF) then refused 1
       else done (if claim then 0xF else if release then 0 else s.owner r) 0))
  ∧ Gives (.ownershipCntClr r true true) s (Ignored s)

/-! ### Clocks -/

/-- The oscillators (R365 to R367). WARM_READY outside a hold sets the bit, and PLL_REF follows XTAL_OK; CRYSTAL_PROVEN, once per reset and
with the warm oscillator running, sets XTAL_OK, moves the PLL to the crystal and trims the interval counters; XTAL_LOST with the
warm oscillator running clears XTAL_OK, moves the PLL to it, sets and counts the flag and posts CLOCK cause 0, and without it holds
every clocked domain in reset with no source (R370); REFIN_CHECK sets REFIN_OK where the deviation is at most 100 ppm. TRIM_SRC is
REFIN, else the crystal, else none, and nothing else changes. -/
def Obligations.Oscillators : Prop :=
  ∀ s : State, s.Sound →
    (s.start.held = false → Gives .warmReady s
      (Sets [(F.CLK_STAT.WARM_READY, 1), (F.CLK_STAT.PLL_REF, b2n (!s.flag F.CLK_STAT.XTAL_OK))] s))
  ∧ (s.clk.tripped = false → s.flag F.CLK_STAT.XTAL_OK = false → s.flag F.CLK_STAT.WARM_READY = true →
      Gives .crystalProven s (Sets [(F.CLK_STAT.XTAL_OK, 1), (F.CLK_STAT.PLL_REF, 0),
        (F.CLK_STAT.TRIM_SRC, if s.flag F.CLK_TB_CFG.REFIN_EN && s.flag F.CLK_STAT.REFIN_OK then 2 else 1),
        (F.WDG_STAT.TRIMMED, 1)] s))
  ∧ (s.clk.tripped = false → s.start.held = false → s.flag F.CLK_STAT.WARM_READY = true → s.flag F.CLK_STAT.XTAL_OK = true →
      Gives .xtalLost s fun t => Posts [(F.CLK_STAT.XTAL_OK, 0), (F.CLK_EVT.XTAL_LOST, 1), s.up F.CLK_CNT.XTAL_LOST,
        (F.CLK_STAT.PLL_REF, 1),
        (F.CLK_STAT.TRIM_SRC, if s.flag F.CLK_TB_CFG.REFIN_EN && s.flag F.CLK_STAT.REFIN_OK then 2 else 0),
        (F.WDG_STAT.TRIMMED, 0)] s { t with clk := s.clk }
        ∧ t.clk = { s.clk with tripped := true } ∧ Posted s t 0xC0 true [0, 0xFF])
  ∧ (s.clk.tripped = false → s.start.held = false → s.flag F.CLK_STAT.WARM_READY = false →
      Gives .xtalLost s fun t => Posts ([(F.CLK_STAT.XTAL_OK, 0), (F.CLK_EVT.XTAL_LOST, 1), s.up F.CLK_CNT.XTAL_LOST,
        (F.CLK_STAT.TRIM_SRC, if s.flag F.CLK_TB_CFG.REFIN_EN && s.flag F.CLK_STAT.REFIN_OK then 2 else 0),
        (F.WDG_STAT.TRIMMED, 0)] ++ (List.range 6).flatMap fun d => [(F.CLK_Dd.STATE d, 3), (F.CLK_Dd.DIV d, 0)])
          s { t with clk := s.clk }
        ∧ t.clk = { s.clk with tripped := true, retryAt := s.elapsed } ∧ Posted s t 0xC0 true [0, 0xFF])
  ∧ (∀ dev : Option Int,
      let ok := match dev with
        | none => false
        | some x => decide (-100000 ≤ x) && decide (x ≤ 100000)
      Gives (.refinCheck dev) s (Sets [(F.CLK_STAT.REFIN_OK, b2n ok),
        (F.CLK_STAT.TRIM_SRC, if s.flag F.CLK_TB_CFG.REFIN_EN && ok then 2 else b2n (s.flag F.CLK_STAT.XTAL_OK)),
        (F.WDG_STAT.TRIMMED, b2n (s.flag F.CLK_STAT.XTAL_OK))] s))

/-- The root PLL and the held start (R367, R370, R371). PLL_LOCK sets the bit and starts the switch of the fabric, with CLOCK cause 2 where
the fabric ran; PLL_UNLOCK stops domains 0, 1, 2, 4 and 5, switches the fabric to WARM, counts, posts CLOCK cause 1 and takes every
sweeping or measuring port without a stop pending to NO_SOURCE; FORCED_SWITCH 1 µs after the request of the fabric counts, sets the
flag and posts cause 3; START_RETRY 10 ms after the last counts, posts cause 4 and lets the domains go once the warm oscillator
runs. -/
def Obligations.RootPll : Prop :=
  ∀ s : State, s.Sound →
    (s.flag F.CLK_STAT.PLL_LOCK = false → s.start.held = false → s.get (F.CLK_Dd.STATE 3) ≠ 3 →
      (s.flag F.CLK_STAT.WARM_READY = true ∨ s.flag F.CLK_STAT.XTAL_OK = true) →
      Gives .pllLock s fun t => Posts [(F.CLK_STAT.PLL_LOCK, 1), (F.CLK_Dd.STATE 3, 2)] s { t with clk := s.clk }
        ∧ t.clk = { s.clk with toWarm := false, request := none }
        ∧ (s.get (F.CLK_Dd.STATE 3) = 0 → t.out = s.out ∧ t.seq = s.seq)
        ∧ (s.get (F.CLK_Dd.STATE 3) ≠ 0 → Posted s t 0xC0 true [2, 0xFF]))
  ∧ (s.flag F.CLK_STAT.PLL_LOCK = true →
      Gives .pllUnlock s fun t => Senses ([(F.CLK_STAT.PLL_LOCK, 0), (F.CLK_EVT.PLL_UNLOCK, 1), s.up F.CLK_CNT.UNLOCK,
          (F.CLK_Dd.STATE 3, 2)] ++ [0, 1, 2, 4, 5].flatMap fun d => [(F.CLK_Dd.STATE d, 0), (F.CLK_Dd.DIV d, 0)])
          s { t with clk := s.clk }
        ∧ t.clk = { s.clk with toWarm := true, request := some s.elapsed, down := true }
        ∧ (∀ p : Port, t.portState p.num =
            if (s.portState p.num = psSweeping ∨ s.portState p.num = psMeasuring) ∧ (s.probePort p.num).stopping = false
            then psNoSource else s.portState p.num)
        ∧ PostedOnce s t 0xC0 true [1, 0xFF])
  ∧ (∀ t0, s.clk.request = some t0 → t0 + 1000 ≤ s.elapsed →
      Gives (.forcedSwitch 3) s fun t => Posts [s.up F.CLK_CNT.FORCED, (F.CLK_EVT.FORCED, 1)] s { t with clk := s.clk }
        ∧ t.clk = { s.clk with request := none } ∧ Posted s t 0xC0 true [3, 3])
  ∧ (s.get (F.CLK_Dd.STATE 3) = 3 → s.clk.retryAt + 10000000 ≤ s.elapsed →
      Gives .startRetry s fun t => Posts ([s.up F.CLK_CNT.RETRY, (F.CLK_EVT.START_RETRY, 1)]
          ++ if s.flag F.CLK_STAT.WARM_READY then (List.range 6).flatMap fun d => [(F.CLK_Dd.STATE d, 0), (F.CLK_Dd.DIV d, 0)]
             else []) s { t with clk := s.clk }
        ∧ t.clk = { s.clk with retryAt := s.elapsed } ∧ Posted s t 0xC0 true [4, 0xFF])

/-- A domain's switch completes (R368 to R371). The fabric that was to go to WARM runs from it undivided; on the locked root it runs at
1/10, and every stopped domain starts, domains 0 and 1 at 1/64; another domain takes its division of R368. While a lock loss holds
the ports in NO_SOURCE they stay so until domains 0 and 1 both run. -/
def Obligations.DomainSwitch : Prop :=
  ∀ s : State, s.Sound →
    (s.get (F.CLK_Dd.STATE 3) = 2 → s.clk.toWarm = true → s.clk.request = none →
      Gives (.domainSwitchDone 3) s fun t =>
        Sets [(F.CLK_Dd.STATE 3, 1), (F.CLK_Dd.DIV 3, 1), (F.CLK_Dd.SRC 3, 1)] s { t with clk := s.clk }
        ∧ t.clk = { s.clk with toWarm := false })
  ∧ (s.get (F.CLK_Dd.STATE 3) = 2 → s.clk.toWarm = false → s.flag F.CLK_STAT.PLL_LOCK = true →
      (s.start.signalDone = true ∨ s.wedge.started = false) →
      Gives (.domainSwitchDone 3) s (Sets ([(F.CLK_Dd.STATE 3, 1), (F.CLK_Dd.DIV 3, 10), (F.CLK_Dd.SRC 3, 0)]
        ++ [0, 1, 2, 4, 5].flatMap fun d =>
            if s.get (F.CLK_Dd.STATE d) = 0 then [(F.CLK_Dd.STATE d, 2), (F.CLK_Dd.DIV d, if d ≤ 1 then 64 else 0)] else []) s))
  ∧ (∀ d : Fin 6, d ≠ 3 → s.get (F.CLK_Dd.STATE d) = 2 → s.flag F.CLK_STAT.PLL_LOCK = true → s.clk.oppStep ≠ 2 →
      (s.start.signalDone = true ∨ s.wedge.started = false) → s.clk.down = false →
      Gives (.domainSwitchDone d) s (Sets [(F.CLK_Dd.STATE d, 1), (F.CLK_Dd.DIV d, rootDiv s d)] s))
  ∧ (∀ d : Fin 6, d.val ≤ 1 → s.get (F.CLK_Dd.STATE d) = 2 → s.flag F.CLK_STAT.PLL_LOCK = true → s.clk.oppStep ≠ 2 →
      (s.start.signalDone = true ∨ s.wedge.started = false) → s.clk.down = true →
      s.get (F.CLK_Dd.STATE (1 - d.val)) = 1 →
      Gives (.domainSwitchDone d) s fun t =>
        Senses [(F.CLK_Dd.STATE d, 1), (F.CLK_Dd.DIV d, rootDiv s d)] s { t with clk := s.clk }
        ∧ t.clk = { s.clk with down := false }
        ∧ ∀ p : Port, t.portState p.num =
            if s.portState p.num = psNoSource ∧ s.dutyLocked = true then
              (if (s.probePort p.num).resumeTo = psMeasuring then psMeasuring else psSweeping)
            else s.portState p.num)

/-- Clock gates (R372). A write of CLK_GATE that would gate a block in use is ignored and counted; otherwise EN takes the value, with the
bits of the blocks that are never gated at 1, and a block that the write ungates restarts from its reset values: those of the
Probe, Kerf, Bucking, Cruiser, Flume and Chipper all read them, and no register of a block that the write does not ungate
changes. An access to a gated block is counted in CLK_GATED with the block's number, and a read returns zero. -/
def Obligations.ClockGates : Prop :=
  ∀ s : State, s.Sound →
    (∀ v : BitVec 32, s.answers 1 →
      let old := s.get F.CLK_GATE.EN
      let new := neverGated.foldl (fun m b => putBit m b true) (v.toNat % 2 ^ 19)
      ((∃ b, b < 19 ∧ bit old b = true ∧ bit new b = false ∧ blockInUse s b = true) → Gives (.clkGateWrite v) s (Ignored s))
      ∧ ((∀ b, b < 19 → bit old b = true → bit new b = false → blockInUse s b = false) →
          Gives (.clkGateWrite v) s fun t => t.get F.CLK_GATE.EN = new
            ∧ (∀ a b, a / 0x10000 = b → b ∈ [2, 3, 5, 6, 14, 15] → bit old b = false → bit new b = true → t.read a = resetVal a)
            ∧ (∀ a, a ≠ R.CLK_GATE → ¬(bit old (a / 0x10000) = false ∧ bit new (a / 0x10000) = true) → t.read a = s.read a)
            ∧ t.out = s.out ∧ t.lamp = s.lamp ∧ t.wedge = s.wedge ∧ t.start = s.start))
  ∧ (∀ (b : Fin 19) (off : BitVec 16) (wr : Bool), gated s b = true →
      Gives (.gatedAccess b off wr) s fun t =>
        Sets [s.up F.CLK_GATED.COUNT, (F.CLK_GATED.LAST, b), (F.CLK_EVT.GATED, 1)] s { t with out := s.out }
        ∧ t.out = if wr then s.out else .readData (0x10000 * b + off.toNat) 0 :: s.out)

/-- Kerf's operating points (R373). A write of CLK_KRF_OPP takes OPP and LEGACY; while the sequencer is busy, or at the point already, that
is all, and otherwise BUSY is 1 and the first step is the supply to raise the clock and the division to lower it. A step of the
supply that reaches the point with the division there ends the sequence with CUR at the point; a step of the division loads Kerf's
demand anew. Outside legacy mode the point is OP0. -/
def Obligations.OperatingPoints : Prop :=
  ∀ s : State, s.Sound →
    (∀ v : BitVec 32, s.answers 1 →
      let want := if bit v.toNat 2 then bits v.toNat 1 0 else 0
      ((s.flag F.CLK_KRF_OPP.BUSY = true ∨ want = s.get F.CLK_KRF_OPP.CUR) → Gives (.krfOppWrite v) s
        (Sets [(F.CLK_KRF_OPP.OPP, bits v.toNat 1 0), (F.CLK_KRF_OPP.LEGACY, b2n (bit v.toNat 2))] s))
      ∧ (s.flag F.CLK_KRF_OPP.BUSY = false → want ≠ s.get F.CLK_KRF_OPP.CUR → s.clk.oppDiv = s.get F.CLK_KRF_OPP.CUR →
          s.clk.oppSupply = s.get F.CLK_KRF_OPP.CUR →
          Gives (.krfOppWrite v) s fun t =>
            (t.get F.CLK_KRF_OPP.OPP = bits v.toNat 1 0 ∧ t.flag F.CLK_KRF_OPP.LEGACY = bit v.toNat 2
              ∧ t.flag F.CLK_KRF_OPP.BUSY = true ∧ t.get F.CLK_KRF_OPP.CUR = s.get F.CLK_KRF_OPP.CUR)
            ∧ t.clk = { s.clk with oppStep := if want < s.clk.oppSupply then 1 else 2, oppNext := want }
            ∧ t.get (F.CLK_Dd.STATE 1) = (if s.clk.oppSupply < want ∧ s.get (F.CLK_Dd.STATE 1) = 1 then 2
                else s.get (F.CLK_Dd.STATE 1))
            ∧ OnlyRegs [R.CLK_KRF_OPP, R.CLK_Dd 1] s { t with clk := s.clk }))
  ∧ (s.clk.oppStep = 1 → oppWanted s = s.clk.oppNext → s.clk.oppDiv = s.clk.oppNext →
      Gives .oppStepDone s fun t =>
        Sets [(F.CLK_KRF_OPP.BUSY, 0), (F.CLK_KRF_OPP.CUR, s.clk.oppNext)] s { t with clk := s.clk }
        ∧ t.clk = { s.clk with oppSupply := s.clk.oppNext, oppStep := 0 })
  ∧ (s.clk.oppStep = 2 → oppWanted s = s.clk.oppNext → s.clk.oppSupply = s.clk.oppNext →
      Gives .oppStepDone s fun t =>
        Senses ([(F.CLK_KRF_OPP.BUSY, 0), (F.CLK_KRF_OPP.CUR, s.clk.oppNext)]
          ++ if s.get (F.CLK_Dd.STATE 1) = 2 then [(F.CLK_Dd.STATE 1, 1), (F.CLK_Dd.DIV 1, krfDiv s.clk.oppNext)] else [])
          s { t with clk := s.clk }
        ∧ t.clk = { s.clk with oppDiv := s.clk.oppNext, oppStep := 0 })

/-! ### Resets and the life-cycle -/

/-- Resets (R374 to R377), where no commit is in progress and no lane is to start OUT. POWER_GOOD, with cause 0, or 5 out of a hold that lost no
power, BROWN_OUT with cause 1, and THERMAL_RESET outside a hold with cause 4 reset the TJ120 at once; GEN_RESET requests a reset with
cause 2 and ends every outstanding item; TJ120_RESET makes the reset that was requested, with the records of a life-cycle change
through it erased and reported (R381, R382). -/
def Obligations.Resets : Prop :=
  ∀ s : State, s.Sound → s.wedge.commit = none → s.sst.lanesOut = [] →
    (∀ n : Nat, Gives (.powerGood n) s fun t =>
        AfterReset (if s.start.held = true ∧ n = 0 then 5 else 0) s t
        ∧ t.baseline = s.baseline ∧ t.start.unpowered = s.start.unpowered + n ∧ t.start.signal = s.start.signal
        ∧ t.start.sensing = s.start.sensing ∧ t.start.held = false)
  ∧ Gives .brownOut s (fun t => AfterReset 1 s t ∧ KeepsStore s t)
  ∧ (s.start.held = false → Gives .thermalReset s fun t => AfterReset 4 s t ∧ KeepsStore s t)
  ∧ (s.answers 0 → s.start.resetDue = none → Gives .genReset s fun t =>
        t.start = { s.start with resetDue := some (2, none) } ∧ t.hif.items = [] ∧ Senses [] s { t with start := s.start })
  ∧ (∀ cause : Fin 6, s.start.resetDue = some (cause.val, none) →
        Gives .tj120Reset s fun t => AfterReset cause s t ∧ KeepsStore s t ∧ t.landing = s.landing.cold)
  ∧ (∀ target : Fin 5, s.start.resetDue = some (3, some target.val) →
        Gives .tj120Reset s fun t =>
          t.get F.GEN_RESET_CAUSE.CAUSE = 3 ∧ t.lc = target ∧ t.flag F.GEN_EVT.LC = true
          ∧ Output.event (State.reset.recordOf (evReq 0xC3 true [BitVec.ofNat 8 s.lc, BitVec.ofNat 8 target])) ∈ t.out
          ∧ t.landing.dir = [] ∧ t.baseline = [] ∧ t.start.sensing = none ∧ t.sst.records = [] ∧ t.sst.repairs = []
          ∧ (target = 4 → t.wedge.store = [] ∧ t.mark.store = [] ∧ t.start.signal = none)
          ∧ (target ≠ 4 → t.wedge.store = s.wedge.store ∧ t.mark.store = s.mark.store ∧ t.start.signal = s.start.signal))

/-- Life-cycle requests (R381). The first write arms a target, with no effect where CONFIRM is not 0; a target above 4 is a reserved encoding;
the armed target confirmed within a second makes an allowed change, in place between OPERATIONAL and MAINTENANCE and through a
reset elsewhere, and is REFUSED while its condition does not hold or while a self-test, a commit or a save runs; any other second
write, and a second without one, ends EXPIRED. -/
def Obligations.LifeCycleRequests : Prop :=
  ∀ s : State, s.Sound → s.answers 0 →
    let armed := s.flag F.GEN_LC_STAT.ARMED
    let busy := s.flag F.SST_STAT.RUNNING = true ∨ s.start.saving.isSome = true ∨ s.wedge.commit.isSome = true
    let key := (∃ k, k < 12 ∧ s.read (R.WDG_KEY_HASHk k) ≠ 0)
    let image := s.get F.WDG_STAT.IMG = 1
    (∀ target : Fin 8,
      (5 ≤ target.val → Gives (.lcReqArm target) s (Ignored s) ∧ Gives (.lcReqConfirm target) s (Ignored s))
      ∧ (target.val < 5 → armed = false →
          (Gives (.lcReqArm target) s fun t =>
            Sets [(F.GEN_LC_STAT.ARMED, 1), (F.GEN_LC_STAT.TARGET, target)] s { t with start := s.start }
            ∧ t.start = { s.start with armedAt := s.elapsed })
          ∧ Gives (.lcReqConfirm target) s fun t => t = s)
      ∧ (target.val < 5 → armed = true → Gives (.lcReqArm target) s
            (Sets [(F.GEN_LC_STAT.ARMED, 0), (F.GEN_LC_STAT.TARGET, 0), (F.GEN_LC_STAT.RESULT, 3)] s))
      ∧ (target.val < 5 → armed = true → (target.val ≠ s.get F.GEN_LC_STAT.TARGET ∨ s.start.armedAt + 1000000000 ≤ s.elapsed) →
          Gives (.lcReqConfirm target) s
            (Sets [(F.GEN_LC_STAT.ARMED, 0), (F.GEN_LC_STAT.TARGET, 0), (F.GEN_LC_STAT.RESULT, 3)] s))
      ∧ (armed = true → s.get F.GEN_LC_STAT.TARGET = target → s.elapsed < s.start.armedAt + 1000000000 →
          target.val < 5 →
          (¬ busy → ((s.lc = 2 ∧ target = 3) ∨ (s.lc = 3 ∧ target = 2 ∧ image)) → Gives (.lcReqConfirm target) s fun t =>
            Posts [(F.GEN_LC_STAT.ARMED, 0), (F.GEN_LC_STAT.TARGET, 0), (F.GEN_LC_STAT.RESULT, 1),
              (F.GEN_LC_STAT.STATE, target), (F.GEN_EVT.LC, 1)] s t
            ∧ Posted s t 0xC3 true [BitVec.ofNat 8 s.lc, BitVec.ofNat 8 target])
          ∧ (¬ busy → ((s.lc = 0 ∧ target = 1 ∧ key) ∨ (s.lc = 1 ∧ target = 2 ∧ image) ∨ ((s.lc = 1 ∨ s.lc = 3) ∧ target = 4)) →
              s.start.resetDue = none → Gives (.lcReqConfirm target) s fun t =>
              Senses [(F.GEN_LC_STAT.ARMED, 0), (F.GEN_LC_STAT.TARGET, 0), (F.GEN_LC_STAT.RESULT, 1)] s { t with start := s.start }
              ∧ t.start = { s.start with resetDue := some (3, some target.val) } ∧ t.hif.items = [])
          ∧ ((busy ∨ ¬((s.lc = 2 ∧ target = 3) ∨ (s.lc = 3 ∧ target = 2 ∧ image) ∨ (s.lc = 0 ∧ target = 1 ∧ key)
                  ∨ (s.lc = 1 ∧ target = 2 ∧ image) ∨ ((s.lc = 1 ∨ s.lc = 3) ∧ target = 4))) →
              Gives (.lcReqConfirm target) s
                (Sets [(F.GEN_LC_STAT.ARMED, 0), (F.GEN_LC_STAT.TARGET, 0), (F.GEN_LC_STAT.RESULT, 2)] s))))
    ∧ (armed = true → s.start.armedAt + 1000000000 ≤ s.elapsed → Gives .lcArmExpiry s
        (Sets [(F.GEN_LC_STAT.ARMED, 0), (F.GEN_LC_STAT.TARGET, 0), (F.GEN_LC_STAT.RESULT, 3)] s))

/-- The start set is saved in OPERATIONAL and MAINTENANCE only (R378): SAVE captures the signal part and the sensing part as they stand, and
SAVE_DONE stores both and sets the flag, or leaves the earlier start set whole and sets SAVE_FAIL. -/
def Obligations.StartSetSave : Prop :=
  ∀ s : State, s.Sound →
    (s.answers 0 → (s.lc = 2 ∨ s.lc = 3) → Gives .save s fun t =>
        t.start = { s.start with saving := some (signalPart s, sensingPart s) } ∧ Sets [] s { t with start := s.start })
  ∧ (s.answers 0 → s.lc ≠ 2 → s.lc ≠ 3 → Gives .save s (Ignored s))
  ∧ (∀ q, s.start.saving = some q → ∀ ok : Bool, s.sst.due = false → Gives (.saveDone ok) s fun t =>
        if ok = true ∧ s.get F.LND_STAT.STATE = 1 then
          t.start = { s.start with saving := none, signal := some q.1, sensing := some q.2 }
          ∧ Sets [(F.GEN_EVT.SAVE_DONE, 1)] s { t with start := s.start }
        else t.start = { s.start with saving := none } ∧ Sets [(F.GEN_EVT.SAVE_FAIL, 1)] s { t with start := s.start })

/-! ### Starts and the self-test -/

/-- The shutdown self-test begins (R389, R393, R399): SHUTDOWN sets RUNNING, KIND 1 and SELFTEST; while a commit or a save is in progress that
is all, and otherwise the record's header is programmed, the oldest of nine going, the start is reported, QUIESCE runs its only
partition, and the ports, Scaler, Cruiser, every stream and every archive are disabled; the signal plane beside Caliper is as it was.
While a self-test runs the write is ignored and counted; in RETIRED the hold begins at once, with every output off and the epoch
not counted (R377). -/
def Obligations.ShutdownBegins : Prop :=
  ∀ s : State, s.Sound → s.answers 0 →
    (s.flag F.SST_STAT.RUNNING = true → Gives .shutdown s (Ignored s))
  ∧ (s.flag F.SST_STAT.RUNNING = false → s.lc ≠ 4 → (s.wedge.commit.isSome = true ∨ s.start.saving.isSome = true) →
      Gives .shutdown s fun t =>
        Sets [(F.SST_STAT.RUNNING, 1), (F.SST_STAT.KIND, 1), (F.HIF_STAT.SELFTEST, 1), (F.FIO_STAT.SRC, 0)] s { t with sst := s.sst }
        ∧ t.sst = { s.sst with due := true })
  ∧ (s.flag F.SST_STAT.RUNNING = false → s.lc ≠ 4 → s.wedge.commit = none → s.start.saving = none →
      Gives .shutdown s fun t =>
        (t.flag F.SST_STAT.RUNNING = true ∧ t.get F.SST_STAT.KIND = 1 ∧ t.flag F.HIF_STAT.SELFTEST = true
          ∧ t.get F.SST_STAT.STEP = 0 ∧ t.get F.SST_STAT.PARTS = 1)
        ∧ t.sst.serial = s.sst.serial + 1
        ∧ t.sst.records = (recordHeader s 1 (s.sst.serial + 1) :: s.sst.records).take 8
        ∧ t.sst.run.map (fun r => (r.kind, r.step, r.parts, r.todo)) = some (1, 0, [0], [])
        ∧ PostedOnce s t 0xD0 true [1, 0, 0, 15, 0, 0, 0, 0]
        ∧ (t.flag F.PRB_CTL.PA_EN = false ∧ t.flag F.PRB_CTL.PB_EN = false ∧ t.flag F.SCL_CTL.EN = false
          ∧ t.flag F.CRU_CTL.EN = false)
        ∧ (∀ n : Fin 16, seEn (t.streamEntry n) = false) ∧ (∀ k : Fin 8, aeEn (t.arcEntry k) = false)
        ∧ t.wedge = s.wedge ∧ t.mark = s.mark ∧ t.sky = s.sky ∧ t.fio = s.fio ∧ t.start = { s.start with unpowered := 0 })
  ∧ (s.flag F.SST_STAT.RUNNING = false → s.lc = 4 → Gives .shutdown s fun t =>
      t.start.held = true ∧ t.get F.HIF_EPOCH.EPOCH = s.get F.HIF_EPOCH.EPOCH ∧ t.lc = 4
      ∧ (∀ n : Fin 112, (t.lampObj n).en = false) ∧ t.wedge.image = none ∧ t.fio = [] ∧ t.out = .fieldReset :: s.out)

/-- The self-test's partitions (R390, R391, R397). The next partition of a step starts where the power measured, with 14 W for the outputs until
INTERLOCK and a margin of 2 W, leaves the step's increment below 58 W, and not otherwise; SST_POWER reports the reading and the
peak. A partition that ends with others of its step still to come is taken out of those running, with its result in the step's
worst; with the last one the step's entry is programmed and the next step begins. After 5 s with none running and no power the
step ends SKIPPED. -/
def Obligations.SelfTestPartitions : Prop :=
  ∀ s : State, s.Sound → ∀ r, s.sst.run = some r → r.step < 15 →
    let admits (p : BitVec 10) : Prop := p.toNat + (if s.flag F.SST_STAT.INTERLOCK then 0 else 140) + 20 + sstIncrement r.step ≤ 580
    let power (p : BitVec 10) := [(F.SST_POWER.NOW, p.toNat), (F.SST_POWER.PEAK, max p.toNat (s.get F.SST_POWER.PEAK))]
    (∀ k rest, r.todo = k :: rest → ∀ p : BitVec 10, r.step ≠ 7 →
      (admits p ∧ ¬(r.step = 13 ∧ r.parts ≠ []) ∧ ¬(r.kind = 2 ∧ r.step = 4 ∧ s.flag F.DCK_STAT.WIPING = true) →
        Gives (.sstPartitionStart p) s fun t =>
          Sets (power p ++ [(F.SST_STAT.STEP, r.step), (F.SST_STAT.PARTS, r.parts.length + 1)]) s { t with sst := s.sst }
          ∧ t.sst = { s.sst with run := some { r with todo := rest, parts := r.parts ++ [k], waitAt := s.elapsed } })
      ∧ (¬ admits p → Gives (.sstPartitionStart p) s (Sets (power p) s))
      ∧ (¬ admits p → r.parts = [] → r.waitAt + 5000000000 ≤ s.elapsed → s.sst.records ≠ [] → r.step < 6 →
          Gives (.sstPowerTimeout p) s fun t =>
            (t.sst.records.head?.map fun b => (le b (64 + 32 * r.step) 1, le b (64 + 32 * r.step + 1) 1)) = some (r.step, 4)
            ∧ (t.sst.run.map fun q => (q.step, q.todo)) = some (r.step + 1, List.range (sstParts (r.step + 1)))
            ∧ t.flag F.SST_EVT.STEP_FAIL = true ∧ t.get F.SST_POWER.NOW = p.toNat))
    ∧ (∀ k : Fin 9, k.val ∈ r.parts → r.step ≠ 7 → ∀ x : PartResult, x.repaired = [] →
        let res := if x.unrepaired = true ∨ x.faults ≠ 0 then 3 else 1
        let left := r.parts.filter (· != k.val)
        (left ≠ [] ∧ ¬(r.step = 13 ∧ res = 3) → Gives (.sstPartitionComplete k x) s fun t =>
          Sets [(F.SST_STAT.STEP, r.step), (F.SST_STAT.PARTS, left.length)] s { t with sst := s.sst }
          ∧ { t.sst with run := s.sst.run } = s.sst
          ∧ t.sst.run.map (fun q => (q.step, q.parts, q.todo, q.ran, q.worst, q.sig))
              = some (r.step, left, r.todo, r.ran + 1, max r.worst res, x.sig.toNat))
        ∧ (left = [] → r.todo = [] → s.sst.records ≠ [] → r.step < 6 → Gives (.sstPartitionComplete k x) s fun t =>
          (t.sst.records.head?.map fun b => (le b (64 + 32 * r.step) 1, le b (64 + 32 * r.step + 1) 1))
            = some (r.step, max r.worst res % 256)
          ∧ (t.sst.run.map fun q => (q.step, q.todo)) = some (r.step + 1, List.range (sstParts (r.step + 1)))
          ∧ t.get F.SST_STAT.STEP = r.step + 1))

/-- The output interlock (R395): where the power admits it, INTERLOCK engages and holds every output off; 55 ms later it reads 1 and its step
ends with an entry in the record; from then on no pin, row switch or head output is enabled. -/
def Obligations.OutputInterlock : Prop :=
  ∀ s : State, s.Sound → ∀ r, s.sst.run = some r → r.step = 7 →
    (r.parts = [] → ∀ k rest, r.todo = k :: rest →
      s.get F.SST_POWER.NOW + (if s.flag F.SST_STAT.INTERLOCK then 0 else 140) + 25 ≤ 580 →
      Gives .interlock s fun t => (∀ n : Fin 112, (t.lampObj n).en = false) ∧ (∀ c : Fin 4, ∀ h : Fin 64, headEnable t c h = 0)
        ∧ t.sst.run.map (fun q => (q.step, q.parts)) = some (7, [k])
        ∧ Signals [(F.SST_STAT.STEP, 7), (F.SST_STAT.PARTS, 1)] s { t with sst := s.sst })
    ∧ (r.parts ≠ [] → r.waitAt + 55000000 ≤ s.elapsed → s.sst.records ≠ [] → r.worst ≤ 2 → r.kind = 1 →
      Gives .interlock s fun t => t.flag F.SST_STAT.INTERLOCK = true
        ∧ (t.sst.records.head?.map fun b => (le b 288 1, le b 289 1)) = some (7, r.worst % 256)
        ∧ (∀ c : Fin 4, ∀ h : Fin 64, headEnable t c h = 0)
        ∧ (t.sst.run.map fun q => decide (8 ≤ q.step)) = some true)

/-- The end of a self-test and its records (R399, R402, R405). SST_FINAL_PAGE completes the newest record, reports the end with its verdict and the
steps run, and holds the unit in reset, its retention timer at zero; START_CHECKS_DONE completes the record of the start checks,
ends the self-test and sets its flag; VOID marks the newest SHUTDOWN record, whose verdict is then VOID, and does nothing where
there is none. -/
def Obligations.SelfTestEnds : Prop :=
  ∀ s : State, s.Sound →
    (∀ r, s.sst.run = some r → r.step = 15 → ∀ b rest, s.sst.records = b :: rest → b.length = 608 →
      let final := recordFinal s r b
      let payload := [BitVec.ofNat 8 r.kind, BitVec.ofNat 8 (verdict final), BitVec.ofNat 8 (recRan final).length,
        BitVec.ofNat 8 (sstPlanned r.kind)] ++ leBytes 4 ((s.elapsed - r.startAt) / 1000000)
      (r.kind = 1 → Gives .sstFinalPage s fun t =>
        t.start.held = true ∧ t.start.unpowered = 0 ∧ t.sst.records = final :: rest ∧ t.sst.run = none
        ∧ t.get F.HIF_EPOCH.EPOCH = s.get F.HIF_EPOCH.EPOCH ∧ t.sst.lanesOut = s.sst.lanesOut
        ∧ PostedOnce s t 0xD0 false payload)
      ∧ (r.kind = 2 → Gives .startChecksDone s fun t =>
        t.sst = { s.sst with records := final :: rest, run := none } ∧ t.flag F.SST_STAT.RUNNING = false
        ∧ t.flag F.SST_EVT.START_DONE = true ∧ t.get F.SST_STAT.KIND = 0 ∧ t.start.enableDone = true
        ∧ PostedOnce s t 0xD0 false payload))
  ∧ (s.answers 18 → s.lc ≠ 4 → s.flag F.SST_STAT.RUNNING = false → (∀ b ∈ s.sst.records, b.length = 608) →
      (newestShutdown s ≠ none → Gives .sstVoid s fun t =>
        (newestShutdown t).map verdict = some 5 ∧ Sets [(F.SST_EVT.VOID, 1)] s { t with sst := s.sst })
      ∧ (newestShutdown s = none → Gives .sstVoid s fun t => t = s))

/-- Landing READY decides the start (R380, R401): quick where the newest SHUTDOWN record is complete and PASS or REPAIRED, at most 30 days old and
with at most 25 days unpowered, and cold otherwise; a cold start runs the start checks, with their record and their start reported.
AGE_DAYS holds the record's age, 0xFF for none; Landing reads READY, or READ_ONLY without spare blocks (R353). -/
def Obligations.LandingReadyDecides : Prop :=
  ∀ s : State, s.Sound → s.start.held = false → s.start.sensingDone = false → s.start.sensing = none →
    s.get F.LND_STAT.STATE = 0 → ∀ n : Nat, Gives (.landingReady n) s fun t =>
      t.start.sensingDone = true
      ∧ t.get F.LND_STAT.STATE = (if n < s.get F.LND_SPARE.SPARES then 1 else 2)
      ∧ t.get F.GEN_START.AGE_DAYS = (match newestShutdown s with
          | none => 0xFF
          | some b => min 255 (recordAge s b / 86400))
      ∧ t.get F.GEN_START.KIND = (if quickRecord s then 1 else 2)
      ∧ t.flag F.SST_STAT.RUNNING = !quickRecord s
      ∧ (quickRecord s = false →
          t.sst.records = (recordHeader s 2 (s.sst.serial + 1) :: s.sst.records).take 8
          ∧ t.sst.run.map (fun r => (r.kind, r.step)) = some (2, 1)
          ∧ PostedOnce s t 0xD0 true [2, 0, 0, 6, 0, 0, 0, 0])
      ∧ t.lamp = s.lamp ∧ t.wedge = s.wedge ∧ t.mark = s.mark ∧ t.sky = s.sky ∧ t.fio = s.fio

/-! ### Lasers and source duty -/

/-- A laser fails (R32, R33, R36, R38). LASER_FAIL names it; a failure of laser A while it has duty hands over to a locked laser B at once, with the
event, the count and the record, every slot in reception failed and the ports as they were, or, B not locked, takes the sweeping
and measuring ports to NO_SOURCE. A failure of laser B out of duty leaves the ports; in duty, with A not locked, it takes them to
NO_SOURCE, and with A locked duty goes back to A. -/
def Obligations.LaserFailures : Prop :=
  ∀ s : State, s.Sound →
    (s.flag F.PRB_STAT.A_LOCK = true → s.returning = false → Gives .laserAFailure s fun t =>
        t.flag F.PRB_STAT.A_LOCK = false ∧ t.flag F.PRB_STAT.RETURN_PENDING = false ∧ t.flag F.PRB_EVT.A_FAIL = true
        ∧ Posted s t 0x40 true [0] ∧ Senses [] s t
        ∧ (s.flag F.PRB_STAT.SOURCE = true → t.flag F.PRB_STAT.SOURCE = true ∧ ∀ p : Port, t.portState p.num = s.portState p.num)
        ∧ (s.flag F.PRB_STAT.SOURCE = false → s.flag F.PRB_STAT.B_LOCK = true →
            t.flag F.PRB_STAT.SOURCE = true ∧ t.flag F.PRB_EVT.HANDOVER = true
            ∧ t.get F.PRB_LASER_CNT.HANDOVERS = min 0xFFFF (s.get F.PRB_LASER_CNT.HANDOVERS + 1)
            ∧ t.failedAt = some s.elapsed ∧ PostedOnce s t 0x41 true []
            ∧ (∀ p ∈ leads s, (t.probePort p).running = false ∧ ∀ x ∈ (t.probePort p).slots, inReception s x = true → x.failed = true)
            ∧ ∀ p : Port, t.portState p.num = s.portState p.num)
        ∧ (s.flag F.PRB_STAT.SOURCE = false → s.flag F.PRB_STAT.B_LOCK = false →
            t.flag F.PRB_STAT.SOURCE = false ∧ t.failedAt = some s.elapsed ∧ ∀ p : Port, t.portState p.num = afterLoss s p.num))
  ∧ (s.flag F.PRB_STAT.B_LOCK = true → Gives .laserBFailure s fun t =>
        t.flag F.PRB_STAT.B_LOCK = false ∧ t.flag F.PRB_EVT.B_FAIL = true ∧ t.flag F.PRB_STAT.TEMP_STALE = true
        ∧ Posted s t 0x40 true [1] ∧ Senses [] s t
        ∧ (s.flag F.PRB_STAT.SOURCE = false → t.flag F.PRB_STAT.SOURCE = false ∧ ∀ p : Port, t.portState p.num = s.portState p.num)
        ∧ (s.flag F.PRB_STAT.SOURCE = true → s.flag F.PRB_STAT.A_LOCK = false →
            t.flag F.PRB_STAT.SOURCE = true ∧ ∀ p : Port, t.portState p.num = afterLoss s p.num)
        ∧ (s.flag F.PRB_STAT.SOURCE = true → s.flag F.PRB_STAT.A_LOCK = true →
            t.flag F.PRB_STAT.SOURCE = false ∧ t.flag F.PRB_STAT.RETURN_PENDING = false))

/-- A laser locks (R31, R37, R38). Where the laser with duty is locked the source stays, and a laser A that locks while B has duty makes the
return pending; where it is not, the laser takes duty and ports in NO_SOURCE go on as before. -/
def Obligations.LaserLocks : Prop :=
  ∀ s : State, s.Sound →
    (∀ b : Bool, s.flag (if b then F.PRB_STAT.B_LOCK else F.PRB_STAT.A_LOCK) = false → Gives (.laserLock b) s fun t =>
        t.flag (if b then F.PRB_STAT.B_LOCK else F.PRB_STAT.A_LOCK) = true ∧ t.dutyLocked = true ∧ Senses [] s t
        ∧ t.flag F.PRB_STAT.SOURCE = (if s.dutyLocked then s.flag F.PRB_STAT.SOURCE else b)
        ∧ (∀ p : Port, t.portState p.num = if s.dutyLocked then s.portState p.num else afterResume s p.num (s.portState p.num))
        ∧ (b = false → s.dutyLocked = true → t.flag F.PRB_STAT.RETURN_PENDING = true))
  ∧ (s.flag F.PRB_STAT.A_LOCK = false → Gives .laserARelock s fun t =>
        t.flag F.PRB_STAT.A_LOCK = true ∧ Senses [] s t
        ∧ t.flag F.PRB_STAT.SOURCE = (s.flag F.PRB_STAT.SOURCE && s.flag F.PRB_STAT.B_LOCK)
        ∧ (s.flag F.PRB_STAT.SOURCE = true → s.flag F.PRB_STAT.B_LOCK = true → t.flag F.PRB_STAT.RETURN_PENDING = true
            ∧ ∀ p : Port, t.portState p.num = s.portState p.num)
        ∧ ((s.flag F.PRB_STAT.SOURCE = false ∨ s.flag F.PRB_STAT.B_LOCK = false) →
            ∀ p : Port, t.portState p.num = afterResume s p.num (s.portState p.num)))

/-- The handover test and the return (R37, R59). HANDOVER_TEST in MAINTENANCE, with both lasers locked and A on duty, hands over and leaves laser A
locked with the return pending, and is otherwise ignored and counted. A pending return, by RETURN_NOW or RETURN_HOLD seconds after
laser A locked, marks every sweeping port to hold at its next boundary; when every port that holds has held for its own period,
RETURN_SWITCH gives duty back to A, with the event, the count and the record. HANDOVER_SWEEP_RESTART starts the next sweep of every
scheduled port that stands. -/
def Obligations.ReturnAndHandover : Prop :=
  ∀ s : State, s.Sound →
    (s.answers 2 → (s.lc = 3 ∧ s.flag F.PRB_STAT.SOURCE = false ∧ s.flag F.PRB_STAT.A_LOCK = true ∧ s.flag F.PRB_STAT.B_LOCK = true) →
      Gives .handoverTest s fun t => t.flag F.PRB_STAT.SOURCE = true ∧ t.flag F.PRB_STAT.A_LOCK = true
        ∧ t.flag F.PRB_STAT.RETURN_PENDING = true ∧ t.returnAt = s.elapsed
        ∧ t.get F.PRB_LASER_CNT.HANDOVERS = min 0xFFFF (s.get F.PRB_LASER_CNT.HANDOVERS + 1) ∧ PostedOnce s t 0x41 true []
        ∧ (∀ p : Port, t.portState p.num = s.portState p.num) ∧ Senses [] s t)
  ∧ (s.answers 2 → ¬(s.lc = 3 ∧ s.flag F.PRB_STAT.SOURCE = false ∧ s.flag F.PRB_STAT.A_LOCK = true
        ∧ s.flag F.PRB_STAT.B_LOCK = true) → Gives .handoverTest s (Ignored s))
  ∧ (let due (t : State) : Prop := t.returning = true ∧ Sets [] s { t with returning := false, probe := s.probe }
        ∧ ∀ p ∈ leads s, { t.probePort p with holdDue := false } = { s.probePort p with holdDue := false }
          ∧ ((t.probePort p).holdDue = true ↔ (s.probePort p).holdDue = true
              ∨ (s.sweeping p = true ∧ (s.probePort p).stopping = false))
     s.flag F.PRB_STAT.RETURN_PENDING = true → s.returning = false →
      (s.answers 2 → Gives .returnNow s due)
      ∧ (s.flag F.PRB_CTL.AUTO_RETURN = true → s.returnAt + s.get F.PRB_LASER_CFG.RETURN_HOLD * 1000000000 ≤ s.elapsed →
          Gives .returnHoldExpiry s due))
  ∧ (s.returning = true →
      (∀ p ∈ leads s, (s.probePort p).holdDue = false ∧
        ∀ h, (s.probePort p).held = some h → h + s.sweepPeriod p * 1000 ≤ s.elapsed) →
      Gives .returnSwitch s fun t => t.flag F.PRB_STAT.SOURCE = false ∧ t.flag F.PRB_STAT.RETURN_PENDING = false
        ∧ t.returning = false ∧ t.flag F.PRB_EVT.RETURN = true
        ∧ t.get F.PRB_LASER_CNT.RETURNS = min 0xFFFF (s.get F.PRB_LASER_CNT.RETURNS + 1) ∧ PostedOnce s t 0x41 false []
        ∧ (∀ p ∈ leads s, (s.probePort p).held ≠ none → (t.probePort p).held = none ∧ (t.probePort p).running = true)
        ∧ (∀ p : Port, t.portState p.num = s.portState p.num) ∧ Senses [] s t)
  ∧ (s.flag F.PRB_STAT.SOURCE = true → s.hasSource = true → Gives .handoverSweepRestart s fun t =>
        Senses [] s t ∧ t.flag F.PRB_STAT.SOURCE = true
        ∧ ∀ p ∈ leads s,
          if scheduled s p = true ∧ (s.probePort p).running = false ∧ (s.probePort p).stopping = false
              ∧ (s.probePort p).held = none then
            (t.probePort p).running = true ∧ (t.probePort p).number = (s.probePort p).next ∧ (t.probePort p).done = 1
            ∧ (t.probePort p).slots.length = (s.probePort p).slots.length + 1
            ∧ (t.probePort p).slots.getLast?.map (fun x => (x.sweep, x.slot, x.launch)) = some ((s.probePort p).next, 0, s.tai)
          else t.probePort p = s.probePort p)

/-! ### Port states, sweeps and cuts -/

/-- A port's enable and disable, and eye safety (R45, R49, R50). Enabling a port that was OFF takes it to STARTING without a sweep period;
disabling one whose slots in reception are still to come stops its launches, and any other one is OFF. APR_ENTRY takes a sweeping
port to APR, counts it, sets its flag and posts the record; WAIT_RESUME follows APR_MANUAL; APR_RESUME ends the wait. -/
def Obligations.PortStatesAndApr : Prop :=
  ∀ (s : State) (p : Port), s.Sound →
    let p' := p.num
    let en := if p = .a then F.PRB_CTL.PA_EN else F.PRB_CTL.PB_EN
    let evt := if p = .a then F.PRB_EVT.APR_A else F.PRB_EVT.APR_B
    let apr := (s.portState p' = psSweeping ∨ s.portState p' = psMeasuring) ∧ (s.probePort p').stopping = false
    (s.answers 2 → s.flag en = false → Gives (.portEnable p) s fun t =>
      t.flag en = true ∧ t.portState p' = psStarting ∧ t.get (F.PRB_Px_TIMING.PERIOD p') = 0
      ∧ t.read (R.KRF_Px_ADC_MON p') = 0xFFFFFFFF ∧ (t.probePort p').swept = false ∧ (t.probePort p').clean = 0
      ∧ t.portState (1 - p') = s.portState (1 - p') ∧ Senses [] s t)
    ∧ (s.answers 2 → s.flag en = true → Gives (.portDisable p) s fun t =>
      t.flag en = false ∧ t.flag (F.PRB_Px_APR_STAT.ACTIVE p') = false ∧ t.flag (F.PRB_Px_APR_STAT.WAIT_RESUME p') = false
      ∧ t.portState (1 - p') = s.portState (1 - p') ∧ Senses [] s t
      ∧ (s.loopMode = false → (s.probePort p').slots ≠ [] →
          (s.portState p' = psSweeping ∨ s.portState p' = psMeasuring) → (s.probePort p').held = none →
          t.portState p' = s.portState p' ∧ (t.probePort p').stopping = true ∧ (t.probePort p').running = false
          ∧ (t.probePort p').slots = (s.probePort p').slots)
      ∧ (s.loopMode = false → s.portState p' ≠ psSweeping → s.portState p' ≠ psMeasuring →
          t.portState p' = psOff ∧ (t.probePort p').running = false ∧ t.get (F.PRB_Px_TIMING.PERIOD p') = 0))
    ∧ (apr → Gives (.aprEntry p) s fun t =>
      t.portState p' = psApr ∧ t.flag (F.PRB_Px_APR_STAT.ACTIVE p') = true ∧ t.flag evt = true
      ∧ t.get (F.PRB_Px_APR_STAT.APR_CNT p') = min 0xFFFF (s.get (F.PRB_Px_APR_STAT.APR_CNT p') + 1)
      ∧ t.flag (F.PRB_Px_APR_STAT.WAIT_RESUME p') = s.flag (F.PRB_Px_POWER.APR_MANUAL p')
      ∧ t.portState (1 - p') = s.portState (1 - p') ∧ Senses [] s t
      ∧ ∃ n, Output.event ⟨0x42, true, p' == 1, false, n, s.tai, []⟩ ∈ t.out)
    ∧ (s.answers 2 → s.get (F.PRB_Px_POWER.PEAK p') ≤ 130 → s.portState p' = psApr → Gives (.aprResume p) s fun t =>
      Sets [(F.PRB_Px_APR_STAT.WAIT_RESUME p', 0)] s { t with probe := s.probe }
      ∧ t.probePort p' = { s.probePort p' with resumed := true, clean := 0 } ∧ t.probePort (1 - p') = s.probePort (1 - p'))

/-- Test slots (R45, R50). In STARTING the second one in a row with the signature takes the port to APR, and the third one in a row without
it on to SWEEPING, or to MEASURING where its end or the loop is still to be measured. In APR one with the signature, or any while
the port waits for APR_RESUME, begins the count again, and the third clean one in a row ends APR: its flag is set, the record's end
is posted, and a port that had swept sweeps again. -/
def Obligations.TestSlots : Prop :=
  ∀ (s : State) (p : Port), s.Sound → s.hasSource = true →
    let p' := p.num
    let q := s.probePort p'
    let evt := if p = .a then F.PRB_EVT.APR_A else F.PRB_EVT.APR_B
    (s.portState p' = psStarting →
      (q.bad = 0 → Gives (.testSlot p true) s fun t =>
        Sets [] s { t with probe := s.probe } ∧ t.probePort p' = { q with bad := 1, clean := 0 })
      ∧ (1 ≤ q.bad → Gives (.testSlot p true) s fun t => t.portState p' = psApr ∧ t.flag evt = true ∧ Senses [] s t)
      ∧ (q.clean < 2 → Gives (.testSlot p false) s fun t =>
        Sets [] s { t with probe := s.probe } ∧ t.probePort p' = { q with clean := q.clean + 1, bad := 0 })
      ∧ (2 ≤ q.clean → Gives (.testSlot p false) s fun t => Senses [] s t
        ∧ t.portState p' = (if s.loopMode then (if s.get F.PRB_LOOP_CFG.LEN = 0 ∧ s.loopLen = 0 then psMeasuring else psSweeping)
            else if s.flag (F.PRB_Px_CFG.AUTO_END p') && !q.measured then psMeasuring else psSweeping)))
    ∧ (s.portState p' = psApr →
      (∀ sig : Bool, (sig = true ∨ (s.flag (F.PRB_Px_POWER.APR_MANUAL p') = true ∧ q.resumed = false)) →
        Gives (.testSlot p sig) s fun t => Sets [] s { t with probe := s.probe } ∧ t.probePort p' = { q with clean := 0 })
      ∧ ((s.flag (F.PRB_Px_POWER.APR_MANUAL p') = false ∨ q.resumed = true) →
        (q.clean < 2 → Gives (.testSlot p false) s fun t =>
          Sets [] s { t with probe := s.probe } ∧ t.probePort p' = { q with clean := q.clean + 1 })
        ∧ (2 ≤ q.clean → q.swept = true → Gives (.testSlot p false) s fun t =>
          t.portState p' = psSweeping ∧ t.flag evt = true ∧ t.flag (F.PRB_Px_APR_STAT.ACTIVE p') = false ∧ Senses [] s t
          ∧ ∃ n, Output.event ⟨0x42, false, p' == 1, false, n, s.tai, []⟩ ∈ t.out)))

/-- Sweeps (R37, R39, R42, R46, R86). At the boundary of a port's schedule, with a source and no hold, slot 0 of the next sweep launches at the
present time with the next number, PERIOD is that of R41 and EFF_PEAK the lower of PEAK and the limit of R48; a port due to hold
enters its hold and launches nothing. The next of slots 1 to 3 of the sweep launches in turn, slot 3 as Scaler's pulse on a
borrowed sweep. -/
def Obligations.SweepsAndSlots : Prop :=
  ∀ (s : State) (p : Port), s.Sound → s.loopMode = false →
    let p' := p.num
    let q := s.probePort p'
    ((s.portState p' = psSweeping ∨ s.portState p' = psMeasuring) → s.hasSource = true → q.stopping = false → q.held = none →
      (q.running = true → q.done = 4) → ∀ snr : List (Int × Int),
      (q.holdDue = true → Gives (.sweepBoundary p snr) s fun t => Sets [] s { t with probe := s.probe }
        ∧ t.probePort p' = { q with holdDue := false, held := some s.elapsed, running := false })
      ∧ (q.holdDue = false → Gives (.sweepBoundary p snr) s fun t => Senses [] s t
        ∧ (t.probePort p').number = q.next ∧ (t.probePort p').next = (q.next + 1) % 2 ^ 64 ∧ (t.probePort p').running = true
        ∧ (t.probePort p').done = 1 ∧ (t.probePort p').slots.length = q.slots.length + 1
        ∧ (t.probePort p').slots.getLast?.map (fun x => (x.sweep, x.slot, x.launch, x.borrowed)) = some (q.next, 0, s.tai, false)
        ∧ t.get F.PRB_STAT.PA_STATE = s.get F.PRB_STAT.PA_STATE ∧ t.get F.PRB_STAT.PB_STATE = s.get F.PRB_STAT.PB_STATE
        ∧ t.get (F.PRB_Px_SWEEP_LO.SWEEP_LO p') = q.next % 2 ^ 32
        ∧ t.get (F.PRB_Px_TIMING.PERIOD p') = s.sweepPeriod p'
        ∧ t.get (F.PRB_Px_TIMING.EFF_PEAK p') = min (s.get (F.PRB_Px_POWER.PEAK p')) (powerLimit (s.sweepPeriod p'))))
    ∧ (q.running = true → 1 ≤ q.done → q.done ≤ 3 → Gives (.slotLaunch p) s fun t => Senses [] s t
        ∧ (t.probePort p').done = q.done + 1 ∧ (t.probePort p').slots.length = q.slots.length + 1
        ∧ (t.probePort p').slots.getLast?.map (fun x => (x.sweep, x.slot, x.launch, x.borrowed))
            = some (q.number, q.done, s.tai, q.done == 3 && borrows s p' q.number))

/-- The end of the fibre and cuts (R45, R52, R53). The end of a sweep's reception updates E, its flags and the levels, counts the sweep in
MEASURING, and evaluates the cut: exceeding where the measured end lies more than MARGIN short of REF_END, in the port's tally.
After 256 sweeps in MEASURING the port takes END, 200 points beyond the measured end and at most 131,071, and sweeps. REF_CAPTURE
copies the measured end into REF_END once there is one. -/
def Obligations.EndsAndCuts : Prop :=
  ∀ (s : State) (p : Port), s.Sound →
    let p' := p.num
    let q := s.probePort p'
    ((s.portState p' = psSweeping ∨ s.portState p' = psMeasuring) → ∀ i : SweepInput, Gives (.sweepComplete p i) s fun t =>
      Senses [] s t ∧ (t.probePort p').measSweeps = q.measSweeps + 1 ∧ t.read (R.KRF_Px_ADC_MON p') = i.rms
      ∧ (t.kerfPort p').floors = (i.floor :: (s.kerfPort p').floors).take 64
      ∧ (∀ e, i.endPoint = some e → t.get (F.PRB_Px_END_MEAS.E p') = e % 2 ^ 17 ∧ t.flag (F.PRB_Px_END_MEAS.VALID p') = true
          ∧ t.flag (F.PRB_Px_END_MEAS.REFL p') = i.refl ∧ t.flag (F.PRB_Px_END_MEAS.OVERLEN p') = decide (s.lastPoint p' < e))
      ∧ (i.endPoint = none → t.read (R.PRB_Px_END_MEAS p') = s.read (R.PRB_Px_END_MEAS p'))
      ∧ (s.get (F.PRB_Px_CUT_CFG.REF_END p') = 0 → (t.probePort p').cut = q.cut)
      ∧ (s.get (F.PRB_Px_CUT_CFG.REF_END p') ≠ 0 → ∀ c, i.cut = some c →
          let exceed := decide (c + s.get (F.PRB_Px_CUT_CFG.MARGIN p') < s.get (F.PRB_Px_CUT_CFG.REF_END p'))
          let x := q.cut.eval (s.get (F.PRB_Px_CUT_TALLY.TALLY p')) (some exceed)
          (t.probePort p').cut = x.1 ∧ t.flag (F.PRB_Px_CUT_STAT.EXCEED p') = exceed
          ∧ t.flag (F.PRB_Px_CUT_STAT.LASTING p') = x.1.lasting ∧ t.get (F.PRB_Px_CUT_STAT.POS p') = c % 2 ^ 17
          ∧ (x.2 = .began → ∃ n, Output.event ⟨0x43, true, p' == 1, false, n, s.tai, leBytes 4 (c % 2 ^ 17)⟩ ∈ t.out)))
    ∧ (s.loopMode = false → s.portState p' = psMeasuring → 256 ≤ q.measSweeps → ∀ (e : Option Nat) (refl : Bool),
        Gives (.endMeasurementDone p e refl) s fun t => Senses [] s t ∧ t.portState p' = psSweeping
          ∧ (t.probePort p').measured = true
          ∧ t.get (F.PRB_Px_CFG.END p') = (match e with
              | none => 131071
              | some x => min (x + 200) 131071))
    ∧ (s.answers 2 → s.get (F.PRB_Px_CUT_CFG.MARGIN p') ≠ 0 →
        Gives (.refCapture p) s (Sets (if s.flag (F.PRB_Px_END_MEAS.VALID p') then
          [(F.PRB_Px_CUT_CFG.REF_END p', s.get (F.PRB_Px_END_MEAS.E p'))] else []) s))

/-- The measured length of the loop (R55). A length found becomes LEN_USED, MEASURED reads 1 and the measuring ports sweep, with the end of an
earlier failure posted; without one FAILED reads 1, LEN_USED 0, and the failure is posted. -/
def Obligations.LoopLength : Prop :=
  ∀ s : State, s.Sound → s.loopMode = true → s.get F.PRB_LOOP_CFG.LEN = 0 →
    (s.portState 0 = psMeasuring ∨ s.portState 1 = psMeasuring) →
    (∀ len : Nat, Gives (.loopLengthMeasured (some len)) s fun t => Senses [] s t
      ∧ t.get F.PRB_LOOP_MEAS.LEN_USED = len % 2 ^ 17 ∧ t.flag F.PRB_LOOP_MEAS.MEASURED = true
      ∧ t.flag F.PRB_LOOP_MEAS.FAILED = false ∧ t.loop = { LoopState.zero with due := s.flag F.PRB_LOOP_MEAS.FAILED }
      ∧ (∀ p : Port, t.portState p.num = if s.portState p.num = psMeasuring then psSweeping else s.portState p.num)
      ∧ (s.flag F.PRB_LOOP_MEAS.FAILED = true →
          ∃ n, Output.event ⟨0x45, false, false, true, n, s.tai, leBytes 4 len⟩ ∈ t.out))
    ∧ Gives (.loopLengthMeasured none) s (fun t => Senses [] s t
      ∧ t.get F.PRB_LOOP_MEAS.LEN_USED = 0 ∧ t.flag F.PRB_LOOP_MEAS.FAILED = true
      ∧ t.portState 0 = (if s.portState 0 = psMeasuring then psSweeping else s.portState 0)
      ∧ t.portState 1 = s.portState 1
      ∧ ((s.flag F.PRB_LOOP_MEAS.FAILED = false ∨ s.portState 0 = psMeasuring) →
          ∃ n, Output.event ⟨0x45, true, false, true, n, s.tai, leBytes 4 0⟩ ∈ t.out))

/-! ### Records, profiles and channels -/

/-- SLOT_RECORD_COMPLETE (R37, R61, R75, R78, R82, R84, R85). The oldest slot of a port leaves the queue and its record Kerf. A failed slot that
never launched and a dropped one give a header alone; a drop under overload is counted and flagged. A full record counts its clipped
and saturated samples with their flags, applies its sweep's restart once, and becomes the record that a bridge reckons from,
unless its slot was borrowed. The first slot record of a start is timed, and the START record follows if the kind of the start is
decided (R380, R387). -/
def Obligations.SlotRecords : Prop :=
  ∀ (s : State) (p : Port), s.Sound → (s.loopMode = true → p = .a) → ∀ (x : Slot) (rest : List Slot),
    (s.probePort p.num).slots = x :: rest → ∀ a b : SlotInput,
    let p' := p.num
    let clips (t : State) := t.get (F.KRF_Px_CLIP_CNT.CLIP p')
    let k' := s.kerfPort p'
    let dropEvt := if p = .a then F.KRF_EVT.DROP_A else F.KRF_EVT.DROP_B
    let clipEvt := if p = .a then F.KRF_EVT.CLIP_A else F.KRF_EVT.CLIP_B
    let drop := s.flag F.KRF_STAT.OVERLOAD = true ∧ a.late = true ∧ x.failed = false
    let start := !s.startPosted && !s.firstSlot && s.get F.GEN_START.KIND != 0
    let timed := if s.firstSlot then [] else [(F.GEN_START_T.MS, min (2 ^ 32 - 1) ((s.elapsed - s.powerAt) / 1000000))]
    Gives (.slotRecordComplete p a b) s fun t => (t.probePort p').slots = rest ∧ t.firstSlot = true
      ∧ t.startPosted = (s.startPosted || start)
      ∧ Senses (timed ++ if start then [(F.GEN_EVT.START, 1)] else []) s { t with firstSlot := s.firstSlot, startPosted := s.startPosted }
      ∧ (x.skipped = true → clips t = clips s ∧ (t.kerfPort p').lastIdx = k'.lastIdx ∧ (t.kerfPort p').qmap = k'.qmap)
      ∧ (x.skipped = false → drop → clips t = clips s ∧ t.flag dropEvt = true
          ∧ t.get (F.KRF_Px_DROP_CNT.DROP p') = min 0xFFFFFFFF (s.get (F.KRF_Px_DROP_CNT.DROP p') + 1)
          ∧ (t.kerfPort p').lastIdx = k'.lastIdx)
      ∧ (x.skipped = false → ¬drop → clips t = min 0xFFFFFFFF (clips s + a.clipped)
          ∧ (0 < a.clipped → t.flag clipEvt = true) ∧ (0 < a.saturated → t.flag F.KRF_EVT.SAT = true)
          ∧ t.get (F.KRF_Px_DROP_CNT.DROP p') = s.get (F.KRF_Px_DROP_CNT.DROP p')
          ∧ (t.kerfPort p').applied = some x.sweep
          ∧ (t.kerfPort p').lastIdx = (if x.borrowed = true ∧ x.failed = false then k'.lastIdx else 4 * x.sweep + x.slot)
          ∧ (x.failed = true ∨ x.slot ≠ 3 → (t.kerfPort p').qmap = k'.qmap))

/-- Profiles (R86, R94, R99, R101, R103). A complete set of a port gives its profile: the number, the count, the flag and the clock of its age go
on, the set is gone, and a port with a live temperature is no longer stale. The age limit makes a port stale: STALE and its flag are
set, no set is in progress and T_PROF reads 0. BASE_CAPTURE in COMMISSIONING or MAINTENANCE with a port not stale arms every such
port and is otherwise ignored and counted. Clearing the enable makes both ports stale. -/
def Obligations.Profiles : Prop :=
  ∀ s : State, s.Sound →
    (∀ p : Port, (s.loopMode = true → p = .a) → ∀ (x : SclSet) (rest : List SclSet), (s.sclPort p.num).sets = x :: rest →
      x.avg ≤ x.launched → x.launched ≤ x.recorded →
      let p' := p.num
      let r := s.sclPort p'
      let live := r.marker = false ∧ staleCause s p' = false
      Gives (.profilePublish p) s fun t =>
        (t.sclPort p').profile = r.profile + 1 ∧ (t.sclPort p').pubAt = s.elapsed ∧ (t.sclPort p').marker = false
        ∧ (t.sclPort p').sets = r.sets.filter (·.id != x.id)
        ∧ t.get (F.SCL_Px_PROFILE_CNT.PROFILES p') = min 0xFFFFFFFF (s.get (F.SCL_Px_PROFILE_CNT.PROFILES p') + 1)
        ∧ t.flag (sclProfileEvt p') = true ∧ t.flag (staleF p') = (if live then false else s.flag (staleF p'))
        ∧ (r.owes = false ∨ ¬live → t.baseline = s.baseline ∧ (t.sclPort p').owes = r.owes)
        ∧ (r.owes = true → live → (t.sclPort p').owes = false)
        ∧ Probes (if live then [(F.PRB_STAT.TEMP_STALE, 0)] else []) s { t with baseline := s.baseline })
  ∧ (∀ p : Port, s.flag (staleF p.num) = false →
      (s.sclPort p.num).pubAt + 3 * tProf s p.num * 1000 ≤ s.elapsed → Gives (.profileAgeTimeout p) s fun t =>
        t.flag (staleF p.num) = true ∧ t.flag (sclStaleEvt p.num) = true ∧ t.flag (sclActiveF p.num) = false
        ∧ t.get (F.SCL_Px_PERIOD.T_PROF p.num) = 0 ∧ (∀ x ∈ (t.sclPort p.num).sets, x.open_ = false) ∧ Probes [] s t)
  ∧ (s.answers 4 → (s.lc = 2 ∨ s.lc = 3) ∧ (s.flag (staleF 0) = false ∨ s.flag (staleF 1) = false) → Gives .baseCapture s fun t =>
        Sets [(F.SCL_STAT.CAPTURE_PENDING, 1)] s { t with scaler := s.scaler }
        ∧ ∀ p : Port, t.sclPort p.num = { s.sclPort p.num with owes := !s.flag (staleF p.num) })
  ∧ (s.answers 4 → ¬((s.lc = 2 ∨ s.lc = 3) ∧ (s.flag (staleF 0) = false ∨ s.flag (staleF 1) = false)) →
        Gives .baseCapture s (Ignored s))
  ∧ (s.answers 4 →
      (s.flag F.SCL_CTL.EN = false → Gives (.sclEnable true) s fun t => t.flag F.SCL_CTL.EN = true
        ∧ Probes (if s.flag F.PRB_STAT.SOURCE = true ∨ s.flag F.PRB_STAT.B_LOCK = false then [(F.PRB_STAT.TEMP_STALE, 1)] else []) s t)
      ∧ (s.flag F.SCL_CTL.EN = true → Gives (.sclEnable false) s fun t => t.flag F.SCL_CTL.EN = false
        ∧ (∀ p : Port, t.flag (staleF p.num) = true)
        ∧ Probes (if s.flag F.PRB_STAT.SOURCE = true ∨ s.flag F.PRB_STAT.B_LOCK = false then [(F.PRB_STAT.TEMP_STALE, 1)] else []) s t))

/-- Channels (R110, R113, R118, R119, R121, R122). A set whose output is due and whose inputs are there outputs one channel record: its index
goes on by one, WARM counts down, only its first record has the restart flag, and the output is kept for the zones. A swap request
towards the bank that is active is counted as a null swap; of a profile no set uses it acts at once; else its fade begins, or waits
behind the one that runs, in place of a waiting one, which is counted as replaced. -/
def Obligations.Channels : Prop :=
  ∀ s : State, s.Sound →
    (∀ n : Fin 64, setLive s n = true → s.flag (F.BKG_CSn_STAT.EN n) = true →
      let e := s.setEntry n
      let q := s.bkgSet n
      let i := firstOut s (stPort e) n ((s.bkgPort (stPort e)).lastIdx + 1) q.next
      outReady s (stPort e) n (i * totalD (s.fset (stProfile e)) e) = true → ∀ time, outTime s (stPort e) i n = some time →
      Gives (.channelRecordOutput n) s fun t => Senses [] s t
        ∧ (t.bkgSet n).next = i + 1 ∧ (t.bkgSet n).warm = q.warm - 1 ∧ (t.bkgSet n).first = false
        ∧ (t.bkgSet n).outs.head?.map (fun o => (o.n, o.time)) = some (i, time)
        ∧ t.flag (F.BKG_CSn_STAT.WARM n) = decide (1 < q.warm)
        ∧ (∀ m : Fin 64, m ≠ n → (t.bkgSet m).next = (s.bkgSet m).next ∧ (t.bkgSet m).outs = (s.bkgSet m).outs))
  ∧ (s.answers 5 → ∀ (k : Fin 16) (v : BitVec 32),
      let target := v.toNat % 2
      let xf := v.toNat / 65536 + 1
      let f := s.bkgFade k
      let active := s.get (F.BKG_FPn_STAT.ACTIVE k)
      let null := s.get (F.BKG_FPn_CNT.NULL k)
      let replaced := s.get (F.BKG_FPn_CNT.REPLACED k)
      Gives (.fpnSwap k v) s fun t =>
        OnlyRegs ([R.BKG_FPn_STAT k, R.BKG_FPn_CNT k, R.BKG_EVT] ++ (setsOfProfile s k).map R.BKG_CSn_STAT) s { t with bkg := s.bkg }
        ∧ t.bkg.chan = s.bkg.chan ∧ (∀ j : Fin 16, j ≠ k → t.bkgFade j = s.bkgFade j)
        ∧ t.flag (F.BKG_FPn_STAT.FADING k) = (t.bkgFade k).run.isSome
        ∧ t.flag (F.BKG_FPn_STAT.QUEUED k) = (t.bkgFade k).queued.isSome
        ∧ (f.run = none → target = active → t.bkgFade k = f ∧ t.get (F.BKG_FPn_STAT.ACTIVE k) = active
            ∧ t.flag F.BKG_EVT.NULL_SWAP = true ∧ t.get (F.BKG_FPn_CNT.NULL k) = min 0xFFFF (null + 1))
        ∧ (f.run = none → target ≠ active → setsOfProfile s k = [] → t.bkgFade k = f
            ∧ t.get (F.BKG_FPn_STAT.ACTIVE k) = target ∧ t.flag F.BKG_EVT.FADE_DONE = true
            ∧ t.get (F.BKG_FPn_CNT.NULL k) = null)
        ∧ (f.run = none → target ≠ active → setsOfProfile s k ≠ [] →
            t.bkgFade k = ⟨some (target, xf), f.queued, []⟩ ∧ t.get (F.BKG_FPn_STAT.ACTIVE k) = active
            ∧ ∀ n ∈ setsOfProfile s k, (t.bkgSet n).faded = 0)
        ∧ (f.run ≠ none → t.bkgFade k = { f with queued := some (target, xf) } ∧ t.get (F.BKG_FPn_STAT.ACTIVE k) = active
            ∧ t.get (F.BKG_FPn_STAT.Q_TARGET k) = target
            ∧ t.get (F.BKG_FPn_CNT.REPLACED k) = (if f.queued = none then replaced else min 0xFFFF (replaced + 1))
            ∧ (f.queued ≠ none → t.flag F.BKG_EVT.REPLACED = true)))

/-! ### Zones and tracks -/

/-- Zone evaluations (R26, R130, R133 to R135, R152, R153). A due frame of an enabled zone is entered: the zone's last frame is its number,
a full window without empty frames before it gives the zone's vibration tally one evaluation, which counts as missed where it
cannot be made, and no other zone changes. While a port is stale each enabled temperature detector of its zones misses an
evaluation. A reload takes effect with the loaded entry and template, and restarts the zone's tallies. EN written 1 leaves the
zones' counts and starts every enabled zone afresh; written 0 it clears every track. -/
def Obligations.Zones : Prop :=
  ∀ s : State, s.Sound →
    let regs := [R.CRU_EVT, R.CRU_MISS_CNT, R.CRU_REC_CNT, R.CRU_STAT]
    (∀ z : Fin 32768, s.flag F.CRU_CTL.EN = true → zEn (s.zoneEntry z) = true → ∀ n, zoneSet s z = some n →
      ∀ f, frameDue s z = some f →
      let e := s.zoneEntry z
      let v := s.cruZone z
      let en := frameEnergies s z n f.window
      let made := zoneShed s z = false ∧ zCount e ≤ 2 * en.usable.length
      let word := zVibTally e
      Gives (.zoneFrameEvaluation z) s fun t =>
        (t.cruZone z).frame = f.frame ∧ (∀ y : Fin 32768, y ≠ z → t.cruZone y = s.cruZone y)
        ∧ (t.cruZone z).tlev = v.tlev ∧ (t.cruZone z).trate = v.trate
        ∧ { t.cru with zone := s.cru.zone, found := s.cru.found, frames := s.cru.frames } = s.cru
        ∧ Frame regs s { t with cru := s.cru }
        ∧ (f.full = false ∨ zVib e = false → (t.cruZone z).vib = v.vib ∧ t.read R.CRU_MISS_CNT = s.read R.CRU_MISS_CNT)
        ∧ (f.full = true → zVib e = true → f.empty = 0 → made →
            (t.cruZone z).vib = (v.vib.eval word (vibVerdict e (s.zoneTpl z) en).1.made).1 ∧ (t.cruZone z).blind = 0
            ∧ t.read R.CRU_MISS_CNT = s.read R.CRU_MISS_CNT)
        ∧ (f.full = true → zVib e = true → f.empty = 0 → ¬made →
            (t.cruZone z).vib = (v.vib.eval word none).1 ∧ (t.cruZone z).blind = min 4 (v.blind + 1)
            ∧ t.get F.CRU_MISS_CNT.MISSED = min 0xFFFFFFFF (s.get F.CRU_MISS_CNT.MISSED + 1)))
  ∧ (∀ p : Port, s.flag F.CRU_CTL.EN = true → s.flag (staleF p.num) = true → Gives (.staleTemperatureEvaluation p) s fun t =>
      Frame regs s { t with cru := s.cru } ∧ { t.cru with zone := s.cru.zone } = s.cru
      ∧ (∀ z ∈ zonesOfPort s p.num,
          let e := s.zoneEntry z
          let v := s.cruZone z
          t.cruZone z = { v with tlev := if zTlev e then (v.tlev.eval (zTempTally e) none).1 else v.tlev,
                                 trate := if zTrate e then (v.trate.eval (zTempTally e) none).1 else v.trate })
      ∧ t.get F.CRU_MISS_CNT.MISSED = min 0xFFFFFFFF (s.get F.CRU_MISS_CNT.MISSED
          + ((zonesOfPort s p.num).map fun z => b2n (zTlev (s.zoneEntry z)) + b2n (zTrate (s.zoneEntry z))).sum))
  ∧ (∀ z : Fin 32768, s.cru.reload.contains z = true → Gives (.zoneReloadEffect z) s fun t =>
      let e := sget (fun _ => zeroEntry 32) s.cru.zoneLoaded z
      let v := s.cruZone z
      t.zoneEntry z = e ∧ t.zoneTpl z = sget (fun _ => zeroEntry 64) s.cru.tplLoaded (zTemplate e)
      ∧ t.cru.reload = s.cru.reload.filter (· != z.val)
      ∧ (t.cruZone z).vib = v.vib.restart ∧ (t.cruZone z).tlev = v.tlev.restart ∧ (t.cruZone z).trate = v.trate.restart
      ∧ (t.cruZone z).blind = 0 ∧ (t.cruZone z).profiles = 0
      ∧ (∀ y : Fin 32768, y ≠ z → t.cruZone y = s.cruZone y ∧ t.zoneEntry y = s.zoneEntry y)
      ∧ t.cru.tracks = s.cru.tracks ∧ Frame (R.CRU_LOAD :: regs) s { t with cru := s.cru })
  ∧ (s.answers 6 →
      (s.flag F.CRU_CTL.EN = false → Gives (.cruEnable true) s fun t => t.flag F.CRU_CTL.EN = true
        ∧ OnlyRegs [R.CRU_CTL, R.CRU_STAT] s { t with cru := s.cru } ∧ { t.cru with zone := s.cru.zone } = s.cru
        ∧ ∀ z : Fin 32768, if zEn (s.zoneEntry z) = true then
            (t.cruZone z).vib = (s.cruZone z).vib.restart ∧ (t.cruZone z).tlev = (s.cruZone z).tlev.restart
            ∧ (t.cruZone z).trate = (s.cruZone z).trate.restart ∧ (t.cruZone z).blind = 0
          else t.cruZone z = s.cruZone z)
      ∧ (s.flag F.CRU_CTL.EN = true → Gives (.cruEnable false) s fun t => t.flag F.CRU_CTL.EN = false
        ∧ OnlyRegs [R.CRU_CTL, R.CRU_STAT, R.CRU_TRK_STAT] s { t with cru := s.cru }
        ∧ t.cru.tracks = [] ∧ t.cru.found = [] ∧ t.cru.frames = [] ∧ t.get F.CRU_TRK_STAT.ACTIVE = 0
        ∧ t.get F.CRU_TRK_STAT.CONFIRMED = 0
        ∧ ∀ z : Fin 32768, zoneWord t z = 0 ∧ (t.cruZone z).vib = (s.cruZone z).vib.restart))

/-- The tracker's tick (R140, R141, R144). The detections and frames of the tick are taken; more than 16,384 detections are cut to that many, counted
and flagged; CRU_TRK_STAT counts the tracks and the confirmed ones; and without detections the tracks stay as many as they were or
end. A lone detection where no track is starts one in slot 0 with the next serial number, at its own position, with confidence
CONF_UP, not yet moving. -/
def Obligations.TrackerTick : Prop :=
  ∀ s : State, s.Sound → s.flag F.CRU_CTL.EN = true → s.flag F.CRU_CTL.TRK_EN = true →
    Gives .trackerTick s fun t =>
      t.cru.found = [] ∧ t.cru.frames = []
      ∧ { t.cru with tracks := s.cru.tracks, serial := s.cru.serial, found := s.cru.found, frames := s.cru.frames,
                     full := s.cru.full } = s.cru
      ∧ Frame [R.CRU_EVT, R.CRU_DET_DROP_CNT, R.CRU_TRK_FULL_CNT, R.CRU_TRK_STAT, R.CRU_REC_CNT] s { t with cru := s.cru }
      ∧ t.get F.CRU_DET_DROP_CNT.DROPPED = min 0xFFFFFFFF (s.get F.CRU_DET_DROP_CNT.DROPPED + (s.cru.found.length - 16384))
      ∧ (16384 < s.cru.found.length → t.flag F.CRU_EVT.DET_DROP = true)
      ∧ t.get F.CRU_TRK_STAT.ACTIVE = t.cru.tracks.length % 2 ^ F.CRU_TRK_STAT.ACTIVE.width
      ∧ t.get F.CRU_TRK_STAT.CONFIRMED = (t.cru.tracks.filter (·.confirmed)).length % 2 ^ F.CRU_TRK_STAT.CONFIRMED.width
      ∧ (s.cru.found = [] → t.cru.full = false ∧ t.read R.CRU_TRK_FULL_CNT = s.read R.CRU_TRK_FULL_CNT
          ∧ t.cru.serial = s.cru.serial ∧ t.cru.tracks.length ≤ s.cru.tracks.length)
      ∧ (s.cru.tracks = [] → s.cru.frames = [] → ∀ d, s.cru.found = [d] →
          t.cru.serial = (s.cru.serial + 1) % 2 ^ 32 ∧ t.cru.full = false
          ∧ t.cru.tracks = [⟨0, d.port, (d.pos : Rat), 0, d.time, s.get F.CRU_TRK_CONF.CONF_UP,
              decide (s.get F.CRU_TRK_CONF.CONF_ON ≤ s.get F.CRU_TRK_CONF.CONF_UP), false, false, none, d.time, s.cru.serial,
              [d.time]⟩])

/-! ### Banks, strings, pulses and the matrix -/

/-- A write of BLZ_Bb_CFG (R156 to R158, R168). Outside the states of R158, from one mode to another, and into SIMPLE with ISET values beyond R168's
limits it is ignored and counted. Into a mode it claims the bank's twelve pins: with every pin free or its own it takes the
setting and the mode; with one owned by another, the setting and the mode stay, CONFLICT reads 1 and each such pin counts the
conflict. Within a mode it takes the setting alone; into OFF it frees the pins that the mode held. -/
def Obligations.BankModes : Prop :=
  ∀ (s : State) (b : Fin 8) (v : BitVec 32), s.Sound → s.answers 7 → s.frozen = false →
    let mode := v.toNat % 4
    let old := s.get (F.BLZ_Bb_CFG.MODE b)
    let pins := bankPins b
    let setting := v &&& BitVec.ofNat 32 (rwMask (R.BLZ_Bb_CFG b))
    let tooMuch := mode = 2 ∧ old = 0 ∧ simpleOk (isetsWith s b 12 0) = false
    let ok := s.cfgOpen = true ∧ ¬(mode ≠ old ∧ mode ≠ 0 ∧ old ≠ 0) ∧ ¬tooMuch
    let free := ∀ r ∈ pins, claimable s (modeCode mode) r = true
    let same (t : State) := t.read (R.BLZ_Bb_CFG b) = s.read (R.BLZ_Bb_CFG b) ∧ t.bankMode b = s.bankMode b
    (¬ok → Gives (.bankModeWrite b v) s (Ignored s))
    ∧ (ok → mode = old → mode ≠ 0 → Gives (.bankModeWrite b v) s fun t => t.read (R.BLZ_Bb_CFG b) = setting
        ∧ t.bankMode b = s.bankMode b ∧ t.flag (F.BLZ_Bb_STAT.CONFLICT b) = false
        ∧ OnlyRegs [R.BLZ_Bb_CFG b, R.BLZ_Bb_STAT b] s { t with lamp := s.lamp } ∧ t.lamp.obj = s.lamp.obj)
    ∧ (ok → mode ≠ old → mode ≠ 0 → free → Gives (.bankModeWrite b v) s fun t => t.read (R.BLZ_Bb_CFG b) = setting
        ∧ t.bankMode b = mode ∧ t.flag (F.BLZ_Bb_STAT.CONFLICT b) = false ∧ (∀ r ∈ pins, t.owner r = modeCode mode) ∧ Signals [] s t)
    ∧ (ok → mode ≠ old → mode ≠ 0 → ¬free → Gives (.bankModeWrite b v) s fun t => same t
        ∧ t.flag (F.BLZ_Bb_STAT.CONFLICT b) = true ∧ Frame (R.BLZ_Bb_STAT b :: pins.map ownAddr) s t
        ∧ ∀ r ∈ pins, t.owner r = s.owner r ∧ (if claimable s (modeCode mode) r then t.read (ownAddr r) = s.read (ownAddr r)
            else t.get (loserF r) = modeCode mode ∧ t.get (conflictF r) = min 0xFF (s.get (conflictF r) + 1)))
    ∧ (ok → mode = 0 → Gives (.bankModeWrite b v) s fun t => t.read (R.BLZ_Bb_CFG b) = setting ∧ t.bankMode b = 0
        ∧ t.flag (F.BLZ_Bb_STAT.EVICTED b) = false ∧ t.flag (F.BLZ_Bb_STAT.CONFLICT b) = false
        ∧ (∀ r ∈ pins, t.owner r = if old ≠ 0 ∧ s.owner r = modeCode old then 0 else s.owner r)
        ∧ (∀ k : Fin 12, (t.lampObj (12 * b + k)).conducting = false)
        ∧ OnlyRegs ([R.BLZ_Bb_CFG b, R.BLZ_Bb_STAT b] ++ pins.map ownAddr) s { t with lamp := s.lamp })

/-- Strings (R164 to R167). At a sample H and NOCUR are its own. Too little headroom or no current sheds the next segment, and with none
left to shed raises TRK_LIMIT or waits for a supply reading; the eighth sample in a row with room for it restores the segment shed.
A sample of a search with current marks the segment bypassed OPEN with its flag and ends the search; without current the next one is bypassed.
A repeat that finds current closes STRING_OPEN, and else searches again. OPEN_SEARCH_RETRY starts the repeat, OPEN_CLR clears the
marks, and a segment test takes the spare segments, or ends at once with every SEGMEAS 0xFF. -/
def Obligations.Strings : Prop :=
  ∀ (s : State) (b : Fin 8), s.Sound →
    let q := s.bankSt b
    let spares := spareSegs s b
    let started (t : State) : Prop := (spares ≠ [] → (t.bankSt b).test = some ⟨spares, none, none, []⟩ ∧ Sets [] s { t with lamp := s.lamp })
      ∧ (spares = [] → (t.bankSt b).test = none ∧ t.read (R.BLZ_Bb_SEGMEAS0 b) = 0xFFFFFFFF
          ∧ t.read (R.BLZ_Bb_SEGMEAS1 b) = 0xFFFFFFFF ∧ t.read (R.BLZ_Bb_SEGMEAS2 b) = 0xFFFFFF
          ∧ OnlyRegs [R.BLZ_Bb_SEGMEAS0 b, R.BLZ_Bb_SEGMEAS1 b, R.BLZ_Bb_SEGMEAS2 b] s { t with lamp := s.lamp })
    (s.flag (F.BLZ_Bb_STAT.STRING_OPEN b) = true → q.search = none → q.retry = false → q.searchedAt + 100000000 ≤ s.elapsed →
      Gives (.openSearchRetry b) s fun t => Sets [] s { t with lamp := s.lamp } ∧ t.bankSt b = { q with retry := true })
    ∧ (s.answers 7 → Gives (.openClr b) s fun t =>
        Posts [(F.BLZ_Bb_STAT.OPEN_MASK b, 0), (F.BLZ_Bb_STAT.STRING_OPEN b, 0)] s t
        ∧ (s.openSegs b = 0 → s.flag (F.BLZ_Bb_STAT.STRING_OPEN b) = true →
            Posted s t 0x62 false [BitVec.ofNat 8 b, 0xFF]))
    ∧ (s.answers 7 → (s.bankMode b = 1 → q.test = none → Gives (.segtest b) s started)
        ∧ (s.bankMode b ≠ 1 ∨ q.test ≠ none → Gives (.segtest b) s (Sets [] s)))
    ∧ (s.flag (F.BLZ_Bb_CFG.SEGTEST_AUTO b) = true → q.autoAt + 60000000000 ≤ s.elapsed → Gives (.segtestAutoDue b) s fun t =>
        (t.bankSt b).autoAt = s.elapsed ∧ (s.bankMode b = 1 → q.test = none → started t)
        ∧ (s.bankMode b ≠ 1 ∨ q.test ≠ none → Sets [] s { t with lamp := s.lamp } ∧ t.bankSt b = { q with autoAt := s.elapsed }))
    ∧ (s.bankMode b = 1 → (s.lampObj (12 * b + 11)).conducting = true → (s.lampObj (12 * b + 11)).pulseEval = true →
        ∀ (h : Option (BitVec 8)) (volts : List Nat),
        let low := (match h with
          | none => true
          | some x => decide (x.toNat < 24))
        let byp := s.shed b
        let strOpen := s.flag (F.BLZ_Bb_STAT.STRING_OPEN b)
        Gives (.headroomSample b h volts) s fun t =>
          t.get (F.BLZ_Bb_TRK.H b) = (h.map (·.toNat)).getD 0 ∧ t.flag (F.BLZ_Bb_TRK.NOCUR b) = h.isNone
          ∧ Frame [R.BLZ_Bb_TRK b, R.BLZ_Bb_STAT b, R.BLZ_Bb_CNT b, R.BLZ_EVT, R.BLZ_Bb_SEGMEAS0 b, R.BLZ_Bb_SEGMEAS1 b,
              R.BLZ_Bb_SEGMEAS2 b] s { t with lamp := s.lamp }
          ∧ (∀ c : Fin 8, c ≠ b → t.bankSt c = s.bankSt c) ∧ t.lamp.obj = s.lamp.obj
          ∧ (q.retry = true → h ≠ none → t.flag (F.BLZ_Bb_STAT.STRING_OPEN b) = false ∧ (t.bankSt b).retry = false)
          ∧ (q.retry = true → h = none →
              t.get (F.BLZ_Bb_CNT.SEARCH b) = min 0xFFFF (s.get (F.BLZ_Bb_CNT.SEARCH b) + 1))
          ∧ (q.retry = false → ∀ l, q.search = some l → ∀ k r, l = k :: r →
              (h ≠ none → t.openSegs b = putBit (s.openSegs b) k true % 2 ^ 11 ∧ t.flag F.BLZ_EVT.SEG_OPEN = true
                ∧ (t.bankSt b).search = none ∧ t.flag (F.BLZ_Bb_STAT.STRING_OPEN b) = false
                ∧ Posted s t 0x62 true [BitVec.ofNat 8 b, BitVec.ofNat 8 k])
              ∧ (h = none → r ≠ [] → (t.bankSt b).search = some r ∧ t.openSegs b = s.openSegs b)
              ∧ (h = none → r = [] → (t.bankSt b).search = none ∧ t.flag (F.BLZ_Bb_STAT.STRING_OPEN b) = true
                  ∧ (t.bankSt b).searchedAt = s.elapsed))
          ∧ (q.retry = false → q.search = none → strOpen = false → q.restored = none →
              (low = true → ∀ k, nextShed s b = some k → t.shed b = putBit byp k true % 2 ^ 11)
              ∧ (low = true → nextShed s b = none → t.shed b = byp
                  ∧ (h = none → (t.bankSt b).waiting = true) ∧ (h ≠ none → t.flag (F.BLZ_Bb_STAT.TRK_LIMIT b) = true))
              ∧ (low = false → nextRestore s b = none → t.shed b = byp)
              ∧ (low = false → ∀ j, nextRestore s b = some j → ∀ x, h = some x →
                  if 2 * segVf s b j + 32 ≤ x.toNat ∧ q.okRun = 7 then
                    t.shed b = putBit byp j false % 2 ^ 11 ∧ (t.bankSt b).restored = some j
                  else t.shed b = byp)))

/-- Periods, pulses and thermal shutdowns (R160 to R162, R177, R182, R183, R185). At a period boundary every driven pin takes its command,
current code and curve, and the enables stay. The next sub-pulse conducts where Wedge enables the pin and nothing holds it dark; one
in the proof regime conducts only as the window's proof pulse. The end of a pulse found present makes the pin LIT, a proof pulse found missing DARK. A thermal
shutdown sets its bits, flag, count and record, makes the objects dark and stops their drive; the resume a second later clears the
bits and posts the end. -/
def Obligations.PulsesAndPeriods : Prop :=
  ∀ s : State, s.Sound →
    (Gives .pwmPeriodBoundary s fun t => Signals [] s t ∧ t.lamp.window = s.tai / 10000000
      ∧ ∀ n : Fin 96, (t.lampObj n).en = (s.lampObj n).en ∧ ∀ d, pinDrive s n = some d →
          (t.lampObj n).cmd = d.1 ∧ (t.lampObj n).iset = d.2.1 ∧ (t.lampObj n).curve = d.2.2 ∧ (t.lampObj n).next = 0
          ∧ (t.lampObj n).through = (s.lampObj n).en ∧ (t.lampObj n).evald = false ∧ (t.lampObj n).seen = false)
  ∧ (∀ n : Fin 96, (pinDrive s n).isSome = true →
      let o := s.lampObj n
      let dark := o.latched = true ∨ objTsd s n = true ∨ o.iset = 0
      o.ont ≠ 0 → o.next < pulsesOf o.ont → Gives (.subPulseStart n) s fun t =>
        Sets [] s { t with lamp := s.lamp } ∧ (t.lampObj n).next = o.next + 1
        ∧ (∀ m : Fin 96, m ≠ n → t.lampObj m = s.lampObj m)
        ∧ (o.en = false ∨ dark → (t.lampObj n).conducting = false)
        ∧ (o.en = true → ¬dark → s.owner (objRes n) ≠ cString → lasts o.ont 3000 = true → (t.lampObj n).conducting = true)
        ∧ (o.en = true → lasts o.ont 3000 = false → o.proofDue = true → o.through = true → proofScheduler s = true →
            (t.lampObj n).proofNow = true ∧ (t.lampObj n).proofDue = false ∧ (t.lampObj n).pulseEval = true))
  ∧ (∀ (n : Fin 96) (present : Bool), (s.lampObj n).conducting = true →
      let o := s.lampObj n
      Gives (.subPulseEnd (.pin n present)) s fun t => Sets [] s { t with lamp := s.lamp }
        ∧ (t.lampObj n).conducting = false ∧ (t.lampObj n).proofNow = false ∧ (t.lampObj n).en = o.en
        ∧ (∀ m : Fin 96, m ≠ n → t.lampObj m = s.lampObj m)
        ∧ (o.pulseEval = true → present = true → (t.lampObj n).proof = 2 ∧ (t.lampObj n).missing = 0 ∧ (t.lampObj n).seen = true)
        ∧ (o.pulseEval = true → present = false → o.proofNow = true → (t.lampObj n).proof = 3
            ∧ (t.lampObj n).missing = min 255 (o.missing + 1))
        ∧ (o.pulseEval = false ∨ (present = false ∧ o.proofNow = false) → (t.lampObj n).proof = o.proof
            ∧ (t.lampObj n).missing = o.missing))
  ∧ (∀ (c : Fin 48) (present : Bool), ∀ e, (s.lamp.matrix.cols.find? fun e => e.1 == c.val) = some e →
      pixelLasts e.2 s.lamp.matrix.ont 3000 = true → Gives (.subPulseEnd (.pixel c present)) s fun t =>
        let k := 48 * s.get F.BLZ_MX_STAT.ROW + c
        let x := sget (fun _ => Pixel.zero) s.lamp.matrix.pixels k
        Sets [] s { t with lamp := s.lamp } ∧ t.lamp.matrix.cols = s.lamp.matrix.cols.filter (fun y => y.1 != c.val)
        ∧ sget (fun _ => Pixel.zero) t.lamp.matrix.pixels k = (if present then ⟨2, 0⟩
            else ⟨if 1 ≤ x.missing then 3 else x.proof, min 255 (x.missing + 1)⟩))
  ∧ (∀ (n : Fin 9) (temp : BitVec 8),
      let tsd := s.get F.BLZ_STAT.TSD
      let since := if n.val < 8 then (s.bankSt n).tsdAt else s.lamp.matrix.tsdAt
      let objs := if n.val < 8 then (List.range 12).map (12 * n.val + ·) else (List.range 16).map (96 + ·)
      (bit tsd n = false → Gives (.thermalShutdown n temp) s fun t =>
        Posts ([(F.BLZ_STAT.TSD, tsd + 2 ^ n.val), (F.BLZ_EVT.THERMAL, 1)]
          ++ if n.val < 8 then [(F.BLZ_Bb_STAT.TSD n, 1), s.up (F.BLZ_Bb_CNT.TSD n)] else []) s { t with lamp := s.lamp }
        ∧ Posted s t 0x60 true [BitVec.ofNat 8 n, temp]
        ∧ (∀ k ∈ objs, (t.lampObj k).en = (s.lampObj k).en ∧ (n.val < 8 → (t.lampObj k).conducting = false)
            ∧ ((s.lampObj k).en = true → (t.lampObj k).proof = 3)))
      ∧ (bit tsd n = true → since + 1000000000 ≤ s.elapsed → Gives (.thermalResume n temp) s fun t =>
        Posts ((F.BLZ_STAT.TSD, tsd - 2 ^ n.val) :: if n.val < 8 then [(F.BLZ_Bb_STAT.TSD n, 0)] else []) s t
        ∧ Posted s t 0x60 false [BitVec.ofNat 8 n, temp]))

/-- The matrix (R169, R170, R172, R173). A write of BLZ_MX_CFG that R169 reserves, or outside the states of R158, is ignored and counted. With
EN = 1 it claims the row switches, and MSYNC if used: granted, the setting and the matrix are in force; refused, CONFLICT reads 1
and the setting stays. With EN = 0 the matrix is off and frees them. A row slot scans the next row, and lights only pixels of
enabled regions that are not zero; a frame boundary starts a frame with the present brightness and makes an armed swap, which counts it and exchanges the
buffers. SWAP arms a swap or merges with the armed one, and with the matrix off is ignored and counted. An MSYNC edge within 1.5 ms of the last
is counted as ignored; another arms a swap where it is set to, and ends the frame at the present row slot where it is set to and is not within 2 µs of
a natural boundary. -/
def Obligations.Matrix : Prop :=
  ∀ s : State, s.Sound →
    let m := s.lamp.matrix
    let on := s.flag F.BLZ_MX_CFG.EN = true
    (s.answers 7 → s.frozen = false → ∀ v : BitVec 32,
      let ok := s.cfgOpen = true ∧ matrixReserved s v.toNat = false
      let en := v.getLsbD 19
      let setting := v &&& BitVec.ofNat 32 (rwMask R.BLZ_MX_CFG)
      let claims := matrixClaims v.toNat
      let free := ∀ r ∈ claims, claimable s cMatrix r = true
      (¬ok → Gives (.matrixCfgWrite v) s (Ignored s))
      ∧ (ok → en = true → free → Gives (.matrixCfgWrite v) s fun t => t.read R.BLZ_MX_CFG = setting
          ∧ t.flag F.BLZ_STAT.MX_ACTIVE = true ∧ t.flag F.BLZ_MX_STAT.CONFLICT = false ∧ (∀ r ∈ claims, t.owner r = cMatrix)
          ∧ Signals [] s t)
      ∧ (ok → en = true → ¬free → Gives (.matrixCfgWrite v) s fun t => t.read R.BLZ_MX_CFG = s.read R.BLZ_MX_CFG
          ∧ t.flag F.BLZ_MX_STAT.CONFLICT = true ∧ Frame (R.BLZ_MX_STAT :: claims.map ownAddr) s t
          ∧ ∀ r ∈ claims, t.owner r = s.owner r)
      ∧ (ok → en = false → Gives (.matrixCfgWrite v) s fun t => t.read R.BLZ_MX_CFG = setting
          ∧ t.flag F.BLZ_STAT.MX_ACTIVE = false ∧ t.get F.BLZ_MX_STAT.ROW = 0 ∧ t.lamp.matrix.cols = []
          ∧ (∀ r : Fin 16, t.owner (.rowSwitch r) ≠ cMatrix) ∧ t.owner .msync ≠ cMatrix ∧ Signals [] s t))
  ∧ (on → m.next < 16 → m.cut = false → Gives .rowSlotStart s fun t =>
      Sets [(F.BLZ_MX_STAT.ROW, m.next)] s { t with lamp := s.lamp }
      ∧ { t.lamp with matrix := m } = s.lamp ∧ t.lamp.matrix.next = m.next + 1 ∧ t.lamp.matrix.front = m.front
      ∧ t.lamp.matrix.back = m.back
      ∧ ∀ e ∈ t.lamp.matrix.cols, e.2 = frontPixel s m.next e.1 ∧ e.2 ≠ 0 ∧ inRegion (litDescs s) m.next e.1 = true
          ∧ pixelMapped s m.next e.1 = true)
  ∧ (on → (m.next = 16 ∨ m.cut = true) → Gives .frameBoundary s fun t => Signals [] s t
      ∧ t.lamp.matrix.next = 0 ∧ t.lamp.matrix.cut = false ∧ t.lamp.matrix.cols = [] ∧ t.lamp.matrix.frameAt = s.elapsed
      ∧ t.lamp.matrix.ont = ontOf (s.get F.BLZ_MX_BRIGHT.CURVE) (s.get F.BLZ_MX_BRIGHT.CMD)
      ∧ (s.flag F.BLZ_MX_STAT.ARMED = true → t.flag F.BLZ_MX_STAT.FRONT = !s.flag F.BLZ_MX_STAT.FRONT
          ∧ t.get F.BLZ_MX_CNT.SWAPS = min 0xFFFF (s.get F.BLZ_MX_CNT.SWAPS + 1)
          ∧ t.lamp.matrix.front = pagesIn s m.back ∧ t.lamp.matrix.back = t.lamp.matrix.front)
      ∧ (s.flag F.BLZ_MX_STAT.ARMED = false → t.flag F.BLZ_MX_STAT.FRONT = s.flag F.BLZ_MX_STAT.FRONT
          ∧ t.get F.BLZ_MX_CNT.SWAPS = s.get F.BLZ_MX_CNT.SWAPS ∧ t.lamp.matrix.front = m.front ∧ t.lamp.matrix.back = m.back))
  ∧ (s.answers 7 → (on → Gives .swap s (Sets (if s.flag F.BLZ_MX_STAT.ARMED then [s.up F.BLZ_MX_CNT.MERGED]
        else [(F.BLZ_MX_STAT.ARMED, 1)]) s)) ∧ (¬on → Gives .swap s (Ignored s)))
  ∧ (on → s.flag F.BLZ_MX_CFG.MSYNC_EN = true →
      let early := (match m.msyncAt with
        | none => false
        | some x => decide (s.elapsed < x + 1500000))
      let since := s.elapsed - m.frameAt
      let align := s.flag F.BLZ_MX_CFG.MSYNC_ALIGN = true ∧ 2000 < since ∧ ¬(1598000 ≤ since ∧ since ≤ 1602000) ∧ m.next ≠ 0
      let arm := if s.flag F.BLZ_MX_CFG.MSYNC_SWAP then
          (if s.flag F.BLZ_MX_STAT.ARMED then [s.up F.BLZ_MX_CNT.MERGED] else [(F.BLZ_MX_STAT.ARMED, 1)]) else []
      (early = true → Gives .msyncEdge s (Sets [s.up F.BLZ_MX_CNT2.MSYNC_IGN, (F.BLZ_EVT.MSYNC_IGN, 1)] s))
      ∧ (early = false → ¬align → Gives .msyncEdge s fun t => Sets arm s { t with lamp := s.lamp }
          ∧ t.lamp = { s.lamp with matrix := { m with msyncAt := some s.elapsed } })
      ∧ (early = false → align → Gives .msyncEdge s fun t => Sets (s.up F.BLZ_MX_CNT2.ALIGN :: arm) s { t with lamp := s.lamp }
          ∧ t.lamp = { s.lamp with matrix := { m with msyncAt := some s.elapsed, cut := true } }))

/-! ### Lamp supervision and Caliper -/

/-- Supervision of the objects (R181, R183, R186, R188, R191). A trip latches its object off, makes an enabled one DARK and enters an exceeding OC evaluation;
a retry 100 ms later enters its result and restores the drive from the next period when it passes and OC is not lasting. OFFC and
OFFV follow their comparators where they watch. 12 ms without a present pulse make a pin in the proof regime DARK. A reading of LSUP
is VAL, and LSUP_LOW begins and ends with its record. A test of an adjacent pair enters its tally and ends ADJ_STALE; a pair skipped
for 10 s reads stale. -/
def Obligations.Supervision : Prop :=
  ∀ s : State, s.Sound →
    (∀ (x : OcTarget), ∀ n, tripObject s x = some n → (s.lampObj n).latched = false → Gives (.overcurrentTrip x) s fun t =>
      let o := s.lampObj n
      let r := Tally.eval o.oc (s.get F.CAL_TALLY0.OC) (some true) true
      Posts (if r.2 = .began then [(F.CAL_EVT.PIN_FAULT, 1)] else []) s { t with lamp := s.lamp }
      ∧ t.lampObj n = { o with latched := true, resume := false, tripAt := s.elapsed, conducting := false,
                               proof := if o.en then 3 else o.proof, oc := r.1 }
      ∧ (r.2 = .began → Posted s t 0x64 true (tallyTail [BitVec.ofNat 8 n, 0] r.1))
      ∧ ∀ m : Fin 112, m.val ≠ n → t.lampObj m = s.lampObj m)
  ∧ (∀ (n : Fin 112) (trips : Bool), (s.lampObj n).latched = true → (s.lampObj n).resume = false → (s.lampObj n).en = true →
      (s.lampObj n).tripAt + 100000000 ≤ s.elapsed → Gives (.ocRetry n trips) s fun t =>
      let o := s.lampObj n
      let r := Tally.eval o.oc (s.get F.CAL_TALLY0.OC) (some trips) true
      Posts (if r.2 = .began then [(F.CAL_EVT.PIN_FAULT, 1)] else []) s { t with lamp := s.lamp }
      ∧ t.lampObj n = { o with tripAt := s.elapsed, oc := r.1, resume := !trips && !r.1.lasting }
      ∧ ∀ m : Fin 112, m ≠ n → t.lampObj m = s.lampObj m)
  ∧ (∀ (n : Fin 112) (volt on : Bool),
      let o := s.lampObj n
      (on = true → supervised s n = true ∧ (if volt then o.conducting = false ∧ ¬(n.val < 96 ∧ s.owner (objRes n) = cMatrix)
          else o.en = false)) →
      Gives (.litUncmd n volt on) s fun t => Sets [] s { t with lamp := s.lamp }
        ∧ t.lampObj n = (if volt then { o with offv := on, offTrip := o.offTrip || on }
            else { o with offc := on, offTrip := o.offTrip || on })
        ∧ ∀ m : Fin 112, m ≠ n → t.lampObj m = s.lampObj m)
  ∧ (∀ n : Fin 96, inProof s n = true →
      12000000 ≤ (s.lampObj n).blindAcc + (s.elapsed - (s.lampObj n).blindFrom) → Gives (.proofTimeout n) s fun t =>
        Sets [] s { t with lamp := s.lamp } ∧ t.lampObj n = { s.lampObj n with proof := 3 }
        ∧ ∀ m : Fin 96, m ≠ n → t.lampObj m = s.lampObj m)
  ∧ (∀ (v : BitVec 12) (below above : Bool),
      let low := s.flag F.CAL_STAT.LSUP_LOW
      Gives (.lsupMonitorReading v below above) s fun t => Signals [] s t ∧ t.get F.CAL_LSUP.VAL = v.toNat
        ∧ t.flag F.CAL_STAT.LSUP_LOW = (below || (low && !above))
        ∧ (below = true → low = false → t.flag F.CAL_EVT.LSUP_LOW = true ∧ Posted s t 0x68 true (leBytes 2 v.toNat))
        ∧ (above = true → below = false → low = true → Posted s t 0x68 false (leBytes 2 v.toNat))
        ∧ (∀ b : Fin 8, (t.bankSt b).waiting = false) ∧ t.lamp.obj = s.lamp.obj)
  ∧ (∀ n : Fin 95, supervised s n = true → supervised s (n + 1) = true →
      let p := s.adjPair n
      (∀ l : Bool, (s.lampObj n).conducting = false → (s.lampObj (n + 1)).conducting = false →
        Gives (.adjacentPinTest n (some l)) s fun t =>
          let r := Tally.eval p.tally (s.get F.CAL_TALLY1.ADJ) (some l) true
          Posts ((adjStale n, 0) :: if r.2 = .began then [(F.CAL_EVT.ADJ_SHORT, 1)] else []) s { t with lamp := s.lamp }
          ∧ t.adjPair n = ⟨r.1, none⟩ ∧ t.lamp.obj = s.lamp.obj ∧ ∀ m : Fin 95, m ≠ n → t.adjPair m = s.adjPair m)
      ∧ Gives (.adjacentPinTest n none) s (fun t =>
          let since := p.skipped.getD s.elapsed
          Sets (if since + 10000000000 ≤ s.elapsed then [(adjStale n, 1)] else []) s { t with lamp := s.lamp }
          ∧ t.adjPair n = { p with skipped := some since } ∧ t.lamp.obj = s.lamp.obj))

/-- Caliper (R190, R197, R201 to R204, R206, R207). An entry whose words are complete merges them into its accumulator, and the sequence goes on
to its next entry or to its first; a completed host request sets DONE and its flag, and Wedge's check enters a LOWCUR evaluation. An over-range word is
counted and, on a flag that was clear, flagged with its record. A host request is taken while none is under way, the buffer is
ready, the modulator is not the self-test's and the input may carry the current, and else is refused with RESULT 2 and counted. A read of ACC_LO answers and loads the shadows; ACC_LOC clears
the accumulator too; ACC_CLR clears all of a unit. Enabling the reference buffer starts its 2 ms, after which REF_READY reads 1;
disabling it while a pin of the unit is claimed is ignored and counted, and else ends REF_READY. -/
def Obligations.CaliperUnits : Prop :=
  ∀ (s : State) (u : Fin 4), s.Sound →
    let x := s.calUnit u
    let urg := s.get (F.CAL_Un_STAT.URG u)
    let others (t : State) : Prop := ∀ w : Fin 4, w ≠ u → t.calUnit w = s.calUnit w
    let lo (n : Nat) : Nat := enc 48 (x.accAt n).sum % 2 ^ 32
    let shadows := [R.CAL_Un_SHD_HI u, R.CAL_Un_SHD_CNT u, R.CAL_Un_SHD_MIN u, R.CAL_Un_SHD_MAX u]
    (∀ (src : CalSource) (words : List (BitVec 24)), ∀ c, calRun s u src = some c →
      (x.partAt (srcNum src)).count + words.length = c.repeats →
      let a := (x.partAt (srcNum src)).collect (words.map wordOf)
      Gives (.caliperEntryComplete u src words) s fun t => Signals [] s t ∧ others t
        ∧ (t.calUnit u).partAt (srcNum src) = Acc.zero
        ∧ (src ≠ .urgent → (t.calUnit u).accAt c.acc = (x.accAt c.acc).merge a
            ∧ ∀ first last, ctSpan x.table (srcNum src) = some (first, last) →
              t.get (seqEntryF u (srcNum src)) = (if c.entry < last then c.entry + 1 else first) % 2 ^ (seqEntryF u 0).width)
        ∧ (src = .urgent → urg = 2 → (t.calUnit u).accAt c.acc = (x.accAt c.acc).merge a
            ∧ t.flag (F.CAL_Un_URG_STAT.BUSY u) = false ∧ t.flag (F.CAL_Un_URG_STAT.DONE u) = true
            ∧ t.get (F.CAL_Un_URG_STAT.RESULT u) = 0 ∧ t.flag F.CAL_EVT.URG_DONE = true ∧ (t.calUnit u).host = none)
        ∧ (src = .urgent → urg = 1 → (t.calUnit u).acc = x.acc ∧ ∀ y rest, x.wq = y :: rest →
            (t.calUnit u).wq = rest ∧ (t.lampObj y.pin).lowcur
              = (Tally.eval (s.lampObj y.pin).lowcur (s.get F.CAL_TALLY1.LOWCUR) (some !turnOnPass y a) true).1))
    ∧ (∀ (src : CalSource) (words : List (BitVec 24)) (positive : Bool), ∀ c, calRun s u src = some c →
      (x.partAt (srcNum src)).count + words.length + 1 ≤ c.repeats →
      let a := (x.partAt (srcNum src)).collect (words.map wordOf ++ [if positive then 0x7FFFFF else -0x800000])
      let f := if src = .urgent then F.CAL_Un_URG_STAT.OVR u else ⟨R.CAL_Un_OVRm u (c.entry / 32), c.entry % 32, c.entry % 32⟩
      let report := ¬(src = .urgent ∧ urg = 1) ∧ s.flag f = false
      Gives (.caliperOverRange u src words positive) s fun t => others t
        ∧ (t.calUnit u).partAt (srcNum src) = { a with ovr := true } ∧ (t.calUnit u).acc = x.acc
        ∧ Posts (s.up (F.CAL_Un_CNT.OVRWORDS u) :: if report then [(f, 1), (F.CAL_EVT.OVR, 1)] else []) s { t with cal := s.cal }
        ∧ (report → Posted s t 0x67 true [BitVec.ofNat 8 u, BitVec.ofNat 8 c.entry, BitVec.ofNat 8 c.input]))
    ∧ (s.answers 8 →
      (∀ v : BitVec 32, v.toNat % 128 ≤ 95 →
        let ok := s.flag (F.CAL_Un_URG_STAT.BUSY u) = false ∧ s.flag (F.CAL_Un_STAT.REF_READY u) = true
          ∧ s.owner (modRes (2 * u + 1)) ≠ cSelfTest ∧ iowOk (v.toNat % 128) (s.get (F.CAL_Un_URG_CFG.IOW u)) = true
        (ok → Gives (.calUrg u v) s fun t => others t ∧ (t.calUnit u).acc = x.acc ∧ (t.calUnit u).wq = x.wq
          ∧ (t.calUnit u).host.isSome = true ∧ t.flag (F.CAL_Un_URG_STAT.BUSY u) = true
          ∧ t.get (F.CAL_Un_STAT.URG u) = (if urg ≠ 0 then urg else if x.wq ≠ [] then 1 else 2)
          ∧ OnlyRegs [R.CAL_Un_URG_STAT u, R.CAL_Un_STAT u, R.CAL_Un_CNT u] s { t with cal := s.cal })
        ∧ (¬ok → Gives (.calUrg u v) s (Sets [(F.CAL_Un_URG_STAT.RESULT u, 2), s.up F.GEN_WRERR_CNT.COUNT] s)))
      ∧ (s.readable 8 → ∀ n : Fin 64,
        Gives (.accLoRead u n) s (fun t => t.out = .readData (R.CAL_Un_ACCn_LO u n) (lo n) :: s.out
          ∧ OnlyRegs shadows s { t with out := s.out }
          ∧ t.read (R.CAL_Un_SHD_CNT u) = BitVec.ofNat 32 (x.accAt n).count)
        ∧ Gives (.accLocRead u n) s (fun t => t.out = .readData (R.CAL_Un_ACCn_LOC u n) (lo n) :: s.out
          ∧ OnlyRegs shadows s { t with out := s.out, cal := s.cal }
          ∧ t.read (R.CAL_Un_SHD_CNT u) = BitVec.ofNat 32 (x.accAt n).count ∧ others t
          ∧ ∀ m : Fin 64, (t.calUnit u).accAt m = if m = n then Acc.zero else x.accAt m))
      ∧ (s.flag (F.CAL_Un_CTL.REF_EN u) = true ∨ unitClaimed s u = false →
          Gives (.accClr u) s fun t => Sets [] s { t with cal := s.cal } ∧ others t ∧ t.calUnit u = { x with acc := [] })
      ∧ (∀ v : BitVec 32,
        let on := v.getLsbD 0
        let was := s.flag (F.CAL_Un_CTL.REF_EN u)
        (on = false → unitClaimed s u = true → Gives (.refEnWrite u v) s (Ignored s))
        ∧ (on = true ∨ unitClaimed s u = false → Gives (.refEnWrite u v) s fun t => Signals [] s t ∧ others t
          ∧ t.flag (F.CAL_Un_CTL.REF_EN u) = on
          ∧ (on = true → was = false → (t.calUnit u).refAt = s.elapsed)
          ∧ (on = was → (t.calUnit u).refAt = x.refAt ∧ t.flag (F.CAL_Un_STAT.REF_READY u) = s.flag (F.CAL_Un_STAT.REF_READY u))
          ∧ (on = false → was = true → t.flag (F.CAL_Un_STAT.REF_READY u) = false ∧ (t.calUnit u).wq = [])
          ∧ (v.getLsbD 1 = true → (t.calUnit u).acc = []))))
    ∧ (s.flag (F.CAL_Un_CTL.REF_EN u) = true → x.refAt + 2000000 ≤ s.elapsed →
        Gives (.refReady u) s (Sets [(F.CAL_Un_STAT.REF_READY u, 1)] s))

/-! ### Wedge -/

/-- Lanes and voting (R213 to R215, R231). Where the digests of three lanes agree they vote three ways; one that differs alone is isolated,
counted and reported, and out of service for its third time within an hour; where all differ the vote is NONE, with its flag and
record. Two lanes that agree go on, and two that differ are NONE. A stall isolates its lane; a second later the lane rejoins. In a step of one enabled group whose
classification has begun, the class of its steady aspect is what MIN_LIT makes of its lit elements, unless it is FAILED, which has
more consequences. -/
def Obligations.Lanes : Prop :=
  ∀ s : State, s.Sound →
    let vote := s.get F.WDG_STAT.VOTE
    let isolations (t : State) := t.get F.WDG_CNT.ISOLATIONS
    let third (l : Nat) := 2 ≤ (lastHour s.elapsed (s.laneSt l).times).length
    let isolated (l cause : Nat) (t : State) : Prop := t.get (laneF l) = (if third l then 3 else 1)
      ∧ isolations t = min 0xFFFF (isolations s + 1) ∧ t.flag F.WDG_EVT.LANE = true
      ∧ (t.laneSt l).times = s.elapsed :: lastHour s.elapsed (s.laneSt l).times
      ∧ PostedOnce s t 0x75 true [BitVec.ofNat 8 l, BitVec.ofNat 8 (if third l then 3 else cause)]
    let entersNone (t : State) : Prop := t.get F.WDG_STAT.VOTE = 2
      ∧ (vote ≠ 2 → t.flag F.WDG_EVT.NONE = true ∧ t.wedge.nones = s.elapsed :: s.wedge.nones ∧ PostedOnce s t 0x76 true [])
    (∀ a b c : BitVec 64, lanesOn s = [0, 1, 2] → Gives (.wedgeStep ⟨a, b, c, none, []⟩) s fun t => Signals [] s t
      ∧ (a = b → b = c → isolations t = isolations s ∧ t.read R.WDG_LANE = s.read R.WDG_LANE
          ∧ t.get F.WDG_STAT.VOTE = if vote = 2 then 2 else 0)
      ∧ (a = b → c ≠ a → isolated 2 0 t) ∧ (a = c → b ≠ a → isolated 1 0 t) ∧ (b = c → a ≠ b → isolated 0 0 t)
      ∧ ((a = b ∨ a = c ∨ b = c) → ¬(a = b ∧ b = c) → t.get F.WDG_STAT.VOTE = if vote = 2 then 2 else 1)
      ∧ (a ≠ b → a ≠ c → b ≠ c → entersNone t ∧ isolations t = isolations s))
  ∧ (∀ a b c : BitVec 64, lanesOn s = [0, 1] → s.get (laneF 2) ≠ 2 → Gives (.wedgeStep ⟨a, b, c, none, []⟩) s fun t => Signals [] s t
      ∧ isolations t = isolations s ∧ (a = b → t.get F.WDG_STAT.VOTE = if vote = 2 then 2 else 1) ∧ (a ≠ b → entersNone t))
  ∧ (∀ l : Fin 3, (lanesOn s).contains l.val = true → Gives (.laneStallTimeout l) s fun t => Signals [] s t ∧ isolated l 1 t
      ∧ (vote ≠ 2 → (lanesOn s).length = 3 → t.get F.WDG_STAT.VOTE = 1) ∧ ((lanesOn s).length < 3 → entersNone t))
  ∧ (∀ l : Fin 3, s.get (laneF l) = 1 → ((s.laneSt l).times.headD 0) + 1000000000 ≤ s.elapsed →
      Gives (.laneRejoinAttempt l) s (Sets [(laneF l, 2)] s))
  ∧ (∀ d : BitVec 64, lanesOn s = [0, 1, 2] → vote ≠ 2 → s.wedge.arrived = false → ∀ i, s.wedge.image = some i → ∀ g, i.live = [g] →
      ∀ a, (s.wgroup g).cur = some a → s.wedge.group ≠ [] → (s.wgroup g).open_ = true → (s.wgroup g).flashOn = true → i.flashOf g a = 0 →
      let w := s.wgroup g
      let e := groupLit s i g
      let cls := classOf (i.minLit g a) e.1 e.2
      cls ≠ 3 → w.grantAt < s.elapsed → Gives (.wedgeStep ⟨d, d, d, none, []⟩) s fun t =>
        ((t.wgroup g).grantAt = w.grantAt → (t.wgroup g).cls = cls)
        ∧ (cls ≠ w.cls → cls = 2 → t.flag F.WDG_EVT.DEGRADED = true))

/-- Timed events of the groups (R17, R216, R221, R226, R228, R229, R231, R233, R236). Each lets its time take effect and runs a step: the
dwell timed and the beginning of classification hold unless the step grants an aspect anew, the flash phase turns, an aspect left a millisecond
ago is no longer occupied, and an aspect blocked for RETRY minutes is blocked again only by that step. Without a presentation in time PRESENTING reads 0 and,
unless the vote is NONE, every enabled group is in failure policy for that cause, with its requests withdrawn and the one record
of them all. WDG_UNBLOCK unblocks the aspects named, each with its record. -/
def Obligations.WedgeTimers : Prop :=
  ∀ s : State, s.Sound →
    (∀ g : Fin 256,
      let w := s.wgroup g
      let steady (t : State) : Prop := w.grantAt < s.elapsed ∧ (t.wgroup g).grantAt = w.grantAt
      (∀ units : BitVec 8, w.cur ≠ none → w.grantAt + units.toNat * 100000000 ≤ s.elapsed → Gives (.dwellExpiry g units) s fun t =>
        Signals [] s t ∧ (steady t → (t.wgroup g).dwelt = max w.dwelt units.toNat))
      ∧ (∀ i, s.wedge.image = some i → ∀ a, w.cur = some a → i.flashOf g a ≠ 0 →
          let p := i.pattern (i.flashOf g a)
          w.phaseAt + (if w.flashOn then p.2 else p.1 - p.2) * 10000000 ≤ s.elapsed → Gives (.flashEdge g) s fun t =>
        Signals [] s t ∧ (t.wgroup g).phaseAt = s.elapsed ∧ (steady t → (t.wgroup g).flashOn = !w.flashOn))
      ∧ (∀ a : Fin 8, (w.left.any fun e => e.1 == a.val && decide (e.2 + 1000000 ≤ s.elapsed)) = true →
          Gives (.occupancyRelease g a) s fun t => Signals [] s t
            ∧ ∀ e ∈ (t.wgroup g).left, e.1 = a.val → s.elapsed < e.2 + 1000000)
      ∧ (w.cur ≠ none → w.open_ = false → (if w.fb then 15000000 else 40000000) ≤
          w.onAcc + (if w.flashOn = true ∧ w.awaiting = [] then s.elapsed - w.onFrom else 0) →
          Gives (.classificationStart g) s fun t => Signals [] s t
            ∧ (steady t → (t.wgroup g).cur = w.cur → (t.wgroup g).fb = w.fb → (t.wgroup g).open_ = true))
      ∧ (∀ a : Fin 8, ∀ i, s.wedge.image = some i → i.retry g ≠ 0 →
          ∀ e, (w.blocked.find? fun e => e.1 == a.val) = some e → e.2 + i.retry g * 60000000000 ≤ s.elapsed →
          Gives (.blockRetryExpiry g a) s fun t => Signals [] s t
            ∧ (∀ e ∈ (t.wgroup g).blocked, e.1 = a.val → e.2 = s.elapsed)
            ∧ PostedOnce s t 0x7D false [BitVec.ofNat 8 g, BitVec.ofNat 8 a, 1])
      ∧ (s.answers 9 → ∀ v : BitVec 32, v.toNat % 256 = g → Gives (.wdgUnblock v) s fun t =>
          Frame [R.WDG_Gg g] s { t with wedge := s.wedge }
          ∧ t.wgroup g = { w with blocked := w.blocked.filter fun e => !(decide (e.1 < 8) && v.getLsbD (8 + e.1)) }
          ∧ (∀ h : Fin 256, h ≠ g → t.wgroup h = s.wgroup h)
          ∧ ∀ e ∈ w.blocked, e.1 < 8 → v.getLsbD (8 + e.1) = true →
              PostedOnce s t 0x7D false [BitVec.ofNat 8 g, BitVec.ofNat 8 e.1, 2]))
  ∧ (let failed (cause : Nat) (t : State) : Prop := ∀ i, s.wedge.image = some i → s.get F.WDG_STAT.VOTE ≠ 2 →
        s.wedge.group ≠ [] → s.wedge.arrived = false →
        (∀ g ∈ i.live, (t.wgroup g).causes.contains cause = true ∧ (t.wgroup g).winner = none)
        ∧ t.flag F.WDG_EVT.FAILSAFE = true ∧ PostedOnce s t 0x73 true (leBytes 2 0xFFFF ++ [BitVec.ofNat 8 cause, 0])
     (∀ x, s.wedge.presAt = some x → s.flag F.WDG_STAT.PRESENTING = true → x + 100000000 ≤ s.elapsed →
        Gives .presentationTimeout s fun t => Signals [] s t ∧ t.flag F.WDG_STAT.PRESENTING = false ∧ failed 0 t)
     ∧ (∀ i, s.wedge.image = some i → s.flag F.WDG_STAT.START_WAIT = true → s.wedge.started = true → s.wedge.startLost = false →
        s.wedge.waitAt + i.startWait * 1000000000 ≤ s.elapsed → Gives .startWaitTimeout s fun t => Signals [] s t
          ∧ (s.wedge.arrived = false → t.wedge.startLost = true) ∧ failed 1 t))

/-- Starts and activation (R213, R225, R226). At its start Wedge loads the valid copy of the image, or has none: the image in force, its serial
and the copies are shown, it waits for the first presentation, and every enabled group stands in its INITIAL aspect with its record.
An activation writes both copies of the image being committed and starts with it likewise, with the commit's flag and record. -/
def Obligations.WedgeStarts : Prop :=
  ∀ s : State, s.Sound →
    let inForce (b : List Byte) (t : State) : Prop :=
      let i := parseImage b
      t.wedge.image = some i ∧ t.get F.WDG_STAT.IMG = 1 ∧ t.flag F.WDG_STAT.START_WAIT = true ∧ t.flag F.WDG_STAT.PRESENTING = false
      ∧ t.get F.WDG_IMG_SERIAL.SERIAL = i.serial % 2 ^ 32 ∧ t.flag F.WDG_STAT.COPY0_VALID = true
      ∧ t.flag F.WDG_STAT.COPY1_VALID = true ∧ t.wedge.waitAt = s.elapsed
      ∧ ∀ g ∈ i.live, (t.wgroup g).cur = some (i.initial g) ∧ (t.wgroup g).start = true
    (s.wedge.started = false → s.get F.WDG_STAT.VOTE ≠ 2 → Gives .wedgeStart s fun t => Signals [] s t ∧ t.wedge.started = true
      ∧ t.wedge.store = (repairStore s.wedge.store).2.1
      ∧ ((repairStore s.wedge.store).1 = none → t.wedge.image = none ∧ t.get F.WDG_STAT.IMG = 0)
      ∧ ∀ k b, (repairStore s.wedge.store).1 = some (k, b) → inForce b t
          ∧ PostedOnce s t 0x78 true (imagePayload (parseImage b).serial (1 + k) (repairStore s.wedge.store).2.2))
  ∧ (s.wedge.started = true → s.get F.WDG_STAT.VOTE = 2 → (lastHour s.elapsed s.wedge.nones).length ≤ 1 →
      Gives .wedgeStart s fun t => Signals [] s t
        ∧ (∀ l : Fin 3, t.get (laneF l) = if s.get (laneF l) = 3 then 3 else 0) ∧ PostedOnce s t 0x76 false [])
  ∧ (∀ b, s.wedge.commit = some b → Gives .imageActivation s fun t => inForce b t ∧ t.wedge.commit = none
      ∧ t.wedge.store = [storeCopy b, storeCopy b] ∧ t.flag F.WDG_EVT.COMMIT = true
      ∧ PostedOnce s t 0x78 true (imagePayload (parseImage b).serial 0 false) ∧ Activates [] s t)

/-! ### The marking table -/

/-- The marking table (R226, R227, R241 to R245). A pass clears the host request bits that are due and empties the lists of latches to
clear. With an image it presents to Wedge, for every enabled group, the best of the live requests of enabled rules that are not inert,
by PRIO, then aspect, then rule, or nothing; without one it presents nothing. A table committed before it comes into force, with every
hold and latch cleared, its flag and its record. A trigger that is live sets its rule's latch where it has one, and a latch not asked
to clear stays. MRK_HREQ_SET and MRK_HREQ_CLR set and clear the bit named, which expires after HREQ_TTL seconds with flag and
record; MRK_LATCH_CLR names a latch, or all, for the next pass. -/
def Obligations.MarkingTable : Prop :=
  ∀ s : State, s.Sound →
    (let live (r : Nat) (e : List Byte) : Prop := (s.mark.rules[r]? = some e ∧ bit (le e 0 1) 7 = true)
        ∧ inertRule s e = false ∧ (rulePass s r e).2 = true
     let request (r : Nat) (e : List Byte) : Nat × Nat × Nat := (bits (le e 2 1) 2 0, bits (le e 2 1) 7 4, r)
     let calm : Prop := s.mark.next = none ∧ ∀ i : Fin 256, hreqDue s i = false
     Gives .markingPass s fun t => Signals [] s t ∧ (t.mark.clear = [] ∧ t.mark.clearAll = false)
      ∧ (∀ i : Fin 256, s.mark.next = none → t.flag (hreqF i) = (s.flag (hreqF i) && !hreqDue s i))
      ∧ (s.wedge.image = none → t.wedge = s.wedge ∧ t.get F.MRK_PASS_CNT.PASSES = s.get F.MRK_PASS_CNT.PASSES)
      ∧ (∀ i, s.wedge.image = some i → t.wedge.presAt = some s.elapsed ∧ t.wedge.arrived = true
          ∧ t.flag F.WDG_STAT.PRESENTING = true ∧ t.flag F.WDG_STAT.START_WAIT = false
          ∧ t.get F.MRK_PASS_CNT.PASSES = min 0xFFFFFFFF (s.get F.MRK_PASS_CNT.PASSES + 1)
          ∧ (calm → ∀ g ∈ i.live,
              (∀ w, (t.wgroup g).winner = some w → ∃ e, live w.2.2 e ∧ le e 1 1 = g ∧ request w.2.2 e = w)
              ∧ ∀ r e, live r e → le e 1 1 = g →
                  ∃ w, (t.wgroup g).winner = some w ∧ (w = request r e ∨ better w (request r e) = true)))
      ∧ (∀ b, s.mark.next = some b → t.mark.next = none ∧ t.mark.rules = tableRules b
          ∧ t.get F.MRK_SERIAL.SERIAL = le b 8 4 ∧ t.flag F.MRK_STAT.LOADED = true ∧ t.flag F.MRK_EVT.LOAD = true
          ∧ PostedOnce s t 0x79 true (leBytes 4 (le b 8 4)))
      ∧ (calm → ∀ r e, (s.mark.rules[r]? = some e ∧ bit (le e 0 1) 7 = true) →
          (trigger s e = true → t.ruleSt r = ⟨some s.elapsed, bit (le e 0 1) 5⟩)
          ∧ (trigger s e = false → s.mark.clearAll = false → s.mark.clear.contains r = false →
              t.ruleSt r = ⟨(s.ruleSt r).last, bit (le e 0 1) 5 && (s.ruleSt r).latched⟩)))
  ∧ (s.answers 10 → ∀ v : BitVec 32, ∀ i : Fin 256, i.val = v.toNat % 256 →
      Gives (.mrkHreqSet v) s (fun t => Sets [(hreqF i, 1)] s { t with mark := s.mark }
        ∧ t.mark.hreqAt = sput (fun _ => 0) s.mark.hreqAt i s.elapsed ∧ { t.mark with hreqAt := s.mark.hreqAt } = s.mark)
      ∧ Gives (.mrkHreqClr v) s (Sets [(hreqF i, 0)] s))
  ∧ (s.answers 10 → ∀ v : BitVec 32,
      Gives (.hreqTtlWrite v) s (fun t => Sets [(F.MRK_CFG.HREQ_TTL, bits v.toNat 7 0)] s { t with mark := s.mark }
        ∧ t.mark = if bits v.toNat 7 0 = s.get F.MRK_CFG.HREQ_TTL then s.mark else { s.mark with ttlAt := s.elapsed })
      ∧ Gives (.mrkLatchClr v) s fun t => { t with mark := s.mark } = s
        ∧ t.mark = if v.getLsbD 13 then { s.mark with clearAll := true }
            else { s.mark with clear := s.mark.clear ++ [bits v.toNat 12 0] })
  ∧ (∀ i : Fin 256, Gives (.hreqExpired i) s fun t =>
      if hreqDue s i ∧ s.mark.ttlAt < sget (fun _ => 0) s.mark.hreqAt i + s.get F.MRK_CFG.HREQ_TTL * 1000000000 then
        Posts [(hreqF i, 0), (F.MRK_EVT.HREQ_EXP, 1)] s t ∧ Posted s t 0x7B true [BitVec.ofNat 8 i]
      else t = s)

/-! ### Skyline -/

/-- Exchanges of a chain (R251, R255, R256, R260 to R262, R265 to R268). A start numbers the exchange from TAI and sends a share to every head,
the enables of this instant (none in STARTING), LEVEL, CMD and SEQ, unless the line reads high; an OFF, busy or interlocked chain starts
none. LINE_SHORT is counted once an exchange. A return frame in time, or the deadline, ends the exchange: a status counts where
its cells, CRC, SHARE_OK and ECHO_SEQ are right, every other head is missing for its cause; a cell count that is not a multiple of 32
or too large is a framing error. A fault is reported at onset and clearing and decides the chain's state. The traced exchange's edges
stand in the working buffer. Without a result for twice the period and 5 ms every output of the chain is dark. -/
def Obligations.Exchanges : Prop :=
  ∀ s : State, s.Sound → ∀ c : Fin 4,
    let x := s.chain c
    let st := s.chainState c
    let n := chainHeads s c
    let num := (s.tai - c.val * 2500000) / chainPeriod n
    let others (t : State) : Prop := ∀ d : Fin 4, d ≠ c → t.chain d = s.chain d
    let ended (res : Nat → Nat ⊕ Nat) (brk : Option Nat) (edges : List (Nat × Bool)) (t : State) : Prop :=
      let y := t.chain c
      let now := if x.line.isSome then x.line else brk.map fun _ => 2
      let seen := BitVec.ofNat 8 (t.get (F.SKY_Cc_STAT.SEEN c))
      y.open_ = false ∧ y.resultAt = s.elapsed ∧ y.dark = false ∧ others t
      ∧ ((x.trace = none ∨ x.recording = false) → Signals [] s t)
      ∧ t.get (F.SKY_Cc_STAT.SEEN c) = ((List.range x.heads).filter fun h => (res h).isLeft).length % 128
      ∧ (∀ h, h < x.heads →
          (∀ w, res h = .inl w → (y.headAt h).missing = false ∧ (y.headAt h).status = w ∧ (y.headAt h).since = 0
            ∧ (y.headAt h).lit = bits w 15 0 &&& bits (x.headAt h).prev 15 0)
          ∧ (∀ k, res h = .inr k → (y.headAt h).missing = true ∧ (y.headAt h).cause = k
            ∧ (y.headAt h).since = min 0xFFFF ((x.headAt h).since + 1)
            ∧ (s.flag (F.SKY_Cc_CFG.GRACE c) = false → (y.headAt h).lit = 0)))
      ∧ (∀ h : Fin 32, (t.read (R.SKY_Cc_MISS_LO c)).getLsbD h = (y.headAt h).missing)
      ∧ t.flag (F.SKY_Cc_STAT.BREAK c) = brk.isSome ∧ (∀ m, brk = some m → t.get (F.SKY_Cc_STAT.BREAK_AT c) = m % 64)
      ∧ y.fault = now
      ∧ (now ≠ x.fault → ∀ k, (now = some k → t.flag F.SKY_EVT.CHAIN = true
            ∧ PostedOnce s t 0x81 true [BitVec.ofNat 8 c, BitVec.ofNat 8 k, seen])
          ∧ (x.fault = some k → PostedOnce s t 0x81 false [BitVec.ofNat 8 c, BitVec.ofNat 8 k, seen]))
      ∧ (x.closing = true → t.chainState c = 0)
      ∧ (x.closing = false →
          (st = 1 → t.chainState c = if (3 ≤ x.sent ∧ ∀ h, h < x.heads → (y.headAt h).trimmed = true) ∨ 10 ≤ x.sent then 2 else 1)
          ∧ (st = 2 → t.chainState c = if x.fault ≠ none ∧ now ≠ none then 3 else 2)
          ∧ (st = 3 → t.chainState c = if now ≠ none then 3 else if x.faultAt + 100000000 < s.elapsed then 1 else 2))
      ∧ (∀ b : Fin 16, x.trace = some b.val → x.recording = true →
          t.flag (F.SKY_Cc_STAT.TRACE_BUSY c) = false ∧ t.flag F.SKY_EVT.TRACE_DONE = true ∧ y.trace = none
          ∧ t.flag (F.SKY_Cc_STAT.TRACE_TRUNC c) = decide (16384 < (traceEdges s c edges).length)
          ∧ ∀ i e, (traceEdges s c edges)[i]? = some e → i < 16384 → ∀ j : Fin 4,
              sget (fun _ => (0 : Byte)) t.deck.space (b * wbSize s + 4 * i + j)
                = (leBytes 4 (traceEntry e.1 e.2.1 e.2.2)).getD j 0)
    (∀ high : Bool, Gives (.exchangeStart c high) s fun t =>
      if st = 0 ∨ x.open_ = true ∨ interlocked s = true then t = s
      else Signals [] s t ∧ others t ∧ (t.chain c).open_ = true ∧ (t.chain c).startAt = s.elapsed ∧ (t.chain c).heads = n
        ∧ (t.chain c).num = num
        ∧ (high = true → t.out = s.out ∧ t.get (F.SKY_Cc_ERR2.LINE c) = min 0xFFFF (s.get (F.SKY_Cc_ERR2.LINE c) + 1)
            ∧ t.get (F.SKY_Cc_EXCH.EXCH c) = s.get (F.SKY_Cc_EXCH.EXCH c) ∧ (t.chain c).line = some 1)
        ∧ (high = false → (t.chain c).line = none ∧ (t.chain c).fltClr = false
            ∧ t.get (F.SKY_Cc_EXCH.EXCH c) = min 0xFFFFFFFF (s.get (F.SKY_Cc_EXCH.EXCH c) + 1)
            ∧ t.out = .downFrame c ((List.range n).flatMap fun h => wordCells ((t.chain c).headAt h).share) :: s.out
            ∧ ∀ h, h < n → let w := ((t.chain c).headAt h).share
                w = withCrc w ∧ bits w 15 0 = (if st = 1 then 0 else headEnable s c h % 2 ^ 16)
                ∧ bits w 19 16 = s.get (F.SKY_Cc_LEVEL.LEVEL c) ∧ bits w 21 20 = shareCmd s c h ∧ bits w 23 22 = num % 4
                ∧ ((t.chain c).headAt h).prev = (x.headAt h).share))
  ∧ Gives (.lineShort c) s (fun t =>
      if x.open_ = true ∧ x.line = none then
        Sets [s.up (F.SKY_Cc_ERR2.LINE c)] s { t with sky := s.sky } ∧ others t
          ∧ t.chain c = { x with line := some 0, cutAt := some (s.elapsed - x.startAt) }
      else t = s)
  ∧ (∀ (cells : List (Option Bool)) (edges : List (Nat × Bool)), Gives (.returnFrameEnd c cells edges) s fun t =>
      if x.open_ = true ∧ x.line = none ∧ s.elapsed ≤ returnDeadline x then
        let m := cells.length / 32
        let res := frameResult cells m x.num
        t.get (F.SKY_Cc_RT.MAX c) = max (s.get (F.SKY_Cc_RT.MAX c)) (t.get (F.SKY_Cc_RT.LAST c))
        ∧ (cells.length % 32 ≠ 0 ∨ x.heads < m → ended (fun _ => .inr 1) none edges t
            ∧ t.get (F.SKY_Cc_ERR.FRAMING c) = min 0xFFFF (s.get (F.SKY_Cc_ERR.FRAMING c) + 1))
        ∧ (cells.length % 32 = 0 → m ≤ x.heads →
            ended res (if m < x.heads ∧ ∃ w, statusOf (cells.take 32) = some w ∧ bit w 19 = true then some m else none) edges t
            ∧ t.get (F.SKY_Cc_ERR.CRC c) = min 0xFFFF (s.get (F.SKY_Cc_ERR.CRC c)
                + ((List.range m).filter fun h => res h == .inr 3).length)
            ∧ ∀ h, h < m → ∀ w, res h = .inl w → bit w 16 = true ∧ bits w 18 17 = (x.num + 3) % 4 ∧ withCrc w = w)
      else t = s)
  ∧ (∀ edges : List (Nat × Bool), Gives (.returnFrameDeadline c edges) s fun t =>
      if x.open_ = true ∧ returnDeadline x ≤ s.elapsed then ended (fun _ => .inr 0) none edges t
        ∧ t.get (F.SKY_Cc_ERR2.LATE c) = min 0xFFFF (s.get (F.SKY_Cc_ERR2.LATE c) + (if x.line = none then 1 else 0))
      else t = s)
  ∧ Gives (.chainResultTimeout c) s (fun t => { t with sky := s.sky } = s ∧ others t
      ∧ t.chain c = if st ≠ 0 ∧ x.resultAt + 2 * chainPeriod n + 5000000 ≤ s.elapsed then { x with dark := true } else x)

/-- Register actions on a chain (R7, R256, R265, R269, R270). EN = 1 puts an OFF chain in STARTING; EN = 0 stops it at once, or at the end
of the exchange in progress; a change of NHEADS_M1 or GRACE while it stays enabled is a reserved encoding, and outside the states of
R158 the whole write is ignored. TRACE claims the working buffer named and arms a trace, or reports the conflict; FLT_CLR and IDENT
set what the next shares carry, and IDENT ends 3 s after its write. -/
def Obligations.ChainControl : Prop :=
  ∀ s : State, s.Sound → ∀ c : Fin 4,
    let x := s.chain c
    let others (t : State) : Prop := ∀ d : Fin 4, d ≠ c → t.chain d = s.chain d
    let onlyChain (y : SkyChain) (t : State) : Prop := { t with sky := s.sky } = s ∧ others t ∧ t.chain c = y
    (s.answers 11 → ∀ v : BitVec 32,
      let en := s.flag (F.SKY_Cc_CFG.EN c)
      let stays := (s.read (R.SKY_Cc_CFG c)).toNat
      let stored (t : State) : Prop := t.get ⟨R.SKY_Cc_CFG c, 11, 0⟩ = bits v.toNat 11 0
      (s.cfgOpen = false → Gives (.chainEnable c v) s (Ignored s))
      ∧ (s.cfgOpen = true → en = true → v.getLsbD 0 = true → bits stays 7 1 ≠ bits v.toNat 7 1 →
          Gives (.chainEnable c v) s (Ignored s))
      ∧ (s.cfgOpen = true → en = v.getLsbD 0 → (en = true → bits stays 7 1 = bits v.toNat 7 1) →
          Gives (.chainEnable c v) s fun t => stored t ∧ OnlyRegs [R.SKY_Cc_CFG c] s t)
      ∧ (s.cfgOpen = true → en = false → v.getLsbD 0 = true → Gives (.chainEnable c v) s fun t => stored t
          ∧ OnlyRegs [R.SKY_Cc_CFG c, R.SKY_Cc_STAT c, R.SKY_STAT] s { t with sky := s.sky } ∧ others t ∧ t.chainState c = 1
          ∧ t.flag (F.SKY_Cc_STAT.PERIOD c) = decide (32 < bits v.toNat 6 1 + 1) ∧ (t.chain c).sent = 0
          ∧ (t.chain c).resultAt = s.elapsed ∧ ∀ h : Fin 64, ((t.chain c).headAt h).trimmed = false)
      ∧ (s.cfgOpen = true → en = true → v.getLsbD 0 = false → Gives (.chainEnable c v) s fun t => stored t ∧ others t
          ∧ OnlyRegs [R.SKY_Cc_CFG c, R.SKY_Cc_STAT c, R.SKY_STAT] s { t with sky := s.sky, wedge := s.wedge }
          ∧ (x.open_ = true → t.chain c = { x with closing := true } ∧ t.wedge = s.wedge ∧ t.chainState c = s.chainState c)
          ∧ (x.open_ = false → t.chainState c = 0)))
  ∧ (s.answers 11 → s.frozen = false →
      ∀ b : Fin 16, s.get (F.SKY_Cc_CFG.TRACE_WB c) = b.val → s.flag (F.SKY_Cc_STAT.TRACE_BUSY c) = false →
        ((s.owner (.buffer b) = 0 ∨ s.owner (.buffer b) = cSkyline) → Gives (.trace c) s fun t =>
          Sets [(ownerF (.buffer b), cSkyline), (F.SKY_Cc_STAT.TRACE_BUSY c, 1), (F.SKY_Cc_STAT.CONFLICT c, 0)] s { t with sky := s.sky }
          ∧ others t ∧ t.chain c = { x with trace := some b.val, recording := false })
        ∧ (s.owner (.buffer b) ≠ 0 → s.owner (.buffer b) ≠ cSkyline → Gives (.trace c) s fun t =>
          Posts [(F.SKY_Cc_STAT.CONFLICT c, 1), (F.SKY_EVT.CONFLICT, 1), (loserF (.buffer b), cSkyline), s.up (conflictF (.buffer b))] s t
          ∧ Posted s t 0x50 true (ownershipPayload (.buffer b) (s.owner (.buffer b)) cSkyline false)))
  ∧ (s.answers 11 → Gives (.fltClr c) s (onlyChain { x with fltClr := true })
      ∧ ∀ h : Fin 64, Gives (.ident c h) s (onlyChain { x with ident := some (h.val, s.elapsed) }))
  ∧ (∀ h at_, x.ident = some (h, at_) → Gives (.identExpiry c) s
      (onlyChain (if at_ + 3000000000 ≤ s.elapsed then { x with ident := none } else x)))

/-! ### Field I/O -/

/-- Field I/O (R273, R277 to R287, R289, R395). In every clause FIO_IN, FIO_RB and DRIVE of the channel show what R282, R284 and R289 give for the state it leaves: the level
reported, STALE_VAL while STALE, 0 in another mode; an output drives high where its command is 1, it is neither hot, nor reset, nor
in the safe state. A mode change claims or releases the channel and its timer, or is refused; reserved values and writes outside the states
of R158 are ignored. Inputs and FIO_OUT writes act on channels of their mode; phases, over-temperature, evaluations, frames, STALE,
silence, the release of the safe state, the loss of VMAIN and the field supply do what their rules say, each with its flags, counts
and records. -/
def Obligations.FieldChannels : Prop :=
  ∀ s : State, s.Sound → ∀ n : Fin 16,
    let x := s.fioChan n
    let mode := s.get (F.FIO_IOn_CFG.MODE n)
    let stale := s.flag (F.FIO_IOn_STAT.STALE n)
    let safe := s.flag (F.FIO_IOn_STAT.SAFE n)
    let asIs (t : State) (d : Fin 16) : Prop := t.fioChan d = s.fioChan d
    let view (t : State) (k : Fin 16) : List (Field × Nat) :=
      let m := t.get (F.FIO_IOn_CFG.MODE k)
      let y := t.fioChan k
      let v := if t.flag (F.FIO_IOn_STAT.STALE k) then t.flag (F.FIO_IOn_CFG.STALE_VAL k) else y.level
      let on := t.flag (fioBit R.FIO_OUT 0 k) && (t.get (F.FIO_IOn_CFG.OSRC k) != 1 || y.phase)
      [(fioBit R.FIO_IN 0 k, b2n (m == 1 && v)), (fioBit R.FIO_RB 0 k, b2n (m == 2 && v)),
       (fioBit R.FIO_RB 16 k, b2n (m == 2 && !y.hot && !y.reset && !t.flag (F.FIO_IOn_STAT.SAFE k) && on))]
    -- only this channel's record and the registers listed differ
    let gives (l : List (Field × Nat)) (y : FioChan) (t : State) : Prop :=
      Posts (l ++ view t n) s { t with fio := s.fio } ∧ t.fioChan n = y ∧ ∀ d : Fin 16, d ≠ n → asIs t d
    let quiet (l : List (Field × Nat)) (y : FioChan) (t : State) : Prop :=
      Sets (l ++ view t n) s { t with fio := s.fio } ∧ t.fioChan n = y ∧ ∀ d : Fin 16, d ≠ n → asIs t d
    let link (t : State) (kind : Nat) (state : Bool) : Prop := Posted s t 0x8B state [BitVec.ofNat 8 n, BitVec.ofNat 8 kind]
    let left : List (Field × Nat) := [(F.FIO_IOn_STAT.SAFE n, 0), (fioBit R.FIO_STAT 16 n, 0)]
    -- R273, R279, R289
    (s.answers 12 → ∀ v : BitVec 32,
      let newMode := bits v.toNat 1 0
      let reserved : Prop := newMode = 3 ∨ 2 ≤ bits v.toNat 7 6 ∨ bits v.toNat 24 15 = 0 ∨ 1000 < bits v.toNat 24 15
        ∨ (newMode ≠ 0 ∧ mode ≠ 0 ∧ newMode ≠ mode)
      let timer : Option Nat := if newMode ≠ 0 ∧ bits v.toNat 7 6 = 1 then some (bits v.toNat 11 8) else none
      let refusedField : Prop := newMode ≠ 0 ∧ mode = 0 ∧ s.owner (.field n) ≠ 0 ∧ s.owner (.field n) ≠ cField
      let free (k : Fin 16) : Prop := (s.owner (.timer k) = 0 ∨ s.owner (.timer k) = cField)
        ∧ ∀ m : Fin 16, m ≠ n → fioTimer s m ≠ some k.val
      (s.cfgOpen = false ∨ reserved → Gives (.fieldCfgWrite n v) s (Ignored s))
      ∧ (s.cfgOpen = true → ¬reserved → ¬refusedField →
          (∀ k : Fin 16, timer = some k.val → fioTimer s n ≠ some k.val → free k) →
          Gives (.fieldCfgWrite n v) s fun t =>
            (t.read (R.FIO_IOn_CFG n)).toNat = v.toNat &&& rwMask (R.FIO_IOn_CFG n)
            ∧ t.flag (F.FIO_IOn_STAT.CONFLICT n) = false
            ∧ (mode = 0 → newMode ≠ 0 → t.owner (.field n) = cField)
            ∧ (mode ≠ 0 → newMode = 0 → s.owner (.field n) = cField → s.frozen = false → t.owner (.field n) = 0)
            ∧ (newMode = 0 → mode ≠ 0 → t.flag (F.FIO_IOn_STAT.SAFE n) = false ∧ (t.fioChan n).hot = false ∧ t.get ⟨R.FIO_IOn_STAT n, 5, 1⟩ = 0)
            ∧ (∀ k : Fin 16, timer = some k.val → fioTimer s n ≠ some k.val → t.owner (.timer k) = cField)
            ∧ (∀ k : Fin 16, fioTimer s n = some k.val → timer ≠ some k.val → s.owner (.timer k) = cField → s.frozen = false →
                t.owner (.timer k) = 0)
            ∧ t.flag (fioBit R.FIO_OUT 0 n) = (s.flag (fioBit R.FIO_OUT 0 n) && !(newMode == 2 && mode != 2))
            ∧ (∀ e ∈ view t n, t.get e.1 = e.2) ∧ (∀ d : Fin 16, d ≠ n → asIs t d) ∧ t.unsignaled s = s
            ∧ ∀ a, signalBlock (a / 0x10000) = false → deliveryReg a = false → (∀ k : Fin 16, a ≠ ownAddr (.timer k)) → t.read a = s.read a)
      ∧ (s.cfgOpen = true → ¬reserved → refusedField → Gives (.fieldCfgWrite n v) s fun t =>
          t.read (R.FIO_IOn_CFG n) = s.read (R.FIO_IOn_CFG n) ∧ t.flag (F.FIO_IOn_STAT.CONFLICT n) = true
          ∧ t.flag F.FIO_EVT.CONFLICT = true ∧ t.owner (.field n) = s.owner (.field n) ∧ t.fio = s.fio
          ∧ t.get (loserF (.field n)) = cField ∧ PostedOnce s t 0x50 true (ownershipPayload (.field n) (s.owner (.field n)) cField false)))
    -- R277
  ∧ (∀ (on : Bool) (stamp : BitVec 64), Gives (.fioInput n on stamp) s fun t =>
      if mode = 1 ∧ stale = false ∧ x.level ≠ on then
        gives [s.up (F.FIO_IOn_CNT.EDGES n), (F.FIO_EVT.EDGE, 1)] { x with level := on } t
        ∧ (if s.flag (F.FIO_IOn_CFG.EVT_EN n) then
            Output.event ⟨0x89, on, false, false, s.seq, stamp.toNat, [BitVec.ofNat 8 n]⟩ ∈ t.out else t.out = s.out)
      else t = s)
    -- R278
  ∧ (let out := s.get F.FIO_OUT.OUT
     let wrote (want : Nat) (t : State) : Prop := OnlyRegs [R.FIO_OUT, R.FIO_IN, R.FIO_RB] s { t with fio := s.fio }
       ∧ ∀ k : Fin 16,
         let moves := s.get (F.FIO_IOn_CFG.MODE k) == 2 && bit out k != bit want k
         t.flag (fioBit R.FIO_OUT 0 k) = (if moves then bit want k else bit out k)
         ∧ t.fioChan k = (if moves && bit want k && s.get (F.FIO_IOn_CFG.OSRC k) == 1 then
             { s.fioChan k with phase := true, phaseAt := s.elapsed } else s.fioChan k)
         ∧ (moves = true → ∀ e ∈ view t k, t.get e.1 = e.2)
     s.answers 12 → ∀ v : BitVec 32, Gives (.fioOutWrite v) s (wrote v.toNat) ∧ Gives (.fioOutSet v) s (wrote (out ||| v.toNat % 2 ^ 16))
       ∧ Gives (.fioOutClr v) s (wrote (out &&& (0xFFFF ^^^ v.toNat % 2 ^ 16))))
  ∧ Gives (.pulsePhaseExpiry n) s (fun t =>
      let ms := if x.phase then s.get (F.FIO_IOn_PULSE.ON_MS n) else s.get (F.FIO_IOn_PULSE.OFF_MS n)
      if mode = 2 ∧ s.get (F.FIO_IOn_CFG.OSRC n) = 1 ∧ s.flag (fioBit R.FIO_OUT 0 n) = true ∧ x.phaseAt + ms * 1000000 ≤ s.elapsed then
        quiet [] { x with phase := !x.phase, phaseAt := s.elapsed } t
      else t = s)
    -- R280, R281
  ∧ Gives (.outputOvertemp n) s (fun t =>
      if mode = 2 ∧ x.hot = false then quiet [(F.FIO_IOn_STAT.OTEMP n, 1)] { x with hot := true, hotAt := s.elapsed } t else t = s)
  ∧ Gives (.outputOvertempRecover n) s (fun t =>
      if x.hot = true ∧ x.hotAt + 100000000 ≤ s.elapsed then
        quiet [(F.FIO_IOn_STAT.OTEMP n, 0)] { x with hot := false, heldSince := putBit x.heldSince 2 true } t
      else t = s)
  ∧ Gives .outputDiagEvaluation s (fun t => Signals [] s t ∧
      if mode = 2 then
        (t.fioChan n).heldSince = s.get ⟨R.FIO_IOn_STAT n, 5, 2⟩
        ∧ ∀ k : Fin 4,
          let made := if stale = true ∨ ((k.val = 1 ∨ k.val = 3) ∧ s.flag F.FIO_STAT.FSUP_LOW = true) then none
            else some (bit x.heldSince k || s.flag (diagF n k))
          let r := Tally.eval (sget (fun _ => Tally.zero) x.tally k) (diagTally s k) made
          sget (fun _ => Tally.zero) (t.fioChan n).tally k = r.1 ∧ t.flag ⟨R.FIO_IOn_STAT n, 6 + k, 6 + k⟩ = r.1.lasting
          ∧ (r.2 = .began → t.flag F.FIO_EVT.FAULT = true)
      else asIs t n)
    -- R282 to R286
  ∧ Gives (.couplerFrame n .toField) s (fun t =>
      if interlocked s = true then t = s
      else if safe = true ∧ s.flag (F.FIO_IOn_CFG.SAFE_LATCH n) = false then
        gives left { x with outAt := s.elapsed, reset := false, resumed := false } t ∧ link t 1 false
      else quiet [] { x with outAt := s.elapsed, reset := false, resumed := x.resumed || safe } t)
  ∧ (∀ (raw : Bool) (pin : Option Bool) (ovl openWire cont : Bool), Gives (.couplerFrame n (.fromField raw pin ovl openWire cont)) s fun t =>
      let supply := !s.flag F.FIO_STAT.FSUP_LOW
      let o := mode == 2 && ovl
      let w := mode == 2 && openWire && supply && s.flag (F.FIO_IOn_CFG.OW_EN n)
      let c := mode == 2 && cont && supply
      gives [(F.FIO_IOn_STAT.RAW n, b2n (mode == 1 && raw)), (F.FIO_IOn_STAT.OVL n, b2n o), (F.FIO_IOn_STAT.OPEN n, b2n w),
             (F.FIO_IOn_STAT.CONT n, b2n c), (F.FIO_IOn_STAT.STALE n, 0), (fioBit R.FIO_IN 16 n, 0)]
        { x with inAt := s.elapsed, level := (if mode = 2 then pin.getD x.level else x.level),
                 heldSince := x.heldSince ||| (b2n o + 2 * b2n w + 8 * b2n c) } t
      ∧ (if stale then link t 0 false else t.out = s.out))
  ∧ Gives (.channelStale n) s (fun t =>
      if stale = false ∧ max x.inAt s.powerAt + 1000000 ≤ s.elapsed then
        gives [(F.FIO_IOn_STAT.STALE n, 1), (fioBit R.FIO_IN 16 n, 1), (F.FIO_EVT.STALE, 1)] x t ∧ link t 0 true
      else t = s)
  ∧ Gives (.silenceTimeout n) s (fun t =>
      if mode = 2 ∧ max x.outAt s.powerAt + s.get (F.FIO_IOn_CFG.SILENCE n) * 1000000 ≤ s.elapsed then
        if safe then { t with fio := s.fio } = s ∧ t.fioChan n = { x with resumed := false } ∧ ∀ d : Fin 16, d ≠ n → asIs t d
        else gives [(F.FIO_IOn_STAT.SAFE n, 1), (fioBit R.FIO_STAT 16 n, 1), (F.FIO_EVT.SAFE, 1), s.up (F.FIO_IOn_CNT.SILENCES n)]
          { x with resumed := false } t ∧ link t 1 true
      else t = s)
  ∧ (s.answers 12 → ∀ v : BitVec 32, Gives (.fioSafeClr v) s fun t => Signals [] s t ∧
      if v.getLsbD n = true ∧ x.resumed = true ∧ safe = true then
        t.flag (F.FIO_IOn_STAT.SAFE n) = false ∧ t.flag (fioBit R.FIO_STAT 16 n) = false ∧ t.fioChan n = { x with resumed := false }
        ∧ (∀ e ∈ view t n, t.get e.1 = e.2) ∧ PostedOnce s t 0x8B false [BitVec.ofNat 8 n, 1]
      else asIs t n ∧ t.flag (F.FIO_IOn_STAT.SAFE n) = safe)
  ∧ Gives .vmainLoss s (fun t => OnlyRegs [R.FIO_IN, R.FIO_RB] s { t with fio := s.fio, out := s.out }
      ∧ t.out = .fieldReset :: s.out ∧ t.fioChan n = { x with reset := true } ∧ ∀ e ∈ view t n, t.get e.1 = e.2)
    -- R287
  ∧ (∀ v : BitVec 10,
      let low := s.flag F.FIO_STAT.FSUP_LOW
      let supply (l : List (Field × Nat)) (isLow : Bool) (t : State) : Prop :=
        if low = isLow then Sets ((F.FIO_FSUP.VAL, v.toNat) :: l) s t
        else Posts ([(F.FIO_FSUP.VAL, v.toNat), (F.FIO_STAT.FSUP_LOW, b2n isLow)] ++ l ++ if isLow then [(F.FIO_EVT.FSUP_LOW, 1)] else []) s t
          ∧ Posted s t 0x8A isLow (leBytes 2 v.toNat ++ [BitVec.ofNat 8 (t.get F.FIO_STAT.SRC)])
      Gives (.fsupHandover v) s (fun t =>
        if v.toNat < 192 then Sets [(F.FIO_FSUP.VAL, v.toNat)] s t
        else supply (if s.flag F.SST_STAT.RUNNING then [] else [(F.FIO_STAT.SRC, 1)]) false t)
      ∧ Gives (.fsupLow v) s (fun t =>
        if v.toNat < 180 then supply [(F.FIO_STAT.SRC, 0)] true t else Sets [(F.FIO_FSUP.VAL, v.toNat)] s t))

/-! ### The host interface -/

/-- Doorbells, messages and loss reports (R294, R295, R312 to R315). A 32-bit doorbell of an enabled ring moves its count if the new value
lies forward and within the ring, completions held or a gap then following into the room made; another value is counted, flagged and
reported, and any other BAR2 write is counted. A gap is reported once its ring has room for the whole report. A message goes out INT_DLY × 4 µs
after the first entry without one, or waits as a pending bit. DISCARD drops, counts and reports all that is held. -/
def Obligations.Doorbells : Prop :=
  ∀ s : State, s.Sound →
    let hit (k : RingKind) (page off width : Nat) (n : Fin 16) : Prop :=
      width = 4 ∧ off = page + 4 * n.val ∧ s.flag (ringEn k n) = true
    let invalid (off : Nat) (t : State) : Prop := Posts [s.up F.HIF_DB_ERR_CNT.DB_ERR] s t ∧ t.flag F.HIF_EVT.DB_ERR = true
      ∧ PostedOnce s t 0x91 true ([0, 0] ++ leBytes 2 off)
    let ignored (t : State) : Prop := Sets [s.up F.HIF_DB_ERR_CNT.DB_ERR] s t
    let message (v : Nat) (t : State) : Prop :=
      if s.flag (F.HIF_MSIX_CTL.MASK v) = true ∨ s.flag F.HIF_STAT.BME = false then t.out = s.out ∧ t.flag ⟨R.HIF_MSIX_PBA, v, v⟩ = true
      else t.out = .msix v :: s.out ∧ t.read R.HIF_MSIX_PBA = s.read R.HIF_MSIX_PBA
    (∀ (off width : Nat) (v : BitVec 32),
      let moves (k : RingKind) (n : Nat) : Prop := sub32 (s.get (ringProd k n)) (s.get (ringCons k n)) ≤ sub32 v.toNat (s.get (ringCons k n))
        ∧ sub32 v.toNat (s.get (ringCons k n)) ≤ ringSize s k n
      let frees (k : RingKind) (n : Nat) : Prop := sub32 v.toNat (s.get (ringCons k n)) ≤ sub32 (s.get (ringProd k n)) (s.get (ringCons k n))
      Gives (.commandDoorbell off width v) s (fun t =>
        (∀ n : Fin 16, hit .cmd 0x000 off width n → (moves .cmd n → Sets [(ringProd .cmd n, v.toNat)] s t) ∧ (¬moves .cmd n → invalid off t))
        ∧ ((∀ n : Fin 16, ¬hit .cmd 0x000 off width n) → ignored t))
      ∧ Gives (.captureDoorbell off width v) s (fun t =>
        (∀ n : Fin 16, hit .cap 0x300 off width n → (moves .cap n → Sets [(ringProd .cap n, v.toNat)] s t) ∧ (¬moves .cap n → invalid off t))
        ∧ ((∀ n : Fin 16, ¬hit .cap 0x300 off width n) → ignored t))
      ∧ Gives (.completionDoorbell off width v) s (fun t =>
        (∀ n : Fin 16, hit .cpl 0x100 off width n →
          (frees .cpl n → Delivers n (s.set (ringCons .cpl n) v.toNat) t ∧ t.get (ringCons .cpl n) = v.toNat
            ∧ OnlyRegs [ringBase .cpl n + 0x14, ringBase .cpl n + 0x18, R.HIF_HELD, R.HIF_MSIX_PBA] s { t with hif := s.hif, out := s.out })
          ∧ (¬frees .cpl n → invalid off t))
        ∧ ((∀ n : Fin 16, ¬hit .cpl 0x100 off width n) → ignored t))
      ∧ Gives (.eventDoorbell off width v) s fun t =>
        (∀ n : Fin 16, hit .evr 0x200 off width n →
          (frees .evr n → t.get (ringCons .evr n) = v.toNat ∧ Posts [] s t
            ∧ (reports (s.set (ringCons .evr n) v.toNat) n → Reported n s t)
            ∧ (¬reports (s.set (ringCons .evr n) v.toNat) n → (t.evrRing n).gap = (s.evrRing n).gap ∧ t.out = s.out))
          ∧ (¬frees .evr n → invalid off t))
        ∧ ((∀ n : Fin 16, ¬hit .evr 0x200 off width n) → ignored t))
  ∧ (∀ n : Fin 16, Gives (.lossReport n) s fun t => Posts [] s t ∧ (reports s n → Reported n s t) ∧ (¬reports s n → t = s))
  ∧ (∀ n : Fin 16,
      let c := s.cplRing n
      let e := s.evrRing n
      Gives (.interruptDelayExpiry false n) s (fun t =>
        if c.since ≠ 0 ∧ s.get (F.HIF_CPLn_CFG2.INT_CNT n) ≠ 0 ∧ c.firstAt + s.get (F.HIF_CPLn_CFG2.INT_DLY n) * 4000 ≤ s.elapsed then
          message (s.get (F.HIF_CPLn_CFG.VEC n)) t ∧ t.cplRing n = { c with since := 0 }
          ∧ OnlyRegs [R.HIF_MSIX_PBA] s { t with hif := s.hif, out := s.out }
        else t = s)
      ∧ Gives (.interruptDelayExpiry true n) s fun t =>
        if e.since ≠ 0 ∧ s.get (F.HIF_EVRn_CFG2.INT_CNT n) ≠ 0 ∧ e.firstAt + s.get (F.HIF_EVRn_CFG2.INT_DLY n) * 4000 ≤ s.elapsed then
          message (s.get (F.HIF_EVRn_CFG.VEC n)) t ∧ t.evrRing n = { e with since := 0 }
          ∧ OnlyRegs [R.HIF_MSIX_PBA] s { t with hif := s.hif, out := s.out }
        else t = s)
  ∧ (let kept := ((List.range 16).map fun n => (s.cplRing n).held.length + (if (s.evrRing n).gap = [] then 0 else 1)
        + if (s.capRing n).missed = 0 then 0 else 1).sum
     s.answers 13 → Gives .hifDiscard s fun t => Completes [] s t
      ∧ (∀ n : Fin 16, (t.cplRing n).held = [] ∧ (t.capRing n).missed = 0)
      ∧ t.get F.HIF_DISCARD_CNT.DISCARDED = min 0xFFFFFFFF (s.get F.HIF_DISCARD_CNT.DISCARDED + kept)
      ∧ (kept = 0 → t.out = s.out ∧ ∀ n : Fin 16, (t.evrRing n).gap = [])
      ∧ (kept ≠ 0 → t.flag F.HIF_EVT.DISCARD = true ∧ PostedOnce s t 0x91 true ([2, 0, 0, 0] ++ leBytes 4 kept)))

/-- Rings, resets and faults of the host interface (R291, R296, R307, R315, R403). A ring starts with its counts at 0 and what it holds reported, or
discarded with RESUME = 0; a reserved size or source, or any other field changed while it is enabled, is refused. A ring that stops
ends its captures and buffers in progress, and its waiting items complete ABORTED in their turn. A host-interface reset, or Bus Master
Enable cleared, completes every item LINK_LOST, held, but an image load whose payload is read; a reset leaves every HIF register but
three at its reset value; Bus Master Enable set again delivers what is held. A DMA error ends its item, or puts its ring in HOLDING. -/
def Obligations.HostRings : Prop :=
  ∀ s : State, s.Sound →
    let lostAll (t : State) : Prop := ∀ it ∈ s.hif.items, isCommit s it = false →
      HeldAs it { captureOutcome it stLinkLost false with partialFlag := false } t
    let kept (k : RingKind) (n : Nat) : Nat := match k with
      | .cmd => 0
      | .cpl => (s.cplRing n).held.length
      | .evr => if (s.evrRing n).gap = [] then 0 else 1
      | .cap => if (s.capRing n).missed = 0 then 0 else 1
    (s.answers 13 → ∀ (k : RingKind) (n : Fin 16) (v : BitVec 32),
      let cfg := ringBase k n + 0x10
      let old := s.read cfg &&& BitVec.ofNat 32 (rwMask cfg)
      let new := v &&& BitVec.ofNat 32 (rwMask cfg) ||| 1
      let size := bits v.toNat 5 1
      let reserved : Prop := size < 6 ∨ 16 < size ∨ (k = .cap ∧ 4 < bits v.toNat 13 11)
        ∨ (s.flag (ringEn k n) = true ∧ old ||| 1 ≠ new)
      (reserved → Gives (.ringEnable k n v) s (Ignored s))
      ∧ (¬reserved → s.flag (ringEn k n) = true → Gives (.ringEnable k n v) s fun t => t = s)
      ∧ (¬reserved → s.flag (ringEn k n) = false → Gives (.ringEnable k n v) s fun t => Completes [] s t
          ∧ t.read cfg &&& BitVec.ofNat 32 (rwMask cfg) = new ∧ t.get (ringCons k n) = 0
          ∧ (k ≠ .evr → t.get (ringState k n) = 1) ∧ (k = .cmd ∨ k = .cap → t.get (ringProd k n) = 0)
          ∧ (k = .cpl → t.get (ringItems .cpl n) = (s.hif.items.filter fun it => it.cq == n.val).length % 2 ^ 17)
          ∧ (v.getLsbD 6 = false → kept k n ≠ 0 →
              (k = .cpl → (t.cplRing n).held = []) ∧ (k = .cap → (t.capRing n).missed = 0)
              ∧ t.get F.HIF_DISCARD_CNT.DISCARDED = min 0xFFFFFFFF (s.get F.HIF_DISCARD_CNT.DISCARDED + kept k n)
              ∧ t.flag F.HIF_EVT.DISCARD = true ∧ PostedOnce s t 0x91 true ([2, 0, 0, 0] ++ leBytes 4 (kept k n)))
          ∧ (v.getLsbD 6 = true → t.get F.HIF_DISCARD_CNT.DISCARDED = s.get F.HIF_DISCARD_CNT.DISCARDED
              ∧ (k = .cap → (t.capRing n).missed = (s.capRing n).missed)
              ∧ (k = .cpl → (s.cplRing n).held.length ≤ 2 ^ size → s.flag F.HIF_STAT.BME = true → (t.cplRing n).held = [])
              ∧ (k = .evr → s.flag F.HIF_STAT.BME = true → (gapReport (s.evrRing n).gap).length ≤ 2 ^ size →
                  (s.evrRing n).gap ≠ [] → Reported n s t))))
  ∧ (s.answers 13 → ∀ (k : RingKind) (n : Fin 16), s.flag (ringEn k n) = true → 6 ≤ s.get (ringSizeLog k n) →
      s.get (ringSizeLog k n) ≤ 16 → (k = .cap → s.get (F.HIF_CAPn_CFG.SRC n) ≤ 4) → Gives (.ringDisable k n) s fun t => Completes [] s t
        ∧ t.flag (ringEn k n) = false ∧ t.get (ringState k n) = 0
        ∧ (k = .cpl → t.hif = s.hif ∧ t.get (ringItems .cpl n) = 0) ∧ (k = .evr → t.hif = s.hif)
        ∧ (k = .cmd → ∀ it rest, ringItemsOf s false n = it :: rest →
            if it.started = true ∧ isCapture it = false then
              frontItem t false n = some it ∧ ∀ x ∈ ringItemsOf t false n, x.started = true ∨ x.marked = true
            else (it.started = true → Completed it (captureOutcome it stAborted true) s t)
              ∧ (it.started = false → Completed it (.just stAborted) s t)
              ∧ ∀ x ∈ ringItemsOf t false n, x.started = true)
        ∧ (k = .cap → (∀ it rest, ringItemsOf s true n = it :: rest →
            (it.started = true → Completed it ⟨stOk, (s.capRing n).fill, (s.capRing n).first,
              (s.capRing n).records + 2 ^ 32 * (s.capRing n).missed, false, decide (0 < (s.capRing n).missed)⟩ s t)
            ∧ (it.started = false → Completed it (.just stAborted) s t))
            ∧ ∀ x ∈ t.hif.items, isCapture x = true → x.cap = false → x.run.cursor ≠ 0 → dId x.desc = 0 → dInst x.desc ≠ n.val))
  ∧ Gives .hostInterfaceReset s (fun t => Completes [] s t ∧ lostAll t
      ∧ (∀ it ∈ t.hif.items, isCommit s it = true) ∧ t.flag F.HIF_STAT.BME = false
      ∧ (∀ a, a / 0x10000 = 13 → a ∉ [R.HIF_EPOCH, R.HIF_HELD, R.HIF_DISCARD_CNT, R.HIF_STAT, R.HIF_EVT] → t.read a = resetVal a)
      ∧ t.read R.HIF_EPOCH = s.read R.HIF_EPOCH ∧ t.read R.HIF_DISCARD_CNT = s.read R.HIF_DISCARD_CNT
      ∧ t.flag F.HIF_STAT.SELFTEST = s.flag F.HIF_STAT.SELFTEST
      ∧ t.flag F.HIF_EVT.LINK_LOST = s.hif.items.any (fun it => !isCommit s it)
      ∧ (∀ n : Fin 16, s.flag (ringEn .evr n) = true → (t.evrRing n).lostMask = s.get (F.HIF_EVRn_CFG2.MASK n)))
  ∧ Gives .busMasterDisable s (fun t => if s.flag F.HIF_STAT.BME then Completes [] s t ∧ lostAll t ∧ t.flag F.HIF_STAT.BME = false
      ∧ (∀ it ∈ t.hif.items, isCommit s it = true)
      ∧ ((∃ it ∈ s.hif.items, isCommit s it = false) → t.flag F.HIF_EVT.LINK_LOST = true) else t = s)
  ∧ Gives .busMasterEnable s (fun t => if s.flag F.HIF_STAT.BME then t = s else
      let u := s.set F.HIF_STAT.BME 1
      t.flag F.HIF_STAT.BME = true ∧ Completes [] s t ∧ t.hif.items = s.hif.items
      ∧ (∀ n : Fin 16, Delivers n u t ∧ (reports u n → Reported n u t) ∧ (¬reports u n → (t.evrRing n).gap = (s.evrRing n).gap))
      ∧ ∀ v : Fin 32, s.flag ⟨R.HIF_MSIX_PBA, v, v⟩ = true → if s.flag (F.HIF_MSIX_CTL.MASK v) then t.flag ⟨R.HIF_MSIX_PBA, v, v⟩ = true
          else Output.msix v ∈ t.out ∧ t.flag ⟨R.HIF_MSIX_PBA, v, v⟩ = false)
  ∧ (∀ (cap : Bool) (n : Fin 16), Gives (.dmaError (.item cap n)) s fun t => ∀ it, frontItem s cap n = some it →
      if it.started then Completes [] s t ∧ (∀ x ∈ t.hif.items, sameItem x it = false)
          ∧ t.get F.HIF_DMA_ERR_CNT.DMA_ERR = min 0xFFFFFFFF (s.get F.HIF_DMA_ERR_CNT.DMA_ERR + 1)
          ∧ PostedOnce s t 0x91 true [1, BitVec.ofNat 8 (if cap then 3 else 0), BitVec.ofNat 8 n]
          ∧ Completed it (captureOutcome it stDmaError false) s t
      else t = s)
  ∧ (∀ (k : RingKind) (n : Fin 16), Gives (.dmaError (.ring k n)) s fun t => if s.flag (ringEn k n) then
        Completes [] s t ∧ t.hif.items = s.hif.items ∧ t.get (ringState k n) = 3
        ∧ t.get F.HIF_DMA_ERR_CNT.DMA_ERR = min 0xFFFFFFFF (s.get F.HIF_DMA_ERR_CNT.DMA_ERR + 1) ∧ t.flag F.HIF_EVT.DMA_ERR = true
        ∧ PostedOnce s t 0x91 true [1, BitVec.ofNat 8 (kindNum k), BitVec.ofNat 8 n]
        ∧ (k = .cpl → ∀ c, (s.cplRing n).last = some c → (t.cplRing n).held = { c with held := true } :: (s.cplRing n).held)
        ∧ (k = .evr → ∀ r, (s.evrRing n).last = some r → (t.evrRing n).gap ≠ []
            ∧ min 0xFFFFFFFF (s.get (F.HIF_EVRn_CNT.LOST n) + 1) ≤ t.get (F.HIF_EVRn_CNT.LOST n))
      else t = s)

/-! ### Items -/

/-- Descriptors (R297 to R301, R305, R306, R308). An item is accepted when its ring runs and one completion entry can be reserved, else its ring
waits; the first status that applies completes it, or it starts, or waits behind another. NOP does nothing. A buffer in progress completes FLUSH_MS
after its first record; BUF is an acceptance. CAPTURE_CANCEL ends every capture of the tag on other rings, and marks those not yet
started. A SNAPSHOT writes what its chapter gives at one instant, or BUF_SHORT and nothing; CLEAR empties the accumulators after it. -/
def Obligations.Items : Prop :=
  ∀ s : State, s.Sound → ∀ n : Fin 16,
    let calm : Prop := ∀ x ∈ s.hif.items, isCapture x = true → x.run.cursor = 0
    (∀ (cap : Bool) (desc : List Byte),
      let k : RingKind := if cap then .cap else .cmd
      let q := s.get (ringCq k n)
      let c := s.get (ringCons k n)
      let it : Item := ⟨cap, n, c, q, slice desc 0 64, false, false, CapRun.zero⟩
      let ready : Prop := s.flag (ringEn k n) = true ∧ s.get (ringState k n) ≠ 3 ∧ s.flag F.HIF_STAT.BME = true ∧ ringUsed s k n ≠ 0
      let status := descStatus s cap it.desc (snapSize s it.desc)
      (calm → ¬ready → Gives (.descriptorAccept cap n desc) s (· = s))
      ∧ (calm → ready → reservable s q = false → Gives (.descriptorAccept cap n desc) s (Sets [(ringState k n, 2)] s))
      ∧ (ready → reservable s q = true → Gives (.descriptorAccept cap n desc) s fun t =>
          t.get (ringCons k n) = (c + 1) % 2 ^ 32 ∧ Output.hostWrite (ringWb s k n) (leBytes 4 (c + 1)) ∈ t.out)
      ∧ (calm → ready → reservable s q = true → (∀ x ∈ s.hif.items, sameItem x it = false) → Gives (.descriptorAccept cap n desc) s fun t =>
          Completes [] s t
          ∧ ((∃ x rest, ringItemsOf s cap n = x :: rest ∧ x.started = true) ∨ (ringItemsOf s cap n = [] ∧ descWaits s it.desc = true) →
              it ∈ t.hif.items)
          ∧ (ringItemsOf s cap n = [] → descWaits s it.desc = false →
              (∀ st, status = some st → ∃ i, Completed it { Outcome.just st with info1 := i } s t)
              ∧ (status = none → isChip it = false → { it with started := true } ∈ t.hif.items)
              ∧ (status = none → isChip it = true →
                  if s.owner (chipOf it) = 0 ∨ s.owner (chipOf it) = cChipper then
                    s.frozen = false → { it with started := true } ∈ t.hif.items ∧ t.owner (chipOf it) = cChipper
                  else Completed it (.just stConflict) s t)))
      ∧ (cap = true → exec (.buf n desc) s = if dOpcode desc = 0x08 then exec (.descriptorAccept true n desc) s else .next s))
  ∧ Gives (.nop n) s (fun t => (running s n 0x01 = none → t = s)
      ∧ ∀ it, running s n 0x01 = some it → Completes [] s t ∧ Completed it (.just stOk) s t)
  ∧ Gives (.captureBufferFlush n) s (fun t => ∀ it, fillItem s n = some it →
      let r := s.capRing n
      if r.records ≠ 0 ∧ r.firstAt + s.get (F.HIF_CAPn_CFG2.FLUSH_MS n) * 1000000 ≤ s.elapsed then
        Completes [] s t ∧ t.capRing n = CapRing.zero
        ∧ Completed it ⟨stOk, r.fill, r.first, r.records + 2 ^ 32 * r.missed, false, decide (0 < r.missed)⟩ s t
      else t = s)
  ∧ Gives (.captureCancel n) s (fun t => (running s n 0x05 = none → t = s)
      ∧ ∀ it, running s n 0x05 = some it →
        let target (x : Item) : Prop := isCapture x = true ∧ x.cap = false ∧ x.ring ≠ it.ring ∧ dTag x.desc = le it.desc 20 4
        let hits := (s.hif.items.filter fun x => isCapture x && !x.cap && x.ring != it.ring && dTag x.desc == le it.desc 20 4).length
        Completes [] s t ∧ Ended it { Outcome.just stOk with info0 := hits } t
        ∧ (∀ x ∈ s.hif.items, target x → x.started = true → Ended x (captureOutcome x stAborted true) t)
        ∧ ∀ x ∈ t.hif.items, target x → x.started = false → x.marked = true)
  ∧ (let snaps : List (Instr × Nat) := [(.snapshotQualityMap n, 0x01), (.snapshotLoopOwnership n, 0x02), (.snapshotProfileBuffer n, 0x03),
        (.snapshotChannelStatus n, 0x04), (.snapshotZoneStatus n, 0x05), (.snapshotTracks n, 0x06), (.snapshotAccumulators n, 0x07),
        (.snapshotSupervision n, 0x08), (.snapshotHeads n, 0x09), (.snapshotCaptureDirectory n, 0x20), (.snapshotResultRecords n, 0x21)]
     (∀ e ∈ snaps, (∀ it, running s n 0x03 = some it → dId it.desc ≠ e.2) → Gives e.1 s (· = s))
     ∧ ∀ it, running s n 0x03 = some it →
       let d := it.desc
       let upTo (limit : Nat) : List Nat := (List.range (if dCount d = 0 then limit - dFirst d else dCount d)).map (dFirst d + ·)
       let shows (bytes : List Byte) (t : State) : Prop :=
         if dLength d < bytes.length then Completed it ⟨stBufShort, 0, s.tai, bytes.length, false, false⟩ s t
         else Output.hostWrite (dAddr d) bytes ∈ t.out ∧ Completed it ⟨stOk, bytes.length, s.tai, bytes.length, false, false⟩ s t
       let snap (c : Instr) (id : Nat) (bytes : List Byte) : Prop := dId d = id → Gives c s fun t => Completes [] s t ∧ shows bytes t
       snap (.snapshotQualityMap n) 0x01 ((upTo 131072).flatMap fun x => leBytes 2 ((s.kerfPort (dInst d)).qmap.getD x 0))
       ∧ snap (.snapshotLoopOwnership n) 0x02 (ownerMap s)
       ∧ snap (.snapshotProfileBuffer n) 0x03 (let b := sget (fun _ => ([] : List Byte)) s.profileBuf (dInst d)
           if b = [] then staleMarker s (dInst d) else b)
       ∧ snap (.snapshotChannelStatus n) 0x04 ((upTo 131072).flatMap (chanStatus s))
       ∧ snap (.snapshotZoneStatus n) 0x05 ((upTo 32768).flatMap (zoneStatus s))
       ∧ snap (.snapshotTracks n) 0x06 ((upTo 4096).flatMap (trackEntry s))
       ∧ (dId d = 0x07 → Gives (.snapshotAccumulators n) s fun t => Completes [] s { t with cal := s.cal }
           ∧ shows ((List.range 64).flatMap (fun i => ((s.calUnit (dInst d)).accAt i).bytes)
               ++ (List.range 4).flatMap fun m => leBytes 4 (s.read (R.CAL_Un_OVRm (dInst d) m)).toNat) t
           ∧ if bit (le d 22 1) 0 = true ∧ 1552 ≤ dLength d then ∀ i : Fin 64, (t.calUnit (dInst d)).accAt i = Acc.zero else t.cal = s.cal)
       ∧ snap (.snapshotSupervision n) 0x08 ((upTo 112).flatMap fun i => leBytes 4 (supervisionEntry s i))
       ∧ snap (.snapshotHeads n) 0x09 ((upTo 64).flatMap (headEntry (s.chain (dInst d))))
       ∧ snap (.snapshotCaptureDirectory n) 0x20 ((upTo 1024).flatMap fun i => (s.capEntry i).bytes)
       ∧ snap (.snapshotResultRecords n) 0x21 (s.sst.records.getD (dInst d) (zeroEntry 608)))

/-- Table loads (R94, R96, R106, R115, R116, R126, R129, R174, R200, R224, R245, R303, R324 to R326, R357). The table whose TABLE_LOAD stands at the front of the
ring is checked whole: a bad entry, a bank or buffer in use, a resource that another owns, a signature or a serial that does not hold refuses it,
and nothing is loaded; else every entry addressed takes its bytes and no other changes. What follows from the load follows: zones reload,
the compensation is in force, sequences and streams start afresh, a marking table waits for its pass, and the writing of an image begins. -/
def Obligations.TableLoads : Prop :=
  ∀ s : State, s.Sound → ∀ (n : Fin 16) (p : List Byte),
    let loads : List (Instr × Nat) := [(.tableLoadChannel n p, 0x01), (.tableLoadSet n p, 0x02), (.tableLoadCoefficientBank n p, 0x03),
      (.tableLoadZone n p, 0x04), (.tableLoadTemplate n p, 0x05), (.tableLoadBaseline n p, 0x06), (.tableLoadCompensation n p, 0x07),
      (.tableLoadCaliperSequence n p, 0x08), (.tableLoadFrameMemory n p, 0x09), (.tableLoadWedgeImage n p, 0x0A),
      (.tableLoadMarkingTable n p, 0x0B), (.tableLoadStream n p, 0x20), (.tableLoadPort n p, 0x21), (.tableLoadArchive n p, 0x22)]
    (∀ e ∈ loads, (∀ it, running s n 0x02 = some it → dId it.desc ≠ e.2) → Gives e.1 s (· = s))
  ∧ ∀ it, running s n 0x02 = some it →
    let d := it.desc
    let first := dFirst d
    let bytes := slice p 0 (dLength d)
    let es (size : Nat) := entriesOf size bytes
    let refused (st i : Nat) (t : State) : Prop := Completed it { Outcome.just st with info0 := i } s t
    let loaded (t : State) : Prop := Completed it { Outcome.just stOk with xfer := dLength d } s t
    let puts (size : Nat) (get : State → Nat → List Byte) (t : State) : Prop :=
      ∀ i, get t i = if first ≤ i ∧ i < first + (es size).length then (es size).getD (i - first) [] else get s i
    let checked (size first : Nat) (ok : Nat → List Byte → Bool) (yes no : State → Prop) (t : State) : Prop :=
      ((∀ i e, (es size)[i]? = some e → ok i e = true) → loaded t ∧ yes t)
      ∧ ∀ i e, (es size)[i]? = some e → ok i e = false → (∀ j, j < i → ∀ f, (es size)[j]? = some f → ok j f = true) →
          refused stBadEntry (first + i) t ∧ no t
    (dId d = 0x01 → Gives (.tableLoadChannel n p) s fun t => Completes [] s { t with bkg := s.bkg }
      ∧ { t.bkg with chanLoaded := s.bkg.chanLoaded } = s.bkg
      ∧ checked 8 first (fun _ => chanEntryOk) (puts 8 fun u i => sget (fun _ => zeroEntry 8) u.bkg.chanLoaded i) (·.bkg = s.bkg) t)
    ∧ (dId d = 0x02 →
        let ent (u : State) (i : Nat) := sget (fun _ => zeroEntry 16) u.bkg.setLoaded i
        let would (i : Nat) : List Byte := if first ≤ i ∧ i < first + (es 16).length then (es 16).getD (i - first) [] else ent s i
        let moved (i : Nat) : Prop := first ≤ i ∧ i < first + (es 16).length
        let fine : Prop := ∀ i, i < 64 → (moved i → setEntryOk s (would i) = true)
          ∧ ∀ j, j < 64 → i ≠ j → (moved i ∨ moved j) → setsOverlap (would i) (would j) = false
        Gives (.tableLoadSet n p) s fun t => Completes [] s { t with bkg := s.bkg } ∧ { t.bkg with setLoaded := s.bkg.setLoaded } = s.bkg
          ∧ (fine → loaded t ∧ puts 16 ent t) ∧ (¬fine → t.bkg = s.bkg ∧ ∃ i, i < 64 ∧ refused stBadEntry i t))
    ∧ (dId d = 0x03 →
        let f := s.bkgFade (dInst d / 2)
        let busy : Prop := dInst d % 2 = s.get (F.BKG_FPn_STAT.ACTIVE (dInst d / 2)) ∨ f.run ≠ none ∨ f.queued ≠ none
        let good : Prop := ∀ e ∈ es 4, coefOk (le e 0 4) = true
        Gives (.tableLoadCoefficientBank n p) s fun t =>
          (busy → Completes [(F.BKG_EVT.BUSY, 1)] s t ∧ refused stBusy 0 t)
          ∧ (¬busy → Completes [] s { t with bkg := s.bkg } ∧ { t.bkg with banks := s.bkg.banks } = s.bkg
            ∧ (¬good → t.bkg = s.bkg ∧ refused stBadEntry 0 t)
            ∧ (good → loaded t ∧ ∀ i, sget (fun _ => bankReset) t.bkg.banks i =
                if i = dInst d then bytes else sget (fun _ => bankReset) s.bkg.banks i)))
    ∧ (dId d = 0x04 → Gives (.tableLoadZone n p) s fun t => Completes [] s { t with cru := s.cru }
      ∧ { t.cru with zoneLoaded := s.cru.zoneLoaded, reload := s.cru.reload } = s.cru
      ∧ checked 32 first (fun _ => zoneEntryOk) (fun t => puts 32 (fun u i => sget (fun _ => zeroEntry 32) u.cru.zoneLoaded i) t
          ∧ ∀ i, i ∈ t.cru.reload ↔ i ∈ s.cru.reload ∨ (first ≤ i ∧ i < first + (es 32).length)) (·.cru = s.cru) t)
    ∧ (dId d = 0x05 → Gives (.tableLoadTemplate n p) s fun t => Completes [] s { t with cru := s.cru }
      ∧ { t.cru with tplLoaded := s.cru.tplLoaded, reload := s.cru.reload } = s.cru
      ∧ checked 64 first (fun _ => tplEntryOk) (fun t => puts 64 (fun u i => sget (fun _ => zeroEntry 64) u.cru.tplLoaded i) t
          ∧ ∀ c ∈ s.cru.zoneLoaded, first ≤ zTemplate c.2 → zTemplate c.2 < first + (es 64).length → c.1 ∈ t.cru.reload) (·.cru = s.cru) t)
    ∧ (dId d = 0x06 → Gives (.tableLoadBaseline n p) s fun t =>
        Completes [(F.SCL_STAT.BASE_VALID, t.get F.SCL_STAT.BASE_VALID)] s { t with baseline := s.baseline }
        ∧ checked 8 first (fun _ e => bits (le e 0 4) 31 21 == 0 && zeros e 6 2)
            (fun t => puts 8 (fun u i => sget (fun _ => noBaseline) u.baseline i) t
              ∧ t.flag F.SCL_STAT.BASE_VALID = t.baseline.any fun c => (beTemp c.2).isSome) (·.baseline = s.baseline) t)
    ∧ (dId d = 0x07 → Gives (.tableLoadCompensation n p) s fun t => checked 16 0 (compEntryOk s.loopMode (es 16))
        (fun t => Completes [(F.SCL_STAT.COMP_LOADED, 1)] s { t with comp := s.comp }
          ∧ ∀ i, sget (fun _ => zeroEntry 16) t.comp i = if i < (es 16).length then (es 16).getD i [] else zeroEntry 16) (Completes [] s) t)
    ∧ (dId d = 0x08 →
        let u : Fin 4 := ⟨dInst d % 4, Nat.mod_lt _ (by decide)⟩
        let k := ctNseq bytes
        let need := if k = 0 then [] else if ctInter bytes then [0, 1] else List.range k
        let free : Prop := ∀ q ∈ need, s.owner (modRes (2 * u + q)) = 0 ∨ s.owner (modRes (2 * u + q)) = cSequence
        dInst d < 4 → Gives (.tableLoadCaliperSequence n p) s fun t => Activates [] s t
          ∧ (calTableOk bytes = false → refused stBadEntry 0 t ∧ t.cal = s.cal)
          ∧ (calTableOk bytes = true → s.frozen = false → ¬free → refused stConflict 0 t ∧ t.cal = s.cal
              ∧ t.flag (F.CAL_Un_STAT.CONFLICT u) = true ∧ t.flag F.CAL_EVT.LOAD_CONFLICT = true)
          ∧ (calTableOk bytes = true → s.frozen = false → free → loaded t ∧ (t.calUnit u).table = (if k = 0 then [] else bytes)
              ∧ t.flag (F.CAL_Un_STAT.CONFLICT u) = false ∧ t.get (F.CAL_Un_STAT.NSEQ u) = k % 4
              ∧ (∀ q ∈ need, t.owner (modRes (2 * u + q)) = cSequence) ∧ ∀ v : Fin 4, v ≠ u → t.calUnit v = s.calUnit v))
    ∧ (dId d = 0x09 → Gives (.tableLoadFrameMemory n p) s fun t => Activates [] s t
        ∧ if s.flag F.BLZ_MX_STAT.ARMED then refused stBusy 0 t ∧ t.lamp = s.lamp ∧ t.flag F.BLZ_EVT.FRAME_BUSY = true
          else loaded t ∧ t.lamp = { s.lamp with matrix := { s.lamp.matrix with back := t.lamp.matrix.back } }
            ∧ ∀ i, sget (fun _ => (0 : Byte)) t.lamp.matrix.back i = bytes.getD i 0)
    ∧ (dId d = 0x0A → Gives (.tableLoadWedgeImage n p) s fun t => Activates [] s t
        ∧ (s.wedge.commit ≠ none → refused stBusy 0 t ∧ t.wedge = s.wedge)
        ∧ (s.wedge.commit = none → signed s bytes = false → refused stBadSignature 0 t ∧ t.wedge = s.wedge)
        ∧ (s.wedge.commit = none → signed s bytes = true →
            (le bytes 8 4 ≤ s.get F.WDG_IMG_SERIAL.SERIAL → refused stStale 0 t ∧ t.wedge = s.wedge)
            ∧ (s.get F.WDG_IMG_SERIAL.SERIAL < le bytes 8 4 → imageFaults bytes ≠ [] → t.wedge = s.wedge
                ∧ refused stBadEntry (faultEntry (imageFaults bytes)) t)
            ∧ (s.get F.WDG_IMG_SERIAL.SERIAL < le bytes 8 4 → imageFaults bytes = [] →
                Sets [(F.WDG_STAT.IMG, 3)] s { t with wedge := s.wedge } ∧ t.wedge = { s.wedge with commit := some bytes })))
    ∧ (dId d = 0x0B →
        let serial := match s.mark.next with
          | none => s.get F.MRK_SERIAL.SERIAL
          | some b => le b 8 4
        Gives (.tableLoadMarkingTable n p) s fun t => Activates [] s t
        ∧ (s.wedge.commit ≠ none → refused stBusy 0 t ∧ t.mark = s.mark)
        ∧ (s.wedge.commit = none → signed s bytes = false → refused stBadSignature 0 t ∧ t.mark = s.mark)
        ∧ (s.wedge.commit = none → signed s bytes = true →
            (le bytes 8 4 ≤ serial → refused stStale 0 t ∧ t.mark = s.mark)
            ∧ (serial < le bytes 8 4 → markFaults bytes ≠ [] → refused stBadEntry (faultEntry (markFaults bytes)) t ∧ t.mark = s.mark)
            ∧ (serial < le bytes 8 4 → markFaults bytes = [] → loaded t ∧ t.flag F.MRK_STAT.COPY0_VALID = true
                ∧ t.flag F.MRK_STAT.COPY1_VALID = true
                ∧ t.mark = { s.mark with next := some bytes, store := [storeCopy bytes, storeCopy bytes] })))
    ∧ (dId d = 0x20 →
        let good : Prop := ∀ e ∈ es 64, streamEntryOk e = true
        let free : Prop := ∀ e ∈ es 64, seEn e = true → seChip e = true → ∀ k : Fin 4, k.val = seCtx e →
          s.owner (.context k) = 0 ∨ s.owner (.context k) = cFlume
        first + (es 64).length ≤ 16 → Gives (.tableLoadStream n p) s fun t => Completes [] s t
          ∧ (good → s.frozen = false → ¬free → refused stConflict 0 t ∧ t.flume.table = s.flume.table)
          ∧ (¬good → t.flume.table = s.flume.table ∧ ∃ i, refused stBadEntry i t)
          ∧ (good → s.frozen = false → free → Ended it { Outcome.just stOk with xfer := dLength d } t ∧ puts 64 State.streamEntry t
              ∧ (∀ i e, (es 64)[i]? = some e → s.streamEntry (first + i) ≠ e →
                  t.get (F.FLM_Sn_SEQ.SEQ (first + i)) = 0 ∧ (t.fstream (first + i)).gen = ((s.fstream (first + i)).gen + 1) % 65536
                  ∧ t.get (F.FLM_Sn_STAT.T (first + i)) = 0 ∧ t.flag (F.FLM_Sn_STAT.EN (first + i)) = seEn e)
              ∧ ∀ e ∈ es 64, seEn e = true → seChip e = true → ∀ k : Fin 4, k.val = seCtx e → t.owner (.context k) = cFlume))
    ∧ (dId d = 0x21 → Gives (.tableLoadPort n p) s fun t => Completes [] s t
        ∧ checked 64 first (fun _ => portEntryOk) (puts 64 fun u i => sget (fun _ => zeroEntry 64) u.flume.ports i) (·.flume.ports = s.flume.ports) t)
    ∧ (dId d = 0x22 → first + (es 16).length ≤ 8 → Gives (.tableLoadArchive n p) s fun t => Completes [] s t
        ∧ checked 16 first (fun _ => arcEntryOk) (fun t => puts 16 State.arcEntry t
            ∧ ∀ i e, (es 16)[i]? = some e → s.arcEntry (first + i) ≠ e →
                t.flag (F.LND_ARCk_STAT.EN (first + i)) = aeEn e ∧ t.get (F.LND_ARCk_STAT.T (first + i)) = 0)
            (·.landing.table = s.landing.table) t)

/-! ### Flume and Chipper -/

/-- Flume's ports and Chipper's jobs (R319 to R322, R326, R328, R336 to R341). A link's change, a PAUSE or PFC frame in its mode and the end of its quanta set
the port's state and which streams wait, with count, flag and record. A stream that may send puts the first bytes of its queue, up to
the limit, into a frame behind the Flume header, its SEQ and the port's count one more; a flush closes the open block first. A check of the
fill raises the stream of lowest PRIO at 75 %, or lowers that of highest PRIO after 101 checks at 25 %. A job writes its output,
leaves its context as the job does and completes; one without its history completes CTX_LOST. -/
def Obligations.FlumeAndChipper : Prop :=
  ∀ s : State, s.Sound →
    let calm : Prop := ∀ x ∈ s.hif.items, isCapture x = true → x.run.cursor = 0
    let waits (t : State) : Prop := ∀ n : Fin 16,
      let e := s.streamEntry n
      let p := sePort e
      t.flag (F.FLM_Sn_STAT.WAITING n) = (seEn e && (!t.flag (F.FLM_Pp_STAT.LINK p) || t.flag (F.FLM_Pp_STAT.PAUSED p)
        || bit (t.get (F.FLM_Pp_STAT.PFC_PAUSED p)) (sePcp e)))
    (∀ (port : EthPort) (up : Bool), Gives (.flumeLink port up) s fun t =>
      if s.flag (F.FLM_Pp_STAT.LINK port.num) = up then t = s
      else Posts [(if port = .fp0 then F.FLM_STAT.LINK0 else F.FLM_STAT.LINK1, b2n up)] s t ∧ waits t
        ∧ t.flag (F.FLM_Pp_STAT.LINK port.num) = up ∧ t.flag F.FLM_EVT.LINK = true
        ∧ PostedOnce s t 0xA0 (!up) [BitVec.ofNat 8 port.num])
  ∧ (∀ (port : EthPort) (quanta : BitVec 16), Gives (.pauseFrame port quanta) s fun t =>
      Posts [s.up (F.FLM_Pp_PAUSE_CNT.FRAMES port.num)] s t
      ∧ if s.get (F.FLM_Pp_CFG.FC port.num) = 1 then t.flag (F.FLM_Pp_STAT.PAUSED port.num) = (quanta != 0) ∧ waits t
        else Sets [s.up (F.FLM_Pp_PAUSE_CNT.FRAMES port.num)] s t)
  ∧ (∀ (port : EthPort) (en : BitVec 8) (quanta : BitVec 128), Gives (.pfcFrame port en quanta) s fun t =>
      Posts [s.up (F.FLM_Pp_PAUSE_CNT.FRAMES port.num)] s t
      ∧ if s.get (F.FLM_Pp_CFG.FC port.num) = 2 then waits t ∧ ∀ k : Fin 8,
          bit (t.get (F.FLM_Pp_STAT.PFC_PAUSED port.num)) k = if en.getLsbD k then quanta.extractLsb' (16 * k) 16 != 0
            else bit (s.get (F.FLM_Pp_STAT.PFC_PAUSED port.num)) k
        else Sets [s.up (F.FLM_Pp_PAUSE_CNT.FRAMES port.num)] s t)
  ∧ (∀ port : EthPort, Gives (.pauseExpiry port none) s (fun t => Posts [] s t ∧ waits t ∧ t.flag (F.FLM_Pp_STAT.PAUSED port.num) = false)
      ∧ (∀ k : Fin 8, Gives (.pauseExpiry port (some k)) s fun t => Posts [] s t ∧ waits t
          ∧ ∀ j : Fin 8, bit (t.get (F.FLM_Pp_STAT.PFC_PAUSED port.num)) j
              = (bit (s.get (F.FLM_Pp_STAT.PFC_PAUSED port.num)) j && j != k))
      ∧ Gives (.rxFrameDiscard port) s (Sets [s.up (F.FLM_Pp_RX_DISC.FRAMES port.num)] s))
  ∧ (∀ n : Fin 16,
      let e := s.streamEntry n
      let q := s.fstream n
      let limit := payLimit s e
      let queued (l : List QRec) : List Byte := l.flatMap (·.bytes)
      let port : EthPort := if sePort e = 0 then .fp0 else .fp1
      let sent (data : List Byte) (t : State) : Prop :=
        t.get (F.FLM_Sn_SEQ.SEQ n) = (s.get (F.FLM_Sn_SEQ.SEQ n) + 1) % 2 ^ 32
        ∧ t.get (F.FLM_Pp_TX_CNT.DATAGRAMS (sePort e)) = min (F.FLM_Pp_TX_CNT.DATAGRAMS (sePort e)).max
            (s.get (F.FLM_Pp_TX_CNT.DATAGRAMS (sePort e)) + 1)
        ∧ Output.frame port (streamFrame s n (flumeHeader s n (recOfs data.length 0 q.queue) data.length ++ data)) ∈ t.out
      let may := maySend s n = true ∧ 0 < limit
      Gives (.datagramSend n) s (fun t =>
        (may → limit ≤ (queued q.queue).length → sent ((queued q.queue).take limit) t
          ∧ (calm → queued (t.fstream n).queue = (queued q.queue).drop limit
              ∧ Posts [(F.FLM_Sn_SEQ.SEQ n, s.get (F.FLM_Sn_SEQ.SEQ n) + 1), s.up (F.FLM_Pp_TX_CNT.DATAGRAMS (sePort e))] s
                  { t with freeCount := s.freeCount }))
        ∧ (calm → ¬(may ∧ limit ≤ (queued q.queue).length) → t = s))
      ∧ Gives (.datagramFlush n) s fun t =>
        let due (since : Nat) : Prop := since + seFlush e * 1000000 ≤ s.elapsed
        (∀ r rest, q.queue = r :: rest → queued q.queue ≠ [] → q.raw = [] → may → due r.queuedAt → sent ((queued q.queue).take limit) t)
        ∧ (q.raw ≠ [] → may → due (match q.queue with | r :: _ => r.queuedAt | [] => q.firstAt) → calm →
            (t.fstream n).raw = [] ∧ t.get (F.FLM_Sn_SEQ.SEQ n) = (s.get (F.FLM_Sn_SEQ.SEQ n) + 1) % 2 ^ 32)
        ∧ (calm → (maySend s n = false ∨ (q.queue = [] ∧ q.raw = []) ∨ ¬due (match q.queue with | r :: _ => r.queuedAt | [] => q.firstAt)) →
            t = s))
  ∧ Gives .thinCheck s (fun t => Posts [] s t ∧ ∀ p : Fin 2,
      let r := sget (fun _ => FPort.zero) s.flume.port p
      let size := queueSize s
      let held := portBytes s p
      let low := if held * 100 ≤ 25 * size then r.lowRun + 1 else 0
      let level (u : State) (n : Nat) := u.get (F.FLM_Sn_STAT.T n)
      let ago (ns : Nat) : Prop := ∀ x, r.lastStep = some x → ns ≤ s.elapsed - x
      let on (n : Fin 16) : Prop := seEn (s.streamEntry n) = true ∧ sePort (s.streamEntry n) = p.val
      let prio (n : Fin 16) := sePrio (s.streamEntry n)
      let up (n : Fin 16) : Prop := on n ∧ level s n < seThinMax (s.streamEntry n)
      let down (n : Fin 16) : Prop := on n ∧ 0 < level s n
      let stepped (n : Fin 16) (lvl : Nat) (isUp : Bool) : Prop := level t n = lvl ∧ (t.fstream n).thinDue = true ∧ (t.fstream n).thinUp = isUp
        ∧ t.flag F.FLM_EVT.THIN = true ∧ sget (fun _ => FPort.zero) t.flume.port p = ⟨some s.elapsed, 0⟩
      let high : Prop := 75 * size ≤ held * 100 ∧ ago 100000000
      (high → ∀ n, up n → (∀ m, up m → m ≠ n → prio n < prio m ∨ (prio n = prio m ∧ m < n)) → stepped n (level s n + 1) true
          ∧ ∀ m, on m → m ≠ n → level t m = level s m)
      ∧ (¬high → 101 ≤ low → ago 1000000000 → ∀ n, down n → (∀ m, down m → m ≠ n → prio m < prio n ∨ (prio n = prio m ∧ n < m)) →
          stepped n (level s n - 1) false ∧ ∀ m, on m → m ≠ n → level t m = level s m)
      ∧ (¬high → low ≤ 100 → sget (fun _ => FPort.zero) t.flume.port p = { r with lowRun := low } ∧ ∀ m, on m → level t m = level s m))
  ∧ (∀ n : Fin 16,
      let unusable (it : Item) (mode : Nat) : Prop := le it.desc 21 1 = 0 ∧ s.get (chipMode (le it.desc 20 1 % 4)) ≠ mode
      let others (t : State) (k : Nat) : Prop := ∀ j : Fin 4, j.val ≠ k → t.chipCtx j = s.chipCtx j
      (∀ (input : List Byte) (upsets : List Nat), Gives (.chipEnc n input upsets) s fun t => (running s n 0x10 = none → t = s)
        ∧ ∀ it, running s n 0x10 = some it →
          let d := it.desc
          let k := le d 20 1 % 4
          let data := slice input 0 (le d 32 3)
          let first := le d 21 1 == 1
          let r := encodeRun (data.length + 1) ⟨[], 0, if first then [] else (s.chipCtx k).history, 0, 0, 0⟩ data (2 ^ le d 22 1) first
            (dLength d) upsets
          Completes [] s t ∧ (unusable it 1 → Completed it (.just stCtxLost) s t)
          ∧ (¬unusable it 1 → Output.hostWrite (dAddr d) r.out ∈ t.out
              ∧ Completed it ⟨if r.used = data.length then stOk else stOutFull, r.out.length, r.used, r.blocks, false, false⟩ s t
              ∧ (r.mismatches = 0 → t.chipCtx k = { ChipCtx.zero with history := r.history } ∧ t.get (chipMode k) = 1 ∧ others t k)
              ∧ (0 < r.mismatches → t.flag F.CHP_EVT.VERIFY = true)))
      ∧ (∀ input : List Byte, Gives (.chipDec n input) s fun t => (running s n 0x11 = none → t = s)
        ∧ ∀ it, running s n 0x11 = some it →
          let d := it.desc
          let k := le d 20 1 % 4
          let data := slice input 0 (le d 32 3)
          let r := decodeRun (data.length + 2) ⟨if le d 21 1 = 1 then ChipCtx.zero else s.chipCtx k, [], 0, 0, none⟩ data (dLength d)
          let st := r.status.getD stOk
          let bad : Prop := st = stBadStream ∨ st = stBadCrc
          Completes [] s t ∧ (unusable it 2 → Completed it (.just stCtxLost) s t)
          ∧ (¬unusable it 2 → Output.hostWrite (dAddr d) r.out ∈ t.out
              ∧ Completed it ⟨st, r.out.length, r.used, r.blocks, false, false⟩ s t
              ∧ (bad → t.flag F.CHP_EVT.CTX_LOST = true ∧ PostedOnce s t 0xA4 true [BitVec.ofNat 8 k, BitVec.ofNat 8 st])
              ∧ (¬bad → t.chipCtx k = r.ctx ∧ t.get (chipMode k) = 2 ∧ others t k)))
      ∧ Gives (.chipSave n) s (fun t => (running s n 0x12 = none → t = s)
        ∧ ∀ it, running s n 0x12 = some it → Completes [] s t ∧ t.flume = s.flume
          ∧ (let bytes := ctxRecord (s.get (chipMode (le it.desc 20 1 % 4))) (s.chipCtx (le it.desc 20 1 % 4))
             Output.hostWrite (dAddr it.desc) bytes ∈ t.out ∧ Completed it ⟨stOk, bytes.length, 0, 0, false, false⟩ s t))
      ∧ ∀ record : List Byte, Gives (.chipRestore n record) s fun t => (running s n 0x13 = none → t = s)
        ∧ ∀ it, running s n 0x13 = some it → Completes [] s t
          ∧ (readCtxRecord (slice record 0 65600) = none → t.flume = s.flume ∧ Completed it (.just stBadEntry) s t)
          ∧ ∀ mode c, readCtxRecord (slice record 0 65600) = some (mode, c) → Completed it (.just stOk) s t
            ∧ t.chipCtx (le it.desc 20 1 % 4) = c ∧ t.get (chipMode (le it.desc 20 1 % 4)) = mode ∧ others t (le it.desc 20 1 % 4))

/-! ### Deck -/

/-- Deck (R344 to R347, R349, R362). DCK_RING_CFG takes its fields; a context to compress through is claimed and released, a refusal shown by
CONFLICT; an enable after a disable empties the ring. A corrected word is counted and flagged; an uncorrectable one is counted, flagged and
reported, and costs the ring or the Flume queue the record that holds it, marks the word of a working buffer or the accumulators bad, or
restarts the ring. The end of a wipe starts the ring and the descriptors that waited. DCK_READ copies a buffer that is free or
the host's to the host, or names its first bad word; DCK_WRITE copies host bytes into a buffer that the host owns, and heals words written whole. -/
def Obligations.DeckCommands : Prop :=
  ∀ s : State, s.Sound →
    (s.answers 16 → ∀ v : BitVec 32,
      let en := v.getLsbD 0
      let chip := v.getLsbD 1
      let ctx : Fin 4 := ⟨bits v.toNat 3 2 % 4, Nat.mod_lt _ (by decide)⟩
      let old : Fin 4 := ⟨s.get F.DCK_RING_CFG.CTX % 4, Nat.mod_lt _ (by decide)⟩
      let was := s.flag F.DCK_RING_CFG.CHIP
      let keeps : Prop := was = true ∧ chip = true ∧ ctx = old
      let claims : Prop := chip = true ∧ ¬keeps
      let taken : Prop := s.owner (.context ctx) ≠ 0 ∧ s.owner (.context ctx) ≠ cCapture
      let started : Prop := s.flag F.DCK_RING_CFG.EN = false ∧ en = true ∧ s.deck.stopped = true
      Gives (.ringCfgWrite v) s fun t =>
        Completes [] s { t with deck := s.deck }
        ∧ t.flag F.DCK_RING_CFG.EN = en ∧ t.get F.DCK_RING_CFG.CTX = ctx.val
        ∧ t.flag F.DCK_STAT.RING_ACTIVE = (en && !s.flag F.DCK_STAT.WIPING)
        ∧ (chip = false ∨ keeps → t.flag F.DCK_RING_CFG.CHIP = chip ∧ t.flag F.DCK_STAT.CONFLICT = s.flag F.DCK_STAT.CONFLICT)
        ∧ (s.frozen = false →
            (claims → ¬taken → t.flag F.DCK_RING_CFG.CHIP = true ∧ t.owner (.context ctx) = cCapture ∧ t.flag F.DCK_STAT.CONFLICT = false)
            ∧ (claims → taken → t.flag F.DCK_RING_CFG.CHIP = false ∧ t.flag F.DCK_STAT.CONFLICT = true
                ∧ t.owner (.context ctx) = s.owner (.context ctx) ∧ t.get (loserF (.context ctx)) = cCapture
                ∧ PostedOnce s t 0x50 true (ownershipPayload (.context ctx) (s.owner (.context ctx)) cCapture false))
            ∧ (was = true → ¬keeps → s.owner (.context old) = cCapture → t.owner (.context old) = 0))
        ∧ (s.flag F.DCK_RING_CFG.EN = true → en = false → t.deck = { s.deck with stopped := true })
        ∧ (started → t.deck = { s.deck with ring := [], head := 0, recent := [], stopped := false }
            ∧ t.get F.DCK_RING_STAT.SPAN_MS = 0 ∧ t.get F.DCK_RING_STAT.RATIO = 0x100)
        ∧ (¬started → (s.flag F.DCK_RING_CFG.EN = false ∨ en = true) → t.deck = s.deck))
  ∧ (∀ (region : DeckRegion) (offset : Nat),
      Gives (.deckCorrectedError region offset) s (Sets [s.up F.DCK_CE_CNT.WORDS, (F.DCK_EVT.CE, 1)] s)
      ∧ Gives (.deckUe region offset) s fun t =>
        let u := ((s.bump F.DCK_UE_CNT.WORDS).set F.DCK_EVT.UE 1).event 0xB0 true (deckUePayload region offset)
        Posts [s.up F.DCK_UE_CNT.WORDS, (F.DCK_EVT.UE, 1)] s u ∧ PostedOnce s u 0xB0 true (deckUePayload region offset)
        ∧ match region with
        | .ring =>
          let size := max 1 (ringBytes s)
          let at_ := (offset + size - s.deck.head) % size
          { t with deck := u.deck } = u ∧ { t.deck with ring := s.deck.ring } = s.deck ∧ t.deck.ring.length = s.deck.ring.length
          ∧ ∀ i r, s.deck.ring[i]? = some r →
              let before := ringHeld (s.deck.ring.take i)
              t.deck.ring[i]? = some (if before ≤ at_ ∧ at_ < before + r.size then { r with lost := true } else r)
        | .flume port =>
          (flumeAt u port.num offset (List.range 16) = none → t = u)
          ∧ ∀ n d, flumeAt u port.num offset (List.range 16) = some (n, d) →
            let q := u.fstream n
            let before (i : Nat) := ((q.queue.take i).map (·.bytes.length)).sum
            (∀ i, i ≠ n → t.fstream i = u.fstream i) ∧ { t with regs := u.regs, flume := u.flume } = u
            ∧ (∀ i r, q.queue[i]? = some r → before i ≤ d → d < before i + r.bytes.length →
                (t.fstream n).queue = q.queue.eraseIdx i
                ∧ (r.marker = false → (t.fstream n).drops = q.drops + 1 ∧ (t.fstream n).dropLast = r.index
                    ∧ (t.fstream n).dropFirst = (if q.drops = 0 then r.index else q.dropFirst)
                    ∧ t.get (F.FLM_Sn_DROP_CNT.RECORDS n) = min (F.FLM_Sn_DROP_CNT.RECORDS n).max (u.get (F.FLM_Sn_DROP_CNT.RECORDS n) + 1)))
            ∧ (before q.queue.length ≤ d → (t.fstream n).queue = q.queue ∧ (t.fstream n).raw = [] ∧ (t.fstream n).drops = q.drops + 1)
        | .buffer n =>
          let w := (n * wbSize s + offset) / 32
          { t with deck := u.deck } = u ∧ { t.deck with bad := s.deck.bad } = s.deck ∧ ∀ x, x ∈ t.deck.bad ↔ x = w ∨ x ∈ s.deck.bad
        | .accumulators port =>
          { t with scaler := u.scaler } = u ∧ (∀ p : Fin 2, p.val ≠ port.num → t.sclPort p = s.sclPort p)
          ∧ { t.sclPort port.num with sets := (s.sclPort port.num).sets } = s.sclPort port.num
          ∧ (t.sclPort port.num).sets.length = (s.sclPort port.num).sets.length
          ∧ ∀ (i : Nat) (e f : SclSet), (s.sclPort port.num).sets[i]? = some e → (t.sclPort port.num).sets[i]? = some f →
            if e.open_ = true ∨ e.recorded ≠ e.launched then offset / 512 ∈ f.dead ∧ { f with dead := e.dead, acc := e.acc } = e else f = e
        | .ringIndex => t.flag F.DCK_EVT.RING_RESTART = true ∧ ∃ n, t.deck.ring = s.deck.ring.drop n
        | .other => t = u)
  ∧ Gives .deckWipeDone s (fun t => if s.flag F.DCK_STAT.WIPING then Completes [] s t ∧ t.flag F.DCK_STAT.WIPING = false
        ∧ t.flag F.DCK_STAT.RING_ACTIVE = s.flag F.DCK_RING_CFG.EN
        ∧ ∀ it ∈ s.hif.items, frontItem s it.cap it.ring = some it → it.ring < 16 → it.started = false → it.marked = false →
            let u := s.set F.DCK_STAT.WIPING 0
            descWaits u it.desc = false → isChip it = false → descStatus u it.cap it.desc (snapSize u it.desc) = none →
            { it with started := true } ∈ t.hif.items
      else t = s)
  ∧ (∀ n : Fin 16,
      let at_ (it : Item) := dBuffer it.desc * wbSize s + le it.desc 24 8
      let len (it : Item) := dLength it.desc
      Gives (.dckRead n) s (fun t => (running s n 0x1C = none → t = s)
        ∧ ∀ it, running s n 0x1C = some it →
          let hit (w : Nat) : Prop := at_ it < 32 * w + 32 ∧ 32 * w < at_ it + len it
          let held : Prop := s.owner (.buffer (dBuffer it.desc)) ≠ 0 ∧ s.owner (.buffer (dBuffer it.desc)) ≠ cHost
          Completes [] s t
          ∧ (held → Completed it (.just stConflict) s t)
          ∧ (¬held → ∀ w ∈ s.deck.bad, hit w → (∀ x ∈ s.deck.bad, hit x → w ≤ x) →
              Completed it { Outcome.just stDeckUncorr with info0 := 32 * w - dBuffer it.desc * wbSize s } s t)
          ∧ (¬held → (∀ w ∈ s.deck.bad, ¬hit w) → Completed it (.just stOk) s t
              ∧ Output.hostWrite (dAddr it.desc) ((List.range (len it)).map fun i => s.spaceByte (at_ it + i)) ∈ t.out))
      ∧ ∀ payload : List Byte, Gives (.dckWrite n payload) s fun t => (running s n 0x1D = none → t = s)
        ∧ ∀ it, running s n 0x1D = some it →
          Completes [] s { t with deck := s.deck } ∧ { t.deck with space := s.deck.space, bad := s.deck.bad } = s.deck
          ∧ (s.owner (.buffer (dBuffer it.desc)) ≠ cHost → Completed it (.just stConflict) s t ∧ t.deck = s.deck)
          ∧ (s.owner (.buffer (dBuffer it.desc)) = cHost → len it ≤ payload.length → Completed it (.just stOk) s t
              ∧ (∀ i, t.spaceByte i = if at_ it ≤ i ∧ i < at_ it + len it then payload.getD (i - at_ it) 0 else s.spaceByte i)
              ∧ ∀ w, w ∈ t.deck.bad ↔ w ∈ s.deck.bad ∧ ¬(at_ it ≤ 32 * w ∧ 32 * w + 32 ≤ at_ it + len it)))

/-! ### Landing -/

/-- Landing (R351 to R354, R357 to R359, R362). An uncorrectable sector is counted, flagged and reported, costs its record, and retires its
block; a block that fails to program is retired; a refresh takes a block of the pool for a while. A pool that falls below 256, or to
0, is reported, and at 0 Landing is READ_ONLY. A scrub starts and ends. Once an hour the archive is throttled by one step. LND_READ delivers
whole records from POS on and says where to go on; LND_DELETE frees a capture that is not WRITING. A change of CAP_GIB, before the unit is
operational, erases both areas. -/
def Obligations.LandingCommands : Prop :=
  ∀ s : State, s.Sound →
    let spares := s.get F.LND_SPARE.SPARES
    let low : Prop := 256 ≤ spares ∧ spares - 1 < 256
    let last : Prop := spares = 1
    let pool (l : List (Field × Nat)) (t : State) : Prop :=
      (low → last → Posts (l ++ [(F.LND_EVT.SPARE_LOW, 1), (F.LND_STAT.STATE, 2), (F.LND_EVT.READ_ONLY, 1)]) s t)
      ∧ (low → ¬last → Posts (l ++ [(F.LND_EVT.SPARE_LOW, 1)]) s t)
      ∧ (¬low → last → Posts (l ++ [(F.LND_STAT.STATE, 2), (F.LND_EVT.READ_ONLY, 1)]) s t)
      ∧ (¬low → ¬last → Posts l s t)
    let told (t : State) : Prop :=
      (low → PostedOnce s t 0xB3 true (leBytes 2 (spares - 1))) ∧ (last → PostedOnce s t 0xB4 true [])
    let retired : List (Field × Nat) := [s.up F.LND_SPARE.BAD_GROWN, (F.LND_SPARE.SPARES, spares - 1)]
    let sector : List (Field × Nat) := [s.up F.LND_UE_CNT.SECTORS, (F.LND_EVT.UNCORR, 1)]
    (∀ obj record : Nat,
      let e := s.capEntry obj
      let seen (area pos : Nat) (t : State) : Prop :=
        pool (sector ++ retired) { t with landing := { t.landing with dir := s.landing.dir } } ∧ told t
        ∧ PostedOnce s t 0xB1 true ([BitVec.ofNat 8 area, 0] ++ leBytes 2 obj ++ [0, 0, 0, 0] ++ leBytes 8 pos)
      let lose (l m : List LndRec) : Prop := m.length = l.length
        ∧ ∀ i r, l[i]? = some r → m[i]? = some (if i = record then { r with lost := true } else r)
      Gives (.lndUncorr .capture obj record) s (fun t => seen 0 (lndBytes (e.records.take record)) t
          ∧ (∀ i, i ≠ obj → t.capEntry i = s.capEntry i)
          ∧ { t.capEntry obj with state := e.state, records := e.records } = e
          ∧ (t.capEntry obj).state = (if 2 ≤ e.state then 5 else e.state) ∧ lose e.records (t.capEntry obj).records)
      ∧ Gives (.lndUncorr .archive obj record) s (fun t => t.landing.dir = s.landing.dir
          ∧ (s.landing.archive[record]? = none → seen 1 0 t)
          ∧ ∀ r, s.landing.archive[record]? = some r → seen 1 r.time t
            ∧ ∃ m more k, lose s.landing.archive m ∧ t.landing.archive = (m ++ more).drop k)
      ∧ Gives (.lndUncorr .system obj record) s fun t => t.landing.dir = s.landing.dir ∧ seen 2 record t)
  ∧ Gives .blockProgramFail s (fun t => pool retired t ∧ told t)
  ∧ (∀ retried : Nat, Gives (.blockRefresh retried) s fun t =>
      if spares = 0 then Sets [s.up F.LND_CE_CNT.SECTORS retried] s t
      else pool [s.up F.LND_CE_CNT.SECTORS retried, s.up F.LND_REFRESH_CNT.BLOCKS] t ∧ told t)
  ∧ (s.answers 17 → Gives .scrubNow s (Sets [(F.LND_STAT.SCRUB, 1)] s))
  ∧ Gives .scrubPassComplete s (fun t => Sets [(F.LND_STAT.SCRUB, 0)] s { t with landing := s.landing }
      ∧ t.landing = { s.landing with scrubAt := s.elapsed })
  ∧ (∀ (pe : BitVec 16) (years : BitVec 8),
      let written := ((s.landing.written.filter fun e => decide (s.elapsed < e.1 + 86400000000000)).map (·.2)).sum
      let rate := rAllow s pe.toNat
      let forty : Nat := 14610 * 86400 * 1000000000
      let level (u : State) (k : Nat) := u.get (F.LND_ARCk_STAT.T k)
      let prio (k : Nat) := aePrio (s.arcEntry k)
      let up (k : Fin 8) : Prop := aeEn (s.arcEntry k) = true ∧ level s k < aeThinMax (s.arcEntry k)
      let down (k : Fin 8) : Prop := aeEn (s.arcEntry k) = true ∧ 0 < level s k
      let exceeds : Prop := rate.1 * 86400 < written * rate.2
      let spare : Prop := 2 * written * rate.2 < rate.1 * 86400 ∧ ∀ at_, s.landing.lastStep = some at_ → at_ + 86400000000000 ≤ s.elapsed
      (∀ first, s.landing.firstOperational = some first → s.tai < first + forty →
        let num := (30000 - pe.toNat) * 2 ^ 38 * 1000000000 * 2
        let den := (first + forty - s.tai) * 3
        rate = if num < 4000000 * den then (num, den) else (4000000, 1))
      ∧ Gives (.lndThrottle pe years) s fun t =>
        let stepped (k : Fin 8) (v : Nat) (isUp : Bool) : Prop :=
          level t k = v ∧ (∀ m : Fin 8, m ≠ k → level t m = level s m) ∧ t.flag F.LND_EVT.THROTTLE = true
          ∧ t.landing.lastStep = some s.elapsed ∧ (aeSrc (s.arcEntry k) ≠ 2 → (k.val, isUp) ∈ t.landing.thinDue)
          ∧ PostedOnce s t 0xB2 isUp ([BitVec.ofNat 8 k, BitVec.ofNat 8 v, 0, 0] ++ leBytes 2 (t.get F.LND_BUDGET.ALLOW)
              ++ leBytes 2 (t.get F.LND_BUDGET.AVG))
        let stays : Prop := (∀ m : Fin 8, level t m = level s m) ∧ t.landing.lastStep = s.landing.lastStep ∧ t.out = s.out
        t.aside s = { s with landing := { s.landing with lastStep := t.landing.lastStep } }
        ∧ t.get F.LND_LIFE.PE_MEAN = pe.toNat ∧ t.get F.LND_LIFE.PROJ_YEARS = years.toNat
        ∧ t.get F.LND_BUDGET.ALLOW = satTo 65535 (roundOpen (rate.1 : Int) (rate.2 * 10000)).toNat
        ∧ t.get F.LND_BUDGET.AVG = satTo 65535 (roundOpen (written : Int) 864000000).toNat
        ∧ (∀ a, a ∉ [R.LND_LIFE, R.LND_BUDGET, R.LND_STAT, R.LND_EVT] → deliveryReg a = false → t.read a = s.read a)
        ∧ (exceeds → (∀ k, up k → (∀ m, up m → m ≠ k → prio k < prio m ∨ (prio k = prio m ∧ m < k)) →
              stepped k (level s k + 1) true ∧ t.flag F.LND_STAT.OVER_BUDGET = false)
            ∧ ((∀ k, ¬up k) → stays ∧ t.flag F.LND_STAT.OVER_BUDGET = true))
        ∧ (¬exceeds → t.flag F.LND_STAT.OVER_BUDGET = false
            ∧ (spare → ∀ k, down k → (∀ m, down m → m ≠ k → prio m < prio k ∨ (prio k = prio m ∧ k < m)) → stepped k (level s k - 1) false)
            ∧ (¬spare ∨ (∀ k, ¬down k) → stays)))
  ∧ (∀ n : Fin 16,
      let absent (obj : Nat) : Prop := 1024 ≤ obj ∨ (s.capEntry obj).state = 0
      Gives (.lndRead n) s (fun t => (running s n 0x18 = none → t = s)
        ∧ ∀ it, running s n 0x18 = some it →
          let d := it.desc
          let obj := le d 24 4
          let inCapture : Prop := le d 20 1 = 0
          let recs := if inCapture then (s.capEntry obj).records else s.landing.archive
          let pos (i : Nat) : Nat := if inCapture then lndBytes (recs.take i) else (recs.getD i ⟨[], 0, false, 0⟩).time
          let data (a b : Nat) : List Byte := (List.range (b - a)).foldl (fun l i => pad8 l ++ (recs.getD (a + i) ⟨[], 0, false, 0⟩).bytes) []
          let lost (i : Nat) : Bool := (recs.getD i ⟨[], 0, false, 0⟩).lost
          let next (i : Nat) : Nat := if i < recs.length then pos i else 0xFFFFFFFFFFFFFFFF
          let ends (st b info1 : Nat) (a : Nat) : Prop := Completed it ⟨st, (data a b).length, next (if st = stLndUncorr then b + 1 else b), info1, false, false⟩ s t
          Completes [] s t ∧ t.landing.dir = s.landing.dir
          ∧ (inCapture ∧ absent obj → Completed it (.just stNoObject) s t)
          ∧ (¬(inCapture ∧ absent obj) → ∀ a b, a ≤ b → b ≤ recs.length → (∀ i, i < a → pos i < le d 32 8) → (a < recs.length → le d 32 8 ≤ pos a) →
              (∀ i, i < b → a ≤ i → lost i = false ∧ (data a (i + 1)).length ≤ dLength d) →
              (b = recs.length → ends stOk b (b - a) a)
              ∧ (b < recs.length → lost b = true → ends stLndUncorr b (b - a) a)
              ∧ (b < recs.length → lost b = false → dLength d < (data a (b + 1)).length →
                  if b = a then ends stBufShort b (data a (b + 1)).length a else ends stOk b (b - a) a)
              ∧ ((b = recs.length ∨ lost b = true ∨ dLength d < (data a (b + 1)).length) → data a b ≠ [] →
                  Output.hostWrite (dAddr d) (data a b) ∈ t.out)))
      ∧ Gives (.lndDelete n) s fun t => (running s n 0x19 = none → t = s)
        ∧ ∀ it, running s n 0x19 = some it →
          let obj := le it.desc 24 4
          Completes [] s t ∧ (∀ i, i ≠ obj → t.capEntry i = s.capEntry i)
          ∧ (absent obj → Completed it (.just stNoObject) s t ∧ t.capEntry obj = s.capEntry obj)
          ∧ (¬absent obj → (s.capEntry obj).state = 1 → Completed it (.just stConflict) s t ∧ t.capEntry obj = s.capEntry obj)
          ∧ (¬absent obj → (s.capEntry obj).state ≠ 1 → Completed it (.just stOk) s t ∧ t.capEntry obj = CapEntry.zero))
  ∧ (s.answers 17 → ∀ v : BitVec 32,
      let gib := bits v.toNat 7 0
      Gives (.lndPartWrite v) s fun t =>
        if s.lc ≤ 1 ∧ 8 ≤ gib ∧ gib ≤ 244 then
          if gib = s.get F.LND_PART.CAP_GIB then t = s
          else Sets [(F.LND_PART.CAP_GIB, gib)] s { t with landing := s.landing } ∧ t.landing = { s.landing with dir := [], archive := [] }
        else Ignored s t)

/-! ### Captures -/

/-- Captures of the pre-trigger ring (R307, R331, R353, R355, R356). A capture that begins while no other is in progress completes RING_OFF, STREAM_OFF,
LND_READONLY, WINDOW_GONE or DIR_FULL where its rules say so, delivering nothing. Else each record of its window, in launch order, is cut to the point
range and delivered, or counted where the ring had lost it: written into the front buffer of its capture ring, stored in a new
directory entry, or queued behind a CAP_START marker. Without WAIT it then completes OK with its counts, a capture to Flume behind a CAP_END
marker, one to Landing once its last record is programmed; with WAIT it goes on. -/
def Obligations.Captures : Prop :=
  ∀ s : State, s.Sound →
    let calm : Prop := ∀ x ∈ s.hif.items, isCapture x = true → x.run.cursor = 0
    (∀ n : Fin 16, ∀ e ∈ ([(.captureHost n, 0), (.captureLanding n, 1), (.captureFlume n, 2)] : List (Instr × Nat)),
      (∀ it, running s n 0x04 = some it → dId it.desc ≠ e.2) → Gives e.1 s (· = s))
  ∧ (∀ (n : Fin 16) (it : Item), running s n 0x04 = some it → calm →
      let d := it.desc
      let inst := dInst d
      let waits : Bool := bit (le d 22 1) 1 && decide (s.tai < le d 32 8)
      let endAt := if waits then le d 32 8 else min (le d 32 8) s.tai
      let window := s.deck.ring.filter fun r => r.port.num == bits (le d 22 1) 0 0
        && decide (le d 24 8 ≤ r.launch) && decide (r.launch < endAt)
      let early : Bool := s.deck.ring.head?.any fun r => decide (le d 24 8 < r.launch)
      let good := window.filter fun r => !r.lost
      let cuts := good.map fun r => cutRecord r.raw (le d 40 4) (le d 44 4)
      let lost := window.length - good.length
      let first := (good.head?.map (·.launch)).getD 0
      let outcome (st : Nat) : Outcome := ⟨st, good.length, first, lost, early || decide (0 < lost), false⟩
      let refused (st : Nat) (t : State) : Prop := Completes [] s t ∧ Completed it (.just st) s t ∧ t.landing.dir = s.landing.dir
      let goesOn (drained : Bool) (t : State) : Prop := ∃ x ∈ t.hif.items, sameItem x it = true ∧ x.desc = d ∧ x.started = true
        ∧ x.run.cursor ≠ 0 ∧ x.run.endAt = endAt ∧ x.run.delivered = good.length ∧ x.run.lost = lost ∧ x.run.drained = drained
        ∧ x.run.partialFlag = (early || decide (0 < lost)) ∧ x.run.first = good.head?.map (·.launch)
      let gone : Prop := waits = false ∧ window = []
      (dId d = 0 → Gives (.captureHost n) s fun t =>
        let on : Prop := s.flag (ringEn .cap inst) = true ∧ s.get (F.HIF_CAPn_CFG.SRC inst) = 4
        let r := s.capRing inst
        let fill (k : Nat) : Nat := (cuts.take k).foldl (fun f b => (f + 7) / 8 * 8 + b.length) r.fill
        (¬on → refused stRingOff t)
        ∧ (on → gone → refused stWindowGone t)
        ∧ (on → ¬gone → ∀ buf, fillItem s inst = some buf → s.get (F.HIF_CAPn_CFG2.FLUSH_MS inst) ≠ 0 → inst < 16 → fill cuts.length ≤ dLength buf.desc →
            Completes [] s t ∧ (t.capRing inst).fill = fill cuts.length ∧ (t.capRing inst).records = r.records + cuts.length
            ∧ (∀ i b, cuts[i]? = some b → Output.hostWrite (dAddr buf.desc + (fill i + 7) / 8 * 8) b ∈ t.out)
            ∧ if waits then goesOn false t else Completed it (outcome stOk) s t))
      ∧ (dId d = 1 → Gives (.captureLanding n) s fun t =>
        let writable : Prop := s.get F.LND_STAT.STATE ≠ 2
        let free (i : Fin 1024) : Prop := (s.capEntry i).state = 0
        let old (i : Fin 1024) : Prop := 2 ≤ (s.capEntry i).state ∧ (s.capEntry i).keep = false
        let takes (i : Fin 1024) : Prop := (free i ∧ ∀ j, j < i → ¬free j)
          ∨ ((∀ j, ¬free j) ∧ old i ∧ ∀ j, old j → j ≠ i → (s.capEntry i).serial < (s.capEntry j).serial)
        (¬writable → refused stLndReadonly t)
        ∧ (writable → gone → refused stWindowGone t)
        ∧ (writable → ¬gone → (∀ i, ¬free i ∧ ¬old i) → refused stDirFull t)
        ∧ (writable → ¬gone → ∀ i, takes i → captureHeld s + (cuts.map fun b => (b.length + 7) / 8 * 8).sum ≤ captureSize s →
            Completes [] s t ∧ goesOn (!waits) t ∧ (∀ j : Fin 1024, j ≠ i → t.capEntry j = s.capEntry j)
            ∧ t.capEntry i = ⟨1, bit (le d 52 1) 0, bit (le d 22 1) 0, le d 48 4, dTag d, le d 40 4, le d 44 4, first, s.landing.serial + 1,
                (cuts.zip good).map fun x => ⟨x.1, x.2.launch, false, s.elapsed⟩⟩))
      ∧ (dId d = 2 → Gives (.captureFlume n) s fun t =>
        let e := s.streamEntry inst
        let on : Prop := seEn e = true ∧ seSrc e = 4
        let q := s.fstream inst
        let mark (kind count : Nat) : QRec := ⟨marker kind 0 count s.tai (dTag d) (le d 48 4), false, 0, true, s.elapsed⟩
        (¬on → refused stStreamOff t)
        ∧ (on → gone → refused stWindowGone t)
        ∧ (on → ¬gone → seChip e = false → portBytes s (sePort e) + (cuts.map (·.length)).sum + 32 + 2 ^ 20 ≤ queueSize s →
            Completes [] s t
            ∧ (t.fstream inst).queue = q.queue ++ mark 3 0 :: (cuts.map fun b => ⟨b, false, le b 4 8, false, s.elapsed⟩)
                ++ (if waits then [] else [mark 4 good.length])
            ∧ (∀ i, i ≠ inst → t.fstream i = s.fstream i)
            ∧ if waits then goesOn false t else Completed it (outcome stOk) s t)))
  ∧ (∀ entry : Fin 1024,
      let mine (it : Item) : Bool := isCapture it && it.run.drained && it.run.entry == entry.val
      let e := s.capEntry entry
      Gives (.landingCaptureComplete entry) s fun t => (s.hif.items.find? mine = none → t = s)
        ∧ ∀ it, s.hif.items.find? mine = some it → Completes [] s t ∧ Completed it (captureOutcome it stOk false) s t
          ∧ (∀ j : Fin 1024, j ≠ entry → t.capEntry j = s.capEntry j)
          ∧ t.capEntry entry = { e with state := if e.records.any (·.lost) then 5 else if it.run.partialFlag then 3 else 2 })

/-! ### The timebase and the tally windows -/

/-- The timebase (R383 to R387). A PPSIN edge marks the start of the TAI second in CLK_TB_SEC, frequency only until that has been written; a Sync with
a known path delay is an offset measurement. An offset behind by more than 1 ms is stepped forward, with STEP_EN, flag and record; any
other only changes the rate correction, within ±1,000 ppm. 16 offsets in a row within ±1 µs lock it. A new master, an arbitrary timescale, or no
reference for 2 s (PPS) or 4 s (PTP) unlock it; entering and leaving LOCKED is reported. A Delay_Req goes out once a second, and its
answer gives the path delay as half the sum of both ways (the formula of IEEE 1588, a log entry's). -/
def Obligations.Timebase : Prop :=
  ∀ s : State, s.Sound →
    let old := s.get F.CLK_TB_STAT.STATE
    let changed (st : Nat) : List (Field × Nat) :=
      [(F.CLK_TB_STAT.STATE, st), (F.CLK_EVT.TB_STATE, if old = st then s.get F.CLK_EVT.TB_STATE else 1)]
    let reported (state : Bool) (payload : List Byte) (t : State) : Prop :=
      ∃ n, Output.event ⟨0xC1, state, false, false, n, t.tai, payload⟩ ∈ t.out
    let told (st : Nat) (t : State) : Prop := old ≠ st → st = 2 ∨ old = 2 → reported (st == 2) [BitVec.ofNat 8 st] t
    let disciplined (ofs : Int) (l : List (Field × Nat)) (t : State) : Prop :=
      let steps : Prop := ofs < -1000000 ∧ s.flag F.CLK_TB_CFG.STEP_EN = true
      let run := if ofs.natAbs ≤ 1000 then s.tb.run + 1 else 0
      let st := if 16 ≤ run ∨ old = 2 then 2 else 1
      let fields := l ++ (F.CLK_TB_OFS.OFS, enc 32 (clampS 32 ofs)) :: changed st
      t.tb.run = run ∧ told st t
      ∧ (steps → t.now = s.now + BitVec.ofNat 64 ofs.natAbs ∧ t.freeCount = s.freeCount
          ∧ reported true ([BitVec.ofNat 8 old] ++ List.replicate 7 0 ++ leBytes 8 ofs.natAbs) t
          ∧ Posts (fields ++ [(F.CLK_EVT.TB_STEP, 1)]) s { t with now := s.now, tb := s.tb })
      ∧ (¬steps → t.now = s.now ∧ -1000000 ≤ sgn 32 (t.get F.CLK_TB_FREQ.PPB) ∧ sgn 32 (t.get F.CLK_TB_FREQ.PPB) ≤ 1000000
          ∧ Posts (fields ++ [(F.CLK_TB_FREQ.PPB, t.get F.CLK_TB_FREQ.PPB)]) s { t with tb := s.tb, freeCount := s.freeCount })
    let src := s.get F.CLK_TB_CFG.SRC
    let sec := s.get F.CLK_TB_SEC.SEC
    Gives .ppsinEdge s (fun t =>
      (src ≠ 1 → t = s)
      ∧ (src = 1 → s.flag F.CLK_TB_STAT.LABELLED = false → t.tb = { s.tb with refAt := s.elapsed } ∧ told 1 t
          ∧ -1000000 ≤ sgn 32 (t.get F.CLK_TB_FREQ.PPB) ∧ sgn 32 (t.get F.CLK_TB_FREQ.PPB) ≤ 1000000
          ∧ Posts ((F.CLK_TB_FREQ.PPB, t.get F.CLK_TB_FREQ.PPB) :: changed 1) s { t with tb := s.tb, freeCount := s.freeCount })
      ∧ (src = 1 → s.flag F.CLK_TB_STAT.LABELLED = true →
          disciplined ((s.tai : Int) - ((sec * 1000000000 : Nat) : Int)) [(F.CLK_TB_SEC.SEC, sec + 1)] t
          ∧ t.tb.refAt = s.elapsed ∧ { t.tb with refAt := s.tb.refAt, run := s.tb.run } = s.tb))
  ∧ (∀ (port : EthPort) (v6 : Bool) (dom : BitVec 8),
      let ours : Prop := src = 2 ∧ s.get F.CLK_TB_CFG.PTP_PORT = port.num ∧ s.flag F.CLK_TB_CFG.PTP_IPV6 = v6
        ∧ s.get F.CLK_TB_CFG.DOMAIN = dom.toNat
      let isMaster (m : BitVec 64) : Prop := s.tb.master = some m.toNat
      let measured (t1 : BitVec 64) (t2 refAt : Nat) (t : State) : Prop :=
        let diff : Int := (t2 : Int) - t1.toNat
        let tb := { s.tb with diff := some diff, await_ := none, refAt := refAt }
        (s.tb.delay = none → t = { s with tb := tb })
        ∧ ∀ d, s.tb.delay = some d → disciplined (diff - d) [] t ∧ t.tb = { tb with run := t.tb.run }
      (∀ msg : PtpMessage, ¬ours → Gives (.ptpMessage port v6 dom msg) s (· = s))
      ∧ (∀ (m : BitVec 64) (ptp best : Bool), ours → Gives (.ptpMessage port v6 dom (.announce m ptp best)) s fun t =>
          if best = false ∨ (ptp = true ∧ isMaster m) then t = s
          else t.tb = { s.tb with master := if ptp then some m.toNat else none, delay := none, diff := none, await_ := none, req := none, run := 0 }
            ∧ (ptp = true → { t with tb := s.tb } = s) ∧ (ptp = false → told 1 t ∧ Posts (changed 1) s { t with tb := s.tb }))
      ∧ (∀ (m : BitVec 64) (seq : BitVec 16) (t1 : Option (BitVec 64)) (t2 : BitVec 64), ours →
          Gives (.ptpMessage port v6 dom (.sync m seq t1 t2)) s fun t => (¬isMaster m → t = s)
            ∧ (isMaster m → t1 = none → t = { s with tb := { s.tb with refAt := s.elapsed, await_ := some (seq.toNat, t2.toNat) } })
            ∧ (isMaster m → ∀ x, t1 = some x → measured x t2.toNat s.elapsed t))
      ∧ (∀ (m : BitVec 64) (seq : BitVec 16) (t1 : BitVec 64), ours → Gives (.ptpMessage port v6 dom (.followUp m seq t1)) s fun t =>
          (s.tb.await_ = none → t = s)
          ∧ ∀ q, s.tb.await_ = some q → if isMaster m ∧ q.1 = seq.toNat then measured t1 q.2 s.tb.refAt t else t = s)
      ∧ ∀ (m : BitVec 64) (seq : BitVec 16) (t4 : BitVec 64), ours → Gives (.ptpMessage port v6 dom (.delayResp m seq t4)) s fun t =>
          (s.tb.req = none ∨ s.tb.diff = none ∨ ¬isMaster m → t = s)
          ∧ ∀ q, s.tb.req = some q → ∀ d, s.tb.diff = some d → isMaster m →
            if q.1 = seq.toNat then t.tb.delay ≠ none ∧ t = { s with tb := { s.tb with req := none, delay := t.tb.delay } }
                ∧ ∀ x, t.tb.delay = some x → (2 * x - (d + ((t4.toNat : Int) - q.2))).natAbs ≤ 1
            else t = s)
  ∧ Gives .delayReqSend s (fun t =>
      if src = 2 ∧ s.tb.master ≠ none ∧ s.tb.reqAt + 1000000000 ≤ s.elapsed then
        { t with tb := s.tb, out := s.out } = s
        ∧ t.tb = { s.tb with reqSeq := (s.tb.reqSeq + 1) % 2 ^ 16, req := some (s.tb.reqSeq, s.tai), reqAt := s.elapsed }
        ∧ t.out = .delayReq (if s.flag F.CLK_TB_CFG.PTP_PORT then .fp1 else .fp0) (s.flag F.CLK_TB_CFG.PTP_IPV6) (s.get F.CLK_TB_CFG.DOMAIN)
            s.tb.reqSeq :: s.out
      else t = s)
  ∧ Gives .timebaseHoldover s fun t =>
      if src ≠ 0 ∧ s.tb.refAt + (if src = 1 then 2000000000 else 4000000000) ≤ s.elapsed then
        t.tb = { s.tb with run := 0 } ∧ told 3 t ∧ Posts (changed 3) s { t with tb := s.tb }
      else t = s

/-- Tally windows (R25 to R27). An evaluation enters its result into the history: exceeding, not exceeding, or missed, which counts as exceeding
where MISS or the rule of its condition says so. The condition is lasting while at least K of the last W evaluations exceeded; an exceeding
evaluation that leaves it not lasting counts as transient, a missed one as missed, both up to 65,535; the lasting state begins and
ends where it changes. -/
def Obligations.TallyWindows : Prop :=
  ∀ (t : Tally) (word : Nat) (made : Option Bool) (always : Bool),
    let r := (t.eval word made always).1
    let edge := (t.eval word made always).2
    let within := ((List.range (bits word 5 0 + 1)).filter fun i => r.hist.getLsbD i).length
    let exceeds : Bool := made == some true || (made == none && (always || bit word 12))
    r.hist.getLsbD 0 = exceeds ∧ (∀ i, i < 63 → r.hist.getLsbD (i + 1) = t.hist.getLsbD i)
    ∧ (r.lasting = true ↔ bits word 11 6 + 1 ≤ within)
    ∧ r.transient = (if made = some true ∧ r.lasting = false then min 0xFFFF (t.transient + 1) else t.transient)
    ∧ r.missed = (if made = none then min 0xFFFF (t.missed + 1) else t.missed)
    ∧ (edge = .began ↔ r.lasting = true ∧ t.lasting = false) ∧ (edge = .ended ↔ r.lasting = false ∧ t.lasting = true)
end

