-- ==== Sys2Proof/Laws/Sparse.lean ====
section
/-! SUPPORT. Laws of sparse maps: a read after a write, and that a write keeps the canonical form. -/

namespace Sys2Proof.Machine

variable {α : Type} {d : Nat → α}

theorem sget_sins_same {m : List (Nat × α)} {k : Nat} {v : α} : sget d (sins m k v) k = v := by
  induction m with
  | nil => simp [sins, sget]
  | cons e t ih =>
    obtain ⟨j, w⟩ := e
    unfold sins
    by_cases h1 : k < j
    · simp [h1, sget]
    · by_cases h2 : k = j <;> simp [h1, h2, sget, ih]

theorem sget_sins_ne {m : List (Nat × α)} {k i : Nat} {v : α} (h : i ≠ k) : sget d (sins m k v) i = sget d m i := by
  induction m with
  | nil => simp [sins, sget, h]
  | cons e t ih =>
    obtain ⟨j, w⟩ := e
    unfold sins
    by_cases h1 : k < j
    · simp [h1, sget, h]
    · by_cases h2 : k = j
      · subst h2; simp [sget, h]
      · simp only [h1, h2, if_false, sget, ih]

theorem sget_filter_same {m : List (Nat × α)} {k : Nat} : sget d (m.filter fun e => e.1 != k) k = d k := by
  induction m with
  | nil => rfl
  | cons e t ih =>
    obtain ⟨j, w⟩ := e
    by_cases h : j = k
    · subst h; simp [ih]
    · have hk : k ≠ j := fun x => h x.symm
      simp [h, hk, sget, ih]

theorem sget_filter_ne {m : List (Nat × α)} {k i : Nat} (h : i ≠ k) :
    sget d (m.filter fun e => e.1 != k) i = sget d m i := by
  induction m with
  | nil => rfl
  | cons e t ih =>
    obtain ⟨j, w⟩ := e
    by_cases h1 : j = k
    · subst h1; simp [sget, ih, h]
    · simp [h1, sget, ih]

variable [DecidableEq α]

/-- Reading the key just set answers the value set. -/
theorem sget_sput_same {m : List (Nat × α)} {k : Nat} {v : α} : sget d (sput d m k v) k = v := by
  unfold sput
  split
  · next h => rw [h, sget_filter_same]
  · exact sget_sins_same

/-- Setting a key leaves every other key as it was. -/
theorem sget_sput_ne {m : List (Nat × α)} {k i : Nat} {v : α} (h : i ≠ k) : sget d (sput d m k v) i = sget d m i := by
  unfold sput
  split
  · exact sget_filter_ne h
  · exact sget_sins_ne h

/-- A lower bound of a canonical map may be lowered. -/
theorem swfFrom_mono {m : List (Nat × α)} {a b : Nat} (h : swfFrom d b m = true) (hab : a ≤ b) : swfFrom d a m = true := by
  cases m with
  | nil => rfl
  | cons e t =>
    obtain ⟨j, w⟩ := e
    simp only [swfFrom, Bool.and_eq_true, decide_eq_true_eq] at h ⊢
    exact ⟨⟨by omega, h.1.2⟩, h.2⟩

/-- Entries left out of a canonical map leave it canonical, above the same bound. -/
theorem swf_filter_from {m : List (Nat × α)} {p : Nat × α → Bool} :
    ∀ {lo : Nat}, swfFrom d lo m = true → swfFrom d lo (m.filter p) = true := by
  induction m with
  | nil => intro lo h; exact h
  | cons e t ih =>
    obtain ⟨j, w⟩ := e
    intro lo h
    simp only [swfFrom, Bool.and_eq_true, decide_eq_true_eq] at h
    by_cases hp : p (j, w) = true
    · simp only [List.filter_cons, hp, if_true, swfFrom, Bool.and_eq_true, decide_eq_true_eq]
      exact ⟨h.1, ih h.2⟩
    · simp only [List.filter_cons, hp]
      exact ih (swfFrom_mono h.2 (by omega))

theorem swfFrom_sins {m : List (Nat × α)} {k : Nat} {v : α} (hv : v ≠ d k) :
    ∀ {lo : Nat}, swfFrom d lo m = true → lo ≤ k → swfFrom d lo (sins m k v) = true := by
  induction m with
  | nil => intro lo _ hk; simp [sins, swfFrom, hv, hk]
  | cons e t ih =>
    obtain ⟨j, w⟩ := e
    intro lo hm hk
    simp only [swfFrom, Bool.and_eq_true, decide_eq_true_eq] at hm
    unfold sins
    by_cases h1 : k < j
    · simp only [h1, if_true, swfFrom, Bool.and_eq_true, decide_eq_true_eq]
      exact ⟨⟨hk, hv⟩, ⟨by omega, hm.1.2⟩, hm.2⟩
    · by_cases h2 : k = j
      · subst h2
        simp only [Nat.lt_irrefl, if_true, if_false, swfFrom, Bool.and_eq_true, decide_eq_true_eq]
        exact ⟨⟨hk, hv⟩, hm.2⟩
      · simp only [h1, h2, if_false, swfFrom, Bool.and_eq_true, decide_eq_true_eq]
        exact ⟨hm.1, ih hm.2 (by omega)⟩

/-- A write keeps the canonical form above every bound that the key respects. -/
theorem swfFrom_sput {m : List (Nat × α)} {k : Nat} {v : α} {lo : Nat} (h : swfFrom d lo m = true) (hk : lo ≤ k) :
    swfFrom d lo (sput d m k v) = true := by
  unfold sput
  split
  · exact swf_filter_from h
  · next hv => exact swfFrom_sins hv h hk

/-- A write keeps the canonical form. -/
theorem swf_sput {m : List (Nat × α)} (k : Nat) (v : α) (h : swf d m = true) : swf d (sput d m k v) = true :=
  swfFrom_sput h (Nat.zero_le k)

/-- A key below the bound is not listed. -/
theorem sget_below {m : List (Nat × α)} {k : Nat} : ∀ {lo : Nat}, swfFrom d lo m = true → k < lo → sget d m k = d k := by
  induction m with
  | nil => intro _ _ _; rfl
  | cons e t ih =>
    obtain ⟨j, w⟩ := e
    intro lo hm hk
    simp only [swfFrom, Bool.and_eq_true, decide_eq_true_eq] at hm
    have h : k ≠ j := by omega
    simp only [sget, h, if_false]
    exact ih hm.2 (by omega)

/-- Writing back what a key has changes nothing. -/
theorem sput_sget {m : List (Nat × α)} {k : Nat} : ∀ {lo : Nat}, swfFrom d lo m = true → sput d m k (sget d m k) = m := by
  induction m with
  | nil => intro lo _; simp [sget, sput]
  | cons e t ih =>
    obtain ⟨j, w⟩ := e
    intro lo hm
    simp only [swfFrom, Bool.and_eq_true, decide_eq_true_eq] at hm
    by_cases he : k = j
    · subst he
      simp [sget, sput, sins, hm.1.2]
    · have hj : j ≠ k := fun h => he h.symm
      have hi := ih hm.2
      rw [sget, if_neg he]
      by_cases hd : sget d t k = d k
      · simp only [sput, hd, if_true] at hi ⊢
        simp [hj, hi]
      · by_cases hlt : k < j
        · exact absurd (sget_below hm.2 (by omega)) hd
        · simp only [sput, hd, if_false] at hi ⊢
          rw [sins, if_neg hlt, if_neg he, hi]

/-- An update of a key keeps the canonical form. -/
theorem swf_supd {m : List (Nat × α)} (k : Nat) (f : α → α) (h : swf d m = true) : swf d (supd d m k f) = true :=
  swf_sput k _ h

end Sys2Proof.Machine
end

