-- ==== Sys2Proof/Laws/State.lean ====
section
/-! SUPPORT. What each named operation on the state leaves as it was, field by field, and what it makes of the field it
is about. -/

namespace Sys2Proof.Machine

/-! ### `State.write` -/

@[simp] theorem State.write_pending (s : State) (a : Nat) (w : Word) : (s.write a w).pending = s.pending := rfl
@[simp] theorem State.write_now (s : State) (a : Nat) (w : Word) : (s.write a w).now = s.now := rfl
@[simp] theorem State.write_elapsed (s : State) (a : Nat) (w : Word) : (s.write a w).elapsed = s.elapsed := rfl
@[simp] theorem State.write_freeCount (s : State) (a : Nat) (w : Word) : (s.write a w).freeCount = s.freeCount := rfl
@[simp] theorem State.write_out (s : State) (a : Nat) (w : Word) : (s.write a w).out = s.out := rfl
@[simp] theorem State.write_seq (s : State) (a : Nat) (w : Word) : (s.write a w).seq = s.seq := rfl
@[simp] theorem State.write_hif (s : State) (a : Nat) (w : Word) : (s.write a w).hif = s.hif := rfl
@[simp] theorem State.write_flume (s : State) (a : Nat) (w : Word) : (s.write a w).flume = s.flume := rfl
@[simp] theorem State.write_deck (s : State) (a : Nat) (w : Word) : (s.write a w).deck = s.deck := rfl
@[simp] theorem State.write_landing (s : State) (a : Nat) (w : Word) : (s.write a w).landing = s.landing := rfl
@[simp] theorem State.write_presented (s : State) (a : Nat) (w : Word) : (s.write a w).presented = s.presented := rfl
@[simp] theorem State.write_profileBuf (s : State) (a : Nat) (w : Word) : (s.write a w).profileBuf = s.profileBuf := rfl
@[simp] theorem State.write_probe (s : State) (a : Nat) (w : Word) : (s.write a w).probe = s.probe := rfl
@[simp] theorem State.write_loop (s : State) (a : Nat) (w : Word) : (s.write a w).loop = s.loop := rfl
@[simp] theorem State.write_kerf (s : State) (a : Nat) (w : Word) : (s.write a w).kerf = s.kerf := rfl
@[simp] theorem State.write_scaler (s : State) (a : Nat) (w : Word) : (s.write a w).scaler = s.scaler := rfl
@[simp] theorem State.write_comp (s : State) (a : Nat) (w : Word) : (s.write a w).comp = s.comp := rfl
@[simp] theorem State.write_baseline (s : State) (a : Nat) (w : Word) : (s.write a w).baseline = s.baseline := rfl
@[simp] theorem State.write_bkg (s : State) (a : Nat) (w : Word) : (s.write a w).bkg = s.bkg := rfl
@[simp] theorem State.write_cru (s : State) (a : Nat) (w : Word) : (s.write a w).cru = s.cru := rfl
@[simp] theorem State.write_returning (s : State) (a : Nat) (w : Word) : (s.write a w).returning = s.returning := rfl
@[simp] theorem State.write_returnAt (s : State) (a : Nat) (w : Word) : (s.write a w).returnAt = s.returnAt := rfl
@[simp] theorem State.write_lamp (s : State) (a : Nat) (w : Word) : (s.write a w).lamp = s.lamp := rfl
@[simp] theorem State.write_cal (s : State) (a : Nat) (w : Word) : (s.write a w).cal = s.cal := rfl
@[simp] theorem State.write_wedge (s : State) (a : Nat) (w : Word) : (s.write a w).wedge = s.wedge := rfl
@[simp] theorem State.write_mark (s : State) (a : Nat) (w : Word) : (s.write a w).mark = s.mark := rfl
@[simp] theorem State.write_sky (s : State) (a : Nat) (w : Word) : (s.write a w).sky = s.sky := rfl
@[simp] theorem State.write_fio (s : State) (a : Nat) (w : Word) : (s.write a w).fio = s.fio := rfl
@[simp] theorem State.write_clk (s : State) (a : Nat) (w : Word) : (s.write a w).clk = s.clk := rfl
@[simp] theorem State.write_tb (s : State) (a : Nat) (w : Word) : (s.write a w).tb = s.tb := rfl
@[simp] theorem State.write_start (s : State) (a : Nat) (w : Word) : (s.write a w).start = s.start := rfl
@[simp] theorem State.write_sst (s : State) (a : Nat) (w : Word) : (s.write a w).sst = s.sst := rfl
@[simp] theorem State.write_failedAt (s : State) (a : Nat) (w : Word) : (s.write a w).failedAt = s.failedAt := rfl
@[simp] theorem State.write_powerAt (s : State) (a : Nat) (w : Word) : (s.write a w).powerAt = s.powerAt := rfl
@[simp] theorem State.write_firstSlot (s : State) (a : Nat) (w : Word) : (s.write a w).firstSlot = s.firstSlot := rfl
@[simp] theorem State.write_startPosted (s : State) (a : Nat) (w : Word) : (s.write a w).startPosted = s.startPosted := rfl

/-! ### `State.set` -/

@[simp] theorem State.set_pending (s : State) (f : Field) (v : Nat) : (s.set f v).pending = s.pending := rfl
@[simp] theorem State.set_now (s : State) (f : Field) (v : Nat) : (s.set f v).now = s.now := rfl
@[simp] theorem State.set_elapsed (s : State) (f : Field) (v : Nat) : (s.set f v).elapsed = s.elapsed := rfl
@[simp] theorem State.set_freeCount (s : State) (f : Field) (v : Nat) : (s.set f v).freeCount = s.freeCount := rfl
@[simp] theorem State.set_out (s : State) (f : Field) (v : Nat) : (s.set f v).out = s.out := rfl
@[simp] theorem State.set_seq (s : State) (f : Field) (v : Nat) : (s.set f v).seq = s.seq := rfl
@[simp] theorem State.set_hif (s : State) (f : Field) (v : Nat) : (s.set f v).hif = s.hif := rfl
@[simp] theorem State.set_flume (s : State) (f : Field) (v : Nat) : (s.set f v).flume = s.flume := rfl
@[simp] theorem State.set_deck (s : State) (f : Field) (v : Nat) : (s.set f v).deck = s.deck := rfl
@[simp] theorem State.set_landing (s : State) (f : Field) (v : Nat) : (s.set f v).landing = s.landing := rfl
@[simp] theorem State.set_presented (s : State) (f : Field) (v : Nat) : (s.set f v).presented = s.presented := rfl
@[simp] theorem State.set_profileBuf (s : State) (f : Field) (v : Nat) : (s.set f v).profileBuf = s.profileBuf := rfl
@[simp] theorem State.set_probe (s : State) (f : Field) (v : Nat) : (s.set f v).probe = s.probe := rfl
@[simp] theorem State.set_loop (s : State) (f : Field) (v : Nat) : (s.set f v).loop = s.loop := rfl
@[simp] theorem State.set_kerf (s : State) (f : Field) (v : Nat) : (s.set f v).kerf = s.kerf := rfl
@[simp] theorem State.set_scaler (s : State) (f : Field) (v : Nat) : (s.set f v).scaler = s.scaler := rfl
@[simp] theorem State.set_comp (s : State) (f : Field) (v : Nat) : (s.set f v).comp = s.comp := rfl
@[simp] theorem State.set_baseline (s : State) (f : Field) (v : Nat) : (s.set f v).baseline = s.baseline := rfl
@[simp] theorem State.set_bkg (s : State) (f : Field) (v : Nat) : (s.set f v).bkg = s.bkg := rfl
@[simp] theorem State.set_cru (s : State) (f : Field) (v : Nat) : (s.set f v).cru = s.cru := rfl
@[simp] theorem State.set_returning (s : State) (f : Field) (v : Nat) : (s.set f v).returning = s.returning := rfl
@[simp] theorem State.set_returnAt (s : State) (f : Field) (v : Nat) : (s.set f v).returnAt = s.returnAt := rfl
@[simp] theorem State.set_lamp (s : State) (f : Field) (v : Nat) : (s.set f v).lamp = s.lamp := rfl
@[simp] theorem State.set_cal (s : State) (f : Field) (v : Nat) : (s.set f v).cal = s.cal := rfl
@[simp] theorem State.set_wedge (s : State) (f : Field) (v : Nat) : (s.set f v).wedge = s.wedge := rfl
@[simp] theorem State.set_mark (s : State) (f : Field) (v : Nat) : (s.set f v).mark = s.mark := rfl
@[simp] theorem State.set_sky (s : State) (f : Field) (v : Nat) : (s.set f v).sky = s.sky := rfl
@[simp] theorem State.set_fio (s : State) (f : Field) (v : Nat) : (s.set f v).fio = s.fio := rfl
@[simp] theorem State.set_clk (s : State) (f : Field) (v : Nat) : (s.set f v).clk = s.clk := rfl
@[simp] theorem State.set_tb (s : State) (f : Field) (v : Nat) : (s.set f v).tb = s.tb := rfl
@[simp] theorem State.set_start (s : State) (f : Field) (v : Nat) : (s.set f v).start = s.start := rfl
@[simp] theorem State.set_sst (s : State) (f : Field) (v : Nat) : (s.set f v).sst = s.sst := rfl
@[simp] theorem State.set_failedAt (s : State) (f : Field) (v : Nat) : (s.set f v).failedAt = s.failedAt := rfl
@[simp] theorem State.set_powerAt (s : State) (f : Field) (v : Nat) : (s.set f v).powerAt = s.powerAt := rfl
@[simp] theorem State.set_firstSlot (s : State) (f : Field) (v : Nat) : (s.set f v).firstSlot = s.firstSlot := rfl
@[simp] theorem State.set_startPosted (s : State) (f : Field) (v : Nat) : (s.set f v).startPosted = s.startPosted := rfl

/-! ### `State.setFlag` -/

@[simp] theorem State.setFlag_pending (s : State) (f : Field) (b : Bool) : (s.setFlag f b).pending = s.pending := rfl
@[simp] theorem State.setFlag_now (s : State) (f : Field) (b : Bool) : (s.setFlag f b).now = s.now := rfl
@[simp] theorem State.setFlag_elapsed (s : State) (f : Field) (b : Bool) : (s.setFlag f b).elapsed = s.elapsed := rfl
@[simp] theorem State.setFlag_freeCount (s : State) (f : Field) (b : Bool) : (s.setFlag f b).freeCount = s.freeCount := rfl
@[simp] theorem State.setFlag_out (s : State) (f : Field) (b : Bool) : (s.setFlag f b).out = s.out := rfl
@[simp] theorem State.setFlag_seq (s : State) (f : Field) (b : Bool) : (s.setFlag f b).seq = s.seq := rfl
@[simp] theorem State.setFlag_hif (s : State) (f : Field) (b : Bool) : (s.setFlag f b).hif = s.hif := rfl
@[simp] theorem State.setFlag_flume (s : State) (f : Field) (b : Bool) : (s.setFlag f b).flume = s.flume := rfl
@[simp] theorem State.setFlag_deck (s : State) (f : Field) (b : Bool) : (s.setFlag f b).deck = s.deck := rfl
@[simp] theorem State.setFlag_landing (s : State) (f : Field) (b : Bool) : (s.setFlag f b).landing = s.landing := rfl
@[simp] theorem State.setFlag_presented (s : State) (f : Field) (b : Bool) : (s.setFlag f b).presented = s.presented := rfl
@[simp] theorem State.setFlag_profileBuf (s : State) (f : Field) (b : Bool) : (s.setFlag f b).profileBuf = s.profileBuf := rfl
@[simp] theorem State.setFlag_probe (s : State) (f : Field) (b : Bool) : (s.setFlag f b).probe = s.probe := rfl
@[simp] theorem State.setFlag_loop (s : State) (f : Field) (b : Bool) : (s.setFlag f b).loop = s.loop := rfl
@[simp] theorem State.setFlag_kerf (s : State) (f : Field) (b : Bool) : (s.setFlag f b).kerf = s.kerf := rfl
@[simp] theorem State.setFlag_scaler (s : State) (f : Field) (b : Bool) : (s.setFlag f b).scaler = s.scaler := rfl
@[simp] theorem State.setFlag_comp (s : State) (f : Field) (b : Bool) : (s.setFlag f b).comp = s.comp := rfl
@[simp] theorem State.setFlag_baseline (s : State) (f : Field) (b : Bool) : (s.setFlag f b).baseline = s.baseline := rfl
@[simp] theorem State.setFlag_bkg (s : State) (f : Field) (b : Bool) : (s.setFlag f b).bkg = s.bkg := rfl
@[simp] theorem State.setFlag_cru (s : State) (f : Field) (b : Bool) : (s.setFlag f b).cru = s.cru := rfl
@[simp] theorem State.setFlag_returning (s : State) (f : Field) (b : Bool) : (s.setFlag f b).returning = s.returning := rfl
@[simp] theorem State.setFlag_returnAt (s : State) (f : Field) (b : Bool) : (s.setFlag f b).returnAt = s.returnAt := rfl
@[simp] theorem State.setFlag_lamp (s : State) (f : Field) (b : Bool) : (s.setFlag f b).lamp = s.lamp := rfl
@[simp] theorem State.setFlag_cal (s : State) (f : Field) (b : Bool) : (s.setFlag f b).cal = s.cal := rfl
@[simp] theorem State.setFlag_wedge (s : State) (f : Field) (b : Bool) : (s.setFlag f b).wedge = s.wedge := rfl
@[simp] theorem State.setFlag_mark (s : State) (f : Field) (b : Bool) : (s.setFlag f b).mark = s.mark := rfl
@[simp] theorem State.setFlag_sky (s : State) (f : Field) (b : Bool) : (s.setFlag f b).sky = s.sky := rfl
@[simp] theorem State.setFlag_fio (s : State) (f : Field) (b : Bool) : (s.setFlag f b).fio = s.fio := rfl
@[simp] theorem State.setFlag_clk (s : State) (f : Field) (b : Bool) : (s.setFlag f b).clk = s.clk := rfl
@[simp] theorem State.setFlag_tb (s : State) (f : Field) (b : Bool) : (s.setFlag f b).tb = s.tb := rfl
@[simp] theorem State.setFlag_start (s : State) (f : Field) (b : Bool) : (s.setFlag f b).start = s.start := rfl
@[simp] theorem State.setFlag_sst (s : State) (f : Field) (b : Bool) : (s.setFlag f b).sst = s.sst := rfl
@[simp] theorem State.setFlag_failedAt (s : State) (f : Field) (b : Bool) : (s.setFlag f b).failedAt = s.failedAt := rfl
@[simp] theorem State.setFlag_powerAt (s : State) (f : Field) (b : Bool) : (s.setFlag f b).powerAt = s.powerAt := rfl
@[simp] theorem State.setFlag_firstSlot (s : State) (f : Field) (b : Bool) : (s.setFlag f b).firstSlot = s.firstSlot := rfl
@[simp] theorem State.setFlag_startPosted (s : State) (f : Field) (b : Bool) : (s.setFlag f b).startPosted = s.startPosted := rfl

/-! ### `State.count` -/

@[simp] theorem State.count_pending (s : State) (f : Field) (n : Nat) : (s.count f n).pending = s.pending := rfl
@[simp] theorem State.count_now (s : State) (f : Field) (n : Nat) : (s.count f n).now = s.now := rfl
@[simp] theorem State.count_elapsed (s : State) (f : Field) (n : Nat) : (s.count f n).elapsed = s.elapsed := rfl
@[simp] theorem State.count_freeCount (s : State) (f : Field) (n : Nat) : (s.count f n).freeCount = s.freeCount := rfl
@[simp] theorem State.count_out (s : State) (f : Field) (n : Nat) : (s.count f n).out = s.out := rfl
@[simp] theorem State.count_seq (s : State) (f : Field) (n : Nat) : (s.count f n).seq = s.seq := rfl
@[simp] theorem State.count_hif (s : State) (f : Field) (n : Nat) : (s.count f n).hif = s.hif := rfl
@[simp] theorem State.count_flume (s : State) (f : Field) (n : Nat) : (s.count f n).flume = s.flume := rfl
@[simp] theorem State.count_deck (s : State) (f : Field) (n : Nat) : (s.count f n).deck = s.deck := rfl
@[simp] theorem State.count_landing (s : State) (f : Field) (n : Nat) : (s.count f n).landing = s.landing := rfl
@[simp] theorem State.count_presented (s : State) (f : Field) (n : Nat) : (s.count f n).presented = s.presented := rfl
@[simp] theorem State.count_profileBuf (s : State) (f : Field) (n : Nat) : (s.count f n).profileBuf = s.profileBuf := rfl
@[simp] theorem State.count_probe (s : State) (f : Field) (n : Nat) : (s.count f n).probe = s.probe := rfl
@[simp] theorem State.count_loop (s : State) (f : Field) (n : Nat) : (s.count f n).loop = s.loop := rfl
@[simp] theorem State.count_kerf (s : State) (f : Field) (n : Nat) : (s.count f n).kerf = s.kerf := rfl
@[simp] theorem State.count_scaler (s : State) (f : Field) (n : Nat) : (s.count f n).scaler = s.scaler := rfl
@[simp] theorem State.count_comp (s : State) (f : Field) (n : Nat) : (s.count f n).comp = s.comp := rfl
@[simp] theorem State.count_baseline (s : State) (f : Field) (n : Nat) : (s.count f n).baseline = s.baseline := rfl
@[simp] theorem State.count_bkg (s : State) (f : Field) (n : Nat) : (s.count f n).bkg = s.bkg := rfl
@[simp] theorem State.count_cru (s : State) (f : Field) (n : Nat) : (s.count f n).cru = s.cru := rfl
@[simp] theorem State.count_returning (s : State) (f : Field) (n : Nat) : (s.count f n).returning = s.returning := rfl
@[simp] theorem State.count_returnAt (s : State) (f : Field) (n : Nat) : (s.count f n).returnAt = s.returnAt := rfl
@[simp] theorem State.count_lamp (s : State) (f : Field) (n : Nat) : (s.count f n).lamp = s.lamp := rfl
@[simp] theorem State.count_cal (s : State) (f : Field) (n : Nat) : (s.count f n).cal = s.cal := rfl
@[simp] theorem State.count_wedge (s : State) (f : Field) (n : Nat) : (s.count f n).wedge = s.wedge := rfl
@[simp] theorem State.count_mark (s : State) (f : Field) (n : Nat) : (s.count f n).mark = s.mark := rfl
@[simp] theorem State.count_sky (s : State) (f : Field) (n : Nat) : (s.count f n).sky = s.sky := rfl
@[simp] theorem State.count_fio (s : State) (f : Field) (n : Nat) : (s.count f n).fio = s.fio := rfl
@[simp] theorem State.count_clk (s : State) (f : Field) (n : Nat) : (s.count f n).clk = s.clk := rfl
@[simp] theorem State.count_tb (s : State) (f : Field) (n : Nat) : (s.count f n).tb = s.tb := rfl
@[simp] theorem State.count_start (s : State) (f : Field) (n : Nat) : (s.count f n).start = s.start := rfl
@[simp] theorem State.count_sst (s : State) (f : Field) (n : Nat) : (s.count f n).sst = s.sst := rfl
@[simp] theorem State.count_failedAt (s : State) (f : Field) (n : Nat) : (s.count f n).failedAt = s.failedAt := rfl
@[simp] theorem State.count_powerAt (s : State) (f : Field) (n : Nat) : (s.count f n).powerAt = s.powerAt := rfl
@[simp] theorem State.count_firstSlot (s : State) (f : Field) (n : Nat) : (s.count f n).firstSlot = s.firstSlot := rfl
@[simp] theorem State.count_startPosted (s : State) (f : Field) (n : Nat) : (s.count f n).startPosted = s.startPosted := rfl

/-! ### `State.bump` -/

@[simp] theorem State.bump_pending (s : State) (f : Field) : (s.bump f).pending = s.pending := rfl
@[simp] theorem State.bump_now (s : State) (f : Field) : (s.bump f).now = s.now := rfl
@[simp] theorem State.bump_elapsed (s : State) (f : Field) : (s.bump f).elapsed = s.elapsed := rfl
@[simp] theorem State.bump_freeCount (s : State) (f : Field) : (s.bump f).freeCount = s.freeCount := rfl
@[simp] theorem State.bump_out (s : State) (f : Field) : (s.bump f).out = s.out := rfl
@[simp] theorem State.bump_seq (s : State) (f : Field) : (s.bump f).seq = s.seq := rfl
@[simp] theorem State.bump_hif (s : State) (f : Field) : (s.bump f).hif = s.hif := rfl
@[simp] theorem State.bump_flume (s : State) (f : Field) : (s.bump f).flume = s.flume := rfl
@[simp] theorem State.bump_deck (s : State) (f : Field) : (s.bump f).deck = s.deck := rfl
@[simp] theorem State.bump_landing (s : State) (f : Field) : (s.bump f).landing = s.landing := rfl
@[simp] theorem State.bump_presented (s : State) (f : Field) : (s.bump f).presented = s.presented := rfl
@[simp] theorem State.bump_profileBuf (s : State) (f : Field) : (s.bump f).profileBuf = s.profileBuf := rfl
@[simp] theorem State.bump_probe (s : State) (f : Field) : (s.bump f).probe = s.probe := rfl
@[simp] theorem State.bump_loop (s : State) (f : Field) : (s.bump f).loop = s.loop := rfl
@[simp] theorem State.bump_kerf (s : State) (f : Field) : (s.bump f).kerf = s.kerf := rfl
@[simp] theorem State.bump_scaler (s : State) (f : Field) : (s.bump f).scaler = s.scaler := rfl
@[simp] theorem State.bump_comp (s : State) (f : Field) : (s.bump f).comp = s.comp := rfl
@[simp] theorem State.bump_baseline (s : State) (f : Field) : (s.bump f).baseline = s.baseline := rfl
@[simp] theorem State.bump_bkg (s : State) (f : Field) : (s.bump f).bkg = s.bkg := rfl
@[simp] theorem State.bump_cru (s : State) (f : Field) : (s.bump f).cru = s.cru := rfl
@[simp] theorem State.bump_returning (s : State) (f : Field) : (s.bump f).returning = s.returning := rfl
@[simp] theorem State.bump_returnAt (s : State) (f : Field) : (s.bump f).returnAt = s.returnAt := rfl
@[simp] theorem State.bump_lamp (s : State) (f : Field) : (s.bump f).lamp = s.lamp := rfl
@[simp] theorem State.bump_cal (s : State) (f : Field) : (s.bump f).cal = s.cal := rfl
@[simp] theorem State.bump_wedge (s : State) (f : Field) : (s.bump f).wedge = s.wedge := rfl
@[simp] theorem State.bump_mark (s : State) (f : Field) : (s.bump f).mark = s.mark := rfl
@[simp] theorem State.bump_sky (s : State) (f : Field) : (s.bump f).sky = s.sky := rfl
@[simp] theorem State.bump_fio (s : State) (f : Field) : (s.bump f).fio = s.fio := rfl
@[simp] theorem State.bump_clk (s : State) (f : Field) : (s.bump f).clk = s.clk := rfl
@[simp] theorem State.bump_tb (s : State) (f : Field) : (s.bump f).tb = s.tb := rfl
@[simp] theorem State.bump_start (s : State) (f : Field) : (s.bump f).start = s.start := rfl
@[simp] theorem State.bump_sst (s : State) (f : Field) : (s.bump f).sst = s.sst := rfl
@[simp] theorem State.bump_failedAt (s : State) (f : Field) : (s.bump f).failedAt = s.failedAt := rfl
@[simp] theorem State.bump_powerAt (s : State) (f : Field) : (s.bump f).powerAt = s.powerAt := rfl
@[simp] theorem State.bump_firstSlot (s : State) (f : Field) : (s.bump f).firstSlot = s.firstSlot := rfl
@[simp] theorem State.bump_startPosted (s : State) (f : Field) : (s.bump f).startPosted = s.startPosted := rfl

/-! ### `State.wrErr` -/

@[simp] theorem State.wrErr_pending (s : State) : (s.wrErr).pending = s.pending := rfl
@[simp] theorem State.wrErr_now (s : State) : (s.wrErr).now = s.now := rfl
@[simp] theorem State.wrErr_elapsed (s : State) : (s.wrErr).elapsed = s.elapsed := rfl
@[simp] theorem State.wrErr_freeCount (s : State) : (s.wrErr).freeCount = s.freeCount := rfl
@[simp] theorem State.wrErr_out (s : State) : (s.wrErr).out = s.out := rfl
@[simp] theorem State.wrErr_seq (s : State) : (s.wrErr).seq = s.seq := rfl
@[simp] theorem State.wrErr_hif (s : State) : (s.wrErr).hif = s.hif := rfl
@[simp] theorem State.wrErr_flume (s : State) : (s.wrErr).flume = s.flume := rfl
@[simp] theorem State.wrErr_deck (s : State) : (s.wrErr).deck = s.deck := rfl
@[simp] theorem State.wrErr_landing (s : State) : (s.wrErr).landing = s.landing := rfl
@[simp] theorem State.wrErr_presented (s : State) : (s.wrErr).presented = s.presented := rfl
@[simp] theorem State.wrErr_profileBuf (s : State) : (s.wrErr).profileBuf = s.profileBuf := rfl
@[simp] theorem State.wrErr_probe (s : State) : (s.wrErr).probe = s.probe := rfl
@[simp] theorem State.wrErr_loop (s : State) : (s.wrErr).loop = s.loop := rfl
@[simp] theorem State.wrErr_kerf (s : State) : (s.wrErr).kerf = s.kerf := rfl
@[simp] theorem State.wrErr_scaler (s : State) : (s.wrErr).scaler = s.scaler := rfl
@[simp] theorem State.wrErr_comp (s : State) : (s.wrErr).comp = s.comp := rfl
@[simp] theorem State.wrErr_baseline (s : State) : (s.wrErr).baseline = s.baseline := rfl
@[simp] theorem State.wrErr_bkg (s : State) : (s.wrErr).bkg = s.bkg := rfl
@[simp] theorem State.wrErr_cru (s : State) : (s.wrErr).cru = s.cru := rfl
@[simp] theorem State.wrErr_returning (s : State) : (s.wrErr).returning = s.returning := rfl
@[simp] theorem State.wrErr_returnAt (s : State) : (s.wrErr).returnAt = s.returnAt := rfl
@[simp] theorem State.wrErr_lamp (s : State) : (s.wrErr).lamp = s.lamp := rfl
@[simp] theorem State.wrErr_cal (s : State) : (s.wrErr).cal = s.cal := rfl
@[simp] theorem State.wrErr_wedge (s : State) : (s.wrErr).wedge = s.wedge := rfl
@[simp] theorem State.wrErr_mark (s : State) : (s.wrErr).mark = s.mark := rfl
@[simp] theorem State.wrErr_sky (s : State) : (s.wrErr).sky = s.sky := rfl
@[simp] theorem State.wrErr_fio (s : State) : (s.wrErr).fio = s.fio := rfl
@[simp] theorem State.wrErr_clk (s : State) : (s.wrErr).clk = s.clk := rfl
@[simp] theorem State.wrErr_tb (s : State) : (s.wrErr).tb = s.tb := rfl
@[simp] theorem State.wrErr_start (s : State) : (s.wrErr).start = s.start := rfl
@[simp] theorem State.wrErr_sst (s : State) : (s.wrErr).sst = s.sst := rfl
@[simp] theorem State.wrErr_failedAt (s : State) : (s.wrErr).failedAt = s.failedAt := rfl
@[simp] theorem State.wrErr_powerAt (s : State) : (s.wrErr).powerAt = s.powerAt := rfl
@[simp] theorem State.wrErr_firstSlot (s : State) : (s.wrErr).firstSlot = s.firstSlot := rfl
@[simp] theorem State.wrErr_startPosted (s : State) : (s.wrErr).startPosted = s.startPosted := rfl

/-! ### `State.emit` -/

@[simp] theorem State.emit_pending (s : State) (o : Output) : (s.emit o).pending = s.pending := rfl
@[simp] theorem State.emit_regs (s : State) (o : Output) : (s.emit o).regs = s.regs := rfl
@[simp] theorem State.emit_now (s : State) (o : Output) : (s.emit o).now = s.now := rfl
@[simp] theorem State.emit_elapsed (s : State) (o : Output) : (s.emit o).elapsed = s.elapsed := rfl
@[simp] theorem State.emit_freeCount (s : State) (o : Output) : (s.emit o).freeCount = s.freeCount := rfl
@[simp] theorem State.emit_seq (s : State) (o : Output) : (s.emit o).seq = s.seq := rfl
@[simp] theorem State.emit_hif (s : State) (o : Output) : (s.emit o).hif = s.hif := rfl
@[simp] theorem State.emit_flume (s : State) (o : Output) : (s.emit o).flume = s.flume := rfl
@[simp] theorem State.emit_deck (s : State) (o : Output) : (s.emit o).deck = s.deck := rfl
@[simp] theorem State.emit_landing (s : State) (o : Output) : (s.emit o).landing = s.landing := rfl
@[simp] theorem State.emit_presented (s : State) (o : Output) : (s.emit o).presented = s.presented := rfl
@[simp] theorem State.emit_profileBuf (s : State) (o : Output) : (s.emit o).profileBuf = s.profileBuf := rfl
@[simp] theorem State.emit_probe (s : State) (o : Output) : (s.emit o).probe = s.probe := rfl
@[simp] theorem State.emit_loop (s : State) (o : Output) : (s.emit o).loop = s.loop := rfl
@[simp] theorem State.emit_kerf (s : State) (o : Output) : (s.emit o).kerf = s.kerf := rfl
@[simp] theorem State.emit_scaler (s : State) (o : Output) : (s.emit o).scaler = s.scaler := rfl
@[simp] theorem State.emit_comp (s : State) (o : Output) : (s.emit o).comp = s.comp := rfl
@[simp] theorem State.emit_baseline (s : State) (o : Output) : (s.emit o).baseline = s.baseline := rfl
@[simp] theorem State.emit_bkg (s : State) (o : Output) : (s.emit o).bkg = s.bkg := rfl
@[simp] theorem State.emit_cru (s : State) (o : Output) : (s.emit o).cru = s.cru := rfl
@[simp] theorem State.emit_returning (s : State) (o : Output) : (s.emit o).returning = s.returning := rfl
@[simp] theorem State.emit_returnAt (s : State) (o : Output) : (s.emit o).returnAt = s.returnAt := rfl
@[simp] theorem State.emit_lamp (s : State) (o : Output) : (s.emit o).lamp = s.lamp := rfl
@[simp] theorem State.emit_cal (s : State) (o : Output) : (s.emit o).cal = s.cal := rfl
@[simp] theorem State.emit_wedge (s : State) (o : Output) : (s.emit o).wedge = s.wedge := rfl
@[simp] theorem State.emit_mark (s : State) (o : Output) : (s.emit o).mark = s.mark := rfl
@[simp] theorem State.emit_sky (s : State) (o : Output) : (s.emit o).sky = s.sky := rfl
@[simp] theorem State.emit_fio (s : State) (o : Output) : (s.emit o).fio = s.fio := rfl
@[simp] theorem State.emit_clk (s : State) (o : Output) : (s.emit o).clk = s.clk := rfl
@[simp] theorem State.emit_tb (s : State) (o : Output) : (s.emit o).tb = s.tb := rfl
@[simp] theorem State.emit_start (s : State) (o : Output) : (s.emit o).start = s.start := rfl
@[simp] theorem State.emit_sst (s : State) (o : Output) : (s.emit o).sst = s.sst := rfl
@[simp] theorem State.emit_failedAt (s : State) (o : Output) : (s.emit o).failedAt = s.failedAt := rfl
@[simp] theorem State.emit_powerAt (s : State) (o : Output) : (s.emit o).powerAt = s.powerAt := rfl
@[simp] theorem State.emit_firstSlot (s : State) (o : Output) : (s.emit o).firstSlot = s.firstSlot := rfl
@[simp] theorem State.emit_startPosted (s : State) (o : Output) : (s.emit o).startPosted = s.startPosted := rfl

/-! ### `State.tookFree` -/

@[simp] theorem State.tookFree_pending (s : State) : (s.tookFree).pending = s.pending := rfl
@[simp] theorem State.tookFree_regs (s : State) : (s.tookFree).regs = s.regs := rfl
@[simp] theorem State.tookFree_now (s : State) : (s.tookFree).now = s.now := rfl
@[simp] theorem State.tookFree_elapsed (s : State) : (s.tookFree).elapsed = s.elapsed := rfl
@[simp] theorem State.tookFree_out (s : State) : (s.tookFree).out = s.out := rfl
@[simp] theorem State.tookFree_seq (s : State) : (s.tookFree).seq = s.seq := rfl
@[simp] theorem State.tookFree_hif (s : State) : (s.tookFree).hif = s.hif := rfl
@[simp] theorem State.tookFree_flume (s : State) : (s.tookFree).flume = s.flume := rfl
@[simp] theorem State.tookFree_deck (s : State) : (s.tookFree).deck = s.deck := rfl
@[simp] theorem State.tookFree_landing (s : State) : (s.tookFree).landing = s.landing := rfl
@[simp] theorem State.tookFree_presented (s : State) : (s.tookFree).presented = s.presented := rfl
@[simp] theorem State.tookFree_profileBuf (s : State) : (s.tookFree).profileBuf = s.profileBuf := rfl
@[simp] theorem State.tookFree_probe (s : State) : (s.tookFree).probe = s.probe := rfl
@[simp] theorem State.tookFree_loop (s : State) : (s.tookFree).loop = s.loop := rfl
@[simp] theorem State.tookFree_kerf (s : State) : (s.tookFree).kerf = s.kerf := rfl
@[simp] theorem State.tookFree_scaler (s : State) : (s.tookFree).scaler = s.scaler := rfl
@[simp] theorem State.tookFree_comp (s : State) : (s.tookFree).comp = s.comp := rfl
@[simp] theorem State.tookFree_baseline (s : State) : (s.tookFree).baseline = s.baseline := rfl
@[simp] theorem State.tookFree_bkg (s : State) : (s.tookFree).bkg = s.bkg := rfl
@[simp] theorem State.tookFree_cru (s : State) : (s.tookFree).cru = s.cru := rfl
@[simp] theorem State.tookFree_returning (s : State) : (s.tookFree).returning = s.returning := rfl
@[simp] theorem State.tookFree_returnAt (s : State) : (s.tookFree).returnAt = s.returnAt := rfl
@[simp] theorem State.tookFree_lamp (s : State) : (s.tookFree).lamp = s.lamp := rfl
@[simp] theorem State.tookFree_cal (s : State) : (s.tookFree).cal = s.cal := rfl
@[simp] theorem State.tookFree_wedge (s : State) : (s.tookFree).wedge = s.wedge := rfl
@[simp] theorem State.tookFree_mark (s : State) : (s.tookFree).mark = s.mark := rfl
@[simp] theorem State.tookFree_sky (s : State) : (s.tookFree).sky = s.sky := rfl
@[simp] theorem State.tookFree_fio (s : State) : (s.tookFree).fio = s.fio := rfl
@[simp] theorem State.tookFree_clk (s : State) : (s.tookFree).clk = s.clk := rfl
@[simp] theorem State.tookFree_tb (s : State) : (s.tookFree).tb = s.tb := rfl
@[simp] theorem State.tookFree_start (s : State) : (s.tookFree).start = s.start := rfl
@[simp] theorem State.tookFree_sst (s : State) : (s.tookFree).sst = s.sst := rfl
@[simp] theorem State.tookFree_failedAt (s : State) : (s.tookFree).failedAt = s.failedAt := rfl
@[simp] theorem State.tookFree_powerAt (s : State) : (s.tookFree).powerAt = s.powerAt := rfl
@[simp] theorem State.tookFree_firstSlot (s : State) : (s.tookFree).firstSlot = s.firstSlot := rfl
@[simp] theorem State.tookFree_startPosted (s : State) : (s.tookFree).startPosted = s.startPosted := rfl

/-! ### The changed fields -/

@[simp] theorem State.write_regs (s : State) (a : Nat) (w : Word) : (s.write a w).regs = sput resetVal s.regs a w := rfl
@[simp] theorem State.emit_out (s : State) (o : Output) : (s.emit o).out = o :: s.out := rfl
@[simp] theorem State.tookFree_freeCount (s : State) : s.tookFree.freeCount = s.freeCount + 1 := rfl
@[simp] theorem State.emit_read (s : State) (o : Output) (a : Nat) : (s.emit o).read a = s.read a := rfl
@[simp] theorem State.tookFree_read (s : State) (a : Nat) : s.tookFree.read a = s.read a := rfl

end Sys2Proof.Machine
end

