-- ==== Sys2Proof/Laws/Registers.lean ====
section
/-! SUPPORT. Laws of the register file: a read after a write, fields of one register and of different ones, and that every
named operation keeps the register file's canonical form. -/

namespace Sys2Proof.Machine

/-! ### Whole registers -/

/-- A register reads the word just written. -/
theorem State.read_write_same {s : State} (a : Nat) (w : Word) : (s.write a w).read a = w := sget_sput_same

/-- A write leaves every other register as it was. -/
theorem State.read_write_ne (s : State) {a b : Nat} (w : Word) (h : b ≠ a) : (s.write a w).read b = s.read b :=
  sget_sput_ne h

/-- Setting a field leaves every other register as it was. -/
theorem State.read_set_ne (s : State) (f : Field) (v : Nat) {b : Nat} (h : b ≠ f.addr) : (s.set f v).read b = s.read b :=
  State.read_write_ne s _ h

theorem State.wf_write {s : State} (h : s.wf = true) (a : Nat) (w : Word) : (s.write a w).wf = true := swf_sput a w h
theorem State.wf_set {s : State} (h : s.wf = true) (f : Field) (v : Nat) : (s.set f v).wf = true := State.wf_write h _ _
theorem State.wf_setFlag {s : State} (h : s.wf = true) (f : Field) (b : Bool) : (s.setFlag f b).wf = true := State.wf_set h _ _
theorem State.wf_count {s : State} (h : s.wf = true) (f : Field) (n : Nat) : (s.count f n).wf = true := State.wf_set h _ _
theorem State.wf_bump {s : State} (h : s.wf = true) (f : Field) : (s.bump f).wf = true := State.wf_set h _ _
theorem State.wf_wrErr {s : State} (h : s.wf = true) : s.wrErr.wf = true := State.wf_set h _ _
theorem State.wf_emit {s : State} (h : s.wf = true) (o : Output) : (s.emit o).wf = true := h
theorem State.wf_tookFree {s : State} (h : s.wf = true) : s.tookFree.wf = true := h

/-- A list of actions that each keep the canonical form keeps it. -/
theorem State.wf_each {α : Type} {f : State → α → State} (hf : ∀ s a, s.wf = true → (f s a).wf = true) (l : List α) :
    ∀ {s : State}, s.wf = true → (s.each l f).wf = true := by
  induction l with
  | nil => intro s h; exact h
  | cons a t ih => intro s h; exact ih (hf s a h)

theorem State.wf_clearAll {s : State} (h : s.wf = true) (fs : List Field) : (s.clearAll fs).wf = true :=
  State.wf_each (fun _ f h => State.wf_set h f 0) fs h

/-! ### Fields -/

/-- The bits of a number with a field of width `k` at `lo` replaced. -/
theorem testBit_replace (n v lo k i : Nat) :
    (n - n / 2 ^ lo % 2 ^ k * 2 ^ lo + v % 2 ^ k * 2 ^ lo).testBit i
      = if lo ≤ i ∧ i < lo + k then v.testBit (i - lo) else n.testBit i := by
  have split : ∀ x q r : Nat, x < 2 ^ k → r < 2 ^ lo →
      (2 ^ lo * (2 ^ k * q + x) + r).testBit i
        = if i < lo then r.testBit i else if i - lo < k then x.testBit (i - lo) else q.testBit (i - lo - k) := by
    intro x q r hx hr
    rw [Nat.testBit_two_pow_mul_add _ hr, Nat.testBit_two_pow_mul_add _ hx]
  have hn : n = 2 ^ lo * (2 ^ k * (n / 2 ^ lo / 2 ^ k) + n / 2 ^ lo % 2 ^ k) + n % 2 ^ lo := by
    rw [Nat.div_add_mod, Nat.div_add_mod]
  have hx : n / 2 ^ lo % 2 ^ k < 2 ^ k := Nat.mod_lt _ (Nat.two_pow_pos k)
  have hv : v % 2 ^ k < 2 ^ k := Nat.mod_lt _ (Nat.two_pow_pos k)
  have hr : n % 2 ^ lo < 2 ^ lo := Nat.mod_lt _ (Nat.two_pow_pos lo)
  have hnew : n - n / 2 ^ lo % 2 ^ k * 2 ^ lo + v % 2 ^ k * 2 ^ lo
      = 2 ^ lo * (2 ^ k * (n / 2 ^ lo / 2 ^ k) + v % 2 ^ k) + n % 2 ^ lo := by
    have e1 : n / 2 ^ lo % 2 ^ k * 2 ^ lo = 2 ^ lo * (n / 2 ^ lo % 2 ^ k) := Nat.mul_comm _ _
    have e2 : v % 2 ^ k * 2 ^ lo = 2 ^ lo * (v % 2 ^ k) := Nat.mul_comm _ _
    have e3 := hn
    rw [Nat.mul_add] at e3 ⊢
    rw [e1, e2]
    omega
  rw [hnew, split _ _ _ hv hr]
  conv => rhs; rw [hn, split _ _ _ hx hr]
  by_cases h1 : i < lo
  · simp [h1, Nat.not_le.mpr h1]
  · by_cases h2 : i - lo < k
    · have h3 : lo ≤ i ∧ i < lo + k := by omega
      simp [h1, h2, h3, Nat.testBit_mod_two_pow]
    · have h3 : ¬ (lo ≤ i ∧ i < lo + k) := by omega
      simp [h1, h2, h3]

/-- A field that lies in a 32-bit register. -/
def Field.ok (f : Field) : Bool := decide (f.lo ≤ f.hi) && decide (f.hi < 32) && decide (f.addr % 4 = 0)

theorem testBit_setBits (w : Word) (f : Field) (v i : Nat) (hi : i < 32) :
    (setBits w f v).toNat.testBit i
      = if f.lo ≤ i ∧ i < f.lo + f.width then v.testBit (i - f.lo) else w.toNat.testBit i := by
  have hb : bits w.toNat f.hi f.lo = w.toNat / 2 ^ f.lo % 2 ^ f.width := rfl
  rw [setBits, hb, BitVec.toNat_ofNat, Nat.testBit_mod_two_pow, testBit_replace]
  simp [hi]

theorem testBit_bits (n hi lo i : Nat) : (bits n hi lo).testBit i = (decide (i < hi - lo + 1) && n.testBit (lo + i)) := by
  rw [bits, Nat.testBit_mod_two_pow, Nat.testBit_div_two_pow, Nat.add_comm i lo]

/-- A field reads the value just set, of which its width is kept. -/
theorem State.get_set_same {s : State} (h : s.wf = true) {f : Field} (hf : f.ok = true) (v : Nat) :
    (s.set f v).get f = v % 2 ^ f.width := by
  simp only [Field.ok, Bool.and_eq_true, decide_eq_true_eq] at hf
  rw [State.get, State.set, State.read_write_same]
  apply Nat.eq_of_testBit_eq
  intro i
  rw [testBit_bits, Nat.testBit_mod_two_pow]
  by_cases hi : i < f.hi - f.lo + 1
  · have h32 : f.lo + i < 32 := by omega
    rw [testBit_setBits _ _ _ _ h32]
    have hin : f.lo ≤ f.lo + i ∧ f.lo + i < f.lo + f.width := by unfold Field.width; omega
    have hw : i < f.width := hi
    simp [hin, hi, hw, Nat.add_sub_cancel_left]
  · have hw : ¬ i < f.width := hi
    simp [hi, hw]

/-- Setting a field leaves a field of another register as it was. -/
theorem State.get_set_ne (s : State) {f g : Field} (v : Nat) (h : g.addr ≠ f.addr) : (s.set f v).get g = s.get g := by
  rw [State.get, State.get, State.read_set_ne s f v h]

/-- Setting a field leaves a field of the same register that shares no bit with it as it was. -/
theorem State.get_set_apart {s : State} (h : s.wf = true) {f g : Field} (hg : g.ok = true) (v : Nat)
    (hd : g.hi < f.lo ∨ f.hi < g.lo) (hl : f.lo ≤ f.hi) : (s.set f v).get g = s.get g := by
  by_cases ha : g.addr = f.addr
  · simp only [Field.ok, Bool.and_eq_true, decide_eq_true_eq] at hg
    rw [State.get, State.get, State.set, ha, State.read_write_same]
    apply Nat.eq_of_testBit_eq
    intro i
    rw [testBit_bits, testBit_bits]
    by_cases hi : i < g.hi - g.lo + 1
    · have h32 : g.lo + i < 32 := by omega
      rw [testBit_setBits _ _ _ _ h32]
      have hout : ¬ (f.lo ≤ g.lo + i ∧ g.lo + i < f.lo + f.width) := by unfold Field.width; omega
      simp [hout]
    · simp [hi]
  · exact State.get_set_ne s v ha

/-- A field is never above its largest value. -/
theorem State.get_le (s : State) (f : Field) : s.get f ≤ f.max := by
  unfold State.get bits Field.max Field.width
  have := Nat.mod_lt ((s.read f.addr).toNat / 2 ^ f.lo) (Nat.two_pow_pos (f.hi - f.lo + 1))
  omega

/-- A count field goes up by the number counted and stays at its largest value. -/
theorem State.get_count_same {s : State} (h : s.wf = true) {f : Field} (hf : f.ok = true) (n : Nat) :
    (s.count f n).get f = min f.max (s.get f + n) := by
  have hp : 0 < 2 ^ f.width := Nat.two_pow_pos _
  rw [State.count, State.get_set_same h hf]
  unfold satTo
  have hm : f.max = 2 ^ f.width - 1 := rfl
  by_cases hc : s.get f + n ≤ f.max
  · rw [if_pos hc, Nat.mod_eq_of_lt (by omega)]; omega
  · rw [if_neg hc, Nat.mod_eq_of_lt (by omega)]; omega

/-- A count field goes up by one and stays at its largest value (R8). -/
theorem State.get_bump_same {s : State} (h : s.wf = true) {f : Field} (hf : f.ok = true) :
    (s.bump f).get f = min f.max (s.get f + 1) := State.get_count_same h hf 1

end Sys2Proof.Machine
end

