-- ==== Sys2Proof/Laws/Post.lean ====
section
/-! SUPPORT. What posting an event record and delivering a record leave as they were: every register but those of the event
rings, of Flume's streams, of the contexts that compress them and of the archive, and every other part of the state. -/

namespace Sys2Proof.Machine

/-! ### Frames -/

theorem Frame.refl (l : List Nat) (s : State) : Frame l s s := ⟨rfl, fun _ _ _ => rfl⟩

/-- A change that no part of a frame sees. -/
theorem Frame.change {l : List Nat} {o s t : State} (h : Frame l o s) (hr : t.regs = s.regs) (ha : t.aside o = s.aside o) :
    Frame l o t :=
  ⟨ha.trans h.1, fun a h1 h2 => by rw [← h.2 a h1 h2]; unfold State.read; rw [hr]⟩

theorem Frame.write {l : List Nat} {o s : State} {a : Nat} {w : Word} (h : Frame l o s)
    (ha : a ∈ l ∨ deliveryReg a = true) : Frame l o (s.write a w) := by
  refine ⟨h.1, fun b h1 h2 => ?_⟩
  rw [← h.2 b h1 h2]
  refine sget_sput_ne fun he => ?_
  subst he
  rcases ha with ha | ha
  · exact h1 ha
  · rw [ha] at h2; cases h2

theorem Frame.set {l : List Nat} {o s : State} {f : Field} {v : Nat} (h : Frame l o s)
    (ha : f.addr ∈ l ∨ deliveryReg f.addr = true) : Frame l o (s.set f v) := h.write ha

theorem Frame.setFlag {l : List Nat} {o s : State} {f : Field} {b : Bool} (h : Frame l o s)
    (ha : f.addr ∈ l ∨ deliveryReg f.addr = true) : Frame l o (s.setFlag f b) := h.write ha

theorem Frame.count {l : List Nat} {o s : State} {f : Field} {n : Nat} (h : Frame l o s)
    (ha : f.addr ∈ l ∨ deliveryReg f.addr = true) : Frame l o (s.count f n) := h.write ha

theorem Frame.bump {l : List Nat} {o s : State} {f : Field} (h : Frame l o s)
    (ha : f.addr ∈ l ∨ deliveryReg f.addr = true) : Frame l o (s.bump f) := h.write ha

theorem Frame.emit {l : List Nat} {o s : State} {x : Output} (h : Frame l o s) : Frame l o (s.emit x) := h.change rfl rfl

theorem Frame.setEvrRing {l : List Nat} {o s : State} {n : Nat} {r : EvrRing} (h : Frame l o s) :
    Frame l o (s.setEvrRing n r) := h.change rfl rfl

theorem Frame.fold {α : Type} {l : List Nat} {o s : State} {xs : List α} {f : State → α → State} (h : Frame l o s)
    (hf : ∀ s a, a ∈ xs → Frame l o s → Frame l o (f s a)) : Frame l o (xs.foldl f s) := by
  induction xs generalizing s with
  | nil => exact h
  | cons a t ih => exact ih (hf s a (by simp) h) fun s b hb => hf s b (by simp [hb])

theorem Frame.foldFst {α β : Type} {l : List Nat} {o : State} {s : State × β} {xs : List α} {f : State × β → α → State × β}
    (h : Frame l o s.1) (hf : ∀ s a, a ∈ xs → Frame l o s.1 → Frame l o (f s a).1) : Frame l o (xs.foldl f s).1 := by
  induction xs generalizing s with
  | nil => exact h
  | cons a t ih => exact ih (hf s a (by simp) h) fun s b hb => hf s b (by simp [hb])

theorem Frame.keepLet {l : List Nat} {o : State} (x : State) {P : Prop} (hx : Frame l o x) (h : Frame l o x → P) : P := h hx

theorem Frame.ite {p : Prop} [Decidable p] {l : List Nat} {o x y : State} (h1 : Frame l o x) (h2 : Frame l o y) :
    Frame l o (if p then x else y) := by
  split
  · exact h1
  · exact h2

theorem Frame.iteFst {p : Prop} [Decidable p] {β : Type} {l : List Nat} {o : State} {x y : State × β} (h1 : Frame l o x.1)
    (h2 : Frame l o y.1) : Frame l o (if p then x else y).1 := by
  split
  · exact h1
  · exact h2

/-! ### The event rings -/

theorem delivery_evr {n k : Nat} (hn : n < 16) (hk : k < 0x40) : deliveryReg (R.HIF_EVRn_BASE_LO n + k) = true := by
  have h1 : R.HIF_EVRn_BASE_LO 0 ≤ R.HIF_EVRn_BASE_LO n + k := by unfold R.HIF_EVRn_BASE_LO; omega
  have h2 : R.HIF_EVRn_BASE_LO n + k < R.HIF_EVRn_BASE_LO 16 := by unfold R.HIF_EVRn_BASE_LO; omega
  simp only [deliveryReg, h1, h2, decide_true, Bool.true_and, Bool.or_true, Bool.true_or]

theorem delivery_flm {n k : Nat} (hn : n < 16) (hk : k < 0x20) : deliveryReg (R.FLM_Sn_STAT n + k) = true := by
  have h1 : R.FLM_Sn_STAT 0 ≤ R.FLM_Sn_STAT n + k := by unfold R.FLM_Sn_STAT; omega
  have h2 : R.FLM_Sn_STAT n + k < R.FLM_Sn_STAT 16 := by unfold R.FLM_Sn_STAT; omega
  simp only [deliveryReg, h1, h2, decide_true, Bool.true_and, Bool.or_true, Bool.true_or]

theorem delivery_arc {k : Nat} (hk : k < 8) : deliveryReg (R.LND_ARCk_STAT k) = true := by
  have h1 : R.LND_ARCk_STAT 0 ≤ R.LND_ARCk_STAT k := by unfold R.LND_ARCk_STAT; omega
  have h2 : R.LND_ARCk_STAT k < R.LND_ARCk_STAT 8 := by unfold R.LND_ARCk_STAT; omega
  simp only [deliveryReg, h1, h2, decide_true, Bool.true_and, Bool.or_true]

theorem evr_cnt {n : Nat} (hn : n < 16) : deliveryReg (F.HIF_EVRn_CNT.LOST n).addr = true := by
  have h : (F.HIF_EVRn_CNT.LOST n).addr = R.HIF_EVRn_BASE_LO n + 0x24 := by
    show R.HIF_EVRn_CNT n = _; unfold R.HIF_EVRn_CNT R.HIF_EVRn_BASE_LO; omega
  rw [h]; exact delivery_evr hn (by decide)

theorem dl_prod {n : Nat} (hn : n < 16) : deliveryReg (ringProd .evr n).addr = true := delivery_evr hn (by decide)
theorem dl_state {n : Nat} (hn : n < 16) : deliveryReg (ringState .evr n).addr = true := delivery_evr hn (by decide)
theorem arc_thinned {n : Nat} (hn : n < 8) : deliveryReg (F.LND_ARCk_STAT.THINNED n).addr = true := delivery_arc hn

theorem Frame.archive {l : List Nat} {o s : State} {a : List LndRec} {w : List (Nat × Nat)} (h : Frame l o s) :
    Frame l o { s with landing := { s.landing with archive := a, written := w } } := h.change rfl rfl

theorem Frame.thinDue {l : List Nat} {o s : State} {d : List (Nat × Bool)} (h : Frame l o s) :
    Frame l o { s with landing := { s.landing with thinDue := d } } := h.change rfl rfl

theorem dl_chip {k : Nat} : deliveryReg (chipMode k).addr = true :=
  (by decide : deliveryReg R.CHP_STAT = true)

theorem flm_thinned {n : Nat} (hn : n < 16) : deliveryReg (F.FLM_Sn_THINNED.RECORDS n).addr = true := by
  have h : (F.FLM_Sn_THINNED.RECORDS n).addr = R.FLM_Sn_STAT n + 0x8 := by
    show R.FLM_Sn_THINNED n = _; unfold R.FLM_Sn_THINNED R.FLM_Sn_STAT; omega
  rw [h]; exact delivery_flm hn (by decide)

theorem flm_drop {n : Nat} (hn : n < 16) : deliveryReg (F.FLM_Sn_DROP_CNT.RECORDS n).addr = true := by
  have h : (F.FLM_Sn_DROP_CNT.RECORDS n).addr = R.FLM_Sn_STAT n + 0xC := by
    show R.FLM_Sn_DROP_CNT n = _; unfold R.FLM_Sn_DROP_CNT R.FLM_Sn_STAT; omega
  rw [h]; exact delivery_flm hn (by decide)

theorem msix_frame {l : List Nat} {org s : State} {v : Nat} (h : Frame l org s) :
    Frame l org (s.msix v) := by
  unfold State.msix
  repeat' (first
    | with_reducible assumption
    | with_reducible refine Frame.set (f := F.HIF_MSIX_PBA.PENDING) ?_ (Or.inr (rfl : deliveryReg F.HIF_MSIX_PBA.PENDING.addr = true))
    | with_reducible refine Frame.emit ?_
    | split
    | dsimp -zeta only)

theorem hifEvt_frame {l : List Nat} {org s : State} {f : Field} (hf : deliveryReg f.addr = true) (h : Frame l org s) :
    Frame l org (s.hifEvt f) := by
  unfold State.hifEvt
  repeat' (first
    | with_reducible assumption
    | ((try lift_lets -underBinder); intro x; first | (with_reducible refine Frame.keepLet (l := l) (o := org) x ?_ ?_; rotate_left; intro hx; clear_value x; rotate_right; subst x) | clear_value x)
    | with_reducible refine Frame.set (f := f) ?_ (Or.inr hf)
    | with_reducible refine msix_frame ?_
    | split
    | dsimp -zeta only)

theorem writeEntry_frame {l : List Nat} {org s : State} {n : Nat} {bytes : List Byte} (hn : n < 16) (h : Frame l org s) :
    Frame l org (writeEntry s .evr n bytes) := by
  unfold writeEntry
  repeat' (first
    | with_reducible assumption
    | ((try lift_lets -underBinder); intro x; first | (with_reducible refine Frame.keepLet (l := l) (o := org) x ?_ ?_; rotate_left; intro hx; clear_value x; rotate_right; subst x) | clear_value x)
    | with_reducible refine Frame.set (f := ringProd .evr n) ?_ (Or.inr (dl_prod hn))
    | with_reducible refine Frame.emit ?_
    | split
    | dsimp -zeta only)

theorem evrInterrupt_frame {l : List Nat} {org s : State} {n : Nat} (h : Frame l org s) :
    Frame l org (evrInterrupt s n) := by
  unfold evrInterrupt
  repeat' (first
    | with_reducible assumption
    | ((try lift_lets -underBinder); intro x; first | (with_reducible refine Frame.keepLet (l := l) (o := org) x ?_ ?_; rotate_left; intro hx; clear_value x; rotate_right; subst x) | clear_value x)
    | with_reducible refine Frame.setEvrRing ?_
    | with_reducible refine msix_frame ?_
    | split
    | dsimp -zeta only)

theorem evrLose_frame {l : List Nat} {org s : State} {n : Nat} {r : EventRec} (hn : n < 16) (h : Frame l org s) :
    Frame l org (evrLose s n r) := by
  unfold evrLose
  repeat' (first
    | with_reducible assumption
    | ((try lift_lets -underBinder); intro x; first | (with_reducible refine Frame.keepLet (l := l) (o := org) x ?_ ?_; rotate_left; intro hx; clear_value x; rotate_right; subst x) | clear_value x)
    | with_reducible refine Frame.bump (f := F.HIF_EVRn_CNT.LOST n) ?_ (Or.inr (evr_cnt hn))
    | with_reducible refine Frame.setEvrRing ?_
    | with_reducible refine hifEvt_frame rfl ?_
    | split
    | dsimp -zeta only)

theorem evrRefresh_frame {l : List Nat} {org s : State} {n : Nat} (hn : n < 16) (h : Frame l org s) :
    Frame l org (evrRefresh s n) := by
  unfold evrRefresh
  repeat' (first
    | with_reducible assumption
    | with_reducible refine Frame.set (f := ringState .evr n) ?_ (Or.inr (dl_state hn))
    | split
    | dsimp -zeta only)

theorem evrWrite_frame {l : List Nat} {org s : State} {n : Nat} {r : EventRec} (hn : n < 16) (h : Frame l org s) :
    Frame l org (evrWrite s n r) := by
  unfold evrWrite
  repeat' (first
    | with_reducible assumption
    | ((try lift_lets -underBinder); intro x; first | (with_reducible refine Frame.keepLet (l := l) (o := org) x ?_ ?_; rotate_left; intro hx; clear_value x; rotate_right; subst x) | clear_value x)
    | with_reducible refine Frame.setEvrRing ?_
    | with_reducible refine writeEntry_frame hn ?_
    | with_reducible refine evrInterrupt_frame ?_
    | with_reducible refine evrRefresh_frame hn ?_
    | split
    | dsimp -zeta only)

theorem lossReport_frame {l : List Nat} {org s : State} {n : Nat} (hn : n < 16) (h : Frame l org s) :
    Frame l org (lossReport s n) := by
  unfold lossReport
  repeat' (first
    | with_reducible assumption
    | ((try lift_lets -underBinder); intro x; first | (with_reducible refine Frame.keepLet (l := l) (o := org) x ?_ ?_; rotate_left; intro hx; clear_value x; rotate_right; subst x) | clear_value x)
    | with_reducible refine Frame.emit ?_
    | with_reducible refine Frame.setEvrRing ?_
    | with_reducible refine evrWrite_frame hn ?_
    | with_reducible refine Frame.fold ?_ (fun s1 a1 m1 h1 => ?_)
    | split
    | dsimp -zeta only)

theorem evrOffer_frame {l : List Nat} {org s : State} {n : Nat} {r : EventRec} (hn : n < 16) (h : Frame l org s) :
    Frame l org (evrOffer s r n) := by
  unfold evrOffer
  repeat' (first
    | with_reducible assumption
    | ((try lift_lets -underBinder); intro x; first | (with_reducible refine Frame.keepLet (l := l) (o := org) x ?_ ?_; rotate_left; intro hx; clear_value x; rotate_right; subst x) | clear_value x)
    | with_reducible refine evrLose_frame hn ?_
    | with_reducible refine evrWrite_frame hn ?_
    | with_reducible refine lossReport_frame hn ?_
    | split
    | dsimp -zeta only)

theorem setFstream_frame {l : List Nat} {org s : State} {n : Nat} {q : FStream} (h : Frame l org s) :
    Frame l org (s.setFstream n q) := by
  unfold State.setFstream
  refine Frame.set (Frame.set ?_ (Or.inr rfl)) (Or.inr rfl)
  exact h.change rfl rfl

theorem setChipCtx_frame {l : List Nat} {org s : State} {k : Nat} {c : ChipCtx} (h : Frame l org s) :
    Frame l org (s.setChipCtx k c) := h.change rfl rfl

theorem closeBlock_frame {l : List Nat} {org s : State} {n : Nat} (h : Frame l org s) :
    Frame l org (closeBlock s n) := by
  unfold closeBlock
  repeat' (first
    | with_reducible assumption
    | ((try lift_lets -underBinder); intro x; first | (with_reducible refine Frame.keepLet (l := l) (o := org) x ?_ ?_; rotate_left; intro hx; clear_value x; rotate_right; subst x) | clear_value x)
    | with_reducible refine Frame.set (f := chipMode _) ?_ (Or.inr dl_chip)
    | with_reducible refine Frame.set (f := F.CHP_STORED_CNT.BLOCKS) ?_ (Or.inr (rfl : deliveryReg F.CHP_STORED_CNT.BLOCKS.addr = true))
    | with_reducible refine Frame.bump (f := chipMode _) ?_ (Or.inr dl_chip)
    | with_reducible refine Frame.bump (f := F.CHP_STORED_CNT.BLOCKS) ?_ (Or.inr (rfl : deliveryReg F.CHP_STORED_CNT.BLOCKS.addr = true))
    | with_reducible refine setFstream_frame ?_
    | with_reducible refine setChipCtx_frame ?_
    | split
    | dsimp -zeta only)

theorem pushBytes_frame {l : List Nat} {org : State} {fuel : Nat} {s : State} {n : Nat} {bytes : List Byte} {index : Nat}
    {mk : Bool} (h : Frame l org s) : Frame l org (pushBytes fuel s n bytes index mk) := by
  induction fuel generalizing s bytes with
  | zero => exact h
  | succ k ih =>
    unfold pushBytes
    repeat' (first
      | with_reducible assumption
      | with_reducible apply ih
      | ((try lift_lets -underBinder); intro x; first | (with_reducible refine Frame.keepLet (l := l) (o := org) x ?_ ?_; rotate_left; intro hx; clear_value x; rotate_right; subst x) | clear_value x)
      | with_reducible refine setFstream_frame ?_
      | with_reducible refine closeBlock_frame ?_
      | split)

theorem pushRecord_frame {l : List Nat} {org s : State} {n : Nat} {bytes : List Byte} {index : Nat} {mk : Bool} (h : Frame l org s) :
    Frame l org (pushRecord s n bytes index mk) := by
  unfold pushRecord
  repeat' (first
    | with_reducible assumption
    | with_reducible refine pushBytes_frame ?_
    | split
    | dsimp -zeta only)

theorem pushMarker_frame {l : List Nat} {org s : State} {n : Nat} {bytes : List Byte} {fresh : Bool} (h : Frame l org s) :
    Frame l org (pushMarker s n bytes fresh) := by
  unfold pushMarker
  repeat' (first
    | with_reducible assumption
    | ((try lift_lets -underBinder); intro x; first | (with_reducible refine Frame.keepLet (l := l) (o := org) x ?_ ?_; rotate_left; intro hx; clear_value x; rotate_right; subst x) | clear_value x)
    | with_reducible refine setFstream_frame ?_
    | with_reducible refine closeBlock_frame ?_
    | with_reducible refine pushRecord_frame ?_
    | split
    | dsimp -zeta only)

theorem streamOffer_frame {l : List Nat} {org s : State} {n : Nat} {bytes : List Byte} {index : Nat} {always : Bool} (hn : n < 16) (h : Frame l org s) :
    Frame l org ((streamOffer s n bytes index always).1) := by
  unfold streamOffer
  repeat' (first
    | with_reducible assumption
    | ((try lift_lets -underBinder); intro x; first | (with_reducible refine Frame.keepLet (l := l) (o := org) x ?_ ?_; rotate_left; intro hx; clear_value x; rotate_right; subst x) | clear_value x)
    | with_reducible refine Frame.set (f := F.FLM_Sn_THINNED.RECORDS n) ?_ (Or.inr (flm_thinned hn))
    | with_reducible refine Frame.set (f := F.FLM_Sn_DROP_CNT.RECORDS n) ?_ (Or.inr (flm_drop hn))
    | with_reducible refine Frame.set (f := F.FLM_EVT.DROP) ?_ (Or.inr (rfl : deliveryReg F.FLM_EVT.DROP.addr = true))
    | with_reducible refine Frame.bump (f := F.FLM_Sn_THINNED.RECORDS n) ?_ (Or.inr (flm_thinned hn))
    | with_reducible refine Frame.bump (f := F.FLM_Sn_DROP_CNT.RECORDS n) ?_ (Or.inr (flm_drop hn))
    | with_reducible refine Frame.bump (f := F.FLM_EVT.DROP) ?_ (Or.inr (rfl : deliveryReg F.FLM_EVT.DROP.addr = true))
    | with_reducible refine setFstream_frame ?_
    | with_reducible refine pushRecord_frame ?_
    | with_reducible refine pushMarker_frame ?_
    | split
    | dsimp -zeta only)

theorem arcOldest_frame {l : List Nat} {org s : State}  (h : Frame l org s) :
    Frame l org (arcOldest s) := by
  unfold arcOldest
  repeat' (first
    | with_reducible assumption
    | with_reducible refine Frame.set (f := F.LND_ARC_OLD_LO.TIME) ?_ (Or.inr (rfl : deliveryReg F.LND_ARC_OLD_LO.TIME.addr = true))
    | split
    | dsimp -zeta only)

theorem archivePut_frame {l : List Nat} {org s : State} {bytes : List Byte} {time : Nat} (h : Frame l org s) :
    Frame l org (archivePut s bytes time) := arcOldest_frame h.archive

theorem archiveOffer_frame {l : List Nat} {org s : State} {src idx : Nat} {bytes : List Byte} {index time : Nat}
    {always : Bool} {cls n : Nat} (hn : n < 8) (h : Frame l org s) :
    Frame l org (archiveOffer s src idx bytes index time always cls n) := by
  unfold archiveOffer
  dsimp only
  refine Frame.ite h (Frame.ite (h.bump (Or.inr (arc_thinned hn))) (archivePut_frame ?_))
  exact Frame.ite (archivePut_frame h.thinDue) h

theorem archiveAll_frame {l : List Nat} {org s : State} {src idx : Nat} {bytes : List Byte} {index time : Nat} {always : Bool}
    {cls : Nat} (h : Frame l org s) : Frame l org (archiveAll s src idx bytes index time always cls) :=
  h.fold fun _ _ hk h => archiveOffer_frame (List.mem_range.mp hk) h

theorem streamAll_frame {l : List Nat} {org s : State} {src idx : Nat} {bytes : List Byte} {index : Nat} {always : Bool}
    {cls : Nat} (h : Frame l org s) : Frame l org (streamAll s src idx bytes index always cls).1 := by
  refine Frame.foldFst h fun a n hn h => ?_
  exact Frame.iteFst (streamOffer_frame (List.mem_range.mp hn) h) h

/-! ### Posting (R146, R311) -/

theorem postList_frame {l : List Nat} {org s : State} {fuel : Nat} {q : List EventReq} (h : Frame l org s) :
    Frame l org (postList fuel s q) := by
  induction fuel generalizing s q with
  | zero => cases q <;> exact h
  | succ k ih =>
    cases q with
    | nil => exact h
    | cons a t =>
      rw [postList]
      refine ih (archiveAll_frame (streamAll_frame (Frame.fold ?_ fun s n hn h => evrOffer_frame (List.mem_range.mp hn) h)))
      exact h.change rfl rfl

theorem postAll_frame {l : List Nat} {org s : State} {q : List EventReq} (h : Frame l org s) : Frame l org (s.postAll q) :=
  postList_frame h

theorem post_frame {l : List Nat} {org s : State} {q : EventReq} (h : Frame l org s) : Frame l org (s.post q) :=
  postList_frame h

/-- An event record changes nothing but what its delivery changes. -/
theorem event_frame {l : List Nat} {org s : State} {cls : Nat} {state : Bool} {payload : List Byte} (h : Frame l org s) :
    Frame l org (s.event cls state payload) := postList_frame h

theorem deliver_frame {l : List Nat} {org s : State} {src idx : Nat} {bytes : List Byte} {index time : Nat} {always : Bool}
    (h : Frame l org s) : Frame l org (deliver s src idx bytes index time always) := by
  unfold deliver
  refine postAll_frame ?_
  exact Frame.ite (archiveAll_frame (streamAll_frame h)) (streamAll_frame h)

end Sys2Proof.Machine
end

