-- ==== Sys2Proof/Laws/Down.lean ====
section
/-! SUPPORT. What a completion and a record on its way to its consumers leave as they were: every register below those of the host
interface, or below those of Scaler where Scaler and Cruiser take part, and every other part of the state. -/

namespace Sys2Proof.Machine

/-- The registers that a completion leaves: those below the host interface, and where Scaler and Cruiser take part those of other
blocks than theirs. -/
def Low (kd : Bool) (a : Nat) : Prop := a < 0xD0000 ∧ (kd = true → a / 0x10000 ≠ 4 ∧ a / 0x10000 ≠ 6)

/-- An address that is not of those. -/
abbrev Off (kd : Bool) (a : Nat) : Prop := 0xD0000 ≤ a ∨ (kd = true ∧ (a / 0x10000 = 4 ∨ a / 0x10000 = 6))

theorem Off.ne {kd : Bool} {a b : Nat} (ha : Off kd a) (hb : Low kd b) : b ≠ a := by
  rintro rfl
  rcases ha with h | ⟨h, g⟩
  · exact absurd hb.1 (by omega)
  · exact g.elim (hb.2 h).1 (hb.2 h).2

/-- `s` came from `org` with no register of those changed, and of the rest only outputs, posted records, the host interface,
Flume's queues, Landing and, where `kd` says so, Scaler, Cruiser and the profile buffers. -/
def Down (kd : Bool) (org s : State) : Prop :=
  (∀ a, Low kd a → s.read a = org.read a) ∧ s.upstream org = org
    ∧ (kd = false → s.scaler = org.scaler ∧ s.cru = org.cru ∧ s.profileBuf = org.profileBuf)

theorem Down.refl (kd : Bool) (s : State) : Down kd s s := ⟨fun _ _ => rfl, rfl, fun _ => ⟨rfl, rfl, rfl⟩⟩

/-- A change that no part of `Down` sees. -/
theorem Down.change {kd : Bool} {org s t : State} (h : Down kd org s) (hr : t.regs = s.regs)
    (ha : t.upstream s = s) (hk : kd = false → t.scaler = s.scaler ∧ t.cru = s.cru ∧ t.profileBuf = s.profileBuf) :
    Down kd org t := by
  refine ⟨fun a hl => by rw [← h.1 a hl]; unfold State.read; rw [hr], ?_, fun h0 => ?_⟩
  · have e : t.upstream org = (t.upstream s).upstream org := rfl
    rw [e, ha]; exact h.2.1
  · obtain ⟨h1, h2, h3⟩ := h.2.2 h0
    obtain ⟨g1, g2, g3⟩ := hk h0
    exact ⟨g1.trans h1, g2.trans h2, g3.trans h3⟩

theorem Down.write {kd : Bool} {org s : State} {a : Nat} {w : Word} (h : Down kd org s) (ha : Off kd a) :
    Down kd org (s.write a w) :=
  ⟨fun b hb => by rw [State.read_write_ne s w (ha.ne hb), h.1 b hb], h.2⟩

theorem Down.set {kd : Bool} {org s : State} {f : Field} {v : Nat} (h : Down kd org s) (ha : Off kd f.addr) :
    Down kd org (s.set f v) := h.write ha
theorem Down.setFlag {kd : Bool} {org s : State} {f : Field} {b : Bool} (h : Down kd org s) (ha : Off kd f.addr) :
    Down kd org (s.setFlag f b) := h.write ha
theorem Down.bump {kd : Bool} {org s : State} {f : Field} (h : Down kd org s) (ha : Off kd f.addr) :
    Down kd org (s.bump f) := h.write ha
theorem Down.count {kd : Bool} {org s : State} {f : Field} {n : Nat} (h : Down kd org s) (ha : Off kd f.addr) :
    Down kd org (s.count f n) := h.write ha
theorem Down.emit {kd : Bool} {org s : State} {x : Output} (h : Down kd org s) : Down kd org (s.emit x) := h

theorem Down.keepLet {kd : Bool} {org : State} (x : State) {P : Prop} (hx : Down kd org x) (h : Down kd org x → P) :
    P := h hx
theorem Down.keepFst {kd : Bool} {org : State} {β : Type} (x : State × β) {P : Prop} (hx : Down kd org x.1)
    (h : Down kd org x.1 → P) : P := h hx

theorem Down.fold {α : Type} {kd : Bool} {org s : State} {l : List α} {f : State → α → State}
    (h : Down kd org s) (hf : ∀ s a, a ∈ l → Down kd org s → Down kd org (f s a)) :
    Down kd org (l.foldl f s) := by
  induction l generalizing s with
  | nil => exact h
  | cons a t ih => exact ih (hf s a (by simp) h) fun s b hb => hf s b (by simp [hb])

theorem Down.foldFst {α β : Type} {kd : Bool} {org : State} {s : State × β} {l : List α}
    {f : State × β → α → State × β} (h : Down kd org s.1)
    (hf : ∀ s a, a ∈ l → Down kd org s.1 → Down kd org (f s a).1) : Down kd org (l.foldl f s).1 := by
  induction l generalizing s with
  | nil => exact h
  | cons a t ih => exact ih (hf s a (by simp) h) fun s b hb => hf s b (by simp [hb])

theorem le_ring (k : RingKind) (n : Nat) : 0xD0000 ≤ ringBase k n := by
  cases k <;> (unfold ringBase; simp only [R.HIF_CMDn_BASE_LO, R.HIF_CPLn_BASE_LO, R.HIF_EVRn_BASE_LO, R.HIF_CAPn_BASE_LO]; omega)

theorem down_frame {kd : Bool} {org s t : State} (hf : Frame [] s t) (h : Down kd org s) :
    Down kd org t := by
  have hd : ∀ a, Low kd a → deliveryReg a = false := by
    intro a ha
    have h1 : a < 0xD0000 := ha.1
    unfold deliveryReg R.HIF_EVT R.HIF_MSIX_PBA R.HIF_EVRn_BASE_LO R.FLM_EVT R.FLM_Pp_STAT R.FLM_Sn_STAT R.CHP_STAT
      R.CHP_STORED_CNT R.LND_ARC_OLD_LO R.LND_ARCk_STAT
    simp only [Bool.or_eq_false_iff, Bool.and_eq_false_iff, decide_eq_false_iff_not, beq_eq_false_iff_ne, ne_eq]
    omega
  have e : ∀ {α : Type} (g : State → α), (∀ x y : State, g (x.aside y) = g x) → g t = g s := fun g hg => by
    rw [← hg t s, hf.1]
  refine ⟨fun a ha => (hf.2 a (by simp) (hd a ha)).trans (h.1 a ha), ?_, fun h0 => ?_⟩
  · have : t.upstream org = (t.aside s).upstream org := rfl
    rw [this, hf.1]; exact h.2.1
  · rw [e (·.scaler) fun _ _ => rfl, e (·.cru) fun _ _ => rfl, e (·.profileBuf) fun _ _ => rfl]
    exact h.2.2 h0

theorem down_msix {kd : Bool} {org s : State} {v : Nat} (h : Down kd org s) :
    Down kd org (s.msix v) := down_frame (msix_frame (Frame.refl [] s)) h

theorem le_portField {c : Nat} {p : Prop} [Decidable p] {f g : Field} (h : c ≤ f.addr ∧ c ≤ g.addr) :
    c ≤ (if p then f else g).addr := by
  split
  · exact h.1
  · exact h.2

theorem le_chip (it : Item) : 0xD0000 ≤ ownAddr (chipOf it) := by
  unfold chipOf ownAddr
  dsimp only
  unfold R.CHP_OWN_CTXn
  omega

theorem down_hifEvt {kd : Bool} {org s : State} {f : Field} (hf : Off kd f.addr) (h : Down kd org s) :
    Down kd org (s.hifEvt f) := by
  unfold State.hifEvt
  have h1 : Down kd org (s.set f 1) := h.set hf
  dsimp only
  split
  · exact down_msix h1
  · exact h1

theorem down_event {kd : Bool} {org s : State} {c : Nat} {st : Bool} {p : List Byte} 
    (h : Down kd org s) : Down kd org (s.event c st p) := down_frame (event_frame (Frame.refl [] s)) h

theorem down_post {kd : Bool} {org s : State} {q : EventReq} 
    (h : Down kd org s) : Down kd org (s.post q) := down_frame (post_frame (Frame.refl [] s)) h

theorem down_postAll {kd : Bool} {org s : State} {q : List EventReq} 
    (h : Down kd org s) : Down kd org (s.postAll q) := down_frame (postAll_frame (Frame.refl [] s)) h

theorem down_deliver {kd : Bool} {org s : State} {src idx : Nat} {b : List Byte} {i t : Nat} {al : Bool}
    (h : Down kd org s) : Down kd org (deliver s src idx b i t al) :=
  down_frame (deliver_frame (Frame.refl [] s)) h

theorem down_setCplRing {kd : Bool} {org s : State} {n : Nat} {r : CplRing} (h : Down kd org s) :
    Down kd org (State.setCplRing s n r) := by
  unfold State.setCplRing
  exact h.change rfl rfl fun _ => ⟨rfl, rfl, rfl⟩

theorem off_ringProd {kd : Bool} (k : RingKind) (n : Nat) : Off kd (ringProd k n).addr := by
  unfold ringProd
  exact Or.inl (Nat.le_trans (le_ring k n) (Nat.le_add_right _ _))

theorem down_writeEntry {kd : Bool} {org s : State} {k : RingKind} {n : Nat} {b : List Byte} 
    (h : Down kd org s) : Down kd org (writeEntry s k n b) := by
  unfold writeEntry
  exact ((h.emit).set (off_ringProd k n)).emit

theorem down_cplInterrupt {kd : Bool} {org : State} {s : State} {n : Nat}  (h : Down kd org s) :
    Down kd org (cplInterrupt s n) := by
  unfold cplInterrupt
  repeat' (first
    | with_reducible assumption
    | ((try lift_lets -underBinder); intro x; first | (with_reducible refine Down.keepLet (org := org) (kd := kd) x ?_ ?_; rotate_left; intro hx; clear_value x; rotate_right; subst x) | (with_reducible refine Down.keepFst (org := org) (kd := kd) x ?_ ?_; rotate_left; intro hx; clear_value x; rotate_right; subst x) | clear_value x)
    | with_reducible refine down_msix ?_
    | with_reducible refine down_setCplRing ?_
    | split
    | dsimp -zeta only)

theorem down_setItems {kd : Bool} {org s : State} {l : List Item} (h : Down kd org s) :
    Down kd org (State.setItems s l) := by
  unfold State.setItems
  exact h.change rfl rfl fun _ => ⟨rfl, rfl, rfl⟩

theorem down_refreshItems {kd : Bool} {org : State} {s : State} {cap : Bool} {n : Nat}  (h : Down kd org s) :
    Down kd org (refreshItems s cap n) := by
  unfold refreshItems
  repeat' (first
    | with_reducible assumption
    | with_reducible refine Down.set ?_ (by first | with_reducible assumption | (refine Or.inl ?_; simp only [ringItems] <;> first | exact Nat.le_trans (le_ring _ _) (Nat.le_add_right _ _) | omega | (split <;> simp only [ringItems] <;> omega)))
    | split
    | dsimp -zeta only)

theorem down_updItem {kd : Bool} {org : State} {s : State} {it : Item}  (h : Down kd org s) :
    Down kd org (updItem s it) := by
  unfold updItem
  repeat' (first
    | with_reducible assumption
    | with_reducible refine down_setItems ?_
    | split
    | dsimp -zeta only)

theorem down_cplWrite {kd : Bool} {org : State} {s : State} {q : Nat} {c : Completion}  (h : Down kd org s) :
    Down kd org (cplWrite s q c) := by
  unfold cplWrite
  repeat' (first
    | with_reducible assumption
    | ((try lift_lets -underBinder); intro x; first | (with_reducible refine Down.keepLet (org := org) (kd := kd) x ?_ ?_; rotate_left; intro hx; clear_value x; rotate_right; subst x) | (with_reducible refine Down.keepFst (org := org) (kd := kd) x ?_ ?_; rotate_left; intro hx; clear_value x; rotate_right; subst x) | clear_value x)
    | with_reducible refine down_setCplRing ?_
    | with_reducible refine down_writeEntry ?_
    | with_reducible refine down_cplInterrupt ?_
    | split
    | dsimp -zeta only)

theorem down_cplHold {kd : Bool} {org : State} {s : State} {q : Nat} {c : Completion}  (h : Down kd org s) :
    Down kd org (cplHold s q c) := by
  unfold cplHold
  repeat' (first
    | with_reducible assumption
    | ((try lift_lets -underBinder); intro x; first | (with_reducible refine Down.keepLet (org := org) (kd := kd) x ?_ ?_; rotate_left; intro hx; clear_value x; rotate_right; subst x) | (with_reducible refine Down.keepFst (org := org) (kd := kd) x ?_ ?_; rotate_left; intro hx; clear_value x; rotate_right; subst x) | clear_value x)
    | with_reducible refine Down.bump ?_ (by first | with_reducible assumption | (refine Or.inl ?_; simp only [F.HIF_HELD.COUNT, R.HIF_HELD] <;> first | exact Nat.le_trans (le_ring _ _) (Nat.le_add_right _ _) | omega | (split <;> simp only [F.HIF_HELD.COUNT, R.HIF_HELD] <;> omega)))
    | with_reducible refine down_setCplRing ?_
    | split
    | dsimp -zeta only)

theorem down_refuseClaim {kd : Bool} {org s : State} {r : Resource} {code : Nat} 
    (hr : Off kd (ownAddr r)) (h : Down kd org s) : Down kd org (refuseClaim s r code) := by
  unfold refuseClaim
  exact down_event ((h.set hr).bump hr)

theorem down_claimAll {kd : Bool} {org s : State} {r : Resource} {code : Nat} 
    (hr : Off kd (ownAddr r)) (h : Down kd org s) : Down kd org (claimAll s [r] code).1 := by
  unfold claimAll
  split
  · exact h
  · split
    · exact h.set hr
    · refine Down.fold h fun s x hx h => down_refuseClaim ?_ h
      rw [List.mem_filter, List.mem_singleton] at hx
      rw [hx.1]; exact hr

theorem down_releaseOwn {kd : Bool} {org s : State} {r : Resource} {code : Nat} (hr : Off kd (ownAddr r))
    (h : Down kd org s) : Down kd org (releaseOwn s code r) := by
  unfold releaseOwn
  split
  · exact h.set hr
  · exact h

theorem down_chipLost {kd : Bool} {org : State} {s : State} {it : Item} {status : Nat}  (h : Down kd org s) :
    Down kd org (chipLost s it status) := by
  unfold chipLost
  repeat' (first
    | with_reducible assumption
    | ((try lift_lets -underBinder); intro x; first | (with_reducible refine Down.keepLet (org := org) (kd := kd) x ?_ ?_; rotate_left; intro hx; clear_value x; rotate_right; subst x) | (with_reducible refine Down.keepFst (org := org) (kd := kd) x ?_ ?_; rotate_left; intro hx; clear_value x; rotate_right; subst x) | clear_value x)
    | with_reducible refine Down.set ?_ (by first | with_reducible assumption | (refine Or.inl ?_; simp only [F.CHP_EVT.CTX_LOST, chipMode, R.CHP_STAT, R.CHP_EVT] <;> first | exact Nat.le_trans (le_ring _ _) (Nat.le_add_right _ _) | omega | (split <;> simp only [F.CHP_EVT.CTX_LOST, chipMode, R.CHP_STAT, R.CHP_EVT] <;> omega)))
    | with_reducible refine down_event ?_
    | split
    | dsimp -zeta only)

theorem down_finishItem {kd : Bool} {org : State} {s : State} {it : Item} {o : Outcome}  (h : Down kd org s) :
    Down kd org (finishItem s it o) := by
  unfold finishItem
  repeat' (first
    | with_reducible assumption
    | ((try lift_lets -underBinder); intro x; first | (with_reducible refine Down.keepLet (org := org) (kd := kd) x ?_ ?_; rotate_left; intro hx; clear_value x; rotate_right; subst x) | (with_reducible refine Down.keepFst (org := org) (kd := kd) x ?_ ?_; rotate_left; intro hx; clear_value x; rotate_right; subst x) | clear_value x)
    | with_reducible refine Down.set ?_ (by first | with_reducible assumption | (refine Or.inl ?_; simp only [ringItems] <;> first | exact Nat.le_trans (le_ring _ _) (Nat.le_add_right _ _) | omega | (split <;> simp only [ringItems] <;> omega)))
    | with_reducible refine down_setItems ?_
    | with_reducible refine down_refreshItems ?_
    | with_reducible refine down_cplWrite ?_
    | with_reducible refine down_cplHold ?_
    | with_reducible refine down_releaseOwn (Or.inl (le_chip _)) ?_
    | with_reducible refine down_chipLost ?_
    | split
    | dsimp -zeta only)

theorem down_pumpRing {kd : Bool} {org : State} {a0 : Nat} {a1 : State} {a2 : Bool} {a3 : Nat}  (h : Down kd org a1) :
    Down kd org (pumpRing a0 a1 a2 a3) := by
  induction a0 generalizing a1 a2 a3 with
  | zero =>
    unfold pumpRing
    repeat' (first
    | with_reducible assumption
    | ((try lift_lets -underBinder); intro x; first | (with_reducible refine Down.keepLet (org := org) (kd := kd) x ?_ ?_; rotate_left; intro hx; clear_value x; rotate_right; subst x) | (with_reducible refine Down.keepFst (org := org) (kd := kd) x ?_ ?_; rotate_left; intro hx; clear_value x; rotate_right; subst x) | clear_value x)
    | with_reducible refine down_updItem ?_
    | with_reducible refine down_claimAll (Or.inl (le_chip _)) ?_
    | with_reducible refine down_finishItem ?_
    | split
    | dsimp -zeta only)
  | succ n ih =>
    unfold pumpRing
    repeat' (first
    | with_reducible assumption
    | with_reducible apply ih
    | ((try lift_lets -underBinder); intro x; first | (with_reducible refine Down.keepLet (org := org) (kd := kd) x ?_ ?_; rotate_left; intro hx; clear_value x; rotate_right; subst x) | (with_reducible refine Down.keepFst (org := org) (kd := kd) x ?_ ?_; rotate_left; intro hx; clear_value x; rotate_right; subst x) | clear_value x)
    | with_reducible refine down_updItem ?_
    | with_reducible refine down_claimAll (Or.inl (le_chip _)) ?_
    | with_reducible refine down_finishItem ?_
    | split
    | dsimp -zeta only)

theorem down_pump {kd : Bool} {org : State} {s : State} {cap : Bool} {n : Nat}  (h : Down kd org s) :
    Down kd org (pump s cap n) := by
  unfold pump
  repeat' (first
    | with_reducible assumption
    | with_reducible refine down_pumpRing ?_
    | split
    | dsimp -zeta only)

theorem down_complete {kd : Bool} {org : State} {s : State} {it : Item} {o : Outcome}  (h : Down kd org s) :
    Down kd org (complete s it o) := by
  unfold complete
  repeat' (first
    | with_reducible assumption
    | with_reducible refine down_finishItem ?_
    | with_reducible refine down_pump ?_
    | split
    | dsimp -zeta only)

theorem down_setCapRing {kd : Bool} {org s : State} {n : Nat} {r : CapRing} (h : Down kd org s) :
    Down kd org (State.setCapRing s n r) := by
  unfold State.setCapRing
  exact h.change rfl rfl fun _ => ⟨rfl, rfl, rfl⟩

theorem down_finishBuffer {kd : Bool} {org : State} {s : State} {n : Nat} {it : Item}  (h : Down kd org s) :
    Down kd org (finishBuffer s n it) := by
  unfold finishBuffer
  repeat' (first
    | with_reducible assumption
    | ((try lift_lets -underBinder); intro x; first | (with_reducible refine Down.keepLet (org := org) (kd := kd) x ?_ ?_; rotate_left; intro hx; clear_value x; rotate_right; subst x) | (with_reducible refine Down.keepFst (org := org) (kd := kd) x ?_ ?_; rotate_left; intro hx; clear_value x; rotate_right; subst x) | clear_value x)
    | with_reducible refine down_complete ?_
    | with_reducible refine down_setCapRing ?_
    | split
    | dsimp -zeta only)

theorem down_capMiss {kd : Bool} {org : State} {s : State} {n : Nat}  (h : Down kd org s) :
    Down kd org (capMiss s n) := by
  unfold capMiss
  repeat' (first
    | with_reducible assumption
    | ((try lift_lets -underBinder); intro x; first | (with_reducible refine Down.keepLet (org := org) (kd := kd) x ?_ ?_; rotate_left; intro hx; clear_value x; rotate_right; subst x) | (with_reducible refine Down.keepFst (org := org) (kd := kd) x ?_ ?_; rotate_left; intro hx; clear_value x; rotate_right; subst x) | clear_value x)
    | with_reducible refine Down.bump ?_ (by first | with_reducible assumption | (refine Or.inl ?_; simp only [F.HIF_CAPn_CNT.MISSED, F.HIF_EVT.MISSED, R.HIF_CAPn_CNT, R.HIF_EVT] <;> first | exact Nat.le_trans (le_ring _ _) (Nat.le_add_right _ _) | omega | (split <;> simp only [F.HIF_CAPn_CNT.MISSED, F.HIF_EVT.MISSED, R.HIF_CAPn_CNT, R.HIF_EVT] <;> omega)))
    | with_reducible refine down_hifEvt (by first | with_reducible assumption | (refine Or.inl ?_; simp only [F.HIF_CAPn_CNT.MISSED, F.HIF_EVT.MISSED, R.HIF_CAPn_CNT, R.HIF_EVT] <;> first | exact Nat.le_trans (le_ring _ _) (Nat.le_add_right _ _) | omega | (split <;> simp only [F.HIF_CAPn_CNT.MISSED, F.HIF_EVT.MISSED, R.HIF_CAPn_CNT, R.HIF_EVT] <;> omega))) ?_
    | with_reducible refine down_setCapRing ?_
    | split
    | dsimp -zeta only)

theorem down_capPut {kd : Bool} {org : State} {a0 : Nat} {a1 : State} {a2 : Nat} {a3 : List Byte} {a4 : Nat}  (h : Down kd org a1) :
    Down kd org (capPut a0 a1 a2 a3 a4).1 := by
  induction a0 generalizing a1 a2 a3 a4 with
  | zero =>
    unfold capPut
    repeat' (first
    | with_reducible assumption
    | ((try lift_lets -underBinder); intro x; first | (with_reducible refine Down.keepLet (org := org) (kd := kd) x ?_ ?_; rotate_left; intro hx; clear_value x; rotate_right; subst x) | (with_reducible refine Down.keepFst (org := org) (kd := kd) x ?_ ?_; rotate_left; intro hx; clear_value x; rotate_right; subst x) | clear_value x)
    | with_reducible refine Down.emit ?_
    | with_reducible refine down_complete ?_
    | with_reducible refine down_setCapRing ?_
    | with_reducible refine down_finishBuffer ?_
    | with_reducible refine down_capMiss ?_
    | split
    | dsimp -zeta only)
  | succ n ih =>
    unfold capPut
    repeat' (first
    | with_reducible assumption
    | with_reducible apply ih
    | ((try lift_lets -underBinder); intro x; first | (with_reducible refine Down.keepLet (org := org) (kd := kd) x ?_ ?_; rotate_left; intro hx; clear_value x; rotate_right; subst x) | (with_reducible refine Down.keepFst (org := org) (kd := kd) x ?_ ?_; rotate_left; intro hx; clear_value x; rotate_right; subst x) | clear_value x)
    | with_reducible refine Down.emit ?_
    | with_reducible refine down_complete ?_
    | with_reducible refine down_setCapRing ?_
    | with_reducible refine down_finishBuffer ?_
    | with_reducible refine down_capMiss ?_
    | split
    | dsimp -zeta only)

theorem down_captureAll {kd : Bool} {org : State} {s : State} {src idx : Nat} {bytes : List Byte} {time : Nat}  (h : Down kd org s) :
    Down kd org (captureAll s src idx bytes time) := by
  unfold captureAll
  repeat' (first
    | with_reducible assumption
    | with_reducible refine down_capPut ?_
    | with_reducible refine Down.fold ?_ (fun s1 a1 m1 h1 => ?_)
    | with_reducible refine Down.foldFst ?_ (fun s1 a1 m1 h1 => ?_)
    | split
    | dsimp -zeta only)

theorem down_publish {kd : Bool} {org : State} {s : State} {src idx : Nat} {bytes : List Byte} {index time : Nat} {always : Bool}  (h : Down kd org s) :
    Down kd org (publish s src idx bytes index time always) := by
  unfold publish
  repeat' (first
    | with_reducible assumption
    | with_reducible refine down_deliver ?_
    | with_reducible refine down_captureAll ?_
    | split
    | dsimp -zeta only)

theorem down_setScl {kd : Bool} {org s : State} {p : Nat} {q : SclPort} (hk : kd = true)
    (h : Down kd org s) : Down kd org (State.setScl s p q) := by
  unfold State.setScl
  exact h.change rfl rfl fun h0 => by rw [hk] at h0; cases h0

theorem down_setZone {kd : Bool} {org s : State} {z : Nat} {r : CruZone} (hk : kd = true)
    (h : Down kd org s) : Down kd org (State.setZone s z r) := by
  unfold State.setZone
  exact h.change rfl rfl fun h0 => by rw [hk] at h0; cases h0

theorem down_cruStat {kd : Bool} {org : State} {s : State}  (hk : kd = true) (h : Down kd org s) :
    Down kd org (cruStat s) := by
  unfold cruStat
  repeat' (first
    | with_reducible assumption
    | ((try lift_lets -underBinder); intro x; first | (with_reducible refine Down.keepLet (org := org) (kd := kd) x ?_ ?_; rotate_left; intro hx; clear_value x; rotate_right; subst x) | (with_reducible refine Down.keepFst (org := org) (kd := kd) x ?_ ?_; rotate_left; intro hx; clear_value x; rotate_right; subst x) | clear_value x)
    | with_reducible refine Down.set ?_ (by first | with_reducible assumption | (refine Or.inl ?_; simp only [F.CRU_STAT.LASTING, F.CRU_STAT.ZONES, R.CRU_STAT] <;> first | exact Nat.le_trans (le_ring _ _) (Nat.le_add_right _ _) | omega | (split <;> simp only [F.CRU_STAT.LASTING, F.CRU_STAT.ZONES, R.CRU_STAT] <;> omega)) | (refine Or.inr ⟨hk, ?_⟩; simp only [F.CRU_STAT.LASTING, F.CRU_STAT.ZONES, R.CRU_STAT] <;> first | omega | decide | (split <;> simp only [F.CRU_STAT.LASTING, F.CRU_STAT.ZONES, R.CRU_STAT] <;> first | omega | decide)))
    | split
    | dsimp -zeta only)

theorem down_postCru {kd : Bool} {org : State} {s : State} {l : List EventReq}  (hk : kd = true) (h : Down kd org s) :
    Down kd org (postCru s l) := by
  unfold postCru
  repeat' (first
    | with_reducible assumption
    | with_reducible refine Down.count ?_ (by first | with_reducible assumption | (refine Or.inl ?_; simp only [F.CRU_REC_CNT.RECORDS, R.CRU_REC_CNT] <;> first | exact Nat.le_trans (le_ring _ _) (Nat.le_add_right _ _) | omega | (split <;> simp only [F.CRU_REC_CNT.RECORDS, R.CRU_REC_CNT] <;> omega)) | (refine Or.inr ⟨hk, ?_⟩; simp only [F.CRU_REC_CNT.RECORDS, R.CRU_REC_CNT] <;> first | omega | decide | (split <;> simp only [F.CRU_REC_CNT.RECORDS, R.CRU_REC_CNT] <;> first | omega | decide)))
    | with_reducible refine down_postAll ?_
    | split
    | dsimp -zeta only)

theorem down_edgeEvt {kd : Bool} {org s : State} {f : Field} {e : TallyEdge} (hk : kd = true)
    (hf : Off kd f.addr) (h : Down kd org s) : Down kd org (edgeEvt s f e) := by
  cases e
  · exact h
  · exact h.set hf
  · exact h

theorem down_tempEnter {kd : Bool} {org : State} {s : State} {z : Nat} {time : Option Nat} {lev rate : Verdict}  (hk : kd = true) (h : Down kd org s) :
    Down kd org (tempEnter s z time lev rate).1 := by
  unfold tempEnter
  repeat' (first
    | with_reducible assumption
    | ((try lift_lets -underBinder); intro x; first | (with_reducible refine Down.keepLet (org := org) (kd := kd) x ?_ ?_; rotate_left; intro hx; clear_value x; rotate_right; subst x) | (with_reducible refine Down.keepFst (org := org) (kd := kd) x ?_ ?_; rotate_left; intro hx; clear_value x; rotate_right; subst x) | clear_value x)
    | with_reducible refine Down.count ?_ (by first | with_reducible assumption | (refine Or.inl ?_; simp only [F.CRU_EVT.TLEV, F.CRU_EVT.TRATE, F.CRU_MISS_CNT.MISSED, R.CRU_EVT, R.CRU_MISS_CNT] <;> first | exact Nat.le_trans (le_ring _ _) (Nat.le_add_right _ _) | omega | (split <;> simp only [F.CRU_EVT.TLEV, F.CRU_EVT.TRATE, F.CRU_MISS_CNT.MISSED, R.CRU_EVT, R.CRU_MISS_CNT] <;> omega)) | (refine Or.inr ⟨hk, ?_⟩; simp only [F.CRU_EVT.TLEV, F.CRU_EVT.TRATE, F.CRU_MISS_CNT.MISSED, R.CRU_EVT, R.CRU_MISS_CNT] <;> first | omega | decide | (split <;> simp only [F.CRU_EVT.TLEV, F.CRU_EVT.TRATE, F.CRU_MISS_CNT.MISSED, R.CRU_EVT, R.CRU_MISS_CNT] <;> first | omega | decide)))
    | with_reducible refine down_setZone hk ?_
    | with_reducible refine down_edgeEvt hk (by first | with_reducible assumption | (refine Or.inl ?_; simp only [F.CRU_EVT.TLEV, F.CRU_EVT.TRATE, F.CRU_MISS_CNT.MISSED, R.CRU_EVT, R.CRU_MISS_CNT] <;> first | exact Nat.le_trans (le_ring _ _) (Nat.le_add_right _ _) | omega | (split <;> simp only [F.CRU_EVT.TLEV, F.CRU_EVT.TRATE, F.CRU_MISS_CNT.MISSED, R.CRU_EVT, R.CRU_MISS_CNT] <;> omega)) | (refine Or.inr ⟨hk, ?_⟩; simp only [F.CRU_EVT.TLEV, F.CRU_EVT.TRATE, F.CRU_MISS_CNT.MISSED, R.CRU_EVT, R.CRU_MISS_CNT] <;> first | omega | decide | (split <;> simp only [F.CRU_EVT.TLEV, F.CRU_EVT.TRATE, F.CRU_MISS_CNT.MISSED, R.CRU_EVT, R.CRU_MISS_CNT] <;> first | omega | decide))) ?_
    | split
    | dsimp -zeta only)

theorem down_zonesEach {kd : Bool} {org s : State} {l : List Nat} {f : State → Nat → State × List EventReq}
    (hs : Down kd org s) (hf : ∀ s z, Down kd org s → Down kd org (f s z).1) :
    Down kd org (zonesEach s l f).1 := by
  unfold zonesEach
  exact Down.foldFst hs fun a z _ h => hf a.1 z h

theorem down_cruStaleEval {kd : Bool} {org : State} {s : State} {p : Nat}  (hk : kd = true) (h : Down kd org s) :
    Down kd org (cruStaleEval s p) := by
  unfold cruStaleEval
  repeat' (first
    | with_reducible assumption
    | ((try lift_lets -underBinder); intro x; first | (with_reducible refine Down.keepLet (org := org) (kd := kd) x ?_ ?_; rotate_left; intro hx; clear_value x; rotate_right; subst x) | (with_reducible refine Down.keepFst (org := org) (kd := kd) x ?_ ?_; rotate_left; intro hx; clear_value x; rotate_right; subst x) | clear_value x)
    | with_reducible refine down_cruStat hk ?_
    | with_reducible refine down_postCru hk ?_
    | with_reducible refine down_tempEnter hk ?_
    | with_reducible refine down_zonesEach ?_ (fun s1 z1 h1 => ?_)
    | split
    | dsimp -zeta only)

theorem down_profs {kd : Bool} {org s : State} {l : List (Nat × List (List Byte))} (hk : kd = true)
    (h : Down kd org s) : Down kd org { s with cru := { s.cru with profs := l } } :=
  h.change rfl rfl fun h0 => by rw [hk] at h0; cases h0

theorem down_buf {kd : Bool} {org s : State} {l : List (Nat × List Byte)} (hk : kd = true)
    (h : Down kd org s) : Down kd org { s with profileBuf := l } :=
  h.change rfl rfl fun h0 => by rw [hk] at h0; cases h0

theorem down_cruMarker {kd : Bool} {org s : State} {p : Nat} (hk : kd = true)
    (h : Down kd org s) : Down kd org (cruMarker s p) := by
  unfold cruMarker
  exact down_cruStaleEval hk (down_profs hk h)

theorem down_publishMarker {kd : Bool} {org : State} {s : State} {p : Nat}  (hk : kd = true) (h : Down kd org s) :
    Down kd org (publishMarker s p) := by
  unfold publishMarker
  repeat' (first
    | with_reducible assumption
    | ((try lift_lets -underBinder); intro x; first | (with_reducible refine Down.keepLet (org := org) (kd := kd) x ?_ ?_; rotate_left; intro hx; clear_value x; rotate_right; subst x) | (with_reducible refine Down.keepFst (org := org) (kd := kd) x ?_ ?_; rotate_left; intro hx; clear_value x; rotate_right; subst x) | clear_value x)
    | with_reducible refine down_publish ?_
    | with_reducible refine down_setScl hk ?_
    | with_reducible refine down_cruMarker hk ?_
    | split
    | dsimp -zeta only)

theorem down_staleOnset {kd : Bool} {org : State} {s : State} {p : Nat}  (hk : kd = true) (hp : p < 2) (h : Down kd org s) :
    Down kd org (staleOnset s p) := by
  unfold staleOnset
  repeat' (first
    | with_reducible assumption
    | ((try lift_lets -underBinder); intro x; first | (with_reducible refine Down.keepLet (org := org) (kd := kd) x ?_ ?_; rotate_left; intro hx; clear_value x; rotate_right; subst x) | (with_reducible refine Down.keepFst (org := org) (kd := kd) x ?_ ?_; rotate_left; intro hx; clear_value x; rotate_right; subst x) | clear_value x)
    | with_reducible refine Down.set ?_ (by first | with_reducible assumption | (refine Or.inl ?_; simp only [F.SCL_ABORT_CNT.ABORT, F.SCL_EVT.ABORT, F.SCL_Px_PERIOD.T_PROF, staleF, sclStaleEvt, sclActiveF, F.SCL_STAT.STALE_A, F.SCL_STAT.STALE_B, F.SCL_EVT.STALE_A, F.SCL_EVT.STALE_B, F.SCL_STAT.ACTIVE_A, F.SCL_STAT.ACTIVE_B, R.SCL_ABORT_CNT, R.SCL_EVT, R.SCL_Px_PERIOD, R.SCL_STAT] <;> first | exact Nat.le_trans (le_ring _ _) (Nat.le_add_right _ _) | omega | (split <;> simp only [F.SCL_ABORT_CNT.ABORT, F.SCL_EVT.ABORT, F.SCL_Px_PERIOD.T_PROF, staleF, sclStaleEvt, sclActiveF, F.SCL_STAT.STALE_A, F.SCL_STAT.STALE_B, F.SCL_EVT.STALE_A, F.SCL_EVT.STALE_B, F.SCL_STAT.ACTIVE_A, F.SCL_STAT.ACTIVE_B, R.SCL_ABORT_CNT, R.SCL_EVT, R.SCL_Px_PERIOD, R.SCL_STAT] <;> omega)) | (refine Or.inr ⟨hk, ?_⟩; simp only [F.SCL_ABORT_CNT.ABORT, F.SCL_EVT.ABORT, F.SCL_Px_PERIOD.T_PROF, staleF, sclStaleEvt, sclActiveF, F.SCL_STAT.STALE_A, F.SCL_STAT.STALE_B, F.SCL_EVT.STALE_A, F.SCL_EVT.STALE_B, F.SCL_STAT.ACTIVE_A, F.SCL_STAT.ACTIVE_B, R.SCL_ABORT_CNT, R.SCL_EVT, R.SCL_Px_PERIOD, R.SCL_STAT] <;> first | omega | decide | (split <;> simp only [F.SCL_ABORT_CNT.ABORT, F.SCL_EVT.ABORT, F.SCL_Px_PERIOD.T_PROF, staleF, sclStaleEvt, sclActiveF, F.SCL_STAT.STALE_A, F.SCL_STAT.STALE_B, F.SCL_EVT.STALE_A, F.SCL_EVT.STALE_B, F.SCL_STAT.ACTIVE_A, F.SCL_STAT.ACTIVE_B, R.SCL_ABORT_CNT, R.SCL_EVT, R.SCL_Px_PERIOD, R.SCL_STAT] <;> first | omega | decide)))
    | with_reducible refine Down.setFlag ?_ (by first | with_reducible assumption | (refine Or.inl ?_; simp only [F.SCL_ABORT_CNT.ABORT, F.SCL_EVT.ABORT, F.SCL_Px_PERIOD.T_PROF, staleF, sclStaleEvt, sclActiveF, F.SCL_STAT.STALE_A, F.SCL_STAT.STALE_B, F.SCL_EVT.STALE_A, F.SCL_EVT.STALE_B, F.SCL_STAT.ACTIVE_A, F.SCL_STAT.ACTIVE_B, R.SCL_ABORT_CNT, R.SCL_EVT, R.SCL_Px_PERIOD, R.SCL_STAT] <;> first | exact Nat.le_trans (le_ring _ _) (Nat.le_add_right _ _) | omega | (split <;> simp only [F.SCL_ABORT_CNT.ABORT, F.SCL_EVT.ABORT, F.SCL_Px_PERIOD.T_PROF, staleF, sclStaleEvt, sclActiveF, F.SCL_STAT.STALE_A, F.SCL_STAT.STALE_B, F.SCL_EVT.STALE_A, F.SCL_EVT.STALE_B, F.SCL_STAT.ACTIVE_A, F.SCL_STAT.ACTIVE_B, R.SCL_ABORT_CNT, R.SCL_EVT, R.SCL_Px_PERIOD, R.SCL_STAT] <;> omega)) | (refine Or.inr ⟨hk, ?_⟩; simp only [F.SCL_ABORT_CNT.ABORT, F.SCL_EVT.ABORT, F.SCL_Px_PERIOD.T_PROF, staleF, sclStaleEvt, sclActiveF, F.SCL_STAT.STALE_A, F.SCL_STAT.STALE_B, F.SCL_EVT.STALE_A, F.SCL_EVT.STALE_B, F.SCL_STAT.ACTIVE_A, F.SCL_STAT.ACTIVE_B, R.SCL_ABORT_CNT, R.SCL_EVT, R.SCL_Px_PERIOD, R.SCL_STAT] <;> first | omega | decide | (split <;> simp only [F.SCL_ABORT_CNT.ABORT, F.SCL_EVT.ABORT, F.SCL_Px_PERIOD.T_PROF, staleF, sclStaleEvt, sclActiveF, F.SCL_STAT.STALE_A, F.SCL_STAT.STALE_B, F.SCL_EVT.STALE_A, F.SCL_EVT.STALE_B, F.SCL_STAT.ACTIVE_A, F.SCL_STAT.ACTIVE_B, R.SCL_ABORT_CNT, R.SCL_EVT, R.SCL_Px_PERIOD, R.SCL_STAT] <;> first | omega | decide)))
    | with_reducible refine Down.bump ?_ (by first | with_reducible assumption | (refine Or.inl ?_; simp only [F.SCL_ABORT_CNT.ABORT, F.SCL_EVT.ABORT, F.SCL_Px_PERIOD.T_PROF, staleF, sclStaleEvt, sclActiveF, F.SCL_STAT.STALE_A, F.SCL_STAT.STALE_B, F.SCL_EVT.STALE_A, F.SCL_EVT.STALE_B, F.SCL_STAT.ACTIVE_A, F.SCL_STAT.ACTIVE_B, R.SCL_ABORT_CNT, R.SCL_EVT, R.SCL_Px_PERIOD, R.SCL_STAT] <;> first | exact Nat.le_trans (le_ring _ _) (Nat.le_add_right _ _) | omega | (split <;> simp only [F.SCL_ABORT_CNT.ABORT, F.SCL_EVT.ABORT, F.SCL_Px_PERIOD.T_PROF, staleF, sclStaleEvt, sclActiveF, F.SCL_STAT.STALE_A, F.SCL_STAT.STALE_B, F.SCL_EVT.STALE_A, F.SCL_EVT.STALE_B, F.SCL_STAT.ACTIVE_A, F.SCL_STAT.ACTIVE_B, R.SCL_ABORT_CNT, R.SCL_EVT, R.SCL_Px_PERIOD, R.SCL_STAT] <;> omega)) | (refine Or.inr ⟨hk, ?_⟩; simp only [F.SCL_ABORT_CNT.ABORT, F.SCL_EVT.ABORT, F.SCL_Px_PERIOD.T_PROF, staleF, sclStaleEvt, sclActiveF, F.SCL_STAT.STALE_A, F.SCL_STAT.STALE_B, F.SCL_EVT.STALE_A, F.SCL_EVT.STALE_B, F.SCL_STAT.ACTIVE_A, F.SCL_STAT.ACTIVE_B, R.SCL_ABORT_CNT, R.SCL_EVT, R.SCL_Px_PERIOD, R.SCL_STAT] <;> first | omega | decide | (split <;> simp only [F.SCL_ABORT_CNT.ABORT, F.SCL_EVT.ABORT, F.SCL_Px_PERIOD.T_PROF, staleF, sclStaleEvt, sclActiveF, F.SCL_STAT.STALE_A, F.SCL_STAT.STALE_B, F.SCL_EVT.STALE_A, F.SCL_EVT.STALE_B, F.SCL_STAT.ACTIVE_A, F.SCL_STAT.ACTIVE_B, R.SCL_ABORT_CNT, R.SCL_EVT, R.SCL_Px_PERIOD, R.SCL_STAT] <;> first | omega | decide)))
    | with_reducible refine down_setScl hk ?_
    | with_reducible refine down_publishMarker hk ?_
    | split
    | dsimp -zeta only
    | with_reducible refine down_buf hk ?_)

theorem down_staleCheckPort {kd : Bool} {org : State} {s : State} {p : Nat}  (hk : kd = true) (hp : p < 2) (h : Down kd org s) :
    Down kd org (staleCheckPort s p) := by
  unfold staleCheckPort
  repeat' (first
    | with_reducible assumption
    | with_reducible refine down_staleOnset hk hp ?_
    | split
    | dsimp -zeta only)

end Sys2Proof.Machine
end

