-- ==== Sys2Proof/Laws/Fields.lean ====
section
/-! SUPPORT. Laws of the descriptions that give a state's registers field by field: `Sets`, `Posts` and `Senses`. -/

namespace Sys2Proof.Machine

/-- Bits of a field's mask. -/
theorem Field.mask_bit (f : Field) (i : Nat) (hi : i < 32) :
    f.mask.getLsbD i = decide (f.lo ≤ i ∧ i < f.lo + f.width) := by
  unfold Field.mask
  rw [BitVec.getLsbD_ofNat, Nat.mul_comm, Nat.testBit_two_pow_mul, Nat.testBit_two_pow_sub_one]
  by_cases h : f.lo ≤ i <;> simp [h, hi] <;> omega

/-- Bits of a field's value in place. -/
theorem place_bit (f : Field) (v i : Nat) (hi : i < 32) :
    (BitVec.ofNat 32 (v % 2 ^ f.width * 2 ^ f.lo)).getLsbD i = (decide (f.lo ≤ i ∧ i < f.lo + f.width) && v.testBit (i - f.lo)) := by
  rw [BitVec.getLsbD_ofNat, Nat.mul_comm, Nat.testBit_two_pow_mul, Nat.testBit_mod_two_pow]
  by_cases h : f.lo ≤ i
  · have : (i - f.lo < f.width) ↔ (i < f.lo + f.width) := by omega
    simp [h, hi, this]
  · simp [h]

/-- The word that setting a field makes. -/
theorem setBits_eq (w : Word) (f : Field) (v : Nat) :
    setBits w f v = (w &&& ~~~f.mask) ||| BitVec.ofNat 32 (v % 2 ^ f.width * 2 ^ f.lo) := by
  apply BitVec.eq_of_getLsbD_eq
  intro i hi
  have := testBit_setBits w f v i hi
  rw [BitVec.testBit_toNat] at this
  rw [this, BitVec.getLsbD_or, BitVec.getLsbD_and, BitVec.getLsbD_not, f.mask_bit i hi, place_bit f v i hi]
  by_cases h : f.lo ≤ i ∧ i < f.lo + f.width <;> simp [h, hi, BitVec.testBit_toNat]

/-- Two fields that share no bit of a register. -/
def Field.apart (f g : Field) : Bool := decide (f.hi < g.lo) || decide (g.hi < f.lo) || f.addr != g.addr

/-- Every field listed shares no bit with a field. -/
def allApart (l : List (Field × Nat)) (f : Field) : Bool := l.all fun e => e.1.apart f && decide (e.1.lo ≤ e.1.hi)

/-- What fields listed give a register has no bit of a field apart from them. -/
theorem valueAt_apart {l : List (Field × Nat)} {f : Field} {a : Nat} (h : allApart l f = true) (hf : f.lo ≤ f.hi) (ha : f.addr = a) :
    valueAt l a &&& ~~~f.mask = valueAt l a := by
  induction l with
  | nil => simp [valueAt]
  | cons e l ih =>
    simp only [allApart, List.all_cons, Bool.and_eq_true, decide_eq_true_eq] at h
    have h2 := ih (by simpa [allApart] using h.2)
    rw [valueAt]
    apply BitVec.eq_of_getLsbD_eq
    intro i hi
    have h3 := congrArg (fun w => w.getLsbD i) h2
    simp only [BitVec.getLsbD_and, BitVec.getLsbD_not, f.mask_bit i hi, BitVec.getLsbD_or, hi, decide_true, Bool.true_and] at h3 ⊢
    by_cases he : e.1.addr = a
    · rw [if_pos he, place_bit _ _ _ hi]
      have hs := h.1.1
      simp only [Field.apart, Bool.or_eq_true, decide_eq_true_eq, bne_iff_ne, ne_eq, he, ha, not_true_eq_false, or_false] at hs
      have hw : f.lo + f.width = f.hi + 1 := by unfold Field.width; omega
      have hw' : e.1.lo + e.1.width = e.1.hi + 1 := by have := h.1.2; unfold Field.width; omega
      rw [hw, hw']
      by_cases hx : f.lo ≤ i ∧ i < f.hi + 1
      · have : ¬ (e.1.lo ≤ i ∧ i < e.1.hi + 1) := by omega
        rw [hw, decide_eq_true hx] at h3
        rw [decide_eq_true hx, decide_eq_false this, Bool.false_and, Bool.false_or]
        exact h3
      · simp only [hx, decide_false, Bool.not_false, Bool.and_true]
    · rw [if_neg he, show (0 : Word).getLsbD i = false from BitVec.getLsbD_zero, Bool.false_or]
      exact h3

/-- Setting one more field, apart from those listed. -/
theorem FieldsAt.set {l : List (Field × Nat)} {o s : State} {a : Nat} (h : FieldsAt l o s a) (hs : s.wf = true) {f : Field} {v : Nat}
    (hf : f.lo ≤ f.hi) (hd : allApart l f = true) : FieldsAt ((f, v) :: l) o (s.set f v) a := by
  unfold FieldsAt at *
  rw [List.map_cons, maskAt, valueAt]
  by_cases ha : f.addr = a
  · subst ha
    rw [State.set, State.read_write_same, if_pos rfl, if_pos rfl, setBits_eq, h]
    have hv := valueAt_apart (a := f.addr) hd hf rfl
    apply BitVec.eq_of_getLsbD_eq
    intro i hi
    have := congrArg (fun w => w.getLsbD i) hv
    simp only [BitVec.getLsbD_and, BitVec.getLsbD_not, BitVec.getLsbD_or, hi, decide_true, Bool.true_and] at this ⊢
    generalize f.mask.getLsbD i = m at *
    generalize (valueAt l f.addr).getLsbD i = x at *
    generalize (o.read f.addr).getLsbD i = y at *
    generalize (maskAt (l.map (·.1)) f.addr).getLsbD i = z at *
    revert this
    generalize (BitVec.ofNat 32 (v % 2 ^ f.width * 2 ^ f.lo)).getLsbD i = q
    revert m x y z q
    decide
  · rw [State.read_set_ne s f v (Ne.symm ha), if_neg ha, if_neg ha, h]
    simp

theorem FieldsAt.refl (s : State) (a : Nat) : FieldsAt [] s s a := by
  simp only [FieldsAt, List.map_nil, maskAt, valueAt, show ~~~(0 : Word) = BitVec.allOnes 32 from by decide, BitVec.and_allOnes]
  exact BitVec.or_zero.symm

theorem Sets.refl (s : State) : Sets [] s s := ⟨rfl, FieldsAt.refl s⟩
theorem Sets.set {l : List (Field × Nat)} {o s : State} (h : Sets l o s) (hs : s.wf = true) {f : Field} {v : Nat}
    (hf : f.lo ≤ f.hi) (hd : allApart l f = true) : Sets ((f, v) :: l) o (s.set f v) :=
  ⟨h.1, fun a => (h.2 a).set hs hf hd⟩
theorem Sets.setFlag {l : List (Field × Nat)} {o s : State} (h : Sets l o s) (hs : s.wf = true) {f : Field} {b : Bool}
    (hf : f.lo ≤ f.hi) (hd : allApart l f = true) : Sets ((f, b2n b) :: l) o (s.setFlag f b) := h.set hs hf hd

theorem Posts.refl (s : State) : Posts [] s s := ⟨rfl, fun a _ => FieldsAt.refl s a⟩
theorem Posts.set {l : List (Field × Nat)} {o s : State} (h : Posts l o s) (hs : s.wf = true) {f : Field} {v : Nat}
    (hf : f.lo ≤ f.hi) (hd : allApart l f = true) : Posts ((f, v) :: l) o (s.set f v) :=
  ⟨h.1, fun a ha => (h.2 a ha).set hs hf hd⟩
theorem Posts.setFlag {l : List (Field × Nat)} {o s : State} (h : Posts l o s) (hs : s.wf = true) {f : Field} {b : Bool}
    (hf : f.lo ≤ f.hi) (hd : allApart l f = true) : Posts ((f, b2n b) :: l) o (s.setFlag f b) := h.set hs hf hd

/-- What only sets fields posts nothing. -/
theorem Sets.posts {l : List (Field × Nat)} {o s : State} (h : Sets l o s) : Posts l o s := by
  have e : s.aside o = State.aside { s with regs := o.regs } o := rfl
  exact ⟨by rw [e, h.1]; rfl, fun a _ => h.2 a⟩

/-- A change that leaves every register but those of the delivery. -/
theorem Posts.frame {l : List (Field × Nat)} {o s t : State} (h : Posts l o s) (hf : Frame [] s t) : Posts l o t := by
  refine ⟨?_, fun a ha => ?_⟩
  · have e : t.aside o = (t.aside s).aside o := rfl
    rw [e, hf.1]; exact h.1
  · unfold FieldsAt
    rw [hf.2 a (by simp) ha]
    exact h.2 a ha

/-- The count that a step adds. -/
theorem satTo_min (m n : Nat) : satTo m n = min m n := by unfold satTo; split <;> omega

/-- The fields listed read the values listed. -/
theorem FieldsAt.get {l : List (Field × Nat)} {s t : State} {f : Field} {v : Nat} (h : FieldsAt ((f, v) :: l) s t f.addr)
    (hf : f.ok = true) (hd : allApart l f = true) : t.get f = v % 2 ^ f.width := by
  simp only [Field.ok, Bool.and_eq_true, decide_eq_true_eq] at hf
  have hv := valueAt_apart (a := f.addr) hd hf.1.1 rfl
  unfold FieldsAt at h
  rw [List.map_cons, maskAt, valueAt, if_pos rfl, if_pos rfl] at h
  rw [State.get, h]
  apply Nat.eq_of_testBit_eq
  intro i
  rw [testBit_bits, Nat.testBit_mod_two_pow]
  by_cases hi : i < f.hi - f.lo + 1
  · have h32 : f.lo + i < 32 := by omega
    have hm : f.lo ≤ f.lo + i ∧ f.lo + i < f.lo + f.width := by unfold Field.width; omega
    have hw : i < f.width := hi
    have := congrArg (fun w => w.getLsbD (f.lo + i)) hv
    simp only [BitVec.getLsbD_and, BitVec.getLsbD_not, h32, decide_true, f.mask_bit _ h32, hm, and_self, Bool.not_true,
      Bool.and_false] at this
    rw [BitVec.testBit_toNat, BitVec.getLsbD_or, BitVec.getLsbD_and, BitVec.getLsbD_not, BitVec.getLsbD_or, BitVec.getLsbD_or,
      f.mask_bit _ h32, place_bit _ _ _ h32, ← this]
    simp [hi, hw, hm, h32, Nat.add_sub_cancel_left]
  · have hw : ¬ i < f.width := hi
    simp [hi, hw]

end Sys2Proof.Machine
end

