-- ==== Sys2Proof/Laws/HostWrite.lean ====
section
/-! SUPPORT. Laws of BAR0 writes: what an accepted 32-bit write comes down to, a write that acts through some bits of a register
and leaves the others, and counting an ignored write once. -/

namespace Sys2Proof.Machine

/-! ### Bits of numbers -/

theorem bit_eq_testBit (v i : Nat) : bit v i = v.testBit i := by
  rw [bit, Nat.testBit_eq_decide_div_mod_eq]
  by_cases h : v / 2 ^ i % 2 = 1 <;> simp [h]

/-- A bit of the value that a write through some bits of a register hands on. -/
theorem bit_act (x m act wm i : Nat) : bit (((x &&& m) ||| act) % 2 ^ 32 &&& wm) i
    = (decide (i < 32) && ((x.testBit i && m.testBit i) || act.testBit i) && wm.testBit i) := by
  rw [bit_eq_testBit, Nat.testBit_and, Nat.testBit_mod_two_pow, Nat.testBit_or, Nat.testBit_and]

/-! ### Writes that change nothing -/

/-- Writing back what a register holds changes nothing. -/
theorem State.write_read {s : State} (h : s.wf = true) (a : Nat) : s.write a (s.read a) = s := by
  unfold State.write State.read
  rw [sput_sget h]

/-! ### Accepted writes -/

theorem hostWrite_four {s : State} {addr v : Nat} {r : RegRow} (hr : regRow addr = some r) (ha : addr % 4 = 0)
    (h : s.answers (addr / 0x10000)) (hl : stateAdmits s r addr = true) :
    hostWrite s addr 4 v = countOnce s (regWrite s addr (v % 2 ^ 32 &&& writableMask r)) := by
  obtain ⟨h1, h2, h3⟩ := h
  simp [hostWrite, writeWord, hr, ha, h1, h2, h3, hl]

/-- A write that acts through some bits and leaves the rest. -/
theorem actWrite_eq {s : State} {addr act : Nat} {r : RegRow} (hr : regRow addr = some r) (ha : addr % 4 = 0)
    (h : s.answers (addr / 0x10000)) (hl : stateAdmits s r addr = true) :
    actWrite s addr act
      = countOnce s (regWrite s addr ((((s.read addr).toNat &&& r.rw.toNat) ||| act) % 2 ^ 32 &&& writableMask r)) := by
  rw [actWrite, hostWrite_four hr ha h hl, rwMask, hr]

/-- A write that is not ignored is not counted. -/
theorem countOnce_of_le {old s : State} (h : s.get F.GEN_WRERR_CNT.COUNT ≤ old.get F.GEN_WRERR_CNT.COUNT + 1) :
    countOnce old s = s := by
  rw [countOnce, if_pos h]

/-- An ignored write is counted once. -/
theorem countOnce_wrErr {s : State} (h : s.wf = true) : countOnce s s.wrErr = s.wrErr := by
  refine countOnce_of_le ?_
  rw [State.wrErr, State.get_bump_same h rfl]
  omega

/-! ### Plain effects -/

/-- What a register holds after a plain write (R4, R5). -/
theorem storeReg_read {s : State} {addr v : Nat} {r : RegRow} (hw : s.wf = true) (hr : regRow addr = some r) :
    (storeReg s addr v).read addr = ((s.read addr &&& ~~~((r.rw ||| r.rwl) ||| r.w1c))
      ||| (BitVec.ofNat 32 v &&& (r.rw ||| r.rwl)) ||| (s.read addr &&& r.w1c &&& ~~~BitVec.ofNat 32 v)) := by
  rw [storeReg, hr]
  exact State.read_write_same addr _

theorem storeReg_read_ne {s : State} {addr v b : Nat} (h : b ≠ addr) : (storeReg s addr v).read b = s.read b := by
  unfold storeReg
  split
  · rfl
  · exact State.read_write_ne s _ h

theorem storeReg_wf {s : State} {addr v : Nat} (h : s.wf = true) : (storeReg s addr v).wf = true := by
  unfold storeReg
  split
  · exact h
  · exact State.wf_write h _ _

/-- A write that acts through write-only bits leaves the register as it was. -/
theorem storeReg_act {s : State} {addr act : Nat} {r : RegRow} (hw : s.wf = true) (hr : regRow addr = some r)
    (hl : r.rwl = 0) (hc : r.w1c = 0) (hm : act &&& r.rw.toNat = 0) :
    storeReg s addr ((((s.read addr).toNat &&& r.rw.toNat) ||| act) % 2 ^ 32 &&& writableMask r) = s := by
  have he : ∀ old : Word, (old &&& ~~~((r.rw ||| r.rwl) ||| r.w1c))
      ||| (BitVec.ofNat 32 (((old.toNat &&& r.rw.toNat) ||| act) % 2 ^ 32 &&& writableMask r) &&& (r.rw ||| r.rwl))
      ||| (old &&& r.w1c &&& ~~~BitVec.ofNat 32 (((old.toNat &&& r.rw.toNat) ||| act) % 2 ^ 32 &&& writableMask r)) = old := by
    intro old
    rw [hl, hc]
    apply BitVec.eq_of_getLsbD_eq
    intro i hi
    have ha : (act.testBit i && r.rw.getLsbD i) = false := by
      have := congrArg (fun n => Nat.testBit n i) hm
      simpa [Nat.testBit_and, ← BitVec.testBit_toNat] using this
    simp only [BitVec.getLsbD_or, BitVec.getLsbD_and, BitVec.getLsbD_not, BitVec.getLsbD_ofNat, Nat.testBit_and,
      Nat.testBit_mod_two_pow, Nat.testBit_or, BitVec.testBit_toNat, writableMask, BitVec.toNat_or, hl, hc, hi,
      decide_true, Bool.true_and]
    cases old.getLsbD i <;> cases h2 : r.rw.getLsbD i <;> simp_all
  rw [storeReg, hr]
  simp only [he]
  exact State.write_read hw addr

end Sys2Proof.Machine
end

