-- ==== Sys2Proof/Laws/Keeps.lean ====
section
/-! SUPPORT. What every command keeps (the invariant, the queue, the clock) and what it only adds to (outputs, uses of free
values): what it says of a state built from another one, of folds over a list, of answers with a state in them, and of the outcomes of commands. -/

namespace Sys2Proof.Machine

/-- What `State.Sound` says of the parts of a state that it is about. -/
def SoundParts (regs : List (Nat × Word)) (deck : DeckState) (probe : List (Nat × ProbePort))
    (kerf : List (Nat × KerfPort)) (scaler : List (Nat × SclPort)) (comp : List (Nat × List Byte))
    (baseline : List (Nat × List Byte)) (profileBuf : List (Nat × List Byte)) (cal : List (Nat × CalUnit))
    (sky : List (Nat × SkyChain)) (fio : List (Nat × FioChan)) (hifCpl : List (Nat × CplRing))
    (hifEvr : List (Nat × EvrRing)) (hifCap : List (Nat × CapRing)) (flumeTable : List (Nat × List Byte))
    (flumePorts : List (Nat × List Byte)) (flumeStreams : List (Nat × FStream)) (flumePort : List (Nat × FPort))
    (flumeCtx : List (Nat × ChipCtx)) (landingDir : List (Nat × CapEntry)) (landingTable : List (Nat × List Byte))
    (bkgChanLoaded : List (Nat × List Byte)) (bkgChans : List (Nat × List Byte)) (bkgSetLoaded : List (Nat × List Byte))
    (bkgSets : List (Nat × List Byte)) (bkgBanks : List (Nat × List Byte)) (bkgChan : List (Nat × BkgChan))
    (bkgSet : List (Nat × BkgSet)) (bkgFade : List (Nat × BkgFade)) (bkgPort : List (Nat × BkgPort))
    (cruZoneLoaded : List (Nat × List Byte)) (cruZones : List (Nat × List Byte)) (cruTplLoaded : List (Nat × List Byte))
    (cruTpls : List (Nat × List Byte)) (cruZone : List (Nat × CruZone)) (cruProfs : List (Nat × List (List Byte)))
    (lampObj : List (Nat × LampObj)) (lampAdj : List (Nat × AdjPair)) (lampBank : List (Nat × BankSt))
    (wedgeGroup : List (Nat × WGroup)) (wedgeLane : List (Nat × LaneSt)) (markRule : List (Nat × RuleSt))
    (markHreqAt : List (Nat × Nat)) (seq n : Nat) : Prop :=
  CoreWf regs deck probe kerf scaler comp baseline profileBuf cal sky fio ∧ HostWf hifCpl hifEvr hifCap ∧ FlumeWf
    flumeTable flumePorts flumeStreams flumePort flumeCtx ∧ LandingWf landingDir landingTable ∧ BkgWf bkgChanLoaded
    bkgChans bkgSetLoaded bkgSets bkgBanks bkgChan bkgSet bkgFade bkgPort ∧ CruWf cruZoneLoaded cruZones cruTplLoaded
    cruTpls cruZone cruProfs ∧ LampWf lampObj lampAdj lampBank ∧ RulesWf wedgeGroup wedgeLane markRule markHreqAt ∧ seq
    < 2 ^ 32 ∧ n ≤ 8

/-- `s` came from `o` by operations of a command: it is sound if `o` was, its queue and the model's clock are those of `o`,
free values were only used up and outputs only added. -/
def Keeps (o s : State) : Prop :=
  (o.Sound → s.Sound) ∧ s.pending = o.pending ∧ s.elapsed = o.elapsed ∧ o.freeCount ≤ s.freeCount ∧ o.out <:+ s.out

/-- What `Keeps` says of the parts of a state that it is about. -/
def KeepsParts (o : State) (pending : List Instr) (regs : List (Nat × Word)) (elapsed freeCount : Nat)
    (out : List Output) (deck : DeckState) (probe : List (Nat × ProbePort)) (kerf : List (Nat × KerfPort))
    (scaler : List (Nat × SclPort)) (comp : List (Nat × List Byte)) (baseline : List (Nat × List Byte))
    (profileBuf : List (Nat × List Byte)) (cal : List (Nat × CalUnit)) (sky : List (Nat × SkyChain))
    (fio : List (Nat × FioChan)) (hifCpl : List (Nat × CplRing)) (hifEvr : List (Nat × EvrRing))
    (hifCap : List (Nat × CapRing)) (flumeTable : List (Nat × List Byte)) (flumePorts : List (Nat × List Byte))
    (flumeStreams : List (Nat × FStream)) (flumePort : List (Nat × FPort)) (flumeCtx : List (Nat × ChipCtx))
    (landingDir : List (Nat × CapEntry)) (landingTable : List (Nat × List Byte))
    (bkgChanLoaded : List (Nat × List Byte)) (bkgChans : List (Nat × List Byte)) (bkgSetLoaded : List (Nat × List Byte))
    (bkgSets : List (Nat × List Byte)) (bkgBanks : List (Nat × List Byte)) (bkgChan : List (Nat × BkgChan))
    (bkgSet : List (Nat × BkgSet)) (bkgFade : List (Nat × BkgFade)) (bkgPort : List (Nat × BkgPort))
    (cruZoneLoaded : List (Nat × List Byte)) (cruZones : List (Nat × List Byte)) (cruTplLoaded : List (Nat × List Byte))
    (cruTpls : List (Nat × List Byte)) (cruZone : List (Nat × CruZone)) (cruProfs : List (Nat × List (List Byte)))
    (lampObj : List (Nat × LampObj)) (lampAdj : List (Nat × AdjPair)) (lampBank : List (Nat × BankSt))
    (wedgeGroup : List (Nat × WGroup)) (wedgeLane : List (Nat × LaneSt)) (markRule : List (Nat × RuleSt))
    (markHreqAt : List (Nat × Nat)) (seq n : Nat) : Prop :=
  (o.Sound → SoundParts regs deck probe kerf scaler comp baseline profileBuf cal sky fio hifCpl hifEvr hifCap
    flumeTable flumePorts flumeStreams flumePort flumeCtx landingDir landingTable bkgChanLoaded bkgChans bkgSetLoaded
    bkgSets bkgBanks bkgChan bkgSet bkgFade bkgPort cruZoneLoaded cruZones cruTplLoaded cruTpls cruZone cruProfs lampObj
    lampAdj lampBank wedgeGroup wedgeLane markRule markHreqAt seq n) ∧ pending = o.pending ∧ elapsed = o.elapsed
    ∧ o.freeCount ≤ freeCount ∧ o.out <:+ out

theorem keepsParts_fold {o s : State} (h : Keeps o s) : KeepsParts o s.pending s.regs s.elapsed s.freeCount s.out
    s.deck s.probe s.kerf s.scaler s.comp s.baseline s.profileBuf s.cal s.sky s.fio s.hif.cpl s.hif.evr s.hif.cap
    s.flume.table s.flume.ports s.flume.streams s.flume.port s.flume.ctx s.landing.dir s.landing.table s.bkg.chanLoaded
    s.bkg.chans s.bkg.setLoaded s.bkg.sets s.bkg.banks s.bkg.chan s.bkg.set s.bkg.fade s.bkg.port s.cru.zoneLoaded
    s.cru.zones s.cru.tplLoaded s.cru.tpls s.cru.zone s.cru.profs s.lamp.obj s.lamp.adj s.lamp.bank s.wedge.group
    s.wedge.lane s.mark.rule s.mark.hreqAt s.seq s.sst.records.length := h

theorem keepsParts_change {o s : State} {regs : List (Nat × Word)} {deck : DeckState}
    {probe : List (Nat × ProbePort)} {kerf : List (Nat × KerfPort)} {scaler : List (Nat × SclPort)}
    {comp : List (Nat × List Byte)} {baseline : List (Nat × List Byte)} {profileBuf : List (Nat × List Byte)}
    {cal : List (Nat × CalUnit)} {sky : List (Nat × SkyChain)} {fio : List (Nat × FioChan)}
    {hifCpl : List (Nat × CplRing)} {hifEvr : List (Nat × EvrRing)} {hifCap : List (Nat × CapRing)}
    {flumeTable : List (Nat × List Byte)} {flumePorts : List (Nat × List Byte)} {flumeStreams : List (Nat × FStream)}
    {flumePort : List (Nat × FPort)} {flumeCtx : List (Nat × ChipCtx)} {landingDir : List (Nat × CapEntry)}
    {landingTable : List (Nat × List Byte)} {bkgChanLoaded : List (Nat × List Byte)} {bkgChans : List (Nat × List Byte)}
    {bkgSetLoaded : List (Nat × List Byte)} {bkgSets : List (Nat × List Byte)} {bkgBanks : List (Nat × List Byte)}
    {bkgChan : List (Nat × BkgChan)} {bkgSet : List (Nat × BkgSet)} {bkgFade : List (Nat × BkgFade)}
    {bkgPort : List (Nat × BkgPort)} {cruZoneLoaded : List (Nat × List Byte)} {cruZones : List (Nat × List Byte)}
    {cruTplLoaded : List (Nat × List Byte)} {cruTpls : List (Nat × List Byte)} {cruZone : List (Nat × CruZone)}
    {cruProfs : List (Nat × List (List Byte))} {lampObj : List (Nat × LampObj)} {lampAdj : List (Nat × AdjPair)}
    {lampBank : List (Nat × BankSt)} {wedgeGroup : List (Nat × WGroup)} {wedgeLane : List (Nat × LaneSt)}
    {markRule : List (Nat × RuleSt)} {markHreqAt : List (Nat × Nat)} {seq n : Nat} (h : Keeps o s)
    (hq : s.Sound → SoundParts regs deck probe kerf scaler comp baseline profileBuf cal sky fio hifCpl hifEvr hifCap flumeTable flumePorts flumeStreams flumePort flumeCtx landingDir landingTable bkgChanLoaded bkgChans bkgSetLoaded bkgSets bkgBanks bkgChan bkgSet bkgFade bkgPort cruZoneLoaded cruZones cruTplLoaded cruTpls cruZone cruProfs lampObj lampAdj lampBank wedgeGroup wedgeLane markRule markHreqAt seq n)
    : KeepsParts o s.pending regs s.elapsed s.freeCount s.out deck probe kerf scaler comp baseline profileBuf cal
    sky fio hifCpl hifEvr hifCap flumeTable flumePorts flumeStreams flumePort flumeCtx landingDir landingTable
    bkgChanLoaded bkgChans bkgSetLoaded bkgSets bkgBanks bkgChan bkgSet bkgFade bkgPort cruZoneLoaded cruZones
    cruTplLoaded cruTpls cruZone cruProfs lampObj lampAdj lampBank wedgeGroup wedgeLane markRule markHreqAt seq n :=
    ⟨fun ho => hq (h.1 ho), h.2⟩

theorem keeps_mk {o : State} {pending : List Instr} {regs : List (Nat × Word)} {now : BitVec 64} {elapsed : Nat} {freeCount : Nat}
    {out : List Output} {seq : Nat} {hif : HifState} {flume : FlumeState} {deck : DeckState}
    {landing : LandingState} {presented : List EventRec} {profileBuf : List (Nat × List Byte)}
    {probe : List (Nat × ProbePort)} {loop : LoopState} {kerf : List (Nat × KerfPort)}
    {scaler : List (Nat × SclPort)} {comp : List (Nat × List Byte)} {baseline : List (Nat × List Byte)}
    {bkg : BkgState} {cru : CruState} {returning : Bool} {returnAt : Nat} {lamp : LampState}
    {cal : List (Nat × CalUnit)} {wedge : WedgeState} {mark : MarkState} {sky : List (Nat × SkyChain)}
    {fio : List (Nat × FioChan)} {clk : ClockState} {tb : TimebaseState} {start : StartState} {sst : SstState}
    {failedAt : Option Nat} {powerAt : Nat} {firstSlot : Bool} {startPosted : Bool} :
    Keeps o ⟨pending, regs, now, elapsed, freeCount, out, seq, hif, flume, deck, landing, presented, profileBuf, probe, loop,
      kerf, scaler, comp, baseline, bkg, cru, returning, returnAt, lamp, cal, wedge, mark, sky, fio, clk, tb, start,
      sst, failedAt, powerAt, firstSlot, startPosted⟩
      ↔ KeepsParts o pending regs elapsed freeCount out deck probe kerf scaler comp baseline profileBuf cal
          sky fio hif.cpl hif.evr hif.cap flume.table flume.ports flume.streams flume.port flume.ctx landing.dir landing.table
          bkg.chanLoaded bkg.chans bkg.setLoaded bkg.sets bkg.banks bkg.chan bkg.set bkg.fade bkg.port cru.zoneLoaded
          cru.zones cru.tplLoaded cru.tpls cru.zone cru.profs lamp.obj lamp.adj lamp.bank wedge.group wedge.lane mark.rule
          mark.hreqAt seq sst.records.length := Iff.rfl

theorem Keeps.refl (s : State) : Keeps s s := ⟨id, rfl, rfl, Nat.le_refl _, List.suffix_refl _⟩

theorem Keeps.trans {a b c : State} (h1 : Keeps a b) (h2 : Keeps b c) : Keeps a c :=
  ⟨fun h => h2.1 (h1.1 h), h2.2.1.trans h1.2.1, h2.2.2.1.trans h1.2.2.1, Nat.le_trans h1.2.2.2.1 h2.2.2.2.1,
    h1.2.2.2.2.trans h2.2.2.2.2⟩

/-- A change of what is not the queue, the clock, the free values or the outputs. -/
theorem Keeps.change {o s t : State} (h : Keeps o s) (hs : s.Sound → t.Sound) (h1 : t.pending = s.pending)
    (h2 : t.elapsed = s.elapsed) (h3 : t.freeCount = s.freeCount) (h4 : t.out = s.out) : Keeps o t :=
  h.trans ⟨hs, h1, h2, Nat.le_of_eq h3.symm, h4.symm ▸ List.suffix_refl s.out⟩

theorem keeps_let {o : State} (x : State) {P : Prop} (hx : Keeps o x) (h : Keeps o x → P) : P := h hx

theorem keeps_let_fst {o : State} {β : Type} (x : State × β) {P : Prop} (hx : Keeps o x.1) (h : Keeps o x.1 → P) : P := h hx

theorem keeps_let_fun {α β : Type} (_ : α → β) {P : Prop} (h : P) : P := h

theorem keeps_let_hif (_ : HifState) {P : Prop} (h : P) : P := h
theorem keeps_let_flume (_ : FlumeState) {P : Prop} (h : P) : P := h
theorem keeps_let_landing (_ : LandingState) {P : Prop} (h : P) : P := h
theorem keeps_let_bkg (_ : BkgState) {P : Prop} (h : P) : P := h
theorem keeps_let_cru (_ : CruState) {P : Prop} (h : P) : P := h
theorem keeps_let_lamp (_ : LampState) {P : Prop} (h : P) : P := h
theorem keeps_let_wedge (_ : WedgeState) {P : Prop} (h : P) : P := h
theorem keeps_let_mark (_ : MarkState) {P : Prop} (h : P) : P := h

theorem keeps_let_map (_ : List (Nat × List Byte)) {P : Prop} (h : P) : P := h

theorem State.each_keeps {o : State} {α : Type} {s : State} {l : List α} {f : State → α → State} (h : Keeps o s)
    (hf : ∀ s a, Keeps o s → Keeps o (f s a)) : Keeps o (s.each l f) := by
  unfold State.each
  induction l generalizing s with
  | nil => exact h
  | cons a t ih => exact ih (hf s a h)

theorem foldl_keeps {o : State} {α : Type} {s : State} {l : List α} {f : State → α → State} (h : Keeps o s)
    (hf : ∀ s a, Keeps o s → Keeps o (f s a)) : Keeps o (l.foldl f s) := State.each_keeps h hf

theorem foldl_fst_keeps {o : State} {α β : Type} {s : State × β} {l : List α} {f : State × β → α → State × β}
    (h : Keeps o s.1) (hf : ∀ s a, Keeps o s.1 → Keeps o (f s a).1) : Keeps o (l.foldl f s).1 := by
  induction l generalizing s with
  | nil => exact h
  | cons a t ih => exact ih (hf s a h)

/-- An outcome that is a next state, one that keeps what `Keeps` says. -/
structure KeepsOut (o : State) (r : Host.Outcome State Fault Refusal) : Prop where
  next : ∃ t, r = .next t ∧ Keeps o t

theorem keepsOut_next {o s : State} (h : Keeps o s) : KeepsOut o (.next s) := ⟨s, rfl, h⟩

/-! ### The operations on registers, outputs and free values -/

theorem State.write_keeps {o s : State} {a : Nat} {w : Word} (h : Keeps o s) : Keeps o (s.write a w) :=
  h.change (fun hs => ⟨⟨swf_sput a w hs.1.1, hs.1.2⟩, hs.2⟩) rfl rfl rfl rfl
theorem State.set_keeps {o s : State} {f : Field} {v : Nat} (h : Keeps o s) : Keeps o (s.set f v) := State.write_keeps h
theorem State.setFlag_keeps {o s : State} {f : Field} {b : Bool} (h : Keeps o s) : Keeps o (s.setFlag f b) :=
  State.write_keeps h
theorem State.count_keeps {o s : State} {f : Field} {n : Nat} (h : Keeps o s) : Keeps o (s.count f n) := State.write_keeps h
theorem State.bump_keeps {o s : State} {f : Field} (h : Keeps o s) : Keeps o (s.bump f) := State.write_keeps h
theorem State.wrErr_keeps {o s : State} (h : Keeps o s) : Keeps o s.wrErr := State.write_keeps h
theorem State.emit_keeps {o s : State} {x : Output} (h : Keeps o s) : Keeps o (s.emit x) :=
  ⟨h.1, h.2.1, h.2.2.1, h.2.2.2.1, h.2.2.2.2.trans (List.suffix_cons _ _)⟩
theorem State.tookFree_keeps {o s : State} (h : Keeps o s) : Keeps o s.tookFree :=
  ⟨h.1, h.2.1, h.2.2.1, Nat.le_succ_of_le h.2.2.2.1, h.2.2.2.2⟩
theorem State.clearAll_keeps {o s : State} {fs : List Field} (h : Keeps o s) : Keeps o (s.clearAll fs) :=
  foldl_keeps h fun _ _ h => State.set_keeps h

/-- Entries left out of a canonical map leave it canonical. -/
theorem swf_filter {α : Type} [DecidableEq α] {d : Nat → α} {m : List (Nat × α)} {p : Nat × α → Bool}
    (h : swf d m = true) : swf d (m.filter p) = true := swf_filter_from h

/-- Writes one after another keep a map canonical. -/
theorem swf_foldl {α β : Type} [DecidableEq α] {d : Nat → α} {l : List β} {f : List (Nat × α) → β → List (Nat × α)}
    (hf : ∀ m b, swf d m = true → swf d (f m b) = true) {m : List (Nat × α)} (h : swf d m = true) :
    swf d (l.foldl f m) = true := by
  induction l generalizing m with
  | nil => exact h
  | cons b t ih => exact ih (hf m b h)

theorem swf_nil {α : Type} [DecidableEq α] {d : Nat → α} : swf d [] = true := rfl

/-- Entries set one after another keep a map canonical. -/
theorem swf_foldl_sput {α β : Type} [DecidableEq α] {d : Nat → α} {l : List β} {k : β → Nat} {v : List (Nat × α) → β → α}
    {m : List (Nat × α)} (h : swf d m = true) : swf d (l.foldl (fun m i => sput d m (k i) (v m i)) m) = true :=
  swf_foldl (fun _ _ h => swf_sput _ _ h) h

/-! ### The tables that stand directly in the state -/

theorem State.Sound.coreWf {s : State} (h : s.Sound) :
    CoreWf s.regs s.deck s.probe s.kerf s.scaler s.comp s.baseline s.profileBuf s.cal s.sky s.fio := h.1
theorem State.Sound.hostWf {s : State} (h : s.Sound) :
    HostWf s.hif.cpl s.hif.evr s.hif.cap := h.2.1
theorem State.Sound.flumeWf {s : State} (h : s.Sound) :
    FlumeWf s.flume.table s.flume.ports s.flume.streams s.flume.port s.flume.ctx := h.2.2.1
theorem State.Sound.landingWf {s : State} (h : s.Sound) :
    LandingWf s.landing.dir s.landing.table := h.2.2.2.1
theorem State.Sound.bkgWf {s : State} (h : s.Sound) :
    BkgWf s.bkg.chanLoaded s.bkg.chans s.bkg.setLoaded s.bkg.sets s.bkg.banks s.bkg.chan s.bkg.set s.bkg.fade
      s.bkg.port := h.2.2.2.2.1
theorem State.Sound.cruWf {s : State} (h : s.Sound) :
    CruWf s.cru.zoneLoaded s.cru.zones s.cru.tplLoaded s.cru.tpls s.cru.zone s.cru.profs := h.2.2.2.2.2.1
theorem State.Sound.lampWf {s : State} (h : s.Sound) :
    LampWf s.lamp.obj s.lamp.adj s.lamp.bank := h.2.2.2.2.2.2.1
theorem State.Sound.rulesWf {s : State} (h : s.Sound) :
    RulesWf s.wedge.group s.wedge.lane s.mark.rule s.mark.hreqAt := h.2.2.2.2.2.2.2.1
theorem State.Sound.wf {s : State} (h : s.Sound) : s.wf = true := h.1.1
theorem State.Sound.deckWf {s : State} (h : s.Sound) : DeckWf s.deck := h.1.2.1
theorem State.Sound.comp {s : State} (h : s.Sound) : swf (fun _ => zeroEntry 16) s.comp = true := h.1.2.2.2.2.2.1
theorem State.Sound.baseline {s : State} (h : s.Sound) : swf (fun _ => noBaseline) s.baseline = true := h.1.2.2.2.2.2.2.1
theorem State.Sound.profileBuf {s : State} (h : s.Sound) : swf (fun _ => ([] : List Byte)) s.profileBuf = true :=
  h.1.2.2.2.2.2.2.2.1
theorem State.Sound.seq {s : State} (h : s.Sound) : s.seq < 2 ^ 32 := h.2.2.2.2.2.2.2.2.1
theorem State.Sound.records {s : State} (h : s.Sound) : s.sst.records.length ≤ 8 := h.2.2.2.2.2.2.2.2.2

theorem keeps_comp {o s : State} {t : List (Nat × List Byte)} (ht : s.Sound → swf (fun _ => zeroEntry 16) t = true)
    (h : Keeps o s) : Keeps o { s with comp := t } := by
  refine h.change (fun hs => ?_) rfl rfl rfl rfl
  have ht := ht hs
  unfold State.Sound CoreWf at *
  simp only [hs, ht, and_self]

theorem keeps_baseline {o s : State} {t : List (Nat × List Byte)} (ht : s.Sound → swf (fun _ => noBaseline) t = true)
    (h : Keeps o s) : Keeps o { s with baseline := t } := by
  refine h.change (fun hs => ?_) rfl rfl rfl rfl
  have ht := ht hs
  unfold State.Sound CoreWf at *
  simp only [hs, ht, and_self]

theorem keeps_profileBuf {o s : State} {p : Nat} {v : List Byte} (h : Keeps o s) :
    Keeps o { s with profileBuf := sput (fun _ => []) s.profileBuf p v } := by
  refine h.change (fun hs => ?_) rfl rfl rfl rfl
  unfold State.Sound CoreWf at *
  simp only [hs, swf_sput, and_self]

end Sys2Proof.Machine
end

