-- ==== Sys2Proof/Laws/KeepsRings.lean ====
section
/-! SUPPORT. The operations of Machine/Rings.lean keep what every command keeps. -/

namespace Sys2Proof.Machine

theorem State.msix_keeps {org : State} {s : State} {v : Nat} (hs : Keeps org s) :
    Keeps org (State.msix s v) := by
  unfold State.msix
  repeat' (first
    | with_reducible assumption
    | with_reducible refine State.set_keeps ?_
    | with_reducible refine State.emit_keeps ?_
    | split
    | dsimp -zeta only)

theorem State.msixUnmask_keeps {org : State} {s : State} {v : Nat} (hs : Keeps org s) :
    Keeps org (State.msixUnmask s v) := by
  unfold State.msixUnmask
  repeat' (first
    | with_reducible assumption
    | with_reducible refine State.set_keeps ?_
    | with_reducible refine State.emit_keeps ?_
    | with_reducible refine State.msix_keeps ?_
    | split
    | dsimp -zeta only)

theorem State.hifEvt_keeps {org : State} {s : State} {f : Field} (hs : Keeps org s) :
    Keeps org (State.hifEvt s f) := by
  unfold State.hifEvt
  repeat' (first
    | with_reducible assumption
    | ((try lift_lets -underBinder); intro x; first | (with_reducible refine keeps_let (o := org) x ?_ ?_; rotate_left; intro hx; clear_value x; rotate_right; subst x) | clear_value x)
    | with_reducible refine State.set_keeps ?_
    | with_reducible refine State.msix_keeps ?_
    | split
    | dsimp -zeta only)

theorem writeEntry_keeps {org : State} {s : State} {k : RingKind} {n : Nat} {bytes : List Byte} (hs : Keeps org s) :
    Keeps org (writeEntry s k n bytes) := by
  unfold writeEntry
  repeat' (first
    | with_reducible assumption
    | ((try lift_lets -underBinder); intro x; first | (with_reducible refine keeps_let (o := org) x ?_ ?_; rotate_left; intro hx; clear_value x; rotate_right; subst x) | clear_value x)
    | with_reducible refine State.set_keeps ?_
    | with_reducible refine State.emit_keeps ?_
    | split
    | dsimp -zeta only)

theorem State.setCplRing_keeps {org : State} {s : State} {n : Nat} {r : CplRing} (hs : Keeps org s) :
    Keeps org (State.setCplRing s n r) := by
  unfold State.setCplRing
  repeat' (first
    | with_reducible assumption
    | split
    | dsimp -zeta only
    | (rw [keeps_mk]; refine keepsParts_fold ?_)
    | (rw [keeps_mk]; refine keepsParts_change ?_ (fun h0 => by unfold SoundParts State.Sound HostWf at *; simp only [h0, swf_sput, and_self])))

theorem State.setEvrRing_keeps {org : State} {s : State} {n : Nat} {r : EvrRing} (hs : Keeps org s) :
    Keeps org (State.setEvrRing s n r) := by
  unfold State.setEvrRing
  repeat' (first
    | with_reducible assumption
    | split
    | dsimp -zeta only
    | (rw [keeps_mk]; refine keepsParts_fold ?_)
    | (rw [keeps_mk]; refine keepsParts_change ?_ (fun h0 => by unfold SoundParts State.Sound HostWf at *; simp only [h0, swf_sput, and_self])))

theorem cplInterrupt_keeps {org : State} {s : State} {n : Nat} (hs : Keeps org s) :
    Keeps org (cplInterrupt s n) := by
  unfold cplInterrupt
  repeat' (first
    | with_reducible assumption
    | ((try lift_lets -underBinder); intro x; first | (with_reducible refine keeps_let (o := org) x ?_ ?_; rotate_left; intro hx; clear_value x; rotate_right; subst x) | (with_reducible refine keeps_let_fst (o := org) x ?_ ?_; rotate_left; intro hx; clear_value x; rotate_right; subst x) | clear_value x)
    | with_reducible refine State.msix_keeps ?_
    | with_reducible refine State.setCplRing_keeps ?_
    | split
    | dsimp -zeta only
    | (rw [keeps_mk]; refine keepsParts_fold ?_))

theorem evrInterrupt_keeps {org : State} {s : State} {n : Nat} (hs : Keeps org s) :
    Keeps org (evrInterrupt s n) := by
  unfold evrInterrupt
  repeat' (first
    | with_reducible assumption
    | ((try lift_lets -underBinder); intro x; first | (with_reducible refine keeps_let (o := org) x ?_ ?_; rotate_left; intro hx; clear_value x; rotate_right; subst x) | (with_reducible refine keeps_let_fst (o := org) x ?_ ?_; rotate_left; intro hx; clear_value x; rotate_right; subst x) | clear_value x)
    | with_reducible refine State.msix_keeps ?_
    | with_reducible refine State.setEvrRing_keeps ?_
    | split
    | dsimp -zeta only
    | (rw [keeps_mk]; refine keepsParts_fold ?_))

theorem evrLose_keeps {org : State} {s : State} {n : Nat} {r : EventRec} (hs : Keeps org s) :
    Keeps org (evrLose s n r) := by
  unfold evrLose
  repeat' (first
    | with_reducible assumption
    | ((try lift_lets -underBinder); intro x; first | (with_reducible refine keeps_let (o := org) x ?_ ?_; rotate_left; intro hx; clear_value x; rotate_right; subst x) | clear_value x)
    | with_reducible refine State.bump_keeps ?_
    | with_reducible refine State.hifEvt_keeps ?_
    | with_reducible refine State.setEvrRing_keeps ?_
    | split
    | dsimp -zeta only
    | (rw [keeps_mk]; refine keepsParts_fold ?_))

theorem evrRefresh_keeps {org : State} {s : State} {n : Nat} (hs : Keeps org s) :
    Keeps org (evrRefresh s n) := by
  unfold evrRefresh
  repeat' (first
    | with_reducible assumption
    | with_reducible refine State.set_keeps ?_
    | split
    | dsimp -zeta only)

theorem evrWrite_keeps {org : State} {s : State} {n : Nat} {r : EventRec} (hs : Keeps org s) :
    Keeps org (evrWrite s n r) := by
  unfold evrWrite
  repeat' (first
    | with_reducible assumption
    | ((try lift_lets -underBinder); intro x; first | (with_reducible refine keeps_let (o := org) x ?_ ?_; rotate_left; intro hx; clear_value x; rotate_right; subst x) | clear_value x)
    | with_reducible refine writeEntry_keeps ?_
    | with_reducible refine State.setEvrRing_keeps ?_
    | with_reducible refine evrInterrupt_keeps ?_
    | with_reducible refine evrRefresh_keeps ?_
    | split
    | dsimp -zeta only
    | (rw [keeps_mk]; refine keepsParts_fold ?_))

theorem lossReport_keeps {org : State} {s : State} {n : Nat} (hs : Keeps org s) :
    Keeps org (lossReport s n) := by
  unfold lossReport
  repeat' (first
    | with_reducible assumption
    | ((try lift_lets -underBinder); intro x; first | (with_reducible refine keeps_let (o := org) x ?_ ?_; rotate_left; intro hx; clear_value x; rotate_right; subst x) | (with_reducible refine keeps_let_fst (o := org) x ?_ ?_; rotate_left; intro hx; clear_value x; rotate_right; subst x) | (with_reducible refine keeps_let_fun x ?_; subst x) | clear_value x)
    | with_reducible refine State.emit_keeps ?_
    | with_reducible refine State.setEvrRing_keeps ?_
    | with_reducible refine evrWrite_keeps ?_
    | with_reducible refine foldl_keeps ?_ (fun s1 a1 h1 => ?_)
    | with_reducible refine foldl_fst_keeps ?_ (fun s1 a1 h1 => ?_)
    | split
    | dsimp -zeta only
    | (rw [keeps_mk]; refine keepsParts_fold ?_))

theorem evrOffer_keeps {org : State} {s : State} {r : EventRec} {n : Nat} (hs : Keeps org s) :
    Keeps org (evrOffer s r n) := by
  unfold evrOffer
  repeat' (first
    | with_reducible assumption
    | ((try lift_lets -underBinder); intro x; first | (with_reducible refine keeps_let (o := org) x ?_ ?_; rotate_left; intro hx; clear_value x; rotate_right; subst x) | clear_value x)
    | with_reducible refine evrLose_keeps ?_
    | with_reducible refine evrWrite_keeps ?_
    | with_reducible refine lossReport_keeps ?_
    | split
    | dsimp -zeta only)

end Sys2Proof.Machine
end

