-- ==== Sys2Proof/Laws/KeepsFlumeQueue.lean ====
section
/-! SUPPORT. The operations of Machine/FlumeQueue.lean keep what every command keeps. -/

namespace Sys2Proof.Machine

theorem State.setFstream_keeps {org : State} {s : State} {n : Nat} {q : FStream} (hs : Keeps org s) :
    Keeps org (State.setFstream s n q) := by
  unfold State.setFstream
  repeat' (first
    | with_reducible assumption
    | ((try lift_lets -underBinder); intro x; first | (with_reducible refine keeps_let (o := org) x ?_ ?_; rotate_left; intro hx; clear_value x; rotate_right; subst x) | (with_reducible refine keeps_let_fun x ?_; subst x) | (with_reducible refine keeps_let_flume x ?_; subst x) | clear_value x)
    | with_reducible refine State.set_keeps ?_
    | split
    | dsimp -zeta only
    | (rw [keeps_mk]; refine keepsParts_fold ?_)
    | (rw [keeps_mk]; refine keepsParts_change ?_ (fun h0 => by unfold SoundParts State.Sound FlumeWf at *; simp only [h0, swf_sput, and_self])))

theorem State.setChipCtx_keeps {org : State} {s : State} {k : Nat} {c : ChipCtx} (hs : Keeps org s) :
    Keeps org (State.setChipCtx s k c) := by
  unfold State.setChipCtx
  repeat' (first
    | with_reducible assumption
    | split
    | dsimp -zeta only
    | (rw [keeps_mk]; refine keepsParts_fold ?_)
    | (rw [keeps_mk]; refine keepsParts_change ?_ (fun h0 => by unfold SoundParts State.Sound FlumeWf at *; simp only [h0, swf_sput, and_self])))

theorem closeBlock_keeps {org : State} {s : State} {n : Nat} (hs : Keeps org s) :
    Keeps org (closeBlock s n) := by
  unfold closeBlock
  repeat' (first
    | with_reducible assumption
    | ((try lift_lets -underBinder); intro x; first | (with_reducible refine keeps_let (o := org) x ?_ ?_; rotate_left; intro hx; clear_value x; rotate_right; subst x) | clear_value x)
    | with_reducible refine State.set_keeps ?_
    | with_reducible refine State.bump_keeps ?_
    | with_reducible refine State.setFstream_keeps ?_
    | with_reducible refine State.setChipCtx_keeps ?_
    | split
    | dsimp -zeta only
    | (rw [keeps_mk]; refine keepsParts_fold ?_))

theorem pushBytes_keeps {org : State} {a0 : Nat} {a1 : State} {a2 : Nat} {a3 : List Byte} {a4 : Nat} {a5 : Bool} (hs : Keeps org a1) :
    Keeps org (pushBytes a0 a1 a2 a3 a4 a5) := by
  induction a0 generalizing a1 a2 a3 a4 a5 with
  | zero =>
    unfold pushBytes
    repeat' (first
    | with_reducible assumption
    | ((try lift_lets -underBinder); intro x; first | (with_reducible refine keeps_let (o := org) x ?_ ?_; rotate_left; intro hx; clear_value x; rotate_right; subst x) | clear_value x)
    | with_reducible refine State.setFstream_keeps ?_
    | with_reducible refine closeBlock_keeps ?_
    | split
    | dsimp -zeta only
    | (rw [keeps_mk]; refine keepsParts_fold ?_))
  | succ n ih =>
    unfold pushBytes
    repeat' (first
    | with_reducible assumption
    | with_reducible apply ih
    | ((try lift_lets -underBinder); intro x; first | (with_reducible refine keeps_let (o := org) x ?_ ?_; rotate_left; intro hx; clear_value x; rotate_right; subst x) | clear_value x)
    | with_reducible refine State.setFstream_keeps ?_
    | with_reducible refine closeBlock_keeps ?_
    | split
    | dsimp -zeta only
    | (rw [keeps_mk]; refine keepsParts_fold ?_))

theorem pushRecord_keeps {org : State} {s : State} {n : Nat} {bytes : List Byte} {index : Nat} {mk : Bool} (hs : Keeps org s) :
    Keeps org (pushRecord s n bytes index mk) := by
  unfold pushRecord
  repeat' (first
    | with_reducible assumption
    | with_reducible refine pushBytes_keeps ?_
    | split
    | dsimp -zeta only)

theorem pushMarker_keeps {org : State} {s : State} {n : Nat} {bytes : List Byte} {fresh : Bool} (hs : Keeps org s) :
    Keeps org (pushMarker s n bytes fresh) := by
  unfold pushMarker
  repeat' (first
    | with_reducible assumption
    | ((try lift_lets -underBinder); intro x; first | (with_reducible refine keeps_let (o := org) x ?_ ?_; rotate_left; intro hx; clear_value x; rotate_right; subst x) | clear_value x)
    | with_reducible refine State.setFstream_keeps ?_
    | with_reducible refine closeBlock_keeps ?_
    | with_reducible refine pushRecord_keeps ?_
    | split
    | dsimp -zeta only
    | (rw [keeps_mk]; refine keepsParts_fold ?_))

theorem streamStat_keeps {org : State} {s : State} {n : Nat} (hs : Keeps org s) :
    Keeps org (streamStat s n) := by
  unfold streamStat
  repeat' (first
    | with_reducible assumption
    | ((try lift_lets -underBinder); intro x; first | (with_reducible refine keeps_let (o := org) x ?_ ?_; rotate_left; intro hx; clear_value x; rotate_right; subst x) | clear_value x)
    | with_reducible refine State.set_keeps ?_
    | with_reducible refine State.setFlag_keeps ?_
    | split
    | dsimp -zeta only)

theorem streamRestart_keeps {org : State} {s : State} {n : Nat} {e : List Byte} (hs : Keeps org s) :
    Keeps org (streamRestart s n e) := by
  unfold streamRestart
  repeat' (first
    | with_reducible assumption
    | ((try lift_lets -underBinder); intro x; first | (with_reducible refine keeps_let (o := org) x ?_ ?_; rotate_left; intro hx; clear_value x; rotate_right; subst x) | (with_reducible refine keeps_let_fun x ?_; subst x) | (with_reducible refine keeps_let_flume x ?_; subst x) | clear_value x)
    | with_reducible refine State.set_keeps ?_
    | with_reducible refine State.count_keeps ?_
    | with_reducible refine State.setFstream_keeps ?_
    | with_reducible refine pushMarker_keeps ?_
    | with_reducible refine streamStat_keeps ?_
    | split
    | dsimp -zeta only
    | (rw [keeps_mk]; refine keepsParts_fold ?_)
    | (rw [keeps_mk]; refine keepsParts_change ?_ (fun h0 => by unfold SoundParts State.Sound FlumeWf LandingWf at *; simp only [h0, swf_sput, and_self])))

theorem streamOffer_keeps {org : State} {s : State} {n : Nat} {bytes : List Byte} {index : Nat} {always : Bool} (hs : Keeps org s) :
    Keeps org (streamOffer s n bytes index always).1 := by
  unfold streamOffer
  repeat' (first
    | with_reducible assumption
    | ((try lift_lets -underBinder); intro x; first | (with_reducible refine keeps_let (o := org) x ?_ ?_; rotate_left; intro hx; clear_value x; rotate_right; subst x) | clear_value x)
    | with_reducible refine State.set_keeps ?_
    | with_reducible refine State.bump_keeps ?_
    | with_reducible refine State.setFstream_keeps ?_
    | with_reducible refine pushRecord_keeps ?_
    | with_reducible refine pushMarker_keeps ?_
    | split
    | dsimp -zeta only
    | (rw [keeps_mk]; refine keepsParts_fold ?_))

end Sys2Proof.Machine
end

