-- ==== Sys2Proof/Laws/KeepsArchive.lean ====
section
/-! SUPPORT. The operations of Machine/Archive.lean keep what every command keeps. -/

namespace Sys2Proof.Machine

theorem arcOldest_keeps {org : State} {s : State} (hs : Keeps org s) :
    Keeps org (arcOldest s) := by
  unfold arcOldest
  repeat' (first
    | with_reducible assumption
    | with_reducible refine State.set_keeps ?_
    | split
    | dsimp -zeta only
    | (rw [keeps_mk]; refine keepsParts_fold ?_))

theorem archivePut_keeps {org : State} {s : State} {bytes : List Byte} {time : Nat} (hs : Keeps org s) :
    Keeps org (archivePut s bytes time) := by
  unfold archivePut
  repeat' (first
    | with_reducible assumption
    | ((try lift_lets -underBinder); intro x; first | (with_reducible refine keeps_let (o := org) x ?_ ?_; rotate_left; intro hx; clear_value x; rotate_right; subst x) | (with_reducible refine keeps_let_landing x ?_; subst x) | clear_value x)
    | with_reducible refine arcOldest_keeps ?_
    | split
    | dsimp -zeta only
    | (rw [keeps_mk]; refine keepsParts_fold ?_))

theorem archiveOffer_keeps {org : State} {s : State} {src idx : Nat} {bytes : List Byte} {index time : Nat} {always : Bool} {cls : Nat} {k : Nat} (hs : Keeps org s) :
    Keeps org (archiveOffer s src idx bytes index time always cls k) := by
  unfold archiveOffer
  repeat' (first
    | with_reducible assumption
    | ((try lift_lets -underBinder); intro x; first | (with_reducible refine keeps_let (o := org) x ?_ ?_; rotate_left; intro hx; clear_value x; rotate_right; subst x) | (with_reducible refine keeps_let_landing x ?_; subst x) | clear_value x)
    | with_reducible refine State.bump_keeps ?_
    | with_reducible refine archivePut_keeps ?_
    | split
    | dsimp -zeta only
    | (rw [keeps_mk]; refine keepsParts_fold ?_))

theorem archiveAll_keeps {org : State} {s : State} {src idx : Nat} {bytes : List Byte} {index time : Nat} {always : Bool} {cls : Nat} (hs : Keeps org s) :
    Keeps org (archiveAll s src idx bytes index time always cls) := by
  unfold archiveAll
  repeat' (first
    | with_reducible assumption
    | with_reducible refine archiveOffer_keeps ?_
    | with_reducible refine foldl_keeps ?_ (fun s1 a1 h1 => ?_)
    | with_reducible refine foldl_fst_keeps ?_ (fun s1 a1 h1 => ?_)
    | split
    | dsimp -zeta only)

end Sys2Proof.Machine
end

