-- ==== Sys2Proof/Laws/KeepsPost.lean ====
section
/-! SUPPORT. The operations of Machine/Post.lean keep what every command keeps. -/

namespace Sys2Proof.Machine

theorem streamAll_keeps {org : State} {s : State} {src idx : Nat} {bytes : List Byte} {index : Nat} {always : Bool} {cls : Nat} (hs : Keeps org s) :
    Keeps org (streamAll s src idx bytes index always cls).1 := by
  unfold streamAll
  repeat' (first
    | with_reducible assumption
    | ((try lift_lets -underBinder); intro x; first | (with_reducible refine keeps_let (o := org) x ?_ ?_; rotate_left; intro hx; clear_value x; rotate_right; subst x) | (with_reducible refine keeps_let_fst (o := org) x ?_ ?_; rotate_left; intro hx; clear_value x; rotate_right; subst x) | (with_reducible refine keeps_let_fun x ?_; subst x) | clear_value x)
    | with_reducible refine streamOffer_keeps ?_
    | with_reducible refine foldl_keeps ?_ (fun s1 a1 h1 => ?_)
    | with_reducible refine foldl_fst_keeps ?_ (fun s1 a1 h1 => ?_)
    | split
    | dsimp -zeta only)

theorem postList_keeps {org : State} {n : Nat} {s : State} {l : List EventReq} (h : Keeps org s) :
    Keeps org (postList n s l) := by
  induction n generalizing s l with
  | zero => cases l <;> exact h
  | succ n ih =>
    cases l with
    | nil => exact h
    | cons q rest =>
      rw [postList]
      refine ih (archiveAll_keeps (streamAll_keeps (foldl_keeps ?_ fun s n h => evrOffer_keeps h)))
      refine ⟨fun h0 => ?_, h.2.1, h.2.2.1, h.2.2.2.1, h.2.2.2.2.trans (List.suffix_cons _ _)⟩
      have hs := h.1 h0
      exact ⟨hs.coreWf, hs.hostWf, hs.flumeWf, hs.landingWf, hs.bkgWf, hs.cruWf, hs.lampWf, hs.rulesWf,
        Nat.mod_lt _ (by decide), hs.records⟩

theorem State.postAll_keeps {org : State} {s : State} {l : List EventReq} (hs : Keeps org s) :
    Keeps org (State.postAll s l) := by
  unfold State.postAll
  repeat' (first
    | with_reducible assumption
    | with_reducible refine postList_keeps ?_
    | split
    | dsimp -zeta only)

theorem State.post_keeps {org : State} {s : State} {q : EventReq} (hs : Keeps org s) :
    Keeps org (State.post s q) := by
  unfold State.post
  repeat' (first
    | with_reducible assumption
    | with_reducible refine State.postAll_keeps ?_
    | split
    | dsimp -zeta only)

theorem State.event_keeps {org : State} {s : State} {cls : Nat} {state : Bool} {payload : List Byte} (hs : Keeps org s) :
    Keeps org (State.event s cls state payload) := by
  unfold State.event
  repeat' (first
    | with_reducible assumption
    | with_reducible refine State.post_keeps ?_
    | split
    | dsimp -zeta only)

theorem deliver_keeps {org : State} {s : State} {src idx : Nat} {bytes : List Byte} {index time : Nat} {always : Bool} (hs : Keeps org s) :
    Keeps org (deliver s src idx bytes index time always) := by
  unfold deliver
  repeat' (first
    | with_reducible assumption
    | ((try lift_lets -underBinder); intro x; first | (with_reducible refine keeps_let (o := org) x ?_ ?_; rotate_left; intro hx; clear_value x; rotate_right; subst x) | (with_reducible refine keeps_let_fst (o := org) x ?_ ?_; rotate_left; intro hx; clear_value x; rotate_right; subst x) | clear_value x)
    | with_reducible refine archiveAll_keeps ?_
    | with_reducible refine streamAll_keeps ?_
    | with_reducible refine State.postAll_keeps ?_
    | split
    | dsimp -zeta only)

end Sys2Proof.Machine
end

