-- ==== Sys2Proof/Laws/KeepsOwnership.lean ====
section
/-! SUPPORT. The operations of Machine/Ownership.lean keep what every command keeps. -/

namespace Sys2Proof.Machine

theorem refuseClaim_keeps {org : State} {s : State} {r : Resource} {code : Nat} (hs : Keeps org s) :
    Keeps org (refuseClaim s r code) := by
  unfold refuseClaim
  repeat' (first
    | with_reducible assumption
    | ((try lift_lets -underBinder); intro x; first | (with_reducible refine keeps_let (o := org) x ?_ ?_; rotate_left; intro hx; clear_value x; rotate_right; subst x) | clear_value x)
    | with_reducible refine State.set_keeps ?_
    | with_reducible refine State.bump_keeps ?_
    | with_reducible refine State.event_keeps ?_
    | split
    | dsimp -zeta only)

theorem claimAll_keeps {org : State} {s : State} {rs : List Resource} {code : Nat} (hs : Keeps org s) :
    Keeps org (claimAll s rs code).1 := by
  unfold claimAll
  repeat' (first
    | with_reducible assumption
    | with_reducible refine State.set_keeps ?_
    | with_reducible refine refuseClaim_keeps ?_
    | with_reducible refine State.each_keeps ?_ (fun s1 a1 h1 => ?_)
    | split
    | dsimp -zeta only)

theorem wedgeClaim_keeps {org : State} {s : State} {r : Resource} (hs : Keeps org s) :
    Keeps org (wedgeClaim s r).1 := by
  unfold wedgeClaim
  repeat' (first
    | with_reducible assumption
    | ((try lift_lets -underBinder); intro x; first | (with_reducible refine keeps_let (o := org) x ?_ ?_; rotate_left; intro hx; clear_value x; rotate_right; subst x) | clear_value x)
    | with_reducible refine State.set_keeps ?_
    | with_reducible refine State.bump_keeps ?_
    | with_reducible refine State.event_keeps ?_
    | split
    | dsimp -zeta only)

theorem releaseOwn_keeps {org : State} {s : State} {code : Nat} {r : Resource} (hs : Keeps org s) :
    Keeps org (releaseOwn s code r) := by
  unfold releaseOwn
  repeat' (first
    | with_reducible assumption
    | with_reducible refine State.set_keeps ?_
    | split
    | dsimp -zeta only)

theorem ownAction_keeps {org : State} {s : State} {r : Resource} {claim release clr : Bool} (hs : Keeps org s) :
    Keeps org (ownAction s r claim release clr) := by
  unfold ownAction
  repeat' (first
    | with_reducible assumption
    | ((try lift_lets -underBinder); intro x; first | (with_reducible refine keeps_let (o := org) x ?_ ?_; rotate_left; intro hx; clear_value x; rotate_right; subst x) | (with_reducible refine keeps_let_fst (o := org) x ?_ ?_; rotate_left; intro hx; clear_value x; rotate_right; subst x) | clear_value x)
    | with_reducible refine State.set_keeps ?_
    | with_reducible refine refuseClaim_keeps ?_
    | with_reducible refine claimAll_keeps ?_
    | split
    | dsimp -zeta only)

end Sys2Proof.Machine
end

