-- ==== Sys2Proof/Laws/KeepsItems.lean ====
section
/-! SUPPORT. The operations of Machine/Items.lean keep what every command keeps. -/

namespace Sys2Proof.Machine

theorem cplWrite_keeps {org : State} {s : State} {q : Nat} {c : Completion} (hs : Keeps org s) :
    Keeps org (cplWrite s q c) := by
  unfold cplWrite
  repeat' (first
    | with_reducible assumption
    | ((try lift_lets -underBinder); intro x; first | (with_reducible refine keeps_let (o := org) x ?_ ?_; rotate_left; intro hx; clear_value x; rotate_right; subst x) | clear_value x)
    | with_reducible refine writeEntry_keeps ?_
    | with_reducible refine State.setCplRing_keeps ?_
    | with_reducible refine cplInterrupt_keeps ?_
    | split
    | dsimp -zeta only
    | (rw [keeps_mk]; refine keepsParts_fold ?_))

theorem cplHold_keeps {org : State} {s : State} {q : Nat} {c : Completion} (hs : Keeps org s) :
    Keeps org (cplHold s q c) := by
  unfold cplHold
  repeat' (first
    | with_reducible assumption
    | ((try lift_lets -underBinder); intro x; first | (with_reducible refine keeps_let (o := org) x ?_ ?_; rotate_left; intro hx; clear_value x; rotate_right; subst x) | clear_value x)
    | with_reducible refine State.bump_keeps ?_
    | with_reducible refine State.setCplRing_keeps ?_
    | split
    | dsimp -zeta only
    | (rw [keeps_mk]; refine keepsParts_fold ?_))

theorem flushHeld_keeps {org : State} {a0 : Nat} {a1 : State} {a2 : Nat} (hs : Keeps org a1) :
    Keeps org (flushHeld a0 a1 a2) := by
  induction a0 generalizing a1 a2 with
  | zero =>
    unfold flushHeld
    repeat' (first
    | with_reducible assumption
    | ((try lift_lets -underBinder); intro x; first | (with_reducible refine keeps_let (o := org) x ?_ ?_; rotate_left; intro hx; clear_value x; rotate_right; subst x) | clear_value x)
    | with_reducible refine State.set_keeps ?_
    | with_reducible refine State.setCplRing_keeps ?_
    | with_reducible refine cplWrite_keeps ?_
    | split
    | dsimp -zeta only
    | (rw [keeps_mk]; refine keepsParts_fold ?_))
  | succ n ih =>
    unfold flushHeld
    repeat' (first
    | with_reducible assumption
    | with_reducible apply ih
    | ((try lift_lets -underBinder); intro x; first | (with_reducible refine keeps_let (o := org) x ?_ ?_; rotate_left; intro hx; clear_value x; rotate_right; subst x) | clear_value x)
    | with_reducible refine State.set_keeps ?_
    | with_reducible refine State.setCplRing_keeps ?_
    | with_reducible refine cplWrite_keeps ?_
    | split
    | dsimp -zeta only
    | (rw [keeps_mk]; refine keepsParts_fold ?_))

theorem flushRing_keeps {org : State} {s : State} {q : Nat} (hs : Keeps org s) :
    Keeps org (flushRing s q) := by
  unfold flushRing
  repeat' (first
    | with_reducible assumption
    | with_reducible refine flushHeld_keeps ?_
    | split
    | dsimp -zeta only)

theorem State.setItems_keeps {org : State} {s : State} {l : List Item} (hs : Keeps org s) :
    Keeps org (State.setItems s l) := by
  unfold State.setItems
  repeat' (first
    | with_reducible assumption
    | split
    | dsimp -zeta only
    | (rw [keeps_mk]; refine keepsParts_fold ?_))

theorem refreshItems_keeps {org : State} {s : State} {cap : Bool} {n : Nat} (hs : Keeps org s) :
    Keeps org (refreshItems s cap n) := by
  unfold refreshItems
  repeat' (first
    | with_reducible assumption
    | with_reducible refine State.set_keeps ?_
    | split
    | dsimp -zeta only)

theorem updItem_keeps {org : State} {s : State} {it : Item} (hs : Keeps org s) :
    Keeps org (updItem s it) := by
  unfold updItem
  repeat' (first
    | with_reducible assumption
    | with_reducible refine State.setItems_keeps ?_
    | split
    | dsimp -zeta only)

theorem chipLost_keeps {org : State} {s : State} {it : Item} {status : Nat} (hs : Keeps org s) :
    Keeps org (chipLost s it status) := by
  unfold chipLost
  repeat' (first
    | with_reducible assumption
    | ((try lift_lets -underBinder); intro x; first | (with_reducible refine keeps_let (o := org) x ?_ ?_; rotate_left; intro hx; clear_value x; rotate_right; subst x) | clear_value x)
    | with_reducible refine State.set_keeps ?_
    | with_reducible refine State.event_keeps ?_
    | split
    | dsimp -zeta only)

theorem finishItem_keeps {org : State} {s : State} {it : Item} {o : Outcome} (hs : Keeps org s) :
    Keeps org (finishItem s it o) := by
  unfold finishItem
  repeat' (first
    | with_reducible assumption
    | ((try lift_lets -underBinder); intro x; first | (with_reducible refine keeps_let (o := org) x ?_ ?_; rotate_left; intro hx; clear_value x; rotate_right; subst x) | (with_reducible refine keeps_let_fun x ?_; subst x) | clear_value x)
    | with_reducible refine State.set_keeps ?_
    | with_reducible refine releaseOwn_keeps ?_
    | with_reducible refine cplWrite_keeps ?_
    | with_reducible refine cplHold_keeps ?_
    | with_reducible refine State.setItems_keeps ?_
    | with_reducible refine refreshItems_keeps ?_
    | with_reducible refine chipLost_keeps ?_
    | split
    | dsimp -zeta only)

theorem pumpRing_keeps {org : State} {a0 : Nat} {a1 : State} {a2 : Bool} {a3 : Nat} (hs : Keeps org a1) :
    Keeps org (pumpRing a0 a1 a2 a3) := by
  induction a0 generalizing a1 a2 a3 with
  | zero =>
    unfold pumpRing
    repeat' (first
    | with_reducible assumption
    | ((try lift_lets -underBinder); intro x; first | (with_reducible refine keeps_let (o := org) x ?_ ?_; rotate_left; intro hx; clear_value x; rotate_right; subst x) | (with_reducible refine keeps_let_fst (o := org) x ?_ ?_; rotate_left; intro hx; clear_value x; rotate_right; subst x) | clear_value x)
    | with_reducible refine claimAll_keeps ?_
    | with_reducible refine updItem_keeps ?_
    | with_reducible refine finishItem_keeps ?_
    | split
    | dsimp -zeta only
    | (rw [keeps_mk]; refine keepsParts_fold ?_))
  | succ n ih =>
    unfold pumpRing
    repeat' (first
    | with_reducible assumption
    | with_reducible apply ih
    | ((try lift_lets -underBinder); intro x; first | (with_reducible refine keeps_let (o := org) x ?_ ?_; rotate_left; intro hx; clear_value x; rotate_right; subst x) | (with_reducible refine keeps_let_fst (o := org) x ?_ ?_; rotate_left; intro hx; clear_value x; rotate_right; subst x) | clear_value x)
    | with_reducible refine claimAll_keeps ?_
    | with_reducible refine updItem_keeps ?_
    | with_reducible refine finishItem_keeps ?_
    | split
    | dsimp -zeta only
    | (rw [keeps_mk]; refine keepsParts_fold ?_))

theorem pump_keeps {org : State} {s : State} {cap : Bool} {n : Nat} (hs : Keeps org s) :
    Keeps org (pump s cap n) := by
  unfold pump
  repeat' (first
    | with_reducible assumption
    | with_reducible refine pumpRing_keeps ?_
    | split
    | dsimp -zeta only)

theorem pumpAll_keeps {org : State} {s : State} (hs : Keeps org s) :
    Keeps org (pumpAll s) := by
  unfold pumpAll
  repeat' (first
    | with_reducible assumption
    | with_reducible refine pump_keeps ?_
    | with_reducible refine foldl_keeps ?_ (fun s1 a1 h1 => ?_)
    | with_reducible refine foldl_fst_keeps ?_ (fun s1 a1 h1 => ?_)
    | split
    | dsimp -zeta only)

theorem complete_keeps {org : State} {s : State} {it : Item} {o : Outcome} (hs : Keeps org s) :
    Keeps org (complete s it o) := by
  unfold complete
  repeat' (first
    | with_reducible assumption
    | with_reducible refine finishItem_keeps ?_
    | with_reducible refine pump_keeps ?_
    | split
    | dsimp -zeta only)

theorem acceptItem_keeps {org : State} {s : State} {cap : Bool} {n : Nat} {desc : List Byte} (hs : Keeps org s) :
    Keeps org (acceptItem s cap n desc) := by
  unfold acceptItem
  repeat' (first
    | with_reducible assumption
    | ((try lift_lets -underBinder); intro x; first | (with_reducible refine keeps_let (o := org) x ?_ ?_; rotate_left; intro hx; clear_value x; rotate_right; subst x) | clear_value x)
    | with_reducible refine State.set_keeps ?_
    | with_reducible refine State.emit_keeps ?_
    | with_reducible refine State.setItems_keeps ?_
    | with_reducible refine refreshItems_keeps ?_
    | with_reducible refine pump_keeps ?_
    | split
    | dsimp -zeta only)

theorem State.setCapRing_keeps {org : State} {s : State} {n : Nat} {r : CapRing} (hs : Keeps org s) :
    Keeps org (State.setCapRing s n r) := by
  unfold State.setCapRing
  repeat' (first
    | with_reducible assumption
    | split
    | dsimp -zeta only
    | (rw [keeps_mk]; refine keepsParts_fold ?_)
    | (rw [keeps_mk]; refine keepsParts_change ?_ (fun h0 => by unfold SoundParts State.Sound HostWf at *; simp only [h0, swf_sput, and_self])))

theorem finishBuffer_keeps {org : State} {s : State} {n : Nat} {it : Item} (hs : Keeps org s) :
    Keeps org (finishBuffer s n it) := by
  unfold finishBuffer
  repeat' (first
    | with_reducible assumption
    | ((try lift_lets -underBinder); intro x; first | (with_reducible refine keeps_let (o := org) x ?_ ?_; rotate_left; intro hx; clear_value x; rotate_right; subst x) | clear_value x)
    | with_reducible refine complete_keeps ?_
    | with_reducible refine State.setCapRing_keeps ?_
    | split
    | dsimp -zeta only)

theorem capMiss_keeps {org : State} {s : State} {n : Nat} (hs : Keeps org s) :
    Keeps org (capMiss s n) := by
  unfold capMiss
  repeat' (first
    | with_reducible assumption
    | ((try lift_lets -underBinder); intro x; first | (with_reducible refine keeps_let (o := org) x ?_ ?_; rotate_left; intro hx; clear_value x; rotate_right; subst x) | clear_value x)
    | with_reducible refine State.bump_keeps ?_
    | with_reducible refine State.hifEvt_keeps ?_
    | with_reducible refine State.setCapRing_keeps ?_
    | split
    | dsimp -zeta only
    | (rw [keeps_mk]; refine keepsParts_fold ?_))

theorem capPut_keeps {org : State} {a0 : Nat} {a1 : State} {a2 : Nat} {a3 : List Byte} {a4 : Nat} (hs : Keeps org a1) :
    Keeps org (capPut a0 a1 a2 a3 a4).1 := by
  induction a0 generalizing a1 a2 a3 a4 with
  | zero =>
    unfold capPut
    repeat' (first
    | with_reducible assumption
    | ((try lift_lets -underBinder); intro x; first | (with_reducible refine keeps_let (o := org) x ?_ ?_; rotate_left; intro hx; clear_value x; rotate_right; subst x) | clear_value x)
    | with_reducible refine State.emit_keeps ?_
    | with_reducible refine complete_keeps ?_
    | with_reducible refine State.setCapRing_keeps ?_
    | with_reducible refine finishBuffer_keeps ?_
    | with_reducible refine capMiss_keeps ?_
    | split
    | dsimp -zeta only
    | (rw [keeps_mk]; refine keepsParts_fold ?_))
  | succ n ih =>
    unfold capPut
    repeat' (first
    | with_reducible assumption
    | with_reducible apply ih
    | ((try lift_lets -underBinder); intro x; first | (with_reducible refine keeps_let (o := org) x ?_ ?_; rotate_left; intro hx; clear_value x; rotate_right; subst x) | clear_value x)
    | with_reducible refine State.emit_keeps ?_
    | with_reducible refine complete_keeps ?_
    | with_reducible refine State.setCapRing_keeps ?_
    | with_reducible refine finishBuffer_keeps ?_
    | with_reducible refine capMiss_keeps ?_
    | split
    | dsimp -zeta only
    | (rw [keeps_mk]; refine keepsParts_fold ?_))

theorem captureAll_keeps {org : State} {s : State} {src idx : Nat} {bytes : List Byte} {time : Nat} (hs : Keeps org s) :
    Keeps org (captureAll s src idx bytes time) := by
  unfold captureAll
  repeat' (first
    | with_reducible assumption
    | with_reducible refine capPut_keeps ?_
    | with_reducible refine foldl_keeps ?_ (fun s1 a1 h1 => ?_)
    | with_reducible refine foldl_fst_keeps ?_ (fun s1 a1 h1 => ?_)
    | split
    | dsimp -zeta only)

theorem discarded_keeps {org : State} {s : State} {n : Nat} (hs : Keeps org s) :
    Keeps org (discarded s n) := by
  unfold discarded
  repeat' (first
    | with_reducible assumption
    | ((try lift_lets -underBinder); intro x; first | (with_reducible refine keeps_let (o := org) x ?_ ?_; rotate_left; intro hx; clear_value x; rotate_right; subst x) | clear_value x)
    | with_reducible refine State.count_keeps ?_
    | with_reducible refine State.hifEvt_keeps ?_
    | with_reducible refine State.event_keeps ?_
    | split
    | dsimp -zeta only)

theorem dropHeld_keeps {org : State} {s : State} {q : Nat} (hs : Keeps org s) :
    Keeps org (dropHeld s q).1 := by
  unfold dropHeld
  repeat' (first
    | with_reducible assumption
    | ((try lift_lets -underBinder); intro x; first | (with_reducible refine keeps_let (o := org) x ?_ ?_; rotate_left; intro hx; clear_value x; rotate_right; subst x) | clear_value x)
    | with_reducible refine State.set_keeps ?_
    | with_reducible refine State.setCplRing_keeps ?_
    | split
    | dsimp -zeta only
    | (rw [keeps_mk]; refine keepsParts_fold ?_))

theorem dropGap_keeps {org : State} {s : State} {n : Nat} (hs : Keeps org s) :
    Keeps org (dropGap s n).1 := by
  unfold dropGap
  repeat' (first
    | with_reducible assumption
    | ((try lift_lets -underBinder); intro x; first | (with_reducible refine keeps_let (o := org) x ?_ ?_; rotate_left; intro hx; clear_value x; rotate_right; subst x) | clear_value x)
    | with_reducible refine State.setEvrRing_keeps ?_
    | split
    | dsimp -zeta only
    | (rw [keeps_mk]; refine keepsParts_fold ?_))

theorem dropMissed_keeps {org : State} {s : State} {n : Nat} (hs : Keeps org s) :
    Keeps org (dropMissed s n).1 := by
  unfold dropMissed
  repeat' (first
    | with_reducible assumption
    | ((try lift_lets -underBinder); intro x; first | (with_reducible refine keeps_let (o := org) x ?_ ?_; rotate_left; intro hx; clear_value x; rotate_right; subst x) | clear_value x)
    | with_reducible refine State.setCapRing_keeps ?_
    | split
    | dsimp -zeta only
    | (rw [keeps_mk]; refine keepsParts_fold ?_))

end Sys2Proof.Machine
end

