-- ==== Sys2Proof/Laws/KeepsHost.lean ====
section
/-! SUPPORT. The operations of Machine/Host.lean keep what every command keeps. -/

namespace Sys2Proof.Machine

theorem doorbellIgnored_keeps {org : State} {s : State} (hs : Keeps org s) :
    Keeps org (doorbellIgnored s) := by
  unfold doorbellIgnored
  repeat' (first
    | with_reducible assumption
    | with_reducible refine State.bump_keeps ?_
    | split
    | dsimp -zeta only)

theorem doorbellInvalid_keeps {org : State} {s : State} {off : Nat} (hs : Keeps org s) :
    Keeps org (doorbellInvalid s off) := by
  unfold doorbellInvalid
  repeat' (first
    | with_reducible assumption
    | ((try lift_lets -underBinder); intro x; first | (with_reducible refine keeps_let (o := org) x ?_ ?_; rotate_left; intro hx; clear_value x; rotate_right; subst x) | clear_value x)
    | with_reducible refine State.bump_keeps ?_
    | with_reducible refine State.hifEvt_keeps ?_
    | with_reducible refine State.event_keeps ?_
    | split
    | dsimp -zeta only)

theorem producerDoorbell_keeps {org : State} {s : State} {k : RingKind} {page off width : Nat} {v : Nat} (hs : Keeps org s) :
    Keeps org (producerDoorbell s k page off width v) := by
  unfold producerDoorbell
  repeat' (first
    | with_reducible assumption
    | ((try lift_lets -underBinder); intro x; first | (with_reducible refine keeps_let (o := org) x ?_ ?_; rotate_left; intro hx; clear_value x; rotate_right; subst x) | clear_value x)
    | with_reducible refine State.set_keeps ?_
    | with_reducible refine doorbellIgnored_keeps ?_
    | with_reducible refine doorbellInvalid_keeps ?_
    | split
    | dsimp -zeta only
    | (rw [keeps_mk]; refine keepsParts_fold ?_))

theorem consumerDoorbell_keeps {org : State} {s : State} {k : RingKind} {page off width : Nat} {v : Nat} (hs : Keeps org s) :
    Keeps org (consumerDoorbell s k page off width v).1 := by
  unfold consumerDoorbell
  repeat' (first
    | with_reducible assumption
    | ((try lift_lets -underBinder); intro x; first | (with_reducible refine keeps_let (o := org) x ?_ ?_; rotate_left; intro hx; clear_value x; rotate_right; subst x) | clear_value x)
    | with_reducible refine State.set_keeps ?_
    | with_reducible refine doorbellIgnored_keeps ?_
    | with_reducible refine doorbellInvalid_keeps ?_
    | split
    | dsimp -zeta only
    | (rw [keeps_mk]; refine keepsParts_fold ?_))

theorem execCommandDoorbell_keeps {org : State} {off width : Nat} {v : BitVec 32} {s : State} (hs : Keeps org s) :
    KeepsOut org (execCommandDoorbell off width v s) := by
  unfold execCommandDoorbell
  repeat' (first
    | with_reducible assumption
    | with_reducible refine producerDoorbell_keeps ?_
    | with_reducible refine keepsOut_next ?_
    | split
    | dsimp -zeta only)

theorem execCaptureDoorbell_keeps {org : State} {off width : Nat} {v : BitVec 32} {s : State} (hs : Keeps org s) :
    KeepsOut org (execCaptureDoorbell off width v s) := by
  unfold execCaptureDoorbell
  repeat' (first
    | with_reducible assumption
    | with_reducible refine producerDoorbell_keeps ?_
    | with_reducible refine keepsOut_next ?_
    | split
    | dsimp -zeta only)

theorem execCompletionDoorbell_keeps {org : State} {off width : Nat} {v : BitVec 32} {s : State} (hs : Keeps org s) :
    KeepsOut org (execCompletionDoorbell off width v s) := by
  unfold execCompletionDoorbell
  repeat' (first
    | with_reducible assumption
    | ((try lift_lets -underBinder); intro x; first | (with_reducible refine keeps_let (o := org) x ?_ ?_; rotate_left; intro hx; clear_value x; rotate_right; subst x) | (with_reducible refine keeps_let_fst (o := org) x ?_ ?_; rotate_left; intro hx; clear_value x; rotate_right; subst x) | clear_value x)
    | with_reducible refine flushRing_keeps ?_
    | with_reducible refine consumerDoorbell_keeps ?_
    | with_reducible refine keepsOut_next ?_
    | split
    | dsimp -zeta only
    | (rw [keeps_mk]; refine keepsParts_fold ?_))

theorem execEventDoorbell_keeps {org : State} {off width : Nat} {v : BitVec 32} {s : State} (hs : Keeps org s) :
    KeepsOut org (execEventDoorbell off width v s) := by
  unfold execEventDoorbell
  repeat' (first
    | with_reducible assumption
    | ((try lift_lets -underBinder); intro x; first | (with_reducible refine keeps_let (o := org) x ?_ ?_; rotate_left; intro hx; clear_value x; rotate_right; subst x) | (with_reducible refine keeps_let_fst (o := org) x ?_ ?_; rotate_left; intro hx; clear_value x; rotate_right; subst x) | clear_value x)
    | with_reducible refine evrRefresh_keeps ?_
    | with_reducible refine lossReport_keeps ?_
    | with_reducible refine consumerDoorbell_keeps ?_
    | with_reducible refine keepsOut_next ?_
    | split
    | dsimp -zeta only
    | (rw [keeps_mk]; refine keepsParts_fold ?_))

theorem execNop_keeps {org : State} {ring : Fin 16} {s : State} (hs : Keeps org s) :
    KeepsOut org (execNop ring s) := by
  unfold execNop
  repeat' (first
    | with_reducible assumption
    | with_reducible refine complete_keeps ?_
    | with_reducible refine keepsOut_next ?_
    | split
    | dsimp -zeta only
    | (rw [keeps_mk]; refine keepsParts_fold ?_))

theorem execCaptureBufferFlush_keeps {org : State} {ring : Fin 16} {s : State} (hs : Keeps org s) :
    KeepsOut org (execCaptureBufferFlush ring s) := by
  unfold execCaptureBufferFlush
  repeat' (first
    | with_reducible assumption
    | ((try lift_lets -underBinder); intro x; first | (with_reducible refine keeps_let (o := org) x ?_ ?_; rotate_left; intro hx; clear_value x; rotate_right; subst x) | clear_value x)
    | with_reducible refine finishBuffer_keeps ?_
    | with_reducible refine keepsOut_next ?_
    | split
    | dsimp -zeta only
    | (rw [keeps_mk]; refine keepsParts_fold ?_))

theorem execLossReport_keeps {org : State} {ring : Fin 16} {s : State} (hs : Keeps org s) :
    KeepsOut org (execLossReport ring s) := by
  unfold execLossReport
  repeat' (first
    | with_reducible assumption
    | with_reducible refine lossReport_keeps ?_
    | with_reducible refine keepsOut_next ?_
    | split
    | dsimp -zeta only)

theorem execInterruptDelayExpiry_keeps {org : State} {evr : Bool} {ring : Fin 16} {s : State} (hs : Keeps org s) :
    KeepsOut org (execInterruptDelayExpiry evr ring s) := by
  unfold execInterruptDelayExpiry
  repeat' (first
    | with_reducible assumption
    | ((try lift_lets -underBinder); intro x; first | (with_reducible refine keeps_let (o := org) x ?_ ?_; rotate_left; intro hx; clear_value x; rotate_right; subst x) | clear_value x)
    | with_reducible refine State.msix_keeps ?_
    | with_reducible refine State.setCplRing_keeps ?_
    | with_reducible refine State.setEvrRing_keeps ?_
    | with_reducible refine keepsOut_next ?_
    | split
    | dsimp -zeta only
    | (rw [keeps_mk]; refine keepsParts_fold ?_))

theorem dirPartial_keeps {org : State} {s : State} {it : Item} (hs : Keeps org s) :
    Keeps org (dirPartial s it) := by
  unfold dirPartial
  repeat' (first
    | with_reducible assumption
    | ((try lift_lets -underBinder); intro x; first | (with_reducible refine keeps_let (o := org) x ?_ ?_; rotate_left; intro hx; clear_value x; rotate_right; subst x) | (with_reducible refine keeps_let_fun x ?_; subst x) | (with_reducible refine keeps_let_landing x ?_; subst x) | clear_value x)
    | split
    | dsimp -zeta only
    | (rw [keeps_mk]; refine keepsParts_fold ?_)
    | (rw [keeps_mk]; refine keepsParts_change ?_ (fun h0 => by unfold SoundParts State.Sound LandingWf at *; simp only [h0, swf_supd, and_self])))

theorem abortCapture_keeps {org : State} {s : State} {it : Item} (hs : Keeps org s) :
    Keeps org (abortCapture s it) := by
  unfold abortCapture
  repeat' (first
    | with_reducible assumption
    | with_reducible refine complete_keeps ?_
    | with_reducible refine dirPartial_keeps ?_
    | split
    | dsimp -zeta only)

theorem markItems_keeps {org : State} {s : State} {p : Item → Bool} (hs : Keeps org s) :
    Keeps org (markItems s p) := by
  unfold markItems
  exact State.setItems_keeps hs

theorem execCaptureCancel_keeps {org : State} {ring : Fin 16} {s : State} (hs : Keeps org s) :
    KeepsOut org (execCaptureCancel ring s) := by
  unfold execCaptureCancel
  repeat' (first
    | with_reducible assumption
    | ((try lift_lets -underBinder); intro x; first | (with_reducible refine keeps_let (o := org) x ?_ ?_; rotate_left; intro hx; clear_value x; rotate_right; subst x) | (with_reducible refine keeps_let_fun x ?_; subst x) | clear_value x)
    | with_reducible refine updItem_keeps ?_
    | with_reducible refine complete_keeps ?_
    | with_reducible refine abortCapture_keeps ?_
    | with_reducible refine markItems_keeps ?_
    | with_reducible refine pump_keeps ?_
    | with_reducible refine State.each_keeps ?_ (fun s1 a1 h1 => ?_)
    | with_reducible refine keepsOut_next ?_
    | split
    | dsimp -zeta only
    | (rw [keeps_mk]; refine keepsParts_fold ?_))

theorem ringStart_keeps {org : State} {s : State} {k : RingKind} {n : Nat} (hs : Keeps org s) :
    Keeps org (ringStart s k n) := by
  unfold ringStart
  repeat' (first
    | with_reducible assumption
    | ((try lift_lets -underBinder); intro x; first | (with_reducible refine keeps_let (o := org) x ?_ ?_; rotate_left; intro hx; clear_value x; rotate_right; subst x) | (with_reducible refine keeps_let_fst (o := org) x ?_ ?_; rotate_left; intro hx; clear_value x; rotate_right; subst x) | clear_value x)
    | with_reducible refine State.set_keeps ?_
    | with_reducible refine State.setCplRing_keeps ?_
    | with_reducible refine State.setEvrRing_keeps ?_
    | with_reducible refine lossReport_keeps ?_
    | with_reducible refine flushRing_keeps ?_
    | with_reducible refine State.setCapRing_keeps ?_
    | with_reducible refine discarded_keeps ?_
    | with_reducible refine dropHeld_keeps ?_
    | with_reducible refine dropGap_keeps ?_
    | with_reducible refine dropMissed_keeps ?_
    | split
    | dsimp -zeta only
    | (rw [keeps_mk]; refine keepsParts_fold ?_))

theorem ringStop_keeps {org : State} {s : State} {k : RingKind} {n : Nat} (hs : Keeps org s) :
    Keeps org (ringStop s k n) := by
  unfold ringStop
  repeat' (first
    | with_reducible assumption
    | ((try lift_lets -underBinder); intro x; first | (with_reducible refine keeps_let (o := org) x ?_ ?_; rotate_left; intro hx; clear_value x; rotate_right; subst x) | (with_reducible refine keeps_let_fun x ?_; subst x) | clear_value x)
    | with_reducible refine State.set_keeps ?_
    | with_reducible refine finishItem_keeps ?_
    | with_reducible refine finishBuffer_keeps ?_
    | with_reducible refine abortCapture_keeps ?_
    | with_reducible refine markItems_keeps ?_
    | with_reducible refine pump_keeps ?_
    | with_reducible refine State.each_keeps ?_ (fun s1 a1 h1 => ?_)
    | split
    | dsimp -zeta only
    | (rw [keeps_mk]; refine keepsParts_fold ?_))

theorem linkLost_keeps {org : State} {s : State} (hs : Keeps org s) :
    Keeps org (linkLost s) := by
  unfold linkLost
  repeat' (first
    | with_reducible assumption
    | ((try lift_lets -underBinder); intro x; first | (with_reducible refine keeps_let (o := org) x ?_ ?_; rotate_left; intro hx; clear_value x; rotate_right; subst x) | (with_reducible refine keeps_let_fun x ?_; subst x) | clear_value x)
    | with_reducible refine State.set_keeps ?_
    | with_reducible refine finishItem_keeps ?_
    | with_reducible refine dirPartial_keeps ?_
    | with_reducible refine State.each_keeps ?_ (fun s1 a1 h1 => ?_)
    | split
    | dsimp -zeta only
    | (rw [keeps_mk]; refine keepsParts_fold ?_))

theorem resetWindow_keeps {org s : State} {b : Nat} {keep : List Nat} (h : Keeps org s) : Keeps org (resetWindow s b keep) :=
  h.change (fun hs => ⟨⟨swf_filter hs.1.1, hs.1.2⟩, hs.2⟩) rfl rfl rfl rfl

theorem keepGaps_keeps {org : State} {s : State} (hs : Keeps org s) :
    Keeps org (keepGaps s) := by
  unfold keepGaps
  repeat' (first
    | with_reducible assumption
    | with_reducible refine State.setEvrRing_keeps ?_
    | with_reducible refine foldl_keeps ?_ (fun s1 a1 h1 => ?_)
    | with_reducible refine foldl_fst_keeps ?_ (fun s1 a1 h1 => ?_)
    | split
    | dsimp -zeta only
    | (rw [keeps_mk]; refine keepsParts_fold ?_))

theorem execHostInterfaceReset_keeps {org : State} {s : State} (hs : Keeps org s) :
    KeepsOut org (execHostInterfaceReset s) := by
  unfold execHostInterfaceReset
  repeat' (first
    | with_reducible assumption
    | ((try lift_lets -underBinder); intro x; first | (with_reducible refine keeps_let (o := org) x ?_ ?_; rotate_left; intro hx; clear_value x; rotate_right; subst x) | (with_reducible refine keeps_let_fun x ?_; subst x) | clear_value x)
    | with_reducible refine State.set_keeps ?_
    | with_reducible refine State.setFlag_keeps ?_
    | with_reducible refine State.setCapRing_keeps ?_
    | with_reducible refine linkLost_keeps ?_
    | with_reducible refine resetWindow_keeps ?_
    | with_reducible refine keepGaps_keeps ?_
    | with_reducible refine State.each_keeps ?_ (fun s1 a1 h1 => ?_)
    | with_reducible refine keepsOut_next ?_
    | split
    | dsimp -zeta only
    | (rw [keeps_mk]; refine keepsParts_fold ?_))

theorem execBusMasterDisable_keeps {org : State} {s : State} (hs : Keeps org s) :
    KeepsOut org (execBusMasterDisable s) := by
  unfold execBusMasterDisable
  repeat' (first
    | with_reducible assumption
    | with_reducible refine State.set_keeps ?_
    | with_reducible refine linkLost_keeps ?_
    | with_reducible refine keepsOut_next ?_
    | split
    | dsimp -zeta only)

theorem execBusMasterEnable_keeps {org : State} {s : State} (hs : Keeps org s) :
    KeepsOut org (execBusMasterEnable s) := by
  unfold execBusMasterEnable
  repeat' (first
    | with_reducible assumption
    | ((try lift_lets -underBinder); intro x; first | (with_reducible refine keeps_let (o := org) x ?_ ?_; rotate_left; intro hx; clear_value x; rotate_right; subst x) | (with_reducible refine keeps_let_fst (o := org) x ?_ ?_; rotate_left; intro hx; clear_value x; rotate_right; subst x) | (with_reducible refine keeps_let_fun x ?_; subst x) | clear_value x)
    | with_reducible refine State.set_keeps ?_
    | with_reducible refine State.msixUnmask_keeps ?_
    | with_reducible refine lossReport_keeps ?_
    | with_reducible refine flushRing_keeps ?_
    | with_reducible refine foldl_keeps ?_ (fun s1 a1 h1 => ?_)
    | with_reducible refine foldl_fst_keeps ?_ (fun s1 a1 h1 => ?_)
    | with_reducible refine keepsOut_next ?_
    | split
    | dsimp -zeta only)

theorem dmaFailed_keeps {org : State} {s : State} {k : RingKind} {n : Nat} (hs : Keeps org s) :
    Keeps org (dmaFailed s k n) := by
  unfold dmaFailed
  repeat' (first
    | with_reducible assumption
    | ((try lift_lets -underBinder); intro x; first | (with_reducible refine keeps_let (o := org) x ?_ ?_; rotate_left; intro hx; clear_value x; rotate_right; subst x) | clear_value x)
    | with_reducible refine State.bump_keeps ?_
    | with_reducible refine State.hifEvt_keeps ?_
    | with_reducible refine State.event_keeps ?_
    | split
    | dsimp -zeta only)

theorem execDmaError_keeps {org : State} {fault : DmaFault} {s : State} (hs : Keeps org s) :
    KeepsOut org (execDmaError fault s) := by
  unfold execDmaError
  repeat' (first
    | with_reducible assumption
    | ((try lift_lets -underBinder); intro x; first | (with_reducible refine keeps_let (o := org) x ?_ ?_; rotate_left; intro hx; clear_value x; rotate_right; subst x) | clear_value x)
    | with_reducible refine State.set_keeps ?_
    | with_reducible refine State.bump_keeps ?_
    | with_reducible refine State.setCplRing_keeps ?_
    | with_reducible refine State.setEvrRing_keeps ?_
    | with_reducible refine evrLose_keeps ?_
    | with_reducible refine complete_keeps ?_
    | with_reducible refine State.setCapRing_keeps ?_
    | with_reducible refine dirPartial_keeps ?_
    | with_reducible refine dmaFailed_keeps ?_
    | with_reducible refine keepsOut_next ?_
    | split
    | dsimp -zeta only
    | (rw [keeps_mk]; refine keepsParts_fold ?_))

theorem discardAll_keeps {org : State} {s : State} (hs : Keeps org s) :
    Keeps org (discardAll s) := by
  unfold discardAll
  repeat' (first
    | with_reducible assumption
    | ((try lift_lets -underBinder); intro x; first | (with_reducible refine keeps_let (o := org) x ?_ ?_; rotate_left; intro hx; clear_value x; rotate_right; subst x) | (with_reducible refine keeps_let_fst (o := org) x ?_ ?_; rotate_left; intro hx; clear_value x; rotate_right; subst x) | (with_reducible refine keeps_let_fun x ?_; subst x) | clear_value x)
    | with_reducible refine discarded_keeps ?_
    | with_reducible refine dropHeld_keeps ?_
    | with_reducible refine dropGap_keeps ?_
    | with_reducible refine dropMissed_keeps ?_
    | with_reducible refine foldl_keeps ?_ (fun s1 a1 h1 => ?_)
    | with_reducible refine foldl_fst_keeps ?_ (fun s1 a1 h1 => ?_)
    | split
    | dsimp -zeta only)

theorem hifCntClr_keeps {org : State} {s : State} (hs : Keeps org s) :
    Keeps org (hifCntClr s) := by
  unfold hifCntClr
  repeat' (first
    | with_reducible assumption
    | with_reducible refine State.clearAll_keeps ?_
    | split
    | dsimp -zeta only)

theorem snapshotRun_keeps {org s : State} {ring id : Nat} {data : State → List Byte → List Byte} (h : Keeps org s) :
    Keeps org (snapshotRun s ring id data) := by
  unfold snapshotRun
  split
  · exact h
  · split
    · exact h
    · lift_lets
      intro b
      split
      · exact complete_keeps h
      · exact complete_keeps (State.emit_keeps h)

/-- `Keeps` of the state that a table load answers, whichever way it ends. -/
def KeepsLoad (org : State) (r : LoadResult) : Prop :=
  match r with
  | .refused _ _ s => Keeps org s
  | .loaded s => Keeps org s
  | .later s => Keeps org s

theorem keepsLoad_refused {org : State} {st i : Nat} {s : State} (h : Keeps org s) : KeepsLoad org (.refused st i s) := h
theorem keepsLoad_loaded {org s : State} (h : Keeps org s) : KeepsLoad org (.loaded s) := h
theorem keepsLoad_later {org s : State} (h : Keeps org s) : KeepsLoad org (.later s) := h

theorem tableRun_keeps {org s : State} {ring id : Nat} {payload : List Byte} {load : State → Item → List Byte → LoadResult}
    (hl : ∀ {s : State} {it : Item} {b : List Byte}, Keeps org s → KeepsLoad org (load s it b)) (h : Keeps org s) :
    Keeps org (tableRun s ring id payload load) := by
  unfold tableRun
  split
  · exact h
  · rename_i it _
    split
    · exact h
    · have hs : KeepsLoad org (load s it (slice payload 0 (dLength it.desc))) := hl h
      generalize load s it (slice payload 0 (dLength it.desc)) = r at hs
      cases r with
      | refused st i s => exact complete_keeps hs
      | loaded s => exact complete_keeps hs
      | later s => exact hs

end Sys2Proof.Machine
end

