-- ==== Sys2Proof/Laws/KeepsLamps.lean ====
section
/-! SUPPORT. The operations of Machine/Lamps.lean keep what every command keeps. -/

namespace Sys2Proof.Machine

theorem State.setObj_keeps {org : State} {s : State} {n : Nat} {o : LampObj} (hs : Keeps org s) :
    Keeps org (State.setObj s n o) := by
  unfold State.setObj
  repeat' (first
    | with_reducible assumption
    | split
    | dsimp -zeta only
    | (rw [keeps_mk]; refine keepsParts_fold ?_)
    | (rw [keeps_mk]; refine keepsParts_change ?_ (fun h0 => by unfold SoundParts State.Sound LampWf at *; simp only [h0, swf_sput, and_self])))

theorem State.setBankSt_keeps {org : State} {s : State} {b : Nat} {r : BankSt} (hs : Keeps org s) :
    Keeps org (State.setBankSt s b r) := by
  unfold State.setBankSt
  repeat' (first
    | with_reducible assumption
    | split
    | dsimp -zeta only
    | (rw [keeps_mk]; refine keepsParts_fold ?_)
    | (rw [keeps_mk]; refine keepsParts_change ?_ (fun h0 => by unfold SoundParts State.Sound LampWf at *; simp only [h0, swf_sput, and_self])))

theorem State.setAdj_keeps {org : State} {s : State} {n : Nat} {r : AdjPair} (hs : Keeps org s) :
    Keeps org (State.setAdj s n r) := by
  unfold State.setAdj
  repeat' (first
    | with_reducible assumption
    | split
    | dsimp -zeta only
    | (rw [keeps_mk]; refine keepsParts_fold ?_)
    | (rw [keeps_mk]; refine keepsParts_change ?_ (fun h0 => by unfold SoundParts State.Sound LampWf at *; simp only [h0, swf_sput, and_self])))

theorem State.setMatrix_keeps {org : State} {s : State} {m : MatrixSt} (hs : Keeps org s) :
    Keeps org (State.setMatrix s m) := by
  unfold State.setMatrix
  repeat' (first
    | with_reducible assumption
    | split
    | dsimp -zeta only
    | (rw [keeps_mk]; refine keepsParts_fold ?_))

theorem State.setChain_keeps {org s : State} {c : Nat} {r : SkyChain} (h : Keeps org s) : Keeps org (s.setChain c r) := by
  refine h.change (fun hs => ?_) rfl rfl rfl rfl
  unfold State.Sound CoreWf State.setChain at *
  simp only [hs, swf_sput, and_self]

theorem faultRecord_keeps {org : State} {s : State} {cls : Nat} {evt : Field} {head : List Byte} {t : Tally} {e : TallyEdge} (hs : Keeps org s) :
    Keeps org (faultRecord s cls evt head t e) := by
  unfold faultRecord
  repeat' (first
    | with_reducible assumption
    | with_reducible refine State.set_keeps ?_
    | with_reducible refine State.event_keeps ?_
    | split
    | dsimp -zeta only
    | (rw [keeps_mk]; refine keepsParts_fold ?_))

theorem pinEval_keeps {org : State} {s : State} {n kind : Nat} {made : Option Bool} (hs : Keeps org s) :
    Keeps org (pinEval s n kind made) := by
  unfold pinEval
  repeat' (first
    | with_reducible assumption
    | ((try lift_lets -underBinder); intro x; first | (with_reducible refine keeps_let (o := org) x ?_ ?_; rotate_left; intro hx; clear_value x; rotate_right; subst x) | (with_reducible refine keeps_let_fst (o := org) x ?_ ?_; rotate_left; intro hx; clear_value x; rotate_right; subst x) | clear_value x)
    | with_reducible refine State.setObj_keeps ?_
    | with_reducible refine faultRecord_keeps ?_
    | split
    | dsimp -zeta only
    | (rw [keeps_mk]; refine keepsParts_fold ?_))

end Sys2Proof.Machine
end

