-- ==== Sys2Proof/Laws/KeepsCaliper.lean ====
section
/-! SUPPORT. The operations of Machine/Caliper.lean keep what every command keeps. -/

namespace Sys2Proof.Machine

theorem State.setCal_keeps {org s : State} {u : Nat} {r : CalUnit} (h : Keeps org s) : Keeps org (s.setCal u r) := by
  refine h.change (fun hs => ?_) rfl rfl rfl rfl
  unfold State.Sound CoreWf State.setCal at *
  simp only [hs, swf_sput, and_self]

theorem dropPart_keeps {org : State} {s : State} {u q : Nat} (hs : Keeps org s) :
    Keeps org (dropPart s u q) := by
  unfold dropPart
  repeat' (first
    | with_reducible assumption
    | ((try lift_lets -underBinder); intro x; first | (with_reducible refine keeps_let (o := org) x ?_ ?_; rotate_left; intro hx; clear_value x; rotate_right; subst x) | (with_reducible refine keeps_let_fun x ?_; subst x) | clear_value x)
    | with_reducible refine State.setCal_keeps ?_
    | split
    | dsimp -zeta only
    | (rw [keeps_mk]; refine keepsParts_fold ?_))

theorem setWq_keeps {org : State} {s : State} {u : Nat} {l : List TurnOn} (hs : Keeps org s) :
    Keeps org (setWq s u l) := by
  unfold setWq
  repeat' (first
    | with_reducible assumption
    | with_reducible refine State.set_keeps ?_
    | with_reducible refine State.setCal_keeps ?_
    | split
    | dsimp -zeta only
    | (rw [keeps_mk]; refine keepsParts_fold ?_))

theorem urgentNext_keeps {org : State} {s : State} {u : Nat} (hs : Keeps org s) :
    Keeps org (urgentNext s u) := by
  unfold urgentNext
  repeat' (first
    | with_reducible assumption
    | ((try lift_lets -underBinder); intro x; first | (with_reducible refine keeps_let (o := org) x ?_ ?_; rotate_left; intro hx; clear_value x; rotate_right; subst x) | (with_reducible refine keeps_let_fun x ?_; subst x) | clear_value x)
    | with_reducible refine State.set_keeps ?_
    | with_reducible refine State.bump_keeps ?_
    | with_reducible refine dropPart_keeps ?_
    | with_reducible refine State.each_keeps ?_ (fun s1 a1 h1 => ?_)
    | split
    | dsimp -zeta only)

theorem urgentOver_keeps {org : State} {s : State} {u : Nat} (hs : Keeps org s) :
    Keeps org (urgentOver s u) := by
  unfold urgentOver
  repeat' (first
    | with_reducible assumption
    | ((try lift_lets -underBinder); intro x; first | (with_reducible refine keeps_let (o := org) x ?_ ?_; rotate_left; intro hx; clear_value x; rotate_right; subst x) | clear_value x)
    | with_reducible refine State.set_keeps ?_
    | with_reducible refine dropPart_keeps ?_
    | split
    | dsimp -zeta only)

theorem hostAbort_keeps {org : State} {s : State} {u : Nat} (hs : Keeps org s) :
    Keeps org (hostAbort s u) := by
  unfold hostAbort
  repeat' (first
    | with_reducible assumption
    | ((try lift_lets -underBinder); intro x; first | (with_reducible refine keeps_let (o := org) x ?_ ?_; rotate_left; intro hx; clear_value x; rotate_right; subst x) | clear_value x)
    | with_reducible refine State.set_keeps ?_
    | with_reducible refine State.bump_keeps ?_
    | with_reducible refine State.event_keeps ?_
    | with_reducible refine State.setCal_keeps ?_
    | with_reducible refine dropPart_keeps ?_
    | split
    | dsimp -zeta only
    | (rw [keeps_mk]; refine keepsParts_fold ?_))

theorem turnOnCheck_keeps {org : State} {s : State} {c : TurnOn} (hs : Keeps org s) :
    Keeps org (turnOnCheck s c) := by
  unfold turnOnCheck
  repeat' (first
    | with_reducible assumption
    | ((try lift_lets -underBinder); intro x; first | (with_reducible refine keeps_let (o := org) x ?_ ?_; rotate_left; intro hx; clear_value x; rotate_right; subst x) | clear_value x)
    | with_reducible refine pinEval_keeps ?_
    | with_reducible refine setWq_keeps ?_
    | with_reducible refine urgentNext_keeps ?_
    | with_reducible refine hostAbort_keeps ?_
    | split
    | dsimp -zeta only)

theorem turnOnAbandon_keeps {org : State} {s : State} {pin : Nat} (hs : Keeps org s) :
    Keeps org (turnOnAbandon s pin) := by
  unfold turnOnAbandon
  repeat' (first
    | with_reducible assumption
    | ((try lift_lets -underBinder); intro x; first | (with_reducible refine keeps_let (o := org) x ?_ ?_; rotate_left; intro hx; clear_value x; rotate_right; subst x) | (with_reducible refine keeps_let_fun x ?_; subst x) | clear_value x)
    | with_reducible refine setWq_keeps ?_
    | with_reducible refine urgentOver_keeps ?_
    | split
    | dsimp -zeta only
    | (rw [keeps_mk]; refine keepsParts_fold ?_))

theorem collectWords_keeps {org : State} {s : State} {u q : Nat} {ws : List Int} {ovr : Bool} (hs : Keeps org s) :
    Keeps org (collectWords s u q ws ovr) := by
  unfold collectWords
  repeat' (first
    | with_reducible assumption
    | ((try lift_lets -underBinder); intro x; first | (with_reducible refine keeps_let (o := org) x ?_ ?_; rotate_left; intro hx; clear_value x; rotate_right; subst x) | (with_reducible refine keeps_let_fun x ?_; subst x) | clear_value x)
    | with_reducible refine State.setCal_keeps ?_
    | split
    | dsimp -zeta only
    | (rw [keeps_mk]; refine keepsParts_fold ?_))

theorem mergePart_keeps {org : State} {s : State} {u q n : Nat} (hs : Keeps org s) :
    Keeps org (mergePart s u q n) := by
  unfold mergePart
  repeat' (first
    | with_reducible assumption
    | ((try lift_lets -underBinder); intro x; first | (with_reducible refine keeps_let (o := org) x ?_ ?_; rotate_left; intro hx; clear_value x; rotate_right; subst x) | (with_reducible refine keeps_let_fun x ?_; subst x) | clear_value x)
    | with_reducible refine State.setCal_keeps ?_
    | with_reducible refine dropPart_keeps ?_
    | split
    | dsimp -zeta only
    | (rw [keeps_mk]; refine keepsParts_fold ?_))

theorem seqAdvance_keeps {org : State} {s : State} {u q : Nat} (hs : Keeps org s) :
    Keeps org (seqAdvance s u q) := by
  unfold seqAdvance
  repeat' (first
    | with_reducible assumption
    | ((try lift_lets -underBinder); intro x; first | (with_reducible refine keeps_let (o := org) x ?_ ?_; rotate_left; intro hx; clear_value x; rotate_right; subst x) | (with_reducible refine keeps_let_fst (o := org) x ?_ ?_; rotate_left; intro hx; clear_value x; rotate_right; subst x) | (with_reducible refine keeps_let_fun x ?_; subst x) | clear_value x)
    | with_reducible refine State.set_keeps ?_
    | with_reducible refine State.setCal_keeps ?_
    | split
    | dsimp -zeta only
    | (rw [keeps_mk]; refine keepsParts_fold ?_))

theorem hostDone_keeps {org : State} {s : State} {u n : Nat} (hs : Keeps org s) :
    Keeps org (hostDone s u n) := by
  unfold hostDone
  repeat' (first
    | with_reducible assumption
    | ((try lift_lets -underBinder); intro x; first | (with_reducible refine keeps_let (o := org) x ?_ ?_; rotate_left; intro hx; clear_value x; rotate_right; subst x) | clear_value x)
    | with_reducible refine State.set_keeps ?_
    | with_reducible refine State.setCal_keeps ?_
    | with_reducible refine urgentOver_keeps ?_
    | with_reducible refine mergePart_keeps ?_
    | split
    | dsimp -zeta only
    | (rw [keeps_mk]; refine keepsParts_fold ?_))

theorem turnOnDone_keeps {org : State} {s : State} {u : Nat} (hs : Keeps org s) :
    Keeps org (turnOnDone s u) := by
  unfold turnOnDone
  repeat' (first
    | with_reducible assumption
    | ((try lift_lets -underBinder); intro x; first | (with_reducible refine keeps_let (o := org) x ?_ ?_; rotate_left; intro hx; clear_value x; rotate_right; subst x) | clear_value x)
    | with_reducible refine pinEval_keeps ?_
    | with_reducible refine setWq_keeps ?_
    | with_reducible refine urgentOver_keeps ?_
    | split
    | dsimp -zeta only
    | (rw [keeps_mk]; refine keepsParts_fold ?_))

theorem execCaliperEntryComplete_keeps {org : State} {unit : Fin 4} {src : CalSource} {words : List (BitVec 24)} {s : State} (hs : Keeps org s) :
    KeepsOut org (execCaliperEntryComplete unit src words s) := by
  unfold execCaliperEntryComplete
  repeat' (first
    | with_reducible assumption
    | ((try lift_lets -underBinder); intro x; first | (with_reducible refine keeps_let (o := org) x ?_ ?_; rotate_left; intro hx; clear_value x; rotate_right; subst x) | clear_value x)
    | with_reducible refine State.count_keeps ?_
    | with_reducible refine collectWords_keeps ?_
    | with_reducible refine mergePart_keeps ?_
    | with_reducible refine seqAdvance_keeps ?_
    | with_reducible refine hostDone_keeps ?_
    | with_reducible refine turnOnDone_keeps ?_
    | with_reducible refine keepsOut_next ?_
    | split
    | dsimp -zeta only
    | (rw [keeps_mk]; refine keepsParts_fold ?_))

theorem execCaliperOverRange_keeps {org : State} {unit : Fin 4} {src : CalSource} {words : List (BitVec 24)} {positive : Bool} {s : State} (hs : Keeps org s) :
    KeepsOut org (execCaliperOverRange unit src words positive s) := by
  unfold execCaliperOverRange
  repeat' (first
    | with_reducible assumption
    | ((try lift_lets -underBinder); intro x; first | (with_reducible refine keeps_let (o := org) x ?_ ?_; rotate_left; intro hx; clear_value x; rotate_right; subst x) | clear_value x)
    | with_reducible refine State.set_keeps ?_
    | with_reducible refine State.count_keeps ?_
    | with_reducible refine State.bump_keeps ?_
    | with_reducible refine State.event_keeps ?_
    | with_reducible refine collectWords_keeps ?_
    | with_reducible refine keepsOut_next ?_
    | split
    | dsimp -zeta only
    | (rw [keeps_mk]; refine keepsParts_fold ?_))

theorem calUrgWrite_keeps {org : State} {s : State} {u v : Nat} (hs : Keeps org s) :
    Keeps org (calUrgWrite s u v) := by
  unfold calUrgWrite
  repeat' (first
    | with_reducible assumption
    | ((try lift_lets -underBinder); intro x; first | (with_reducible refine keeps_let (o := org) x ?_ ?_; rotate_left; intro hx; clear_value x; rotate_right; subst x) | clear_value x)
    | with_reducible refine State.set_keeps ?_
    | with_reducible refine State.wrErr_keeps ?_
    | with_reducible refine State.setCal_keeps ?_
    | with_reducible refine urgentNext_keeps ?_
    | split
    | dsimp -zeta only
    | (rw [keeps_mk]; refine keepsParts_fold ?_))

theorem loadSequence_keeps {org : State} {s : State} {it : Item} {bytes : List Byte} (hs : Keeps org s) :
    KeepsLoad org (loadSequence s it bytes) := by
  unfold loadSequence
  repeat' (first
    | with_reducible assumption
    | ((try lift_lets -underBinder); intro x; first | (with_reducible refine keeps_let (o := org) x ?_ ?_; rotate_left; intro hx; clear_value x; rotate_right; subst x) | (with_reducible refine keeps_let_fst (o := org) x ?_ ?_; rotate_left; intro hx; clear_value x; rotate_right; subst x) | (with_reducible refine keeps_let_fun x ?_; subst x) | clear_value x)
    | with_reducible refine State.set_keeps ?_
    | with_reducible refine claimAll_keeps ?_
    | with_reducible refine releaseOwn_keeps ?_
    | with_reducible refine State.setCal_keeps ?_
    | with_reducible refine dropPart_keeps ?_
    | with_reducible refine State.each_keeps ?_ (fun s1 a1 h1 => ?_)
    | with_reducible refine keepsLoad_refused ?_
    | with_reducible refine keepsLoad_loaded ?_
    | with_reducible refine keepsLoad_later ?_
    | split
    | dsimp -zeta only
    | (rw [keeps_mk]; refine keepsParts_fold ?_)
    | (rw [keeps_mk]; refine keepsParts_change ?_ (fun h0 => by unfold SoundParts State.Sound FlumeWf LandingWf at *; simp only [h0, and_self])))

theorem execTableLoadCaliperSequence_keeps {org : State} {ring : Fin 16} {payload : List Byte} {s : State} (hs : Keeps org s) :
    KeepsOut org (execTableLoadCaliperSequence ring payload s) := by
  unfold execTableLoadCaliperSequence
  repeat' (first
    | with_reducible assumption
    | with_reducible refine tableRun_keeps (fun h => loadSequence_keeps h) ?_
    | with_reducible refine loadSequence_keeps ?_
    | with_reducible refine keepsOut_next ?_
    | split
    | dsimp -zeta only)

theorem execRefReady_keeps {org : State} {unit : Fin 4} {s : State} (hs : Keeps org s) :
    KeepsOut org (execRefReady unit s) := by
  unfold execRefReady
  repeat' (first
    | with_reducible assumption
    | with_reducible refine State.set_keeps ?_
    | with_reducible refine keepsOut_next ?_
    | split
    | dsimp -zeta only)

theorem refSwitch_keeps {org : State} {s : State} {u : Nat} {on : Bool} (hs : Keeps org s) :
    Keeps org (refSwitch s u on) := by
  unfold refSwitch
  repeat' (first
    | with_reducible assumption
    | ((try lift_lets -underBinder); intro x; first | (with_reducible refine keeps_let (o := org) x ?_ ?_; rotate_left; intro hx; clear_value x; rotate_right; subst x) | (with_reducible refine keeps_let_fun x ?_; subst x) | clear_value x)
    | with_reducible refine State.set_keeps ?_
    | with_reducible refine pinEval_keeps ?_
    | with_reducible refine State.setCal_keeps ?_
    | with_reducible refine dropPart_keeps ?_
    | with_reducible refine setWq_keeps ?_
    | with_reducible refine urgentOver_keeps ?_
    | with_reducible refine State.each_keeps ?_ (fun s1 a1 h1 => ?_)
    | split
    | dsimp -zeta only
    | (rw [keeps_mk]; refine keepsParts_fold ?_))

theorem loadShadow_keeps {org : State} {s : State} {u n : Nat} (hs : Keeps org s) :
    Keeps org (loadShadow s u n) := by
  unfold loadShadow
  repeat' (first
    | with_reducible assumption
    | ((try lift_lets -underBinder); intro x; first | (with_reducible refine keeps_let (o := org) x ?_ ?_; rotate_left; intro hx; clear_value x; rotate_right; subst x) | clear_value x)
    | with_reducible refine State.write_keeps ?_
    | with_reducible refine State.count_keeps ?_
    | split
    | dsimp -zeta only)

theorem accClear_keeps {org : State} {s : State} {u n : Nat} (hs : Keeps org s) :
    Keeps org (accClear s u n) := by
  unfold accClear
  repeat' (first
    | with_reducible assumption
    | ((try lift_lets -underBinder); intro x; first | (with_reducible refine keeps_let (o := org) x ?_ ?_; rotate_left; intro hx; clear_value x; rotate_right; subst x) | (with_reducible refine keeps_let_fun x ?_; subst x) | clear_value x)
    | with_reducible refine State.setCal_keeps ?_
    | split
    | dsimp -zeta only
    | (rw [keeps_mk]; refine keepsParts_fold ?_))

theorem accClearAll_keeps {org : State} {s : State} {u : Nat} (hs : Keeps org s) :
    Keeps org (accClearAll s u) := by
  unfold accClearAll
  repeat' (first
    | with_reducible assumption
    | with_reducible refine State.setCal_keeps ?_
    | split
    | dsimp -zeta only
    | (rw [keeps_mk]; refine keepsParts_fold ?_))

theorem execSnapshotAccumulators_keeps {org : State} {ring : Fin 16} {s : State} (hs : Keeps org s) :
    KeepsOut org (execSnapshotAccumulators ring s) := by
  unfold execSnapshotAccumulators
  repeat' (first
    | with_reducible assumption
    | ((try lift_lets -underBinder); intro x; first | (with_reducible refine keeps_let (o := org) x ?_ ?_; rotate_left; intro hx; clear_value x; rotate_right; subst x) | (with_reducible refine keeps_let_fun x ?_; subst x) | clear_value x)
    | with_reducible refine snapshotRun_keeps ?_
    | with_reducible refine accClearAll_keeps ?_
    | with_reducible refine keepsOut_next ?_
    | split
    | dsimp -zeta only
    | (rw [keeps_mk]; refine keepsParts_fold ?_))

theorem calCntClr_keeps {org : State} {s : State} (hs : Keeps org s) :
    Keeps org (calCntClr s) := by
  unfold calCntClr
  repeat' (first
    | with_reducible assumption
    | ((try lift_lets -underBinder); intro x; first | (with_reducible refine keeps_let (o := org) x ?_ ?_; rotate_left; intro hx; clear_value x; rotate_right; subst x) | (with_reducible refine keeps_let_fst (o := org) x ?_ ?_; rotate_left; intro hx; clear_value x; rotate_right; subst x) | (with_reducible refine keeps_let_fun x ?_; subst x) | clear_value x)
    | with_reducible refine State.clearAll_keeps ?_
    | with_reducible refine State.setObj_keeps ?_
    | with_reducible refine State.setBankSt_keeps ?_
    | with_reducible refine State.setAdj_keeps ?_
    | with_reducible refine State.each_keeps ?_ (fun s1 a1 h1 => ?_)
    | split
    | dsimp -zeta only
    | (rw [keeps_mk]; refine keepsParts_fold ?_))

end Sys2Proof.Machine
end

