-- ==== Sys2Proof/Laws/KeepsBlaze.lean ====
section
/-! SUPPORT. The operations of Machine/Blaze.lean keep what every command keeps. -/

namespace Sys2Proof.Machine

theorem markOpen_keeps {org : State} {s : State} {b k : Nat} (hs : Keeps org s) :
    Keeps org (markOpen s b k) := by
  unfold markOpen
  repeat' (first
    | with_reducible assumption
    | ((try lift_lets -underBinder); intro x; first | (with_reducible refine keeps_let (o := org) x ?_ ?_; rotate_left; intro hx; clear_value x; rotate_right; subst x) | clear_value x)
    | with_reducible refine State.set_keeps ?_
    | with_reducible refine State.event_keeps ?_
    | split
    | dsimp -zeta only)

theorem stringClosed_keeps {org : State} {s : State} {b : Nat} (hs : Keeps org s) :
    Keeps org (stringClosed s b) := by
  unfold stringClosed
  repeat' (first
    | with_reducible assumption
    | with_reducible refine State.set_keeps ?_
    | with_reducible refine State.event_keeps ?_
    | split
    | dsimp -zeta only)

theorem openClr_keeps {org : State} {s : State} {b : Nat} (hs : Keeps org s) :
    Keeps org (openClr s b) := by
  unfold openClr
  repeat' (first
    | with_reducible assumption
    | ((try lift_lets -underBinder); intro x; first | (with_reducible refine keeps_let (o := org) x ?_ ?_; rotate_left; intro hx; clear_value x; rotate_right; subst x) | (with_reducible refine keeps_let_fun x ?_; subst x) | clear_value x)
    | with_reducible refine State.set_keeps ?_
    | with_reducible refine State.event_keeps ?_
    | with_reducible refine stringClosed_keeps ?_
    | with_reducible refine State.each_keeps ?_ (fun s1 a1 h1 => ?_)
    | split
    | dsimp -zeta only)

theorem limitOn_keeps {org : State} {s : State} {b : Nat} (hs : Keeps org s) :
    Keeps org (limitOn s b) := by
  unfold limitOn
  repeat' (first
    | with_reducible assumption
    | with_reducible refine State.set_keeps ?_
    | with_reducible refine State.event_keeps ?_
    | split
    | dsimp -zeta only)

theorem testFinish_keeps {org : State} {s : State} {b : Nat} {meas : List (Nat × Nat)} (hs : Keeps org s) :
    Keeps org (testFinish s b meas) := by
  unfold testFinish
  repeat' (first
    | with_reducible assumption
    | ((try lift_lets -underBinder); intro x; first | (with_reducible refine keeps_let (o := org) x ?_ ?_; rotate_left; intro hx; clear_value x; rotate_right; subst x) | (with_reducible refine keeps_let_fst (o := org) x ?_ ?_; rotate_left; intro hx; clear_value x; rotate_right; subst x) | (with_reducible refine keeps_let_fun x ?_; subst x) | clear_value x)
    | with_reducible refine State.write_keeps ?_
    | with_reducible refine State.set_keeps ?_
    | with_reducible refine State.event_keeps ?_
    | with_reducible refine State.setBankSt_keeps ?_
    | with_reducible refine State.each_keeps ?_ (fun s1 a1 h1 => ?_)
    | split
    | dsimp -zeta only
    | (rw [keeps_mk]; refine keepsParts_fold ?_))

theorem testStart_keeps {org : State} {s : State} {b : Nat} (hs : Keeps org s) :
    Keeps org (testStart s b) := by
  unfold testStart
  repeat' (first
    | with_reducible assumption
    | with_reducible refine State.setBankSt_keeps ?_
    | with_reducible refine testFinish_keeps ?_
    | split
    | dsimp -zeta only
    | (rw [keeps_mk]; refine keepsParts_fold ?_))

theorem testSample_keeps {org : State} {s : State} {b : Nat} {h : Nat} {usable : Bool} (hs : Keeps org s) :
    Keeps org (testSample s b h usable) := by
  unfold testSample
  repeat' (first
    | with_reducible assumption
    | ((try lift_lets -underBinder); intro x; first | (with_reducible refine keeps_let (o := org) x ?_ ?_; rotate_left; intro hx; clear_value x; rotate_right; subst x) | (with_reducible refine keeps_let_fun x ?_; subst x) | clear_value x)
    | with_reducible refine State.setBankSt_keeps ?_
    | with_reducible refine testFinish_keeps ?_
    | split
    | dsimp -zeta only
    | (rw [keeps_mk]; refine keepsParts_fold ?_))

theorem searchFail_keeps {org : State} {s : State} {b : Nat} (hs : Keeps org s) :
    Keeps org (searchFail s b) := by
  unfold searchFail
  repeat' (first
    | with_reducible assumption
    | ((try lift_lets -underBinder); intro x; first | (with_reducible refine keeps_let (o := org) x ?_ ?_; rotate_left; intro hx; clear_value x; rotate_right; subst x) | clear_value x)
    | with_reducible refine State.set_keeps ?_
    | with_reducible refine State.event_keeps ?_
    | with_reducible refine State.setBankSt_keeps ?_
    | split
    | dsimp -zeta only
    | (rw [keeps_mk]; refine keepsParts_fold ?_))

theorem searchStart_keeps {org : State} {s : State} {b : Nat} (hs : Keeps org s) :
    Keeps org (searchStart s b) := by
  unfold searchStart
  repeat' (first
    | with_reducible assumption
    | ((try lift_lets -underBinder); intro x; first | (with_reducible refine keeps_let (o := org) x ?_ ?_; rotate_left; intro hx; clear_value x; rotate_right; subst x) | clear_value x)
    | with_reducible refine State.bump_keeps ?_
    | with_reducible refine State.setBankSt_keeps ?_
    | with_reducible refine searchFail_keeps ?_
    | split
    | dsimp -zeta only
    | (rw [keeps_mk]; refine keepsParts_fold ?_))

theorem searchSample_keeps {org : State} {s : State} {b : Nat} {cands : List Nat} {cur : Bool} (hs : Keeps org s) :
    Keeps org (searchSample s b cands cur) := by
  unfold searchSample
  repeat' (first
    | with_reducible assumption
    | with_reducible refine State.setBankSt_keeps ?_
    | with_reducible refine markOpen_keeps ?_
    | with_reducible refine stringClosed_keeps ?_
    | with_reducible refine searchFail_keeps ?_
    | split
    | dsimp -zeta only
    | (rw [keeps_mk]; refine keepsParts_fold ?_))

theorem supplyTest_keeps {org : State} {s : State} {b : Nat} (hs : Keeps org s) :
    Keeps org (supplyTest s b) := by
  unfold supplyTest
  repeat' (first
    | with_reducible assumption
    | with_reducible refine State.setBankSt_keeps ?_
    | with_reducible refine limitOn_keeps ?_
    | with_reducible refine searchStart_keeps ?_
    | split
    | dsimp -zeta only
    | (rw [keeps_mk]; refine keepsParts_fold ?_))

theorem limitSample_keeps {org : State} {s : State} {b : Nat} {ok : Bool} (hs : Keeps org s) :
    Keeps org (limitSample s b ok) := by
  unfold limitSample
  repeat' (first
    | with_reducible assumption
    | ((try lift_lets -underBinder); intro x; first | (with_reducible refine keeps_let (o := org) x ?_ ?_; rotate_left; intro hx; clear_value x; rotate_right; subst x) | clear_value x)
    | with_reducible refine State.set_keeps ?_
    | with_reducible refine State.event_keeps ?_
    | with_reducible refine State.setBankSt_keeps ?_
    | split
    | dsimp -zeta only
    | (rw [keeps_mk]; refine keepsParts_fold ?_))

theorem trackSample_keeps {org : State} {s : State} {b : Nat} {h : Option Nat} (hs : Keeps org s) :
    Keeps org (trackSample s b h).1 := by
  unfold trackSample
  repeat' (first
    | with_reducible assumption
    | ((try lift_lets -underBinder); intro x; first | (with_reducible refine keeps_let (o := org) x ?_ ?_; rotate_left; intro hx; clear_value x; rotate_right; subst x) | clear_value x)
    | with_reducible refine State.set_keeps ?_
    | with_reducible refine State.setBankSt_keeps ?_
    | with_reducible refine markOpen_keeps ?_
    | with_reducible refine limitOn_keeps ?_
    | with_reducible refine limitSample_keeps ?_
    | split
    | dsimp -zeta only
    | (rw [keeps_mk]; refine keepsParts_fold ?_))

theorem nodeCheck_keeps {org : State} {s : State} {b : Nat} {volts : List Nat} (hs : Keeps org s) :
    Keeps org (nodeCheck s b volts) := by
  unfold nodeCheck
  repeat' (first
    | with_reducible assumption
    | ((try lift_lets -underBinder); intro x; first | (with_reducible refine keeps_let (o := org) x ?_ ?_; rotate_left; intro hx; clear_value x; rotate_right; subst x) | (with_reducible refine keeps_let_fst (o := org) x ?_ ?_; rotate_left; intro hx; clear_value x; rotate_right; subst x) | (with_reducible refine keeps_let_fun x ?_; subst x) | clear_value x)
    | with_reducible refine State.setBankSt_keeps ?_
    | with_reducible refine foldl_keeps ?_ (fun s1 a1 h1 => ?_)
    | with_reducible refine foldl_fst_keeps ?_ (fun s1 a1 h1 => ?_)
    | split
    | dsimp -zeta only
    | (rw [keeps_mk]; refine keepsParts_fold ?_))

theorem nodeEval_keeps {org : State} {s : State} {b : Nat} (hs : Keeps org s) :
    Keeps org (nodeEval s b) := by
  unfold nodeEval
  repeat' (first
    | with_reducible assumption
    | ((try lift_lets -underBinder); intro x; first | (with_reducible refine keeps_let (o := org) x ?_ ?_; rotate_left; intro hx; clear_value x; rotate_right; subst x) | (with_reducible refine keeps_let_fst (o := org) x ?_ ?_; rotate_left; intro hx; clear_value x; rotate_right; subst x) | (with_reducible refine keeps_let_fun x ?_; subst x) | clear_value x)
    | with_reducible refine State.setBankSt_keeps ?_
    | with_reducible refine faultRecord_keeps ?_
    | with_reducible refine testStart_keeps ?_
    | with_reducible refine foldl_keeps ?_ (fun s1 a1 h1 => ?_)
    | with_reducible refine foldl_fst_keeps ?_ (fun s1 a1 h1 => ?_)
    | split
    | dsimp -zeta only
    | (rw [keeps_mk]; refine keepsParts_fold ?_))

theorem execHeadroomSample_keeps {org : State} {bank : Fin 8} {h : Option (BitVec 8)} {volts : List Nat} {s : State} (hs : Keeps org s) :
    KeepsOut org (execHeadroomSample bank h volts s) := by
  unfold execHeadroomSample
  repeat' (first
    | with_reducible assumption
    | ((try lift_lets -underBinder); intro x; first | (with_reducible refine keeps_let (o := org) x ?_ ?_; rotate_left; intro hx; clear_value x; rotate_right; subst x) | (with_reducible refine keeps_let_fst (o := org) x ?_ ?_; rotate_left; intro hx; clear_value x; rotate_right; subst x) | clear_value x)
    | with_reducible refine State.set_keeps ?_
    | with_reducible refine State.setBankSt_keeps ?_
    | with_reducible refine stringClosed_keeps ?_
    | with_reducible refine testSample_keeps ?_
    | with_reducible refine searchStart_keeps ?_
    | with_reducible refine searchSample_keeps ?_
    | with_reducible refine trackSample_keeps ?_
    | with_reducible refine nodeCheck_keeps ?_
    | with_reducible refine keepsOut_next ?_
    | split
    | dsimp -zeta only
    | (rw [keeps_mk]; refine keepsParts_fold ?_))

theorem execOpenSearchRetry_keeps {org : State} {bank : Fin 8} {s : State} (hs : Keeps org s) :
    KeepsOut org (execOpenSearchRetry bank s) := by
  unfold execOpenSearchRetry
  repeat' (first
    | with_reducible assumption
    | ((try lift_lets -underBinder); intro x; first | (with_reducible refine keeps_let (o := org) x ?_ ?_; rotate_left; intro hx; clear_value x; rotate_right; subst x) | clear_value x)
    | with_reducible refine State.setBankSt_keeps ?_
    | with_reducible refine keepsOut_next ?_
    | split
    | dsimp -zeta only
    | (rw [keeps_mk]; refine keepsParts_fold ?_))

theorem execSegtestAutoDue_keeps {org : State} {bank : Fin 8} {s : State} (hs : Keeps org s) :
    KeepsOut org (execSegtestAutoDue bank s) := by
  unfold execSegtestAutoDue
  repeat' (first
    | with_reducible assumption
    | ((try lift_lets -underBinder); intro x; first | (with_reducible refine keeps_let (o := org) x ?_ ?_; rotate_left; intro hx; clear_value x; rotate_right; subst x) | clear_value x)
    | with_reducible refine State.setBankSt_keeps ?_
    | with_reducible refine testStart_keeps ?_
    | with_reducible refine keepsOut_next ?_
    | split
    | dsimp -zeta only
    | (rw [keeps_mk]; refine keepsParts_fold ?_))

theorem selChange_keeps {org : State} {s : State} {b sel : Nat} (hs : Keeps org s) :
    Keeps org (selChange s b sel) := by
  unfold selChange
  repeat' (first
    | with_reducible assumption
    | ((try lift_lets -underBinder); intro x; first | (with_reducible refine keeps_let (o := org) x ?_ ?_; rotate_left; intro hx; clear_value x; rotate_right; subst x) | clear_value x)
    | with_reducible refine State.set_keeps ?_
    | with_reducible refine State.setBankSt_keeps ?_
    | split
    | dsimp -zeta only
    | (rw [keeps_mk]; refine keepsParts_fold ?_))

theorem stringStart_keeps {org : State} {s : State} {b : Nat} (hs : Keeps org s) :
    Keeps org (stringStart s b) := by
  unfold stringStart
  repeat' (first
    | with_reducible assumption
    | ((try lift_lets -underBinder); intro x; first | (with_reducible refine keeps_let (o := org) x ?_ ?_; rotate_left; intro hx; clear_value x; rotate_right; subst x) | clear_value x)
    | with_reducible refine State.setBankSt_keeps ?_
    | split
    | dsimp -zeta only
    | (rw [keeps_mk]; refine keepsParts_fold ?_))

theorem execSubPulseStart_keeps {org : State} {pin : Fin 96} {s : State} (hs : Keeps org s) :
    KeepsOut org (execSubPulseStart pin s) := by
  unfold execSubPulseStart
  repeat' (first
    | with_reducible assumption
    | ((try lift_lets -underBinder); intro x; first | (with_reducible refine keeps_let (o := org) x ?_ ?_; rotate_left; intro hx; clear_value x; rotate_right; subst x) | clear_value x)
    | with_reducible refine State.setObj_keeps ?_
    | with_reducible refine stringStart_keeps ?_
    | with_reducible refine keepsOut_next ?_
    | split
    | dsimp -zeta only
    | (rw [keeps_mk]; refine keepsParts_fold ?_))

theorem pixelEnd_keeps {org : State} {s : State} {c : Nat} {present : Bool} (hs : Keeps org s) :
    Keeps org (pixelEnd s c present) := by
  unfold pixelEnd
  repeat' (first
    | with_reducible assumption
    | ((try lift_lets -underBinder); intro x; first | (with_reducible refine keeps_let (o := org) x ?_ ?_; rotate_left; intro hx; clear_value x; rotate_right; subst x) | (with_reducible refine keeps_let_fst (o := org) x ?_ ?_; rotate_left; intro hx; clear_value x; rotate_right; subst x) | (with_reducible refine keeps_let_fun x ?_; subst x) | clear_value x)
    | with_reducible refine State.setObj_keeps ?_
    | with_reducible refine State.setMatrix_keeps ?_
    | with_reducible refine State.each_keeps ?_ (fun s1 a1 h1 => ?_)
    | split
    | dsimp -zeta only
    | (rw [keeps_mk]; refine keepsParts_fold ?_))

theorem execSubPulseEnd_keeps {org : State} {pulse : Pulse} {s : State} (hs : Keeps org s) :
    KeepsOut org (execSubPulseEnd pulse s) := by
  unfold execSubPulseEnd
  repeat' (first
    | with_reducible assumption
    | ((try lift_lets -underBinder); intro x; first | (with_reducible refine keeps_let (o := org) x ?_ ?_; rotate_left; intro hx; clear_value x; rotate_right; subst x) | clear_value x)
    | with_reducible refine State.setObj_keeps ?_
    | with_reducible refine State.setBankSt_keeps ?_
    | with_reducible refine pixelEnd_keeps ?_
    | with_reducible refine keepsOut_next ?_
    | split
    | dsimp -zeta only
    | (rw [keeps_mk]; refine keepsParts_fold ?_))

theorem pinBoundary_keeps {org : State} {s : State} {n : Nat} {window : Bool} (hs : Keeps org s) :
    Keeps org (pinBoundary s n window) := by
  unfold pinBoundary
  repeat' (first
    | with_reducible assumption
    | ((try lift_lets -underBinder); intro x; first | (with_reducible refine keeps_let (o := org) x ?_ ?_; rotate_left; intro hx; clear_value x; rotate_right; subst x) | (with_reducible refine keeps_let_fst (o := org) x ?_ ?_; rotate_left; intro hx; clear_value x; rotate_right; subst x) | clear_value x)
    | with_reducible refine State.setObj_keeps ?_
    | with_reducible refine pinEval_keeps ?_
    | split
    | dsimp -zeta only
    | (rw [keeps_mk]; refine keepsParts_fold ?_))

theorem execPwmPeriodBoundary_keeps {org : State} {s : State} (hs : Keeps org s) :
    KeepsOut org (execPwmPeriodBoundary s) := by
  unfold execPwmPeriodBoundary
  repeat' (first
    | with_reducible assumption
    | ((try lift_lets -underBinder); intro x; first | (with_reducible refine keeps_let (o := org) x ?_ ?_; rotate_left; intro hx; clear_value x; rotate_right; subst x) | (with_reducible refine keeps_let_fst (o := org) x ?_ ?_; rotate_left; intro hx; clear_value x; rotate_right; subst x) | (with_reducible refine keeps_let_fun x ?_; subst x) | (with_reducible refine keeps_let_lamp x ?_; subst x) | clear_value x)
    | with_reducible refine nodeEval_keeps ?_
    | with_reducible refine pinBoundary_keeps ?_
    | with_reducible refine foldl_keeps ?_ (fun s1 a1 h1 => ?_)
    | with_reducible refine foldl_fst_keeps ?_ (fun s1 a1 h1 => ?_)
    | with_reducible refine keepsOut_next ?_
    | split
    | dsimp -zeta only
    | (rw [keeps_mk]; refine keepsParts_fold ?_))

theorem matrixBoundary_keeps {org : State} {s : State} {n : Nat} (hs : Keeps org s) :
    Keeps org (matrixBoundary s n) := by
  unfold matrixBoundary
  repeat' (first
    | with_reducible assumption
    | with_reducible refine State.setObj_keeps ?_
    | split
    | dsimp -zeta only)

theorem armSwap_keeps {org : State} {s : State} (hs : Keeps org s) :
    Keeps org (armSwap s) := by
  unfold armSwap
  repeat' (first
    | with_reducible assumption
    | with_reducible refine State.set_keeps ?_
    | with_reducible refine State.bump_keeps ?_
    | split
    | dsimp -zeta only)

theorem enableObj_keeps {org : State} {s : State} {n : Nat} {on : Bool} (hs : Keeps org s) :
    Keeps org (enableObj s n on) := by
  unfold enableObj
  repeat' (first
    | with_reducible assumption
    | ((try lift_lets -underBinder); intro x; first | (with_reducible refine keeps_let (o := org) x ?_ ?_; rotate_left; intro hx; clear_value x; rotate_right; subst x) | (with_reducible refine keeps_let_fst (o := org) x ?_ ?_; rotate_left; intro hx; clear_value x; rotate_right; subst x) | clear_value x)
    | with_reducible refine State.setObj_keeps ?_
    | with_reducible refine turnOnCheck_keeps ?_
    | with_reducible refine turnOnAbandon_keeps ?_
    | split
    | dsimp -zeta only
    | (rw [keeps_mk]; refine keepsParts_fold ?_))

theorem pageSet_keeps {org : State} {s : State} (hs : Keeps org s) :
    Keeps org (pageSet s) := by
  unfold pageSet
  repeat' (first
    | with_reducible assumption
    | ((try lift_lets -underBinder); intro x; first | (with_reducible refine keeps_let (o := org) x ?_ ?_; rotate_left; intro hx; clear_value x; rotate_right; subst x) | (with_reducible refine keeps_let_fun x ?_; subst x) | clear_value x)
    | with_reducible refine State.setMatrix_keeps ?_
    | with_reducible refine armSwap_keeps ?_
    | split
    | dsimp -zeta only
    | (rw [keeps_mk]; refine keepsParts_fold ?_))

theorem applyEnables_keeps {org : State} {s : State} (hs : Keeps org s) :
    Keeps org (applyEnables s) := by
  unfold applyEnables
  repeat' (first
    | with_reducible assumption
    | ((try lift_lets -underBinder); intro x; first | (with_reducible refine keeps_let (o := org) x ?_ ?_; rotate_left; intro hx; clear_value x; rotate_right; subst x) | (with_reducible refine keeps_let_fst (o := org) x ?_ ?_; rotate_left; intro hx; clear_value x; rotate_right; subst x) | (with_reducible refine keeps_let_fun x ?_; subst x) | clear_value x)
    | with_reducible refine selChange_keeps ?_
    | with_reducible refine enableObj_keeps ?_
    | with_reducible refine pageSet_keeps ?_
    | with_reducible refine foldl_keeps ?_ (fun s1 a1 h1 => ?_)
    | with_reducible refine foldl_fst_keeps ?_ (fun s1 a1 h1 => ?_)
    | split
    | dsimp -zeta only)

theorem bankDark_keeps {org : State} {s : State} {b : Nat} (hs : Keeps org s) :
    Keeps org (bankDark s b) := by
  unfold bankDark
  repeat' (first
    | with_reducible assumption
    | with_reducible refine State.setObj_keeps ?_
    | with_reducible refine foldl_keeps ?_ (fun s1 a1 h1 => ?_)
    | with_reducible refine foldl_fst_keeps ?_ (fun s1 a1 h1 => ?_)
    | split
    | dsimp -zeta only
    | (rw [keeps_mk]; refine keepsParts_fold ?_))

theorem bankCfgWrite_keeps {org : State} {s : State} {b v : Nat} (hs : Keeps org s) :
    Keeps org (bankCfgWrite s b v) := by
  unfold bankCfgWrite
  repeat' (first
    | with_reducible assumption
    | ((try lift_lets -underBinder); intro x; first | (with_reducible refine keeps_let (o := org) x ?_ ?_; rotate_left; intro hx; clear_value x; rotate_right; subst x) | (with_reducible refine keeps_let_fst (o := org) x ?_ ?_; rotate_left; intro hx; clear_value x; rotate_right; subst x) | (with_reducible refine keeps_let_fun x ?_; subst x) | clear_value x)
    | with_reducible refine State.write_keeps ?_
    | with_reducible refine State.set_keeps ?_
    | with_reducible refine State.wrErr_keeps ?_
    | with_reducible refine claimAll_keeps ?_
    | with_reducible refine releaseOwn_keeps ?_
    | with_reducible refine State.setBankSt_keeps ?_
    | with_reducible refine applyEnables_keeps ?_
    | with_reducible refine bankDark_keeps ?_
    | with_reducible refine State.each_keeps ?_ (fun s1 a1 h1 => ?_)
    | split
    | dsimp -zeta only
    | (rw [keeps_mk]; refine keepsParts_fold ?_))

theorem wedgePin_keeps {org : State} {s : State} {n : Nat} (hs : Keeps org s) :
    Keeps org (wedgePin s n) := by
  unfold wedgePin
  repeat' (first
    | with_reducible assumption
    | ((try lift_lets -underBinder); intro x; first | (with_reducible refine keeps_let (o := org) x ?_ ?_; rotate_left; intro hx; clear_value x; rotate_right; subst x) | (with_reducible refine keeps_let_fst (o := org) x ?_ ?_; rotate_left; intro hx; clear_value x; rotate_right; subst x) | clear_value x)
    | with_reducible refine State.set_keeps ?_
    | with_reducible refine wedgeClaim_keeps ?_
    | with_reducible refine bankDark_keeps ?_
    | split
    | dsimp -zeta only)

theorem matrixRelease_keeps {org : State} {s : State} {keep : List Resource} (hs : Keeps org s) :
    Keeps org (matrixRelease s keep) := by
  unfold matrixRelease
  repeat' (first
    | with_reducible assumption
    | with_reducible refine releaseOwn_keeps ?_
    | with_reducible refine State.each_keeps ?_ (fun s1 a1 h1 => ?_)
    | split
    | dsimp -zeta only)

theorem matrixCfgWrite_keeps {org : State} {s : State} {v : Nat} (hs : Keeps org s) :
    Keeps org (matrixCfgWrite s v) := by
  unfold matrixCfgWrite
  repeat' (first
    | with_reducible assumption
    | ((try lift_lets -underBinder); intro x; first | (with_reducible refine keeps_let (o := org) x ?_ ?_; rotate_left; intro hx; clear_value x; rotate_right; subst x) | (with_reducible refine keeps_let_fst (o := org) x ?_ ?_; rotate_left; intro hx; clear_value x; rotate_right; subst x) | clear_value x)
    | with_reducible refine State.write_keeps ?_
    | with_reducible refine State.set_keeps ?_
    | with_reducible refine State.wrErr_keeps ?_
    | with_reducible refine claimAll_keeps ?_
    | with_reducible refine State.setMatrix_keeps ?_
    | with_reducible refine applyEnables_keeps ?_
    | with_reducible refine matrixRelease_keeps ?_
    | split
    | dsimp -zeta only
    | (rw [keeps_mk]; refine keepsParts_fold ?_))

theorem swapWrite_keeps {org : State} {s : State} (hs : Keeps org s) :
    Keeps org (swapWrite s) := by
  unfold swapWrite
  repeat' (first
    | with_reducible assumption
    | with_reducible refine State.wrErr_keeps ?_
    | with_reducible refine armSwap_keeps ?_
    | split
    | dsimp -zeta only)

theorem execRowSlotStart_keeps {org : State} {s : State} (hs : Keeps org s) :
    KeepsOut org (execRowSlotStart s) := by
  unfold execRowSlotStart
  repeat' (first
    | with_reducible assumption
    | ((try lift_lets -underBinder); intro x; first | (with_reducible refine keeps_let (o := org) x ?_ ?_; rotate_left; intro hx; clear_value x; rotate_right; subst x) | (with_reducible refine keeps_let_fst (o := org) x ?_ ?_; rotate_left; intro hx; clear_value x; rotate_right; subst x) | (with_reducible refine keeps_let_fun x ?_; subst x) | clear_value x)
    | with_reducible refine State.set_keeps ?_
    | with_reducible refine State.setMatrix_keeps ?_
    | with_reducible refine foldl_keeps ?_ (fun s1 a1 h1 => ?_)
    | with_reducible refine foldl_fst_keeps ?_ (fun s1 a1 h1 => ?_)
    | with_reducible refine keepsOut_next ?_
    | split
    | dsimp -zeta only
    | (rw [keeps_mk]; refine keepsParts_fold ?_))

theorem swapNow_keeps {org : State} {s : State} (hs : Keeps org s) :
    Keeps org (swapNow s) := by
  unfold swapNow
  repeat' (first
    | with_reducible assumption
    | ((try lift_lets -underBinder); intro x; first | (with_reducible refine keeps_let (o := org) x ?_ ?_; rotate_left; intro hx; clear_value x; rotate_right; subst x) | clear_value x)
    | with_reducible refine State.set_keeps ?_
    | with_reducible refine State.bump_keeps ?_
    | with_reducible refine State.setMatrix_keeps ?_
    | split
    | dsimp -zeta only
    | (rw [keeps_mk]; refine keepsParts_fold ?_))

theorem execFrameBoundary_keeps {org : State} {s : State} (hs : Keeps org s) :
    KeepsOut org (execFrameBoundary s) := by
  unfold execFrameBoundary
  repeat' (first
    | with_reducible assumption
    | ((try lift_lets -underBinder); intro x; first | (with_reducible refine keeps_let (o := org) x ?_ ?_; rotate_left; intro hx; clear_value x; rotate_right; subst x) | (with_reducible refine keeps_let_fst (o := org) x ?_ ?_; rotate_left; intro hx; clear_value x; rotate_right; subst x) | clear_value x)
    | with_reducible refine State.setMatrix_keeps ?_
    | with_reducible refine matrixBoundary_keeps ?_
    | with_reducible refine applyEnables_keeps ?_
    | with_reducible refine swapNow_keeps ?_
    | with_reducible refine foldl_keeps ?_ (fun s1 a1 h1 => ?_)
    | with_reducible refine foldl_fst_keeps ?_ (fun s1 a1 h1 => ?_)
    | with_reducible refine keepsOut_next ?_
    | split
    | dsimp -zeta only
    | (rw [keeps_mk]; refine keepsParts_fold ?_))

theorem execMsyncEdge_keeps {org : State} {s : State} (hs : Keeps org s) :
    KeepsOut org (execMsyncEdge s) := by
  unfold execMsyncEdge
  repeat' (first
    | with_reducible assumption
    | ((try lift_lets -underBinder); intro x; first | (with_reducible refine keeps_let (o := org) x ?_ ?_; rotate_left; intro hx; clear_value x; rotate_right; subst x) | clear_value x)
    | with_reducible refine State.set_keeps ?_
    | with_reducible refine State.bump_keeps ?_
    | with_reducible refine State.setMatrix_keeps ?_
    | with_reducible refine armSwap_keeps ?_
    | with_reducible refine keepsOut_next ?_
    | split
    | dsimp -zeta only
    | (rw [keeps_mk]; refine keepsParts_fold ?_))

theorem loadFrame_keeps {org : State} {s : State} {u1 : Item} {bytes : List Byte} (hs : Keeps org s) :
    KeepsLoad org (loadFrame s u1 bytes) := by
  unfold loadFrame
  repeat' (first
    | with_reducible assumption
    | with_reducible refine State.set_keeps ?_
    | with_reducible refine State.setMatrix_keeps ?_
    | with_reducible refine keepsLoad_refused ?_
    | with_reducible refine keepsLoad_loaded ?_
    | with_reducible refine keepsLoad_later ?_
    | split
    | dsimp -zeta only
    | (rw [keeps_mk]; refine keepsParts_fold ?_))

theorem execTableLoadFrameMemory_keeps {org : State} {ring : Fin 16} {payload : List Byte} {s : State} (hs : Keeps org s) :
    KeepsOut org (execTableLoadFrameMemory ring payload s) := by
  unfold execTableLoadFrameMemory
  repeat' (first
    | with_reducible assumption
    | with_reducible refine tableRun_keeps (fun h => loadFrame_keeps h) ?_
    | with_reducible refine loadFrame_keeps ?_
    | with_reducible refine keepsOut_next ?_
    | split
    | dsimp -zeta only)

theorem execThermalShutdown_keeps {org : State} {sensor : Fin 9} {temp : BitVec 8} {s : State} (hs : Keeps org s) :
    KeepsOut org (execThermalShutdown sensor temp s) := by
  unfold execThermalShutdown
  repeat' (first
    | with_reducible assumption
    | ((try lift_lets -underBinder); intro x; first | (with_reducible refine keeps_let (o := org) x ?_ ?_; rotate_left; intro hx; clear_value x; rotate_right; subst x) | (with_reducible refine keeps_let_fun x ?_; subst x) | clear_value x)
    | with_reducible refine State.set_keeps ?_
    | with_reducible refine State.bump_keeps ?_
    | with_reducible refine State.event_keeps ?_
    | with_reducible refine State.setObj_keeps ?_
    | with_reducible refine State.setBankSt_keeps ?_
    | with_reducible refine State.setMatrix_keeps ?_
    | with_reducible refine bankDark_keeps ?_
    | with_reducible refine State.each_keeps ?_ (fun s1 a1 h1 => ?_)
    | with_reducible refine keepsOut_next ?_
    | split
    | dsimp -zeta only
    | (rw [keeps_mk]; refine keepsParts_fold ?_))

theorem execThermalResume_keeps {org : State} {sensor : Fin 9} {temp : BitVec 8} {s : State} (hs : Keeps org s) :
    KeepsOut org (execThermalResume sensor temp s) := by
  unfold execThermalResume
  repeat' (first
    | with_reducible assumption
    | ((try lift_lets -underBinder); intro x; first | (with_reducible refine keeps_let (o := org) x ?_ ?_; rotate_left; intro hx; clear_value x; rotate_right; subst x) | clear_value x)
    | with_reducible refine State.set_keeps ?_
    | with_reducible refine State.event_keeps ?_
    | with_reducible refine keepsOut_next ?_
    | split
    | dsimp -zeta only)

theorem blzCntClr_keeps {org : State} {s : State} (hs : Keeps org s) :
    Keeps org (blzCntClr s) := by
  unfold blzCntClr
  repeat' (first
    | with_reducible assumption
    | with_reducible refine State.clearAll_keeps ?_
    | split
    | dsimp -zeta only)

end Sys2Proof.Machine
end

