-- ==== Sys2Proof/Laws/KeepsFlume.lean ====
section
/-! SUPPORT. The operations of Machine/Flume.lean keep what every command keeps. -/

namespace Sys2Proof.Machine

theorem waitingAll_keeps {org : State} {s : State} (hs : Keeps org s) :
    Keeps org (waitingAll s) := by
  unfold waitingAll
  repeat' (first
    | with_reducible assumption
    | with_reducible refine State.setFlag_keeps ?_
    | with_reducible refine foldl_keeps ?_ (fun s1 a1 h1 => ?_)
    | with_reducible refine foldl_fst_keeps ?_ (fun s1 a1 h1 => ?_)
    | split
    | dsimp -zeta only)

theorem execFlumeLink_keeps {org : State} {port : EthPort} {up : Bool} {s : State} (hs : Keeps org s) :
    KeepsOut org (execFlumeLink port up s) := by
  unfold execFlumeLink
  repeat' (first
    | with_reducible assumption
    | ((try lift_lets -underBinder); intro x; first | (with_reducible refine keeps_let (o := org) x ?_ ?_; rotate_left; intro hx; clear_value x; rotate_right; subst x) | clear_value x)
    | with_reducible refine State.set_keeps ?_
    | with_reducible refine State.setFlag_keeps ?_
    | with_reducible refine State.event_keeps ?_
    | with_reducible refine waitingAll_keeps ?_
    | with_reducible refine keepsOut_next ?_
    | split
    | dsimp -zeta only)

theorem execPauseFrame_keeps {org : State} {port : EthPort} {quanta : BitVec 16} {s : State} (hs : Keeps org s) :
    KeepsOut org (execPauseFrame port quanta s) := by
  unfold execPauseFrame
  repeat' (first
    | with_reducible assumption
    | ((try lift_lets -underBinder); intro x; first | (with_reducible refine keeps_let (o := org) x ?_ ?_; rotate_left; intro hx; clear_value x; rotate_right; subst x) | clear_value x)
    | with_reducible refine State.setFlag_keeps ?_
    | with_reducible refine State.bump_keeps ?_
    | with_reducible refine waitingAll_keeps ?_
    | with_reducible refine keepsOut_next ?_
    | split
    | dsimp -zeta only)

theorem execPfcFrame_keeps {org : State} {port : EthPort} {enables : BitVec 8} {quanta : BitVec 128} {s : State} (hs : Keeps org s) :
    KeepsOut org (execPfcFrame port enables quanta s) := by
  unfold execPfcFrame
  repeat' (first
    | with_reducible assumption
    | ((try lift_lets -underBinder); intro x; first | (with_reducible refine keeps_let (o := org) x ?_ ?_; rotate_left; intro hx; clear_value x; rotate_right; subst x) | clear_value x)
    | with_reducible refine State.set_keeps ?_
    | with_reducible refine State.bump_keeps ?_
    | with_reducible refine waitingAll_keeps ?_
    | with_reducible refine keepsOut_next ?_
    | split
    | dsimp -zeta only)

theorem execPauseExpiry_keeps {org : State} {port : EthPort} {prio : Option (Fin 8)} {s : State} (hs : Keeps org s) :
    KeepsOut org (execPauseExpiry port prio s) := by
  unfold execPauseExpiry
  repeat' (first
    | with_reducible assumption
    | ((try lift_lets -underBinder); intro x; first | (with_reducible refine keeps_let (o := org) x ?_ ?_; rotate_left; intro hx; clear_value x; rotate_right; subst x) | clear_value x)
    | with_reducible refine State.set_keeps ?_
    | with_reducible refine waitingAll_keeps ?_
    | with_reducible refine keepsOut_next ?_
    | split
    | dsimp -zeta only
    | (rw [keeps_mk]; refine keepsParts_fold ?_))

theorem execRxFrameDiscard_keeps {org : State} {port : EthPort} {s : State} (hs : Keeps org s) :
    KeepsOut org (execRxFrameDiscard port s) := by
  unfold execRxFrameDiscard
  repeat' (first
    | with_reducible assumption
    | with_reducible refine State.bump_keeps ?_
    | with_reducible refine keepsOut_next ?_
    | split
    | dsimp -zeta only)

theorem sendDatagram_keeps {org : State} {s : State} {n : Nat} (hs : Keeps org s) :
    Keeps org (sendDatagram s n) := by
  unfold sendDatagram
  repeat' (first
    | with_reducible assumption
    | ((try lift_lets -underBinder); intro x; first | (with_reducible refine keeps_let (o := org) x ?_ ?_; rotate_left; intro hx; clear_value x; rotate_right; subst x) | (with_reducible refine keeps_let_fst (o := org) x ?_ ?_; rotate_left; intro hx; clear_value x; rotate_right; subst x) | clear_value x)
    | with_reducible refine State.set_keeps ?_
    | with_reducible refine State.bump_keeps ?_
    | with_reducible refine State.emit_keeps ?_
    | with_reducible refine State.tookFree_keeps ?_
    | with_reducible refine State.setFstream_keeps ?_
    | split
    | dsimp -zeta only
    | (rw [keeps_mk]; refine keepsParts_fold ?_))

theorem sendFull_keeps {org : State} {s : State} {n : Nat} (hs : Keeps org s) :
    Keeps org (sendFull s n) := by
  unfold sendFull
  repeat' (first
    | with_reducible assumption
    | with_reducible refine sendDatagram_keeps ?_
    | split
    | dsimp -zeta only)

theorem sendFlush_keeps {org : State} {s : State} {n : Nat} (hs : Keeps org s) :
    Keeps org (sendFlush s n) := by
  unfold sendFlush
  repeat' (first
    | with_reducible assumption
    | ((try lift_lets -underBinder); intro x; first | (with_reducible refine keeps_let (o := org) x ?_ ?_; rotate_left; intro hx; clear_value x; rotate_right; subst x) | clear_value x)
    | with_reducible refine closeBlock_keeps ?_
    | with_reducible refine sendDatagram_keeps ?_
    | split
    | dsimp -zeta only
    | (rw [keeps_mk]; refine keepsParts_fold ?_))

theorem thinStep_keeps {org : State} {s : State} {p n : Nat} {up : Bool} (hs : Keeps org s) :
    Keeps org (thinStep s p n up) := by
  unfold thinStep
  repeat' (first
    | with_reducible assumption
    | ((try lift_lets -underBinder); intro x; first | (with_reducible refine keeps_let (o := org) x ?_ ?_; rotate_left; intro hx; clear_value x; rotate_right; subst x) | (with_reducible refine keeps_let_fun x ?_; subst x) | (with_reducible refine keeps_let_flume x ?_; subst x) | clear_value x)
    | with_reducible refine State.set_keeps ?_
    | with_reducible refine State.bump_keeps ?_
    | with_reducible refine State.setFstream_keeps ?_
    | split
    | dsimp -zeta only
    | (rw [keeps_mk]; refine keepsParts_fold ?_)
    | (rw [keeps_mk]; refine keepsParts_change ?_ (fun h0 => by unfold SoundParts State.Sound FlumeWf BkgWf at *; simp only [h0, swf_sput, and_self])))

theorem thinCheck_keeps {org : State} {s : State} {p : Nat} (hs : Keeps org s) :
    Keeps org (thinCheck s p) := by
  unfold thinCheck
  repeat' (first
    | with_reducible assumption
    | ((try lift_lets -underBinder); intro x; first | (with_reducible refine keeps_let (o := org) x ?_ ?_; rotate_left; intro hx; clear_value x; rotate_right; subst x) | (with_reducible refine keeps_let_fun x ?_; subst x) | (with_reducible refine keeps_let_flume x ?_; subst x) | clear_value x)
    | with_reducible refine thinStep_keeps ?_
    | split
    | dsimp -zeta only
    | (rw [keeps_mk]; refine keepsParts_fold ?_)
    | (rw [keeps_mk]; refine keepsParts_change ?_ (fun h0 => by unfold SoundParts State.Sound FlumeWf BkgWf at *; simp only [h0, swf_sput, and_self])))

theorem execThinCheck_keeps {org : State} {s : State} (hs : Keeps org s) :
    KeepsOut org (execThinCheck s) := by
  unfold execThinCheck
  repeat' (first
    | with_reducible assumption
    | with_reducible refine thinCheck_keeps ?_
    | with_reducible refine keepsOut_next ?_
    | split
    | dsimp -zeta only)

theorem releaseStreams_keeps {org : State} {s : State} (hs : Keeps org s) :
    Keeps org (releaseStreams s) := by
  unfold releaseStreams
  repeat' (first
    | with_reducible assumption
    | with_reducible refine releaseOwn_keeps ?_
    | with_reducible refine foldl_keeps ?_ (fun s1 a1 h1 => ?_)
    | with_reducible refine foldl_fst_keeps ?_ (fun s1 a1 h1 => ?_)
    | split
    | dsimp -zeta only)

theorem streamChanged_keeps {org : State} {s : State} {n : Nat} {e : List Byte} (hs : Keeps org s) :
    Keeps org (streamChanged s n e) := by
  unfold streamChanged
  repeat' (first
    | with_reducible assumption
    | ((try lift_lets -underBinder); intro x; first | (with_reducible refine keeps_let (o := org) x ?_ ?_; rotate_left; intro hx; clear_value x; rotate_right; subst x) | (with_reducible refine keeps_let_fun x ?_; subst x) | clear_value x)
    | with_reducible refine streamRestart_keeps ?_
    | with_reducible refine abortCapture_keeps ?_
    | with_reducible refine State.each_keeps ?_ (fun s1 a1 h1 => ?_)
    | split
    | dsimp -zeta only)

theorem loadStreams_keeps {org : State} {s : State} {it : Item} {bytes : List Byte} (hs : Keeps org s) :
    KeepsLoad org (loadStreams s it bytes) := by
  unfold loadStreams
  repeat' (first
    | with_reducible assumption
    | ((try lift_lets -underBinder); intro x; first | (with_reducible refine keeps_let (o := org) x ?_ ?_; rotate_left; intro hx; clear_value x; rotate_right; subst x) | (with_reducible refine keeps_let_fst (o := org) x ?_ ?_; rotate_left; intro hx; clear_value x; rotate_right; subst x) | (with_reducible refine keeps_let_fun x ?_; subst x) | clear_value x)
    | with_reducible refine claimAll_keeps ?_
    | with_reducible refine waitingAll_keeps ?_
    | with_reducible refine releaseStreams_keeps ?_
    | with_reducible refine streamChanged_keeps ?_
    | with_reducible refine foldl_keeps ?_ (fun s1 a1 h1 => ?_)
    | with_reducible refine foldl_fst_keeps ?_ (fun s1 a1 h1 => ?_)
    | with_reducible refine keepsLoad_refused ?_
    | with_reducible refine keepsLoad_loaded ?_
    | with_reducible refine keepsLoad_later ?_
    | split
    | dsimp -zeta only
    | (rw [keeps_mk]; refine keepsParts_fold ?_))

theorem execTableLoadStream_keeps {org : State} {ring : Fin 16} {payload : List Byte} {s : State} (hs : Keeps org s) :
    KeepsOut org (execTableLoadStream ring payload s) := by
  unfold execTableLoadStream
  repeat' (first
    | with_reducible assumption
    | with_reducible refine tableRun_keeps (fun h => loadStreams_keeps h) ?_
    | with_reducible refine loadStreams_keeps ?_
    | with_reducible refine keepsOut_next ?_
    | split
    | dsimp -zeta only)

theorem loadPorts_keeps {org : State} {s : State} {it : Item} {bytes : List Byte} (hs : Keeps org s) :
    KeepsLoad org (loadPorts s it bytes) := by
  unfold loadPorts
  repeat' (first
    | with_reducible assumption
    | ((try lift_lets -underBinder); intro x; first | (with_reducible refine keeps_let (o := org) x ?_ ?_; rotate_left; intro hx; clear_value x; rotate_right; subst x) | (with_reducible refine keeps_let_fst (o := org) x ?_ ?_; rotate_left; intro hx; clear_value x; rotate_right; subst x) | (with_reducible refine keeps_let_fun x ?_; subst x) | (with_reducible refine keeps_let_flume x ?_; subst x) | (with_reducible refine keeps_let_map x ?_; subst x) | clear_value x)
    | with_reducible refine foldl_keeps ?_ (fun s1 a1 h1 => ?_)
    | with_reducible refine foldl_fst_keeps ?_ (fun s1 a1 h1 => ?_)
    | with_reducible refine keepsLoad_refused ?_
    | with_reducible refine keepsLoad_loaded ?_
    | with_reducible refine keepsLoad_later ?_
    | split
    | dsimp -zeta only
    | (rw [keeps_mk]; refine keepsParts_fold ?_)
    | (rw [keeps_mk]; refine keepsParts_change ?_ (fun h0 => by unfold SoundParts State.Sound FlumeWf at *; simp only [h0, swf_foldl_sput, and_self])))

theorem execTableLoadPort_keeps {org : State} {ring : Fin 16} {payload : List Byte} {s : State} (hs : Keeps org s) :
    KeepsOut org (execTableLoadPort ring payload s) := by
  unfold execTableLoadPort
  repeat' (first
    | with_reducible assumption
    | with_reducible refine tableRun_keeps (fun h => loadPorts_keeps h) ?_
    | with_reducible refine loadPorts_keeps ?_
    | with_reducible refine keepsOut_next ?_
    | split
    | dsimp -zeta only)

theorem flmCntClr_keeps {org : State} {s : State} (hs : Keeps org s) :
    Keeps org (flmCntClr s) := by
  unfold flmCntClr
  repeat' (first
    | with_reducible assumption
    | with_reducible refine State.clearAll_keeps ?_
    | split
    | dsimp -zeta only)

end Sys2Proof.Machine
end

