-- ==== Sys2Proof/Laws/KeepsChipper.lean ====
section
/-! SUPPORT. The operations of Machine/Chipper.lean keep what every command keeps. -/

namespace Sys2Proof.Machine

theorem execChipEnc_keeps {org : State} {ring : Fin 16} {input : List Byte} {upsets : List Nat} {s : State} (hs : Keeps org s) :
    KeepsOut org (execChipEnc ring input upsets s) := by
  unfold execChipEnc
  repeat' (first
    | with_reducible assumption
    | ((try lift_lets -underBinder); intro x; first | (with_reducible refine keeps_let (o := org) x ?_ ?_; rotate_left; intro hx; clear_value x; rotate_right; subst x) | (with_reducible refine keeps_let_fun x ?_; subst x) | clear_value x)
    | with_reducible refine State.set_keeps ?_
    | with_reducible refine State.count_keeps ?_
    | with_reducible refine State.emit_keeps ?_
    | with_reducible refine State.setChipCtx_keeps ?_
    | with_reducible refine State.event_keeps ?_
    | with_reducible refine complete_keeps ?_
    | with_reducible refine State.each_keeps ?_ (fun s1 a1 h1 => ?_)
    | with_reducible refine keepsOut_next ?_
    | split
    | dsimp -zeta only
    | (rw [keeps_mk]; refine keepsParts_fold ?_))

theorem execChipDec_keeps {org : State} {ring : Fin 16} {input : List Byte} {s : State} (hs : Keeps org s) :
    KeepsOut org (execChipDec ring input s) := by
  unfold execChipDec
  repeat' (first
    | with_reducible assumption
    | ((try lift_lets -underBinder); intro x; first | (with_reducible refine keeps_let (o := org) x ?_ ?_; rotate_left; intro hx; clear_value x; rotate_right; subst x) | clear_value x)
    | with_reducible refine State.set_keeps ?_
    | with_reducible refine State.emit_keeps ?_
    | with_reducible refine State.setChipCtx_keeps ?_
    | with_reducible refine State.event_keeps ?_
    | with_reducible refine complete_keeps ?_
    | with_reducible refine keepsOut_next ?_
    | split
    | dsimp -zeta only
    | (rw [keeps_mk]; refine keepsParts_fold ?_))

theorem execChipSave_keeps {org : State} {ring : Fin 16} {s : State} (hs : Keeps org s) :
    KeepsOut org (execChipSave ring s) := by
  unfold execChipSave
  repeat' (first
    | with_reducible assumption
    | ((try lift_lets -underBinder); intro x; first | (with_reducible refine keeps_let (o := org) x ?_ ?_; rotate_left; intro hx; clear_value x; rotate_right; subst x) | clear_value x)
    | with_reducible refine State.emit_keeps ?_
    | with_reducible refine complete_keeps ?_
    | with_reducible refine keepsOut_next ?_
    | split
    | dsimp -zeta only
    | (rw [keeps_mk]; refine keepsParts_fold ?_))

theorem execChipRestore_keeps {org : State} {ring : Fin 16} {record : List Byte} {s : State} (hs : Keeps org s) :
    KeepsOut org (execChipRestore ring record s) := by
  unfold execChipRestore
  repeat' (first
    | with_reducible assumption
    | ((try lift_lets -underBinder); intro x; first | (with_reducible refine keeps_let (o := org) x ?_ ?_; rotate_left; intro hx; clear_value x; rotate_right; subst x) | clear_value x)
    | with_reducible refine State.set_keeps ?_
    | with_reducible refine State.setChipCtx_keeps ?_
    | with_reducible refine complete_keeps ?_
    | with_reducible refine keepsOut_next ?_
    | split
    | dsimp -zeta only
    | (rw [keeps_mk]; refine keepsParts_fold ?_))

theorem chpCntClr_keeps {org : State} {s : State} (hs : Keeps org s) :
    Keeps org (chpCntClr s) := by
  unfold chpCntClr
  repeat' (first
    | with_reducible assumption
    | with_reducible refine State.clearAll_keeps ?_
    | split
    | dsimp -zeta only)

end Sys2Proof.Machine
end

