-- ==== Sys2Proof/Laws/KeepsPorts.lean ====
section
/-! SUPPORT. The operations of Machine/Ports.lean keep what every command keeps. -/

namespace Sys2Proof.Machine

theorem State.setProbe_keeps {org s : State} {p : Nat} {q : ProbePort} (h : Keeps org s) : Keeps org (s.setProbe p q) := by
  refine h.change (fun hs => ?_) rfl rfl rfl rfl
  unfold State.Sound CoreWf State.setProbe at *
  simp only [hs, swf_sput, and_self]

theorem State.setKerf_keeps {org s : State} {p : Nat} {q : KerfPort} (h : Keeps org s) : Keeps org (s.setKerf p q) := by
  refine h.change (fun hs => ?_) rfl rfl rfl rfl
  unfold State.Sound CoreWf State.setKerf at *
  simp only [hs, swf_sput, and_self]

theorem State.setScl_keeps {org s : State} {p : Nat} {q : SclPort} (h : Keeps org s) : Keeps org (s.setScl p q) := by
  refine h.change (fun hs => ?_) rfl rfl rfl rfl
  unfold State.Sound CoreWf State.setScl at *
  simp only [hs, swf_sput, and_self]

theorem refreshTiming_keeps {org : State} {s : State} {p : Nat} {period : Nat} (hs : Keeps org s) :
    Keeps org (refreshTiming s p period) := by
  unfold refreshTiming
  repeat' (first
    | with_reducible assumption
    | ((try lift_lets -underBinder); intro x; first | (with_reducible refine keeps_let (o := org) x ?_ ?_; rotate_left; intro hx; clear_value x; rotate_right; subst x) | clear_value x)
    | with_reducible refine State.set_keeps ?_
    | with_reducible refine State.setFlag_keeps ?_
    | split
    | dsimp -zeta only)

theorem publish_keeps {org : State} {s : State} {src idx : Nat} {bytes : List Byte} {index time : Nat} {always : Bool} (hs : Keeps org s) :
    Keeps org (publish s src idx bytes index time always) := by
  unfold publish
  repeat' (first
    | with_reducible assumption
    | with_reducible refine deliver_keeps ?_
    | with_reducible refine captureAll_keeps ?_
    | split
    | dsimp -zeta only)

end Sys2Proof.Machine
end

