-- ==== Sys2Proof/Laws/KeepsBucking.lean ====
section
/-! SUPPORT. The operations of Machine/Bucking.lean keep what every command keeps. -/

namespace Sys2Proof.Machine

theorem State.setChan_keeps {org : State} {s : State} {c : Nat} {r : BkgChan} (hs : Keeps org s) :
    Keeps org (State.setChan s c r) := by
  unfold State.setChan
  repeat' (first
    | with_reducible assumption
    | unfold State.setBkg
    | split
    | dsimp -zeta only
    | (rw [keeps_mk]; refine keepsParts_fold ?_)
    | (rw [keeps_mk]; refine keepsParts_change ?_ (fun h0 => by unfold SoundParts State.Sound BkgWf at *; simp only [h0, swf_sput, and_self])))

theorem State.setSet_keeps {org : State} {s : State} {n : Nat} {r : BkgSet} (hs : Keeps org s) :
    Keeps org (State.setSet s n r) := by
  unfold State.setSet
  repeat' (first
    | with_reducible assumption
    | with_reducible refine State.set_keeps ?_
    | unfold State.setBkg
    | split
    | dsimp -zeta only
    | (rw [keeps_mk]; refine keepsParts_fold ?_)
    | (rw [keeps_mk]; refine keepsParts_change ?_ (fun h0 => by unfold SoundParts State.Sound BkgWf at *; simp only [h0, swf_sput, and_self])))

theorem State.setFade_keeps {org : State} {s : State} {n : Nat} {r : BkgFade} (hs : Keeps org s) :
    Keeps org (State.setFade s n r) := by
  unfold State.setFade
  repeat' (first
    | with_reducible assumption
    | unfold State.setBkg
    | split
    | dsimp -zeta only
    | (rw [keeps_mk]; refine keepsParts_fold ?_)
    | (rw [keeps_mk]; refine keepsParts_change ?_ (fun h0 => by unfold SoundParts State.Sound BkgWf at *; simp only [h0, swf_sput, and_self])))

theorem State.setBkgPort_keeps {org : State} {s : State} {p : Nat} {r : BkgPort} (hs : Keeps org s) :
    Keeps org (State.setBkgPort s p r) := by
  unfold State.setBkgPort
  repeat' (first
    | with_reducible assumption
    | unfold State.setBkg
    | split
    | dsimp -zeta only
    | (rw [keeps_mk]; refine keepsParts_fold ?_)
    | (rw [keeps_mk]; refine keepsParts_change ?_ (fun h0 => by unfold SoundParts State.Sound FlumeWf BkgWf at *; simp only [h0, swf_sput, and_self])))

theorem loadChannels_keeps {org : State} {s : State} {it : Item} {bytes : List Byte} (hs : Keeps org s) :
    KeepsLoad org (loadChannels s it bytes) := by
  unfold loadChannels
  repeat' (first
    | with_reducible assumption
    | ((try lift_lets -underBinder); intro x; first | (with_reducible refine keeps_let (o := org) x ?_ ?_; rotate_left; intro hx; clear_value x; rotate_right; subst x) | (with_reducible refine keeps_let_fst (o := org) x ?_ ?_; rotate_left; intro hx; clear_value x; rotate_right; subst x) | (with_reducible refine keeps_let_fun x ?_; subst x) | (with_reducible refine keeps_let_bkg x ?_; subst x) | (with_reducible refine keeps_let_map x ?_; subst x) | clear_value x)
    | with_reducible refine foldl_keeps ?_ (fun s1 a1 h1 => ?_)
    | with_reducible refine foldl_fst_keeps ?_ (fun s1 a1 h1 => ?_)
    | with_reducible refine keepsLoad_refused ?_
    | with_reducible refine keepsLoad_loaded ?_
    | with_reducible refine keepsLoad_later ?_
    | unfold State.setBkg
    | split
    | dsimp -zeta only
    | (rw [keeps_mk]; refine keepsParts_fold ?_)
    | (rw [keeps_mk]; refine keepsParts_change ?_ (fun h0 => by unfold SoundParts State.Sound BkgWf at *; simp only [h0, swf_foldl_sput, and_self])))

theorem loadSets_keeps {org : State} {s : State} {it : Item} {bytes : List Byte} (hs : Keeps org s) :
    KeepsLoad org (loadSets s it bytes) := by
  unfold loadSets
  repeat' (first
    | with_reducible assumption
    | ((try lift_lets -underBinder); intro x; first | (with_reducible refine keeps_let (o := org) x ?_ ?_; rotate_left; intro hx; clear_value x; rotate_right; subst x) | (with_reducible refine keeps_let_fst (o := org) x ?_ ?_; rotate_left; intro hx; clear_value x; rotate_right; subst x) | (with_reducible refine keeps_let_fun x ?_; subst x) | (with_reducible refine keeps_let_bkg x ?_; subst x) | (with_reducible refine keeps_let_map x ?_; subst x) | clear_value x)
    | with_reducible refine foldl_keeps ?_ (fun s1 a1 h1 => ?_)
    | with_reducible refine foldl_fst_keeps ?_ (fun s1 a1 h1 => ?_)
    | with_reducible refine keepsLoad_refused ?_
    | with_reducible refine keepsLoad_loaded ?_
    | with_reducible refine keepsLoad_later ?_
    | unfold State.setBkg
    | split
    | dsimp -zeta only
    | (rw [keeps_mk]; refine keepsParts_fold ?_)
    | (rw [keeps_mk]; refine keepsParts_change ?_ (fun h0 => by unfold SoundParts State.Sound BkgWf at *; simp only [h0, swf_foldl_sput, and_self])))

theorem loadBank_keeps {org : State} {s : State} {it : Item} {bytes : List Byte} (hs : Keeps org s) :
    KeepsLoad org (loadBank s it bytes) := by
  unfold loadBank
  repeat' (first
    | with_reducible assumption
    | ((try lift_lets -underBinder); intro x; first | (with_reducible refine keeps_let (o := org) x ?_ ?_; rotate_left; intro hx; clear_value x; rotate_right; subst x) | (with_reducible refine keeps_let_fun x ?_; subst x) | (with_reducible refine keeps_let_bkg x ?_; subst x) | clear_value x)
    | with_reducible refine State.set_keeps ?_
    | with_reducible refine keepsLoad_refused ?_
    | with_reducible refine keepsLoad_loaded ?_
    | with_reducible refine keepsLoad_later ?_
    | unfold State.setBkg
    | split
    | dsimp -zeta only
    | (rw [keeps_mk]; refine keepsParts_fold ?_)
    | (rw [keeps_mk]; refine keepsParts_change ?_ (fun h0 => by unfold SoundParts State.Sound BkgWf at *; simp only [h0, swf_sput, and_self])))

theorem execTableLoadChannel_keeps {org : State} {ring : Fin 16} {payload : List Byte} {s : State} (hs : Keeps org s) :
    KeepsOut org (execTableLoadChannel ring payload s) := by
  unfold execTableLoadChannel
  repeat' (first
    | with_reducible assumption
    | with_reducible refine tableRun_keeps (fun h => loadChannels_keeps h) ?_
    | with_reducible refine loadChannels_keeps ?_
    | with_reducible refine keepsOut_next ?_
    | split
    | dsimp -zeta only)

theorem execTableLoadSet_keeps {org : State} {ring : Fin 16} {payload : List Byte} {s : State} (hs : Keeps org s) :
    KeepsOut org (execTableLoadSet ring payload s) := by
  unfold execTableLoadSet
  repeat' (first
    | with_reducible assumption
    | with_reducible refine tableRun_keeps (fun h => loadSets_keeps h) ?_
    | with_reducible refine loadSets_keeps ?_
    | with_reducible refine keepsOut_next ?_
    | split
    | dsimp -zeta only)

theorem execTableLoadCoefficientBank_keeps {org : State} {ring : Fin 16} {payload : List Byte} {s : State} (hs : Keeps org s) :
    KeepsOut org (execTableLoadCoefficientBank ring payload s) := by
  unfold execTableLoadCoefficientBank
  repeat' (first
    | with_reducible assumption
    | with_reducible refine tableRun_keeps (fun h => loadBank_keeps h) ?_
    | with_reducible refine loadBank_keeps ?_
    | with_reducible refine keepsOut_next ?_
    | split
    | dsimp -zeta only)

theorem fadeStat_keeps {org : State} {s : State} {k : Nat} (hs : Keeps org s) :
    Keeps org (fadeStat s k) := by
  unfold fadeStat
  repeat' (first
    | with_reducible assumption
    | ((try lift_lets -underBinder); intro x; first | (with_reducible refine keeps_let (o := org) x ?_ ?_; rotate_left; intro hx; clear_value x; rotate_right; subst x) | (with_reducible refine keeps_let_fun x ?_; subst x) | clear_value x)
    | with_reducible refine State.set_keeps ?_
    | with_reducible refine State.setFlag_keeps ?_
    | with_reducible refine State.each_keeps ?_ (fun s1 a1 h1 => ?_)
    | split
    | dsimp -zeta only
    | (rw [keeps_mk]; refine keepsParts_fold ?_))

theorem fadeStart_keeps {org : State} {s : State} {k target xf : Nat} (hs : Keeps org s) :
    Keeps org (fadeStart s k target xf) := by
  unfold fadeStart
  repeat' (first
    | with_reducible assumption
    | ((try lift_lets -underBinder); intro x; first | (with_reducible refine keeps_let (o := org) x ?_ ?_; rotate_left; intro hx; clear_value x; rotate_right; subst x) | (with_reducible refine keeps_let_fun x ?_; subst x) | clear_value x)
    | with_reducible refine State.set_keeps ?_
    | with_reducible refine State.bump_keeps ?_
    | with_reducible refine State.setSet_keeps ?_
    | with_reducible refine State.setFade_keeps ?_
    | with_reducible refine fadeStat_keeps ?_
    | with_reducible refine State.each_keeps ?_ (fun s1 a1 h1 => ?_)
    | split
    | dsimp -zeta only
    | (rw [keeps_mk]; refine keepsParts_fold ?_))

theorem fadeCheck_keeps {org : State} {s : State} {k : Nat} (hs : Keeps org s) :
    Keeps org (fadeCheck s k) := by
  unfold fadeCheck
  repeat' (first
    | with_reducible assumption
    | ((try lift_lets -underBinder); intro x; first | (with_reducible refine keeps_let (o := org) x ?_ ?_; rotate_left; intro hx; clear_value x; rotate_right; subst x) | (with_reducible refine keeps_let_fun x ?_; subst x) | clear_value x)
    | with_reducible refine State.set_keeps ?_
    | with_reducible refine State.setFade_keeps ?_
    | with_reducible refine fadeStat_keeps ?_
    | with_reducible refine fadeStart_keeps ?_
    | split
    | dsimp -zeta only
    | (rw [keeps_mk]; refine keepsParts_fold ?_))

theorem fadeRequest_keeps {org : State} {s : State} {k target xf : Nat} (hs : Keeps org s) :
    Keeps org (fadeRequest s k target xf) := by
  unfold fadeRequest
  repeat' (first
    | with_reducible assumption
    | ((try lift_lets -underBinder); intro x; first | (with_reducible refine keeps_let (o := org) x ?_ ?_; rotate_left; intro hx; clear_value x; rotate_right; subst x) | clear_value x)
    | with_reducible refine State.set_keeps ?_
    | with_reducible refine State.bump_keeps ?_
    | with_reducible refine State.setFade_keeps ?_
    | with_reducible refine fadeStat_keeps ?_
    | with_reducible refine fadeStart_keeps ?_
    | split
    | dsimp -zeta only
    | (rw [keeps_mk]; refine keepsParts_fold ?_))

theorem setDelays_keeps {org : State} {s : State} {p sweep n : Nat} (hs : Keeps org s) :
    Keeps org (setDelays s p sweep n) := by
  unfold setDelays
  repeat' (first
    | with_reducible assumption
    | ((try lift_lets -underBinder); intro x; first | (with_reducible refine keeps_let (o := org) x ?_ ?_; rotate_left; intro hx; clear_value x; rotate_right; subst x) | (with_reducible refine keeps_let_fun x ?_; subst x) | clear_value x)
    | with_reducible refine State.setChan_keeps ?_
    | with_reducible refine State.each_keeps ?_ (fun s1 a1 h1 => ?_)
    | split
    | dsimp -zeta only
    | (rw [keeps_mk]; refine keepsParts_fold ?_))

theorem setStart_keeps {org : State} {s : State} {sweep n : Nat} (hs : Keeps org s) :
    Keeps org (setStart s sweep n) := by
  unfold setStart
  repeat' (first
    | with_reducible assumption
    | ((try lift_lets -underBinder); intro x; first | (with_reducible refine keeps_let (o := org) x ?_ ?_; rotate_left; intro hx; clear_value x; rotate_right; subst x) | (with_reducible refine keeps_let_fun x ?_; subst x) | clear_value x)
    | with_reducible refine State.set_keeps ?_
    | with_reducible refine State.setChan_keeps ?_
    | with_reducible refine State.setSet_keeps ?_
    | with_reducible refine State.setFade_keeps ?_
    | with_reducible refine State.each_keeps ?_ (fun s1 a1 h1 => ?_)
    | split
    | dsimp -zeta only
    | (rw [keeps_mk]; refine keepsParts_fold ?_))

theorem setStop_keeps {org : State} {s : State} {n : Nat} (hs : Keeps org s) :
    Keeps org (setStop s n) := by
  unfold setStop
  repeat' (first
    | with_reducible assumption
    | with_reducible refine State.write_keeps ?_
    | with_reducible refine State.setSet_keeps ?_
    | split
    | dsimp -zeta only)

theorem bkgStat_keeps {org : State} {s : State} (hs : Keeps org s) :
    Keeps org (bkgStat s) := by
  unfold bkgStat
  repeat' (first
    | with_reducible assumption
    | ((try lift_lets -underBinder); intro x; first | (with_reducible refine keeps_let (o := org) x ?_ ?_; rotate_left; intro hx; clear_value x; rotate_right; subst x) | (with_reducible refine keeps_let_fun x ?_; subst x) | clear_value x)
    | with_reducible refine State.set_keeps ?_
    | with_reducible refine State.setFlag_keeps ?_
    | split
    | dsimp -zeta only)

theorem bkgBoundary_keeps {org : State} {s : State} {p sweep : Nat} (hs : Keeps org s) :
    Keeps org (bkgBoundary s p sweep) := by
  unfold bkgBoundary
  repeat' (first
    | with_reducible assumption
    | ((try lift_lets -underBinder); intro x; first | (with_reducible refine keeps_let (o := org) x ?_ ?_; rotate_left; intro hx; clear_value x; rotate_right; subst x) | (with_reducible refine keeps_let_fst (o := org) x ?_ ?_; rotate_left; intro hx; clear_value x; rotate_right; subst x) | (with_reducible refine keeps_let_fun x ?_; subst x) | (with_reducible refine keeps_let_bkg x ?_; subst x) | (with_reducible refine keeps_let_map x ?_; subst x) | clear_value x)
    | with_reducible refine fadeCheck_keeps ?_
    | with_reducible refine setDelays_keeps ?_
    | with_reducible refine setStart_keeps ?_
    | with_reducible refine setStop_keeps ?_
    | with_reducible refine bkgStat_keeps ?_
    | with_reducible refine State.each_keeps ?_ (fun s1 a1 h1 => ?_)
    | with_reducible refine foldl_keeps ?_ (fun s1 a1 h1 => ?_)
    | with_reducible refine foldl_fst_keeps ?_ (fun s1 a1 h1 => ?_)
    | unfold State.setBkg
    | split
    | dsimp -zeta only
    | (rw [keeps_mk]; refine keepsParts_fold ?_)
    | (rw [keeps_mk]; refine keepsParts_change ?_ (fun h0 => by unfold SoundParts State.Sound BkgWf at *; simp only [h0, swf_sput, swf_foldl_sput, and_self])))

theorem chanPut_keeps {org : State} {s : State} {p c : Nat} {x : BkgIn} {borrowed : Bool} (hs : Keeps org s) :
    Keeps org (chanPut s p c x borrowed) := by
  unfold chanPut
  repeat' (first
    | with_reducible assumption
    | ((try lift_lets -underBinder); intro x; first | (with_reducible refine keeps_let (o := org) x ?_ ?_; rotate_left; intro hx; clear_value x; rotate_right; subst x) | (with_reducible refine keeps_let_fun x ?_; subst x) | clear_value x)
    | with_reducible refine State.set_keeps ?_
    | with_reducible refine State.count_keeps ?_
    | with_reducible refine State.setChan_keeps ?_
    | split
    | dsimp -zeta only
    | (rw [keeps_mk]; refine keepsParts_fold ?_))

theorem missingSample_keeps {org : State} {s : State} {p j : Nat} {borrowed : Bool} (hs : Keeps org s) :
    Keeps org (missingSample s p j borrowed) := by
  unfold missingSample
  repeat' (first
    | with_reducible assumption
    | ((try lift_lets -underBinder); intro x; first | (with_reducible refine keeps_let (o := org) x ?_ ?_; rotate_left; intro hx; clear_value x; rotate_right; subst x) | (with_reducible refine keeps_let_fst (o := org) x ?_ ?_; rotate_left; intro hx; clear_value x; rotate_right; subst x) | (with_reducible refine keeps_let_fun x ?_; subst x) | clear_value x)
    | with_reducible refine State.setBkgPort_keeps ?_
    | with_reducible refine chanPut_keeps ?_
    | with_reducible refine State.each_keeps ?_ (fun s1 a1 h1 => ?_)
    | split
    | dsimp -zeta only
    | (rw [keeps_mk]; refine keepsParts_fold ?_))

theorem presentSample_keeps {org : State} {s : State} {p j c : Nat} {run : List (Nat × Bool)} {v : Option Int} (hs : Keeps org s) :
    Keeps org (presentSample s p j c run v) := by
  unfold presentSample
  repeat' (first
    | with_reducible assumption
    | ((try lift_lets -underBinder); intro x; first | (with_reducible refine keeps_let (o := org) x ?_ ?_; rotate_left; intro hx; clear_value x; rotate_right; subst x) | (with_reducible refine keeps_let_fst (o := org) x ?_ ?_; rotate_left; intro hx; clear_value x; rotate_right; subst x) | (with_reducible refine keeps_let_fun x ?_; subst x) | clear_value x)
    | with_reducible refine chanPut_keeps ?_
    | with_reducible refine State.each_keeps ?_ (fun s1 a1 h1 => ?_)
    | split
    | dsimp -zeta only)

theorem bkgRecord_keeps {org : State} {s : State} {p j launch : Nat} {present borrowed carries : Bool} {qs : List (Nat × Nat × Nat)} (hs : Keeps org s) :
    Keeps org (bkgRecord s p j launch present borrowed carries qs) := by
  unfold bkgRecord
  repeat' (first
    | with_reducible assumption
    | ((try lift_lets -underBinder); intro x; first | (with_reducible refine keeps_let (o := org) x ?_ ?_; rotate_left; intro hx; clear_value x; rotate_right; subst x) | (with_reducible refine keeps_let_fst (o := org) x ?_ ?_; rotate_left; intro hx; clear_value x; rotate_right; subst x) | (with_reducible refine keeps_let_fun x ?_; subst x) | clear_value x)
    | with_reducible refine State.setBkgPort_keeps ?_
    | with_reducible refine missingSample_keeps ?_
    | with_reducible refine presentSample_keeps ?_
    | with_reducible refine State.each_keeps ?_ (fun s1 a1 h1 => ?_)
    | with_reducible refine foldl_keeps ?_ (fun s1 a1 h1 => ?_)
    | with_reducible refine foldl_fst_keeps ?_ (fun s1 a1 h1 => ?_)
    | split
    | dsimp -zeta only
    | (rw [keeps_mk]; refine keepsParts_fold ?_))

theorem channelOutput_keeps {org : State} {s : State} {n : Nat} (hs : Keeps org s) :
    Keeps org (channelOutput s n) := by
  unfold channelOutput
  repeat' (first
    | with_reducible assumption
    | ((try lift_lets -underBinder); intro x; first | (with_reducible refine keeps_let (o := org) x ?_ ?_; rotate_left; intro hx; clear_value x; rotate_right; subst x) | (with_reducible refine keeps_let_fst (o := org) x ?_ ?_; rotate_left; intro hx; clear_value x; rotate_right; subst x) | (with_reducible refine keeps_let_fun x ?_; subst x) | clear_value x)
    | with_reducible refine State.set_keeps ?_
    | with_reducible refine State.setFlag_keeps ?_
    | with_reducible refine State.count_keeps ?_
    | with_reducible refine publish_keeps ?_
    | with_reducible refine State.setSet_keeps ?_
    | with_reducible refine fadeCheck_keeps ?_
    | split
    | dsimp -zeta only
    | (rw [keeps_mk]; refine keepsParts_fold ?_))

theorem execChannelRecordOutput_keeps {org : State} {set : Fin 64} {s : State} (hs : Keeps org s) :
    KeepsOut org (execChannelRecordOutput set s) := by
  unfold execChannelRecordOutput
  repeat' (first
    | with_reducible assumption
    | with_reducible refine channelOutput_keeps ?_
    | with_reducible refine keepsOut_next ?_
    | split
    | dsimp -zeta only)

theorem bkgCntClr_keeps {org : State} {s : State} (hs : Keeps org s) :
    Keeps org (bkgCntClr s) := by
  unfold bkgCntClr
  repeat' (first
    | with_reducible assumption
    | ((try lift_lets -underBinder); intro x; first | (with_reducible refine keeps_let (o := org) x ?_ ?_; rotate_left; intro hx; clear_value x; rotate_right; subst x) | (with_reducible refine keeps_let_fun x ?_; subst x) | clear_value x)
    | with_reducible refine State.clearAll_keeps ?_
    | with_reducible refine State.setChan_keeps ?_
    | with_reducible refine State.each_keeps ?_ (fun s1 a1 h1 => ?_)
    | split
    | dsimp -zeta only
    | (rw [keeps_mk]; refine keepsParts_fold ?_))

theorem execSnapshotChannelStatus_keeps {org : State} {ring : Fin 16} {s : State} (hs : Keeps org s) :
    KeepsOut org (execSnapshotChannelStatus ring s) := by
  unfold execSnapshotChannelStatus
  repeat' (first
    | with_reducible assumption
    | with_reducible refine snapshotRun_keeps ?_
    | with_reducible refine keepsOut_next ?_
    | split
    | dsimp -zeta only)

end Sys2Proof.Machine
end

