-- ==== Sys2Proof/Laws/KeepsCruiser.lean ====
section
/-! SUPPORT. The operations of Machine/Cruiser.lean keep what every command keeps. -/

namespace Sys2Proof.Machine

theorem State.setZone_keeps {org : State} {s : State} {z : Nat} {r : CruZone} (hs : Keeps org s) :
    Keeps org (State.setZone s z r) := by
  unfold State.setZone
  repeat' (first
    | with_reducible assumption
    | split
    | dsimp -zeta only
    | (rw [keeps_mk]; refine keepsParts_fold ?_)
    | (rw [keeps_mk]; refine keepsParts_change ?_ (fun h0 => by unfold SoundParts State.Sound CruWf at *; simp only [h0, swf_sput, and_self])))

theorem loadZones_keeps {org : State} {s : State} {it : Item} {bytes : List Byte} (hs : Keeps org s) :
    KeepsLoad org (loadZones s it bytes) := by
  unfold loadZones
  repeat' (first
    | with_reducible assumption
    | ((try lift_lets -underBinder); intro x; first | (with_reducible refine keeps_let (o := org) x ?_ ?_; rotate_left; intro hx; clear_value x; rotate_right; subst x) | (with_reducible refine keeps_let_fst (o := org) x ?_ ?_; rotate_left; intro hx; clear_value x; rotate_right; subst x) | (with_reducible refine keeps_let_fun x ?_; subst x) | (with_reducible refine keeps_let_cru x ?_; subst x) | (with_reducible refine keeps_let_map x ?_; subst x) | clear_value x)
    | with_reducible refine foldl_keeps ?_ (fun s1 a1 h1 => ?_)
    | with_reducible refine foldl_fst_keeps ?_ (fun s1 a1 h1 => ?_)
    | with_reducible refine keepsLoad_refused ?_
    | with_reducible refine keepsLoad_loaded ?_
    | with_reducible refine keepsLoad_later ?_
    | split
    | dsimp -zeta only
    | (rw [keeps_mk]; refine keepsParts_fold ?_)
    | (rw [keeps_mk]; refine keepsParts_change ?_ (fun h0 => by unfold SoundParts State.Sound CruWf at *; simp only [h0, swf_foldl_sput, and_self])))

theorem loadTemplates_keeps {org : State} {s : State} {it : Item} {bytes : List Byte} (hs : Keeps org s) :
    KeepsLoad org (loadTemplates s it bytes) := by
  unfold loadTemplates
  repeat' (first
    | with_reducible assumption
    | ((try lift_lets -underBinder); intro x; first | (with_reducible refine keeps_let (o := org) x ?_ ?_; rotate_left; intro hx; clear_value x; rotate_right; subst x) | (with_reducible refine keeps_let_fst (o := org) x ?_ ?_; rotate_left; intro hx; clear_value x; rotate_right; subst x) | (with_reducible refine keeps_let_fun x ?_; subst x) | (with_reducible refine keeps_let_cru x ?_; subst x) | (with_reducible refine keeps_let_map x ?_; subst x) | clear_value x)
    | with_reducible refine foldl_keeps ?_ (fun s1 a1 h1 => ?_)
    | with_reducible refine foldl_fst_keeps ?_ (fun s1 a1 h1 => ?_)
    | with_reducible refine keepsLoad_refused ?_
    | with_reducible refine keepsLoad_loaded ?_
    | with_reducible refine keepsLoad_later ?_
    | split
    | dsimp -zeta only
    | (rw [keeps_mk]; refine keepsParts_fold ?_)
    | (rw [keeps_mk]; refine keepsParts_change ?_ (fun h0 => by unfold SoundParts State.Sound CruWf at *; simp only [h0, swf_foldl_sput, and_self])))

theorem execTableLoadZone_keeps {org : State} {ring : Fin 16} {payload : List Byte} {s : State} (hs : Keeps org s) :
    KeepsOut org (execTableLoadZone ring payload s) := by
  unfold execTableLoadZone
  repeat' (first
    | with_reducible assumption
    | with_reducible refine tableRun_keeps (fun h => loadZones_keeps h) ?_
    | with_reducible refine loadZones_keeps ?_
    | with_reducible refine keepsOut_next ?_
    | split
    | dsimp -zeta only)

theorem execTableLoadTemplate_keeps {org : State} {ring : Fin 16} {payload : List Byte} {s : State} (hs : Keeps org s) :
    KeepsOut org (execTableLoadTemplate ring payload s) := by
  unfold execTableLoadTemplate
  repeat' (first
    | with_reducible assumption
    | with_reducible refine tableRun_keeps (fun h => loadTemplates_keeps h) ?_
    | with_reducible refine loadTemplates_keeps ?_
    | with_reducible refine keepsOut_next ?_
    | split
    | dsimp -zeta only)

theorem cruStat_keeps {org : State} {s : State} (hs : Keeps org s) :
    Keeps org (cruStat s) := by
  unfold cruStat
  repeat' (first
    | with_reducible assumption
    | ((try lift_lets -underBinder); intro x; first | (with_reducible refine keeps_let (o := org) x ?_ ?_; rotate_left; intro hx; clear_value x; rotate_right; subst x) | (with_reducible refine keeps_let_fun x ?_; subst x) | clear_value x)
    | with_reducible refine State.set_keeps ?_
    | split
    | dsimp -zeta only)

theorem postCru_keeps {org : State} {s : State} {l : List EventReq} (hs : Keeps org s) :
    Keeps org (postCru s l) := by
  unfold postCru
  repeat' (first
    | with_reducible assumption
    | with_reducible refine State.count_keeps ?_
    | with_reducible refine State.postAll_keeps ?_
    | split
    | dsimp -zeta only)

theorem edgeEvt_keeps {org : State} {s : State} {f : Field} {e : TallyEdge} (hs : Keeps org s) :
    Keeps org (edgeEvt s f e) := by
  unfold edgeEvt
  repeat' (first
    | with_reducible assumption
    | with_reducible refine State.set_keeps ?_
    | split
    | dsimp -zeta only
    | (rw [keeps_mk]; refine keepsParts_fold ?_))

theorem cruDemand_keeps {org : State} {s : State} (hs : Keeps org s) :
    Keeps org (cruDemand s) := by
  unfold cruDemand
  repeat' (first
    | with_reducible assumption
    | ((try lift_lets -underBinder); intro x; first | (with_reducible refine keeps_let (o := org) x ?_ ?_; rotate_left; intro hx; clear_value x; rotate_right; subst x) | (with_reducible refine keeps_let_fst (o := org) x ?_ ?_; rotate_left; intro hx; clear_value x; rotate_right; subst x) | clear_value x)
    | with_reducible refine State.set_keeps ?_
    | with_reducible refine State.setFlag_keeps ?_
    | with_reducible refine postCru_keeps ?_
    | split
    | dsimp -zeta only)

theorem vibEnter_keeps {org : State} {s : State} {z time : Nat} {v : Verdict} (hs : Keeps org s) :
    Keeps org (vibEnter s z time v).1 := by
  unfold vibEnter
  repeat' (first
    | with_reducible assumption
    | ((try lift_lets -underBinder); intro x; first | (with_reducible refine keeps_let (o := org) x ?_ ?_; rotate_left; intro hx; clear_value x; rotate_right; subst x) | (with_reducible refine keeps_let_fst (o := org) x ?_ ?_; rotate_left; intro hx; clear_value x; rotate_right; subst x) | clear_value x)
    | with_reducible refine State.set_keeps ?_
    | with_reducible refine State.bump_keeps ?_
    | with_reducible refine State.setZone_keeps ?_
    | with_reducible refine edgeEvt_keeps ?_
    | split
    | dsimp -zeta only
    | (rw [keeps_mk]; refine keepsParts_fold ?_))

theorem emptyFrames_keeps {org : State} {a0 : Nat} {a1 : State} {a2 : Nat} {a3 : Nat} {a4 : Nat} (hs : Keeps org a1) :
    Keeps org (emptyFrames a0 a1 a2 a3 a4).1 := by
  induction a0 generalizing a1 a2 a3 a4 with
  | zero =>
    unfold emptyFrames
    repeat' (first
    | with_reducible assumption
    | ((try lift_lets -underBinder); intro x; first | (with_reducible refine keeps_let (o := org) x ?_ ?_; rotate_left; intro hx; clear_value x; rotate_right; subst x) | (with_reducible refine keeps_let_fst (o := org) x ?_ ?_; rotate_left; intro hx; clear_value x; rotate_right; subst x) | clear_value x)
    | with_reducible refine vibEnter_keeps ?_
    | split
    | dsimp -zeta only)
  | succ n ih =>
    unfold emptyFrames
    repeat' (first
    | with_reducible assumption
    | with_reducible apply ih
    | ((try lift_lets -underBinder); intro x; first | (with_reducible refine keeps_let (o := org) x ?_ ?_; rotate_left; intro hx; clear_value x; rotate_right; subst x) | (with_reducible refine keeps_let_fst (o := org) x ?_ ?_; rotate_left; intro hx; clear_value x; rotate_right; subst x) | clear_value x)
    | with_reducible refine vibEnter_keeps ?_
    | split
    | dsimp -zeta only)

theorem frameEvaluate_keeps {org : State} {s : State} {z : Nat} (hs : Keeps org s) :
    Keeps org (frameEvaluate s z) := by
  unfold frameEvaluate
  repeat' (first
    | with_reducible assumption
    | ((try lift_lets -underBinder); intro x; first | (with_reducible refine keeps_let (o := org) x ?_ ?_; rotate_left; intro hx; clear_value x; rotate_right; subst x) | (with_reducible refine keeps_let_fst (o := org) x ?_ ?_; rotate_left; intro hx; clear_value x; rotate_right; subst x) | (with_reducible refine keeps_let_cru x ?_; subst x) | clear_value x)
    | with_reducible refine State.set_keeps ?_
    | with_reducible refine State.setZone_keeps ?_
    | with_reducible refine cruStat_keeps ?_
    | with_reducible refine postCru_keeps ?_
    | with_reducible refine vibEnter_keeps ?_
    | with_reducible refine emptyFrames_keeps ?_
    | split
    | dsimp -zeta only
    | (rw [keeps_mk]; refine keepsParts_fold ?_))

theorem execZoneFrameEvaluation_keeps {org : State} {zone : Fin 32768} {s : State} (hs : Keeps org s) :
    KeepsOut org (execZoneFrameEvaluation zone s) := by
  unfold execZoneFrameEvaluation
  repeat' (first
    | with_reducible assumption
    | with_reducible refine frameEvaluate_keeps ?_
    | with_reducible refine keepsOut_next ?_
    | split
    | dsimp -zeta only)

theorem tempEnter_keeps {org : State} {s : State} {z : Nat} {time : Option Nat} {lev rate : Verdict} (hs : Keeps org s) :
    Keeps org (tempEnter s z time lev rate).1 := by
  unfold tempEnter
  repeat' (first
    | with_reducible assumption
    | ((try lift_lets -underBinder); intro x; first | (with_reducible refine keeps_let (o := org) x ?_ ?_; rotate_left; intro hx; clear_value x; rotate_right; subst x) | (with_reducible refine keeps_let_fst (o := org) x ?_ ?_; rotate_left; intro hx; clear_value x; rotate_right; subst x) | clear_value x)
    | with_reducible refine State.count_keeps ?_
    | with_reducible refine State.setZone_keeps ?_
    | with_reducible refine edgeEvt_keeps ?_
    | split
    | dsimp -zeta only
    | (rw [keeps_mk]; refine keepsParts_fold ?_))

theorem tempZone_keeps {org : State} {s : State} {z : Nat} {hist : List (List Byte)} (hs : Keeps org s) :
    Keeps org (tempZone s z hist).1 := by
  unfold tempZone
  repeat' (first
    | with_reducible assumption
    | ((try lift_lets -underBinder); intro x; first | (with_reducible refine keeps_let (o := org) x ?_ ?_; rotate_left; intro hx; clear_value x; rotate_right; subst x) | (with_reducible refine keeps_let_fst (o := org) x ?_ ?_; rotate_left; intro hx; clear_value x; rotate_right; subst x) | (with_reducible refine keeps_let_fun x ?_; subst x) | clear_value x)
    | with_reducible refine State.setZone_keeps ?_
    | with_reducible refine tempEnter_keeps ?_
    | split
    | dsimp -zeta only
    | (rw [keeps_mk]; refine keepsParts_fold ?_))

theorem zonesEach_keeps {org s : State} {l : List Nat} {f : State → Nat → State × List EventReq}
    (hf : ∀ s z, Keeps org s → Keeps org (f s z).1) (hs : Keeps org s) : Keeps org (zonesEach s l f).1 := by
  unfold zonesEach
  exact foldl_fst_keeps hs fun a z h => hf a.1 z h

theorem keeps_let_run {org : State} (x : TickRun) {P : Prop} (hx : Keeps org x.s) (h : Keeps org x.s → P) : P := h hx

theorem foldl_run_keeps {org : State} {α : Type} {r : TickRun} {l : List α} {f : TickRun → α → TickRun}
    (h : Keeps org r.s) (hf : ∀ r a, Keeps org r.s → Keeps org (f r a).s) : Keeps org (l.foldl f r).s := by
  induction l generalizing r with
  | nil => exact h
  | cons a t ih => exact ih (hf r a h)

theorem cruProfile_keeps {org : State} {s : State} {p : Nat} {prof : List Byte} (hs : Keeps org s) :
    Keeps org (cruProfile s p prof) := by
  unfold cruProfile
  repeat' (first
    | with_reducible assumption
    | ((try lift_lets -underBinder); intro x; first | (with_reducible refine keeps_let (o := org) x ?_ ?_; rotate_left; intro hx; clear_value x; rotate_right; subst x) | (with_reducible refine keeps_let_fst (o := org) x ?_ ?_; rotate_left; intro hx; clear_value x; rotate_right; subst x) | (with_reducible refine keeps_let_fun x ?_; subst x) | (with_reducible refine keeps_let_cru x ?_; subst x) | clear_value x)
    | with_reducible refine cruStat_keeps ?_
    | with_reducible refine postCru_keeps ?_
    | with_reducible refine tempZone_keeps ?_
    | with_reducible refine zonesEach_keeps (fun s1 z1 h1 => ?_) ?_
    | split
    | dsimp -zeta only
    | (rw [keeps_mk]; refine keepsParts_fold ?_)
    | (rw [keeps_mk]; refine keepsParts_change ?_ (fun h0 => by unfold SoundParts State.Sound CruWf at *; simp only [h0, swf_sput, and_self])))

theorem cruStaleEval_keeps {org : State} {s : State} {p : Nat} (hs : Keeps org s) :
    Keeps org (cruStaleEval s p) := by
  unfold cruStaleEval
  repeat' (first
    | with_reducible assumption
    | ((try lift_lets -underBinder); intro x; first | (with_reducible refine keeps_let (o := org) x ?_ ?_; rotate_left; intro hx; clear_value x; rotate_right; subst x) | (with_reducible refine keeps_let_fst (o := org) x ?_ ?_; rotate_left; intro hx; clear_value x; rotate_right; subst x) | (with_reducible refine keeps_let_fun x ?_; subst x) | clear_value x)
    | with_reducible refine cruStat_keeps ?_
    | with_reducible refine postCru_keeps ?_
    | with_reducible refine tempEnter_keeps ?_
    | with_reducible refine zonesEach_keeps (fun s1 z1 h1 => ?_) ?_
    | split
    | dsimp -zeta only)

theorem cruMarker_keeps {org : State} {s : State} {p : Nat} (hs : Keeps org s) :
    Keeps org (cruMarker s p) := by
  unfold cruMarker
  repeat' (first
    | with_reducible assumption
    | ((try lift_lets -underBinder); intro x; first | (with_reducible refine keeps_let (o := org) x ?_ ?_; rotate_left; intro hx; clear_value x; rotate_right; subst x) | (with_reducible refine keeps_let_fun x ?_; subst x) | (with_reducible refine keeps_let_cru x ?_; subst x) | clear_value x)
    | with_reducible refine cruStaleEval_keeps ?_
    | split
    | dsimp -zeta only
    | (rw [keeps_mk]; refine keepsParts_fold ?_)
    | (rw [keeps_mk]; refine keepsParts_change ?_ (fun h0 => by unfold SoundParts State.Sound CruWf at *; simp only [h0, swf_sput, and_self])))

theorem execStaleTemperatureEvaluation_keeps {org : State} {port : Port} {s : State} (hs : Keeps org s) :
    KeepsOut org (execStaleTemperatureEvaluation port s) := by
  unfold execStaleTemperatureEvaluation
  repeat' (first
    | with_reducible assumption
    | with_reducible refine cruStaleEval_keeps ?_
    | with_reducible refine keepsOut_next ?_
    | split
    | dsimp -zeta only)

theorem State.setTracks_keeps {org : State} {s : State} {l : List Track} (hs : Keeps org s) :
    Keeps org (State.setTracks s l) := by
  unfold State.setTracks
  repeat' (first
    | with_reducible assumption
    | split
    | dsimp -zeta only
    | (rw [keeps_mk]; refine keepsParts_fold ?_))

theorem TickRun.put_keeps {org : State} {r : TickRun} {t : Track} (hs : Keeps org r.s) :
    Keeps org (TickRun.put r t).s := by
  unfold TickRun.put
  repeat' (first
    | with_reducible assumption
    | with_reducible refine State.setTracks_keeps ?_
    | with_reducible refine foldl_run_keeps ?_ (fun s1 a1 h1 => ?_)
    | split
    | dsimp -zeta only
    | (rw [keeps_mk]; refine keepsParts_fold ?_))

theorem TickRun.note_keeps {org : State} {r : TickRun} {slot : Nat} {q : EventReq} (hs : Keeps org r.s) :
    Keeps org (TickRun.note r slot q).s := by
  unfold TickRun.note
  repeat' (first
    | with_reducible assumption
    | with_reducible refine foldl_run_keeps ?_ (fun s1 a1 h1 => ?_)
    | split
    | dsimp -zeta only
    | (rw [keeps_mk]; refine keepsParts_fold ?_))

theorem stopEnd_keeps {org : State} {r : TickRun} {t : Track} {time : Nat} (hs : Keeps org r.s) :
    Keeps org (stopEnd r t time).s := by
  unfold stopEnd
  repeat' (first
    | with_reducible assumption
    | ((try lift_lets -underBinder); intro x; first | (with_reducible refine keeps_let (o := org) x ?_ ?_; rotate_left; intro hx; clear_value x; rotate_right; subst x) | (with_reducible refine keeps_let_run (org := org) x ?_ ?_; rotate_left; intro hx; clear_value x; rotate_right; subst x) | clear_value x)
    | with_reducible refine TickRun.put_keeps ?_
    | with_reducible refine TickRun.note_keeps ?_
    | with_reducible refine foldl_run_keeps ?_ (fun s1 a1 h1 => ?_)
    | split
    | dsimp -zeta only
    | (rw [keeps_mk]; refine keepsParts_fold ?_))

theorem candidacy_keeps {org : State} {r : TickRun} {t : Track} {time : Nat} (hs : Keeps org r.s) :
    Keeps org (candidacy r t time).s := by
  unfold candidacy
  repeat' (first
    | with_reducible assumption
    | ((try lift_lets -underBinder); intro x; first | (with_reducible refine keeps_let (o := org) x ?_ ?_; rotate_left; intro hx; clear_value x; rotate_right; subst x) | (with_reducible refine keeps_let_run (org := org) x ?_ ?_; rotate_left; intro hx; clear_value x; rotate_right; subst x) | clear_value x)
    | with_reducible refine TickRun.put_keeps ?_
    | with_reducible refine stopEnd_keeps ?_
    | with_reducible refine foldl_run_keeps ?_ (fun s1 a1 h1 => ?_)
    | split
    | dsimp -zeta only
    | (rw [keeps_mk]; refine keepsParts_fold ?_))

theorem trackUpdate_keeps {org : State} {r : TickRun} {t : Track} {d : Detection} (hs : Keeps org r.s) :
    Keeps org (trackUpdate r t d).s := by
  unfold trackUpdate
  repeat' (first
    | with_reducible assumption
    | ((try lift_lets -underBinder); intro x; first | (with_reducible refine keeps_let (o := org) x ?_ ?_; rotate_left; intro hx; clear_value x; rotate_right; subst x) | (with_reducible refine keeps_let_run (org := org) x ?_ ?_; rotate_left; intro hx; clear_value x; rotate_right; subst x) | clear_value x)
    | with_reducible refine TickRun.put_keeps ?_
    | with_reducible refine TickRun.note_keeps ?_
    | with_reducible refine candidacy_keeps ?_
    | with_reducible refine foldl_run_keeps ?_ (fun s1 a1 h1 => ?_)
    | split
    | dsimp -zeta only
    | (rw [keeps_mk]; refine keepsParts_fold ?_))

theorem trackStart_keeps {org : State} {r : TickRun} {d : Detection} (hs : Keeps org r.s) :
    Keeps org (trackStart r d).s := by
  unfold trackStart
  repeat' (first
    | with_reducible assumption
    | ((try lift_lets -underBinder); intro x; first | (with_reducible refine keeps_let (o := org) x ?_ ?_; rotate_left; intro hx; clear_value x; rotate_right; subst x) | (with_reducible refine keeps_let_run (org := org) x ?_ ?_; rotate_left; intro hx; clear_value x; rotate_right; subst x) | (with_reducible refine keeps_let_cru x ?_; subst x) | clear_value x)
    | with_reducible refine State.set_keeps ?_
    | with_reducible refine State.bump_keeps ?_
    | with_reducible refine State.setTracks_keeps ?_
    | with_reducible refine TickRun.note_keeps ?_
    | with_reducible refine foldl_run_keeps ?_ (fun s1 a1 h1 => ?_)
    | split
    | dsimp -zeta only
    | (rw [keeps_mk]; refine keepsParts_fold ?_))

theorem associate_keeps {org : State} {r : TickRun} {d : Detection} (hs : Keeps org r.s) :
    Keeps org (associate r d).s := by
  unfold associate
  repeat' (first
    | with_reducible assumption
    | ((try lift_lets -underBinder); intro x; first | (with_reducible refine keeps_let (o := org) x ?_ ?_; rotate_left; intro hx; clear_value x; rotate_right; subst x) | (with_reducible refine keeps_let_fst (o := org) x ?_ ?_; rotate_left; intro hx; clear_value x; rotate_right; subst x) | (with_reducible refine keeps_let_run (org := org) x ?_ ?_; rotate_left; intro hx; clear_value x; rotate_right; subst x) | (with_reducible refine keeps_let_fun x ?_; subst x) | clear_value x)
    | with_reducible refine trackUpdate_keeps ?_
    | with_reducible refine trackStart_keeps ?_
    | with_reducible refine foldl_keeps ?_ (fun s1 a1 h1 => ?_)
    | with_reducible refine foldl_fst_keeps ?_ (fun s1 a1 h1 => ?_)
    | with_reducible refine foldl_run_keeps ?_ (fun s1 a1 h1 => ?_)
    | split
    | dsimp -zeta only
    | (rw [keeps_mk]; refine keepsParts_fold ?_))

theorem frameMisses_keeps {org : State} {r : TickRun} {f : FrameSeen} {charge : Bool} (hs : Keeps org r.s) :
    Keeps org (frameMisses r f charge).s := by
  unfold frameMisses
  repeat' (first
    | with_reducible assumption
    | ((try lift_lets -underBinder); intro x; first | (with_reducible refine keeps_let (o := org) x ?_ ?_; rotate_left; intro hx; clear_value x; rotate_right; subst x) | (with_reducible refine keeps_let_fst (o := org) x ?_ ?_; rotate_left; intro hx; clear_value x; rotate_right; subst x) | (with_reducible refine keeps_let_run (org := org) x ?_ ?_; rotate_left; intro hx; clear_value x; rotate_right; subst x) | (with_reducible refine keeps_let_fun x ?_; subst x) | clear_value x)
    | with_reducible refine State.setTracks_keeps ?_
    | with_reducible refine TickRun.put_keeps ?_
    | with_reducible refine TickRun.note_keeps ?_
    | with_reducible refine foldl_keeps ?_ (fun s1 a1 h1 => ?_)
    | with_reducible refine foldl_fst_keeps ?_ (fun s1 a1 h1 => ?_)
    | with_reducible refine foldl_run_keeps ?_ (fun s1 a1 h1 => ?_)
    | split
    | dsimp -zeta only
    | (rw [keeps_mk]; refine keepsParts_fold ?_))

theorem stopDecide_keeps {org : State} {r : TickRun} (hs : Keeps org r.s) :
    Keeps org (stopDecide r).s := by
  unfold stopDecide
  repeat' (first
    | with_reducible assumption
    | ((try lift_lets -underBinder); intro x; first | (with_reducible refine keeps_let (o := org) x ?_ ?_; rotate_left; intro hx; clear_value x; rotate_right; subst x) | (with_reducible refine keeps_let_fst (o := org) x ?_ ?_; rotate_left; intro hx; clear_value x; rotate_right; subst x) | (with_reducible refine keeps_let_run (org := org) x ?_ ?_; rotate_left; intro hx; clear_value x; rotate_right; subst x) | (with_reducible refine keeps_let_fun x ?_; subst x) | clear_value x)
    | with_reducible refine State.set_keeps ?_
    | with_reducible refine TickRun.put_keeps ?_
    | with_reducible refine TickRun.note_keeps ?_
    | with_reducible refine stopEnd_keeps ?_
    | with_reducible refine foldl_keeps ?_ (fun s1 a1 h1 => ?_)
    | with_reducible refine foldl_fst_keeps ?_ (fun s1 a1 h1 => ?_)
    | with_reducible refine foldl_run_keeps ?_ (fun s1 a1 h1 => ?_)
    | split
    | dsimp -zeta only
    | (rw [keeps_mk]; refine keepsParts_fold ?_))

theorem trackerTick_keeps {org : State} {s : State} (hs : Keeps org s) :
    Keeps org (trackerTick s) := by
  unfold trackerTick
  repeat' (first
    | with_reducible assumption
    | ((try lift_lets -underBinder); intro x; first | (with_reducible refine keeps_let (o := org) x ?_ ?_; rotate_left; intro hx; clear_value x; rotate_right; subst x) | (with_reducible refine keeps_let_fst (o := org) x ?_ ?_; rotate_left; intro hx; clear_value x; rotate_right; subst x) | (with_reducible refine keeps_let_run (org := org) x ?_ ?_; rotate_left; intro hx; clear_value x; rotate_right; subst x) | (with_reducible refine keeps_let_fun x ?_; subst x) | (with_reducible refine keeps_let_cru x ?_; subst x) | clear_value x)
    | with_reducible refine State.set_keeps ?_
    | with_reducible refine State.count_keeps ?_
    | with_reducible refine State.postAll_keeps ?_
    | with_reducible refine State.setTracks_keeps ?_
    | with_reducible refine associate_keeps ?_
    | with_reducible refine frameMisses_keeps ?_
    | with_reducible refine stopDecide_keeps ?_
    | with_reducible refine foldl_keeps ?_ (fun s1 a1 h1 => ?_)
    | with_reducible refine foldl_fst_keeps ?_ (fun s1 a1 h1 => ?_)
    | with_reducible refine foldl_run_keeps ?_ (fun s1 a1 h1 => ?_)
    | split
    | dsimp -zeta only
    | (rw [keeps_mk]; refine keepsParts_fold ?_))

theorem execTrackerTick_keeps {org : State} {s : State} (hs : Keeps org s) :
    KeepsOut org (execTrackerTick s) := by
  unfold execTrackerTick
  repeat' (first
    | with_reducible assumption
    | with_reducible refine trackerTick_keeps ?_
    | with_reducible refine keepsOut_next ?_
    | split
    | dsimp -zeta only)

theorem zoneReload_keeps {org : State} {s : State} {z : Nat} (hs : Keeps org s) :
    Keeps org (zoneReload s z) := by
  unfold zoneReload
  repeat' (first
    | with_reducible assumption
    | ((try lift_lets -underBinder); intro x; first | (with_reducible refine keeps_let (o := org) x ?_ ?_; rotate_left; intro hx; clear_value x; rotate_right; subst x) | (with_reducible refine keeps_let_fun x ?_; subst x) | (with_reducible refine keeps_let_cru x ?_; subst x) | clear_value x)
    | with_reducible refine State.setZone_keeps ?_
    | with_reducible refine cruStat_keeps ?_
    | with_reducible refine cruDemand_keeps ?_
    | split
    | dsimp -zeta only
    | (rw [keeps_mk]; refine keepsParts_fold ?_)
    | (rw [keeps_mk]; refine keepsParts_change ?_ (fun h0 => by unfold SoundParts State.Sound CruWf at *; simp only [h0, swf_sput, and_self])))

theorem execZoneReloadEffect_keeps {org : State} {zone : Fin 32768} {s : State} (hs : Keeps org s) :
    KeepsOut org (execZoneReloadEffect zone s) := by
  unfold execZoneReloadEffect
  repeat' (first
    | with_reducible assumption
    | with_reducible refine zoneReload_keeps ?_
    | with_reducible refine keepsOut_next ?_
    | split
    | dsimp -zeta only)

theorem cruEnable_keeps {org : State} {s : State} {on : Bool} (hs : Keeps org s) :
    Keeps org (cruEnable s on) := by
  unfold cruEnable
  repeat' (first
    | with_reducible assumption
    | ((try lift_lets -underBinder); intro x; first | (with_reducible refine keeps_let (o := org) x ?_ ?_; rotate_left; intro hx; clear_value x; rotate_right; subst x) | (with_reducible refine keeps_let_fun x ?_; subst x) | (with_reducible refine keeps_let_cru x ?_; subst x) | clear_value x)
    | with_reducible refine State.set_keeps ?_
    | with_reducible refine State.setZone_keeps ?_
    | with_reducible refine cruStat_keeps ?_
    | with_reducible refine State.each_keeps ?_ (fun s1 a1 h1 => ?_)
    | split
    | dsimp -zeta only
    | (rw [keeps_mk]; refine keepsParts_fold ?_))

theorem cruCntClr_keeps {org : State} {s : State} (hs : Keeps org s) :
    Keeps org (cruCntClr s) := by
  unfold cruCntClr
  repeat' (first
    | with_reducible assumption
    | ((try lift_lets -underBinder); intro x; first | (with_reducible refine keeps_let (o := org) x ?_ ?_; rotate_left; intro hx; clear_value x; rotate_right; subst x) | (with_reducible refine keeps_let_fun x ?_; subst x) | clear_value x)
    | with_reducible refine State.clearAll_keeps ?_
    | with_reducible refine State.setZone_keeps ?_
    | with_reducible refine State.each_keeps ?_ (fun s1 a1 h1 => ?_)
    | split
    | dsimp -zeta only
    | (rw [keeps_mk]; refine keepsParts_fold ?_))

theorem execSnapshotZoneStatus_keeps {org : State} {ring : Fin 16} {s : State} (hs : Keeps org s) :
    KeepsOut org (execSnapshotZoneStatus ring s) := by
  unfold execSnapshotZoneStatus
  repeat' (first
    | with_reducible assumption
    | with_reducible refine snapshotRun_keeps ?_
    | with_reducible refine keepsOut_next ?_
    | split
    | dsimp -zeta only)

theorem execSnapshotTracks_keeps {org : State} {ring : Fin 16} {s : State} (hs : Keeps org s) :
    KeepsOut org (execSnapshotTracks ring s) := by
  unfold execSnapshotTracks
  repeat' (first
    | with_reducible assumption
    | with_reducible refine snapshotRun_keeps ?_
    | with_reducible refine keepsOut_next ?_
    | split
    | dsimp -zeta only)

end Sys2Proof.Machine
end

