-- ==== Sys2Proof/Laws/KeepsScaler.lean ====
section
/-! SUPPORT. The operations of Machine/Scaler.lean keep what every command keeps. -/

namespace Sys2Proof.Machine

theorem sclStat_keeps {org : State} {s : State} {p : Nat} (hs : Keeps org s) :
    Keeps org (sclStat s p) := by
  unfold sclStat
  repeat' (first
    | with_reducible assumption
    | with_reducible refine State.set_keeps ?_
    | with_reducible refine State.setFlag_keeps ?_
    | split
    | dsimp -zeta only
    | (rw [keeps_mk]; refine keepsParts_fold ?_))

theorem sclBorrow_keeps {org : State} {s : State} {p : Nat} (hs : Keeps org s) :
    Keeps org (sclBorrow s p).1 := by
  unfold sclBorrow
  repeat' (first
    | with_reducible assumption
    | ((try lift_lets -underBinder); intro x; first | (with_reducible refine keeps_let (o := org) x ?_ ?_; rotate_left; intro hx; clear_value x; rotate_right; subst x) | (with_reducible refine keeps_let_fun x ?_; subst x) | clear_value x)
    | with_reducible refine State.setScl_keeps ?_
    | with_reducible refine sclStat_keeps ?_
    | split
    | dsimp -zeta only
    | (rw [keeps_mk]; refine keepsParts_fold ?_)
    | (rw [keeps_mk]; refine keepsParts_change ?_ (fun h0 => by unfold SoundParts State.Sound BkgWf at *; simp only [h0, and_self])))

theorem sclRecord_keeps {org : State} {s : State} {p id : Nat} {excluded : Bool} {spectra : List (Option (List Nat))} {noise : List (List Nat)} (hs : Keeps org s) :
    Keeps org (sclRecord s p id excluded spectra noise) := by
  unfold sclRecord
  repeat' (first
    | with_reducible assumption
    | ((try lift_lets -underBinder); intro x; first | (with_reducible refine keeps_let (o := org) x ?_ ?_; rotate_left; intro hx; clear_value x; rotate_right; subst x) | (with_reducible refine keeps_let_fun x ?_; subst x) | clear_value x)
    | with_reducible refine State.set_keeps ?_
    | with_reducible refine State.count_keeps ?_
    | with_reducible refine State.bump_keeps ?_
    | with_reducible refine State.setScl_keeps ?_
    | split
    | dsimp -zeta only
    | (rw [keeps_mk]; refine keepsParts_fold ?_)
    | (rw [keeps_mk]; refine keepsParts_change ?_ (fun h0 => by unfold SoundParts State.Sound BkgWf at *; simp only [h0, and_self])))

theorem baseValid_keeps {org : State} {s : State} (hs : Keeps org s) :
    Keeps org (baseValid s) := by
  unfold baseValid
  repeat' (first
    | with_reducible assumption
    | with_reducible refine State.setFlag_keeps ?_
    | split
    | dsimp -zeta only)

theorem loadBaseline_keeps {org : State} {s : State} {it : Item} {bytes : List Byte} (hs : Keeps org s) :
    KeepsLoad org (loadBaseline s it bytes) := by
  unfold loadBaseline
  repeat' (first
    | with_reducible assumption
    | ((try lift_lets -underBinder); intro x; first | (with_reducible refine keeps_let (o := org) x ?_ ?_; rotate_left; intro hx; clear_value x; rotate_right; subst x) | (with_reducible refine keeps_let_fst (o := org) x ?_ ?_; rotate_left; intro hx; clear_value x; rotate_right; subst x) | (with_reducible refine keeps_let_fun x ?_; subst x) | (with_reducible refine keeps_let_map x ?_; subst x) | clear_value x)
    | with_reducible refine baseValid_keeps ?_
    | with_reducible refine foldl_keeps ?_ (fun s1 a1 h1 => ?_)
    | with_reducible refine foldl_fst_keeps ?_ (fun s1 a1 h1 => ?_)
    | with_reducible refine keepsLoad_refused ?_
    | with_reducible refine keepsLoad_loaded ?_
    | with_reducible refine keepsLoad_later ?_
    | split
    | dsimp -zeta only
    | with_reducible refine keeps_profileBuf ?_
    | with_reducible refine keeps_comp (fun h0 => ?_) ?_
    | with_reducible refine keeps_baseline (fun h0 => ?_) ?_
    | with_reducible refine swf_foldl (fun m1 b1 h1 => ?_) ?_
    | with_reducible refine swf_sput _ _ ?_
    | with_reducible refine swf_filter ?_
    | exact h0.baseline
    | rfl
    | (rw [keeps_mk]; refine keepsParts_fold ?_))

theorem loadCompensation_keeps {org : State} {s : State} {_it : Item} {bytes : List Byte} (hs : Keeps org s) :
    KeepsLoad org (loadCompensation s _it bytes) := by
  unfold loadCompensation
  repeat' (first
    | with_reducible assumption
    | ((try lift_lets -underBinder); intro x; first | (with_reducible refine keeps_let (o := org) x ?_ ?_; rotate_left; intro hx; clear_value x; rotate_right; subst x) | (with_reducible refine keeps_let_fst (o := org) x ?_ ?_; rotate_left; intro hx; clear_value x; rotate_right; subst x) | (with_reducible refine keeps_let_fun x ?_; subst x) | (with_reducible refine keeps_let_map x ?_; subst x) | clear_value x)
    | with_reducible refine State.set_keeps ?_
    | with_reducible refine foldl_keeps ?_ (fun s1 a1 h1 => ?_)
    | with_reducible refine foldl_fst_keeps ?_ (fun s1 a1 h1 => ?_)
    | with_reducible refine keepsLoad_refused ?_
    | with_reducible refine keepsLoad_loaded ?_
    | with_reducible refine keepsLoad_later ?_
    | split
    | dsimp -zeta only
    | with_reducible refine keeps_profileBuf ?_
    | with_reducible refine keeps_comp (fun h0 => ?_) ?_
    | with_reducible refine keeps_baseline (fun h0 => ?_) ?_
    | with_reducible refine swf_foldl (fun m1 b1 h1 => ?_) ?_
    | with_reducible refine swf_sput _ _ ?_
    | with_reducible refine swf_filter ?_
    | exact h0.baseline
    | rfl
    | (rw [keeps_mk]; refine keepsParts_fold ?_))

theorem execTableLoadBaseline_keeps {org : State} {ring : Fin 16} {payload : List Byte} {s : State} (hs : Keeps org s) :
    KeepsOut org (execTableLoadBaseline ring payload s) := by
  unfold execTableLoadBaseline
  repeat' (first
    | with_reducible assumption
    | with_reducible refine tableRun_keeps (fun h => loadBaseline_keeps h) ?_
    | with_reducible refine loadBaseline_keeps ?_
    | with_reducible refine keepsOut_next ?_
    | split
    | dsimp -zeta only)

theorem execTableLoadCompensation_keeps {org : State} {ring : Fin 16} {payload : List Byte} {s : State} (hs : Keeps org s) :
    KeepsOut org (execTableLoadCompensation ring payload s) := by
  unfold execTableLoadCompensation
  repeat' (first
    | with_reducible assumption
    | with_reducible refine tableRun_keeps (fun h => loadCompensation_keeps h) ?_
    | with_reducible refine loadCompensation_keeps ?_
    | with_reducible refine keepsOut_next ?_
    | split
    | dsimp -zeta only)

theorem baseCapture_keeps {org : State} {s : State} (hs : Keeps org s) :
    Keeps org (baseCapture s) := by
  unfold baseCapture
  repeat' (first
    | with_reducible assumption
    | ((try lift_lets -underBinder); intro x; first | (with_reducible refine keeps_let (o := org) x ?_ ?_; rotate_left; intro hx; clear_value x; rotate_right; subst x) | (with_reducible refine keeps_let_fst (o := org) x ?_ ?_; rotate_left; intro hx; clear_value x; rotate_right; subst x) | (with_reducible refine keeps_let_fun x ?_; subst x) | clear_value x)
    | with_reducible refine State.set_keeps ?_
    | with_reducible refine State.wrErr_keeps ?_
    | with_reducible refine State.setScl_keeps ?_
    | with_reducible refine foldl_keeps ?_ (fun s1 a1 h1 => ?_)
    | with_reducible refine foldl_fst_keeps ?_ (fun s1 a1 h1 => ?_)
    | split
    | dsimp -zeta only
    | (rw [keeps_mk]; refine keepsParts_fold ?_))

theorem publishMarker_keeps {org : State} {s : State} {p : Nat} (hs : Keeps org s) :
    Keeps org (publishMarker s p) := by
  unfold publishMarker
  repeat' (first
    | with_reducible assumption
    | ((try lift_lets -underBinder); intro x; first | (with_reducible refine keeps_let (o := org) x ?_ ?_; rotate_left; intro hx; clear_value x; rotate_right; subst x) | clear_value x)
    | with_reducible refine State.setScl_keeps ?_
    | with_reducible refine publish_keeps ?_
    | with_reducible refine cruMarker_keeps ?_
    | split
    | dsimp -zeta only
    | (rw [keeps_mk]; refine keepsParts_fold ?_))

theorem staleOnset_keeps {org : State} {s : State} {p : Nat} (hs : Keeps org s) :
    Keeps org (staleOnset s p) := by
  unfold staleOnset
  repeat' (first
    | with_reducible assumption
    | ((try lift_lets -underBinder); intro x; first | (with_reducible refine keeps_let (o := org) x ?_ ?_; rotate_left; intro hx; clear_value x; rotate_right; subst x) | (with_reducible refine keeps_let_fun x ?_; subst x) | (with_reducible refine keeps_let_map x ?_; subst x) | clear_value x)
    | with_reducible refine State.set_keeps ?_
    | with_reducible refine State.setFlag_keeps ?_
    | with_reducible refine State.bump_keeps ?_
    | with_reducible refine State.setScl_keeps ?_
    | with_reducible refine publishMarker_keeps ?_
    | split
    | dsimp -zeta only
    | with_reducible refine keeps_profileBuf ?_
    | with_reducible refine keeps_comp (fun h0 => ?_) ?_
    | with_reducible refine keeps_baseline (fun h0 => ?_) ?_
    | with_reducible refine swf_foldl (fun m1 b1 h1 => ?_) ?_
    | with_reducible refine swf_sput _ _ ?_
    | with_reducible refine swf_filter ?_
    | exact h0.baseline
    | rfl
    | (rw [keeps_mk]; refine keepsParts_fold ?_)
    | (rw [keeps_mk]; refine keepsParts_change ?_ (fun h0 => by unfold SoundParts State.Sound BkgWf at *; simp only [h0, swf_sput, and_self])))

theorem staleCheckPort_keeps {org : State} {s : State} {p : Nat} (hs : Keeps org s) :
    Keeps org (staleCheckPort s p) := by
  unfold staleCheckPort
  repeat' (first
    | with_reducible assumption
    | with_reducible refine staleOnset_keeps ?_
    | split
    | dsimp -zeta only)

theorem staleCheck_keeps {org : State} {s : State} (hs : Keeps org s) :
    Keeps org (staleCheck s) := by
  unfold staleCheck
  repeat' (first
    | with_reducible assumption
    | ((try lift_lets -underBinder); intro x; first | (with_reducible refine keeps_let (o := org) x ?_ ?_; rotate_left; intro hx; clear_value x; rotate_right; subst x) | clear_value x)
    | with_reducible refine State.set_keeps ?_
    | with_reducible refine staleCheckPort_keeps ?_
    | split
    | dsimp -zeta only)

theorem execProfileAgeTimeout_keeps {org : State} {port : Port} {s : State} (hs : Keeps org s) :
    KeepsOut org (execProfileAgeTimeout port s) := by
  unfold execProfileAgeTimeout
  repeat' (first
    | with_reducible assumption
    | ((try lift_lets -underBinder); intro x; first | (with_reducible refine keeps_let (o := org) x ?_ ?_; rotate_left; intro hx; clear_value x; rotate_right; subst x) | clear_value x)
    | with_reducible refine staleOnset_keeps ?_
    | with_reducible refine keepsOut_next ?_
    | split
    | dsimp -zeta only)

theorem captureBaseline_keeps {org : State} {s : State} {p : Nat} {pts : List ProfPoint} (hs : Keeps org s) :
    Keeps org (captureBaseline s p pts) := by
  unfold captureBaseline
  repeat' (first
    | with_reducible assumption
    | ((try lift_lets -underBinder); intro x; first | (with_reducible refine keeps_let (o := org) x ?_ ?_; rotate_left; intro hx; clear_value x; rotate_right; subst x) | (with_reducible refine keeps_let_fst (o := org) x ?_ ?_; rotate_left; intro hx; clear_value x; rotate_right; subst x) | (with_reducible refine keeps_let_fun x ?_; subst x) | (with_reducible refine keeps_let_map x ?_; subst x) | clear_value x)
    | with_reducible refine State.set_keeps ?_
    | with_reducible refine State.setScl_keeps ?_
    | with_reducible refine foldl_keeps ?_ (fun s1 a1 h1 => ?_)
    | with_reducible refine foldl_fst_keeps ?_ (fun s1 a1 h1 => ?_)
    | split
    | dsimp -zeta only
    | with_reducible refine keeps_profileBuf ?_
    | with_reducible refine keeps_comp (fun h0 => ?_) ?_
    | with_reducible refine keeps_baseline (fun h0 => ?_) ?_
    | with_reducible refine swf_foldl (fun m1 b1 h1 => ?_) ?_
    | with_reducible refine swf_sput _ _ ?_
    | with_reducible refine swf_filter ?_
    | exact h0.baseline
    | rfl
    | (rw [keeps_mk]; refine keepsParts_fold ?_))

theorem publishProfile_keeps {org : State} {s : State} {p : Nat} {t : SclSet} (hs : Keeps org s) :
    Keeps org (publishProfile s p t) := by
  unfold publishProfile
  repeat' (first
    | with_reducible assumption
    | ((try lift_lets -underBinder); intro x; first | (with_reducible refine keeps_let (o := org) x ?_ ?_; rotate_left; intro hx; clear_value x; rotate_right; subst x) | (with_reducible refine keeps_let_fst (o := org) x ?_ ?_; rotate_left; intro hx; clear_value x; rotate_right; subst x) | (with_reducible refine keeps_let_fun x ?_; subst x) | (with_reducible refine keeps_let_map x ?_; subst x) | clear_value x)
    | with_reducible refine State.set_keeps ?_
    | with_reducible refine State.bump_keeps ?_
    | with_reducible refine State.setScl_keeps ?_
    | with_reducible refine publish_keeps ?_
    | with_reducible refine cruProfile_keeps ?_
    | with_reducible refine sclStat_keeps ?_
    | with_reducible refine publishMarker_keeps ?_
    | with_reducible refine captureBaseline_keeps ?_
    | split
    | dsimp -zeta only
    | with_reducible refine keeps_profileBuf ?_
    | with_reducible refine keeps_comp (fun h0 => ?_) ?_
    | with_reducible refine keeps_baseline (fun h0 => ?_) ?_
    | with_reducible refine swf_foldl (fun m1 b1 h1 => ?_) ?_
    | with_reducible refine swf_sput _ _ ?_
    | with_reducible refine swf_filter ?_
    | exact h0.baseline
    | rfl
    | (rw [keeps_mk]; refine keepsParts_fold ?_)
    | (rw [keeps_mk]; refine keepsParts_change ?_ (fun h0 => by unfold SoundParts State.Sound BkgWf at *; simp only [h0, swf_sput, and_self])))

theorem execProfilePublish_keeps {org : State} {port : Port} {s : State} (hs : Keeps org s) :
    KeepsOut org (execProfilePublish port s) := by
  unfold execProfilePublish
  repeat' (first
    | with_reducible assumption
    | ((try lift_lets -underBinder); intro x; first | (with_reducible refine keeps_let (o := org) x ?_ ?_; rotate_left; intro hx; clear_value x; rotate_right; subst x) | clear_value x)
    | with_reducible refine publishProfile_keeps ?_
    | with_reducible refine keepsOut_next ?_
    | split
    | dsimp -zeta only
    | (rw [keeps_mk]; refine keepsParts_fold ?_))

theorem sclCntClr_keeps {org : State} {s : State} (hs : Keeps org s) :
    Keeps org (sclCntClr s) := by
  unfold sclCntClr
  repeat' (first
    | with_reducible assumption
    | with_reducible refine State.clearAll_keeps ?_
    | split
    | dsimp -zeta only)

theorem execSnapshotProfileBuffer_keeps {org : State} {ring : Fin 16} {s : State} (hs : Keeps org s) :
    KeepsOut org (execSnapshotProfileBuffer ring s) := by
  unfold execSnapshotProfileBuffer
  repeat' (first
    | with_reducible assumption
    | ((try lift_lets -underBinder); intro x; first | (with_reducible refine keeps_let (o := org) x ?_ ?_; rotate_left; intro hx; clear_value x; rotate_right; subst x) | (with_reducible refine keeps_let_fun x ?_; subst x) | clear_value x)
    | with_reducible refine snapshotRun_keeps ?_
    | with_reducible refine keepsOut_next ?_
    | split
    | dsimp -zeta only)

end Sys2Proof.Machine
end

