-- ==== Sys2Proof/Laws/KeepsDeck.lean ====
section
/-! SUPPORT. The operations of Machine/Deck.lean keep what every command keeps. -/

namespace Sys2Proof.Machine

theorem State.setDeck_keeps {org s : State} {d : DeckState} (hd : s.Sound → DeckWf d)
    (hs : Keeps org s) : Keeps org (s.setDeck d) := by
  refine hs.change (fun h => ?_) rfl rfl rfl rfl
  have hd := hd h
  unfold State.Sound CoreWf State.setDeck at *
  simp only [h, hd, and_self]

theorem keeps_let_deck (_ : DeckState) {P : Prop} (h : P) : P := h

theorem ringStats_keeps {org : State} {s : State} (hs : Keeps org s) :
    Keeps org (ringStats s) := by
  unfold ringStats
  repeat' (first
    | with_reducible assumption
    | ((try lift_lets -underBinder); intro x; first | (with_reducible refine keeps_let (o := org) x ?_ ?_; rotate_left; intro hx; clear_value x; rotate_right; subst x) | (with_reducible refine keeps_let_fst (o := org) x ?_ ?_; rotate_left; intro hx; clear_value x; rotate_right; subst x) | clear_value x)
    | with_reducible refine State.set_keeps ?_
    | split
    | dsimp -zeta only
    | (rw [keeps_mk]; refine keepsParts_fold ?_))

theorem captureLost_keeps {org : State} {s : State} {r : RingRec} (hs : Keeps org s) :
    Keeps org (captureLost s r) := by
  unfold captureLost
  repeat' (first
    | with_reducible assumption
    | with_reducible refine State.setItems_keeps ?_
    | split
    | dsimp -zeta only
    | (rw [keeps_mk]; refine keepsParts_fold ?_))

@[simp] theorem captureLost_deck (s : State) (r : RingRec) : (captureLost s r).deck = s.deck := rfl
@[simp] theorem State.setDeck_deck (s : State) (d : DeckState) : (s.setDeck d).deck = d := rfl
@[simp] theorem State.setChipCtx_deck (s : State) (k : Nat) (c : ChipCtx) : (s.setChipCtx k c).deck = s.deck := rfl
theorem ringEncode_deck (s : State) (raw : List Byte) : (ringEncode s raw).1.deck = s.deck := by
  unfold ringEncode
  split
  · rfl
  · split
    · simp only [State.bump_deck, State.tookFree_deck]
    · simp only [State.set_deck, State.setChipCtx_deck, State.tookFree_deck]

/-- Some of the records of a ring in order are a ring in order. -/
theorem DeckWf.sub {d e : DeckState} (h : DeckWf d) (hs : e.space = d.space) (hr : List.Sublist e.ring d.ring)
    (hn : e.nextNum = d.nextNum) : DeckWf e := by
  refine ⟨by rw [hs]; exact h.1, h.2.1.sublist hr, fun r hm => ?_⟩
  rw [hn]
  exact h.2.2 r (hr.subset hm)

theorem ringEvict_keeps {org : State} {fuel : Nat} {s : State} {need : Nat} (hs : Keeps org s) :
    Keeps org (ringEvict fuel s need) := by
  induction fuel generalizing s with
  | zero => exact hs
  | succ n ih =>
    unfold ringEvict
    split
    · exact hs
    · split
      · exact hs
      · rename_i r t heq
        refine ih (State.setDeck_keeps (fun h => ?_) (captureLost_keeps hs))
        refine h.deckWf.sub rfl ?_ rfl
        rw [captureLost_deck, heq]
        exact List.sublist_cons_self r t

/-- Making room changes no number. -/
theorem ringEvict_nextNum (fuel : Nat) (s : State) (need : Nat) : (ringEvict fuel s need).deck.nextNum = s.deck.nextNum := by
  induction fuel generalizing s with
  | zero => rfl
  | succ n ih =>
    unfold ringEvict
    split
    · rfl
    · split
      · rfl
      · exact ih _

theorem ringEmpty_keeps {org : State} {s : State} (hs : Keeps org s) :
    Keeps org (ringEmpty s) := by
  refine ringStats_keeps (State.setDeck_keeps (fun h => ?_) (State.each_keeps hs fun _ _ h => captureLost_keeps h))
  exact h.deckWf.sub rfl (List.nil_sublist _) rfl

theorem ringEncode_keeps {org : State} {s : State} {raw : List Byte} (hs : Keeps org s) :
    Keeps org (ringEncode s raw).1 := by
  unfold ringEncode
  repeat' (first
    | with_reducible assumption
    | ((try lift_lets -underBinder); intro x; first | (with_reducible refine keeps_let (o := org) x ?_ ?_; rotate_left; intro hx; clear_value x; rotate_right; subst x) | clear_value x)
    | with_reducible refine State.set_keeps ?_
    | with_reducible refine State.bump_keeps ?_
    | with_reducible refine State.tookFree_keeps ?_
    | with_reducible refine State.setChipCtx_keeps ?_
    | split
    | dsimp -zeta only
    | (rw [keeps_mk]; refine keepsParts_fold ?_))

/-- A ring in order with a record of the next number at its end is in order. -/
theorem DeckWf.snoc {d e : DeckState} (h : DeckWf d) {r : RingRec} (hs : e.space = d.space) (hr : e.ring = d.ring ++ [r])
    (hn : e.nextNum = r.num) (hl : d.nextNum < r.num) : DeckWf e := by
  refine ⟨by rw [hs]; exact h.1, ?_, fun x hm => ?_⟩
  · rw [hr, List.pairwise_append]
    refine ⟨h.2.1, List.pairwise_singleton _ _, fun a ha b hb => ?_⟩
    rw [List.mem_singleton.mp hb]
    have := h.2.2 a ha
    omega
  · rw [hr] at hm
    rw [hn]
    rcases List.mem_append.mp hm with hm | hm
    · have := h.2.2 x hm
      omega
    · rw [List.mem_singleton.mp hm]
      omega

theorem ringStore_keeps {org : State} {s : State} {port : Port} {launch : Nat} {raw : List Byte} (hs : Keeps org s) :
    Keeps org (ringStore s port launch raw) := by
  unfold ringStore
  split
  · exact hs
  · refine ringStats_keeps (State.setDeck_keeps (fun h => ?_) (ringEvict_keeps (ringEncode_keeps hs)))
    refine h.deckWf.snoc rfl rfl rfl ?_
    rw [ringEvict_nextNum]
    exact Nat.lt_succ_self _

theorem ringCfgWrite_keeps {org : State} {s : State} {value : Nat} (hs : Keeps org s) :
    Keeps org (ringCfgWrite s value) := by
  unfold ringCfgWrite
  repeat' (first
    | with_reducible assumption
    | ((try lift_lets -underBinder); intro x; first | (with_reducible refine keeps_let (o := org) x ?_ ?_; rotate_left; intro hx; clear_value x; rotate_right; subst x) | (with_reducible refine keeps_let_fst (o := org) x ?_ ?_; rotate_left; intro hx; clear_value x; rotate_right; subst x) | (with_reducible refine keeps_let_deck x ?_; subst x) | clear_value x)
    | with_reducible refine State.set_keeps ?_
    | with_reducible refine State.setFlag_keeps ?_
    | with_reducible refine claimAll_keeps ?_
    | with_reducible refine releaseOwn_keeps ?_
    | with_reducible refine State.setDeck_keeps (fun h0 => ?_) ?_
    | exact h0.deckWf
    | with_reducible refine ringEmpty_keeps ?_
    | split
    | dsimp -zeta only
    | (rw [keeps_mk]; refine keepsParts_fold ?_)
    | (rw [keeps_mk]; refine keepsParts_change ?_ (fun h0 => by unfold SoundParts State.Sound FlumeWf at *; simp only [h0, and_self])))

theorem execDeckCorrectedError_keeps {org : State} {_region : DeckRegion} {_offset : Nat} {s : State} (hs : Keeps org s) :
    KeepsOut org (execDeckCorrectedError _region _offset s) := by
  unfold execDeckCorrectedError
  repeat' (first
    | with_reducible assumption
    | with_reducible refine State.set_keeps ?_
    | with_reducible refine State.bump_keeps ?_
    | with_reducible refine keepsOut_next ?_
    | split
    | dsimp -zeta only)

theorem dropQueued_keeps {org : State} {s : State} {n d : Nat} (hs : Keeps org s) :
    Keeps org (dropQueued s n d) := by
  unfold dropQueued
  repeat' (first
    | with_reducible assumption
    | ((try lift_lets -underBinder); intro x; first | (with_reducible refine keeps_let (o := org) x ?_ ?_; rotate_left; intro hx; clear_value x; rotate_right; subst x) | (with_reducible refine keeps_let_fst (o := org) x ?_ ?_; rotate_left; intro hx; clear_value x; rotate_right; subst x) | clear_value x)
    | with_reducible refine State.bump_keeps ?_
    | with_reducible refine State.setFstream_keeps ?_
    | split
    | dsimp -zeta only
    | (rw [keeps_mk]; refine keepsParts_fold ?_))

theorem loseAt_nums (l : List RingRec) : ∀ d, (loseAt d l).map (·.num) = l.map (·.num) := by
  induction l with
  | nil => intro d; rfl
  | cons r t ih =>
    intro d
    unfold loseAt
    split
    · rfl
    · simp only [List.map_cons, ih]

/-- A ring with the numbers of a ring in order is in order. -/
theorem DeckWf.nums {d e : DeckState} (h : DeckWf d) (hs : e.space = d.space)
    (hr : e.ring.map (·.num) = d.ring.map (·.num)) (hn : e.nextNum = d.nextNum) : DeckWf e := by
  refine ⟨by rw [hs]; exact h.1, ?_, fun x hm => ?_⟩
  · have h2 : (d.ring.map (·.num)).Pairwise (· < ·) := List.pairwise_map.mpr h.2.1
    rw [← hr] at h2
    exact List.pairwise_map.mp h2
  · have hm : x.num ∈ e.ring.map (·.num) := List.mem_map.mpr ⟨x, hm, rfl⟩
    rw [hr] at hm
    obtain ⟨y, hy, he⟩ := List.mem_map.mp hm
    rw [hn, ← he]
    exact h.2.2 y hy

theorem each_captureLost_deck (l : List RingRec) (s : State) : (s.each l captureLost).deck = s.deck := by
  induction l generalizing s with
  | nil => rfl
  | cons r t ih => exact ih (captureLost s r)

theorem deckReact_keeps {org : State} {s : State} {region : DeckRegion} {offset : Nat} (hs : Keeps org s) :
    Keeps org (deckReact s region offset) := by
  unfold deckReact
  split
  · exact State.setDeck_keeps (fun h => h.deckWf.nums rfl (loseAt_nums _ _) rfl) hs
  · split
    · exact dropQueued_keeps hs
    · exact hs
  · exact State.setDeck_keeps (fun h => h.deckWf) hs
  · exact State.setScl_keeps hs
  · refine ringStats_keeps (State.set_keeps (State.setDeck_keeps (fun h => ?_)
      (State.each_keeps hs fun _ _ h => captureLost_keeps h)))
    refine h.deckWf.sub rfl ?_ rfl
    exact List.drop_sublist _ _
  · exact hs

theorem execDeckUe_keeps {org : State} {region : DeckRegion} {offset : Nat} {s : State} (hs : Keeps org s) :
    KeepsOut org (execDeckUe region offset s) := by
  unfold execDeckUe
  repeat' (first
    | with_reducible assumption
    | ((try lift_lets -underBinder); intro x; first | (with_reducible refine keeps_let (o := org) x ?_ ?_; rotate_left; intro hx; clear_value x; rotate_right; subst x) | clear_value x)
    | with_reducible refine State.set_keeps ?_
    | with_reducible refine State.bump_keeps ?_
    | with_reducible refine State.event_keeps ?_
    | with_reducible refine deckReact_keeps ?_
    | with_reducible refine keepsOut_next ?_
    | split
    | dsimp -zeta only)

theorem execDeckWipeDone_keeps {org : State} {s : State} (hs : Keeps org s) :
    KeepsOut org (execDeckWipeDone s) := by
  unfold execDeckWipeDone
  repeat' (first
    | with_reducible assumption
    | ((try lift_lets -underBinder); intro x; first | (with_reducible refine keeps_let (o := org) x ?_ ?_; rotate_left; intro hx; clear_value x; rotate_right; subst x) | clear_value x)
    | with_reducible refine State.set_keeps ?_
    | with_reducible refine State.setFlag_keeps ?_
    | with_reducible refine pumpAll_keeps ?_
    | with_reducible refine keepsOut_next ?_
    | split
    | dsimp -zeta only)

theorem wbWrite_keeps {org s : State} {wb off : Nat} {bytes : List Byte} (hs : Keeps org s) :
    Keeps org (wbWrite s wb off bytes) := by
  unfold wbWrite
  refine State.setDeck_keeps (fun h => ?_) hs
  exact ⟨swf_foldl (fun m i h => swf_sput _ _ h) h.deckWf.1, h.deckWf.2⟩

theorem execDckRead_keeps {org : State} {ring : Fin 16} {s : State} (hs : Keeps org s) :
    KeepsOut org (execDckRead ring s) := by
  unfold execDckRead
  repeat' (first
    | with_reducible assumption
    | ((try lift_lets -underBinder); intro x; first | (with_reducible refine keeps_let (o := org) x ?_ ?_; rotate_left; intro hx; clear_value x; rotate_right; subst x) | clear_value x)
    | with_reducible refine State.emit_keeps ?_
    | with_reducible refine complete_keeps ?_
    | with_reducible refine keepsOut_next ?_
    | split
    | dsimp -zeta only
    | (rw [keeps_mk]; refine keepsParts_fold ?_))

theorem execDckWrite_keeps {org : State} {ring : Fin 16} {payload : List Byte} {s : State} (hs : Keeps org s) :
    KeepsOut org (execDckWrite ring payload s) := by
  unfold execDckWrite
  repeat' (first
    | with_reducible assumption
    | ((try lift_lets -underBinder); intro x; first | (with_reducible refine keeps_let (o := org) x ?_ ?_; rotate_left; intro hx; clear_value x; rotate_right; subst x) | clear_value x)
    | with_reducible refine complete_keeps ?_
    | with_reducible refine wbWrite_keeps ?_
    | with_reducible refine keepsOut_next ?_
    | split
    | dsimp -zeta only
    | (rw [keeps_mk]; refine keepsParts_fold ?_))

theorem dckCntClr_keeps {org : State} {s : State} (hs : Keeps org s) :
    Keeps org (dckCntClr s) := by
  unfold dckCntClr
  repeat' (first
    | with_reducible assumption
    | with_reducible refine State.clearAll_keeps ?_
    | split
    | dsimp -zeta only)

theorem partPending_keeps {org : State} {s : State} (hs : Keeps org s) :
    Keeps org (partPending s) := by
  unfold partPending
  repeat' (first
    | with_reducible assumption
    | with_reducible refine State.setFlag_keeps ?_
    | split
    | dsimp -zeta only)

theorem partApply_keeps {org : State} {s : State} {ring flume : Nat} (hs : Keeps org s) :
    Keeps org (partApply s ring flume) := by
  unfold partApply
  repeat' (first
    | with_reducible assumption
    | ((try lift_lets -underBinder); intro x; first | (with_reducible refine keeps_let (o := org) x ?_ ?_; rotate_left; intro hx; clear_value x; rotate_right; subst x) | clear_value x)
    | with_reducible refine State.set_keeps ?_
    | split
    | dsimp -zeta only)

end Sys2Proof.Machine
end

