-- ==== Sys2Proof/Laws/KeepsLanding.lean ====
section
/-! SUPPORT. The operations of Machine/Landing.lean keep what every command keeps. -/

namespace Sys2Proof.Machine

theorem setLanding_same_keeps {org s : State} {l : LandingState} (h1 : l.dir = s.landing.dir)
    (h2 : l.table = s.landing.table) (h : Keeps org s) : Keeps org (s.setLanding l) := by
  refine h.change (fun hs => ?_) rfl rfl rfl rfl
  unfold State.Sound State.setLanding at *
  simp only [hs, h1, h2, and_self]

theorem State.setCapEntry_keeps {org : State} {s : State} {i : Nat} {e : CapEntry} (hs : Keeps org s) :
    Keeps org (State.setCapEntry s i e) := by
  unfold State.setCapEntry
  repeat' (first
    | with_reducible assumption
    | unfold State.setLanding
    | split
    | dsimp -zeta only
    | (rw [keeps_mk]; refine keepsParts_fold ?_)
    | (rw [keeps_mk]; refine keepsParts_change ?_ (fun h0 => by unfold SoundParts State.Sound LandingWf at *; simp only [h0, swf_sput, and_self])))

theorem setSpares_keeps {org : State} {s : State} {n : Nat} (hs : Keeps org s) :
    Keeps org (setSpares s n) := by
  unfold setSpares
  repeat' (first
    | with_reducible assumption
    | ((try lift_lets -underBinder); intro x; first | (with_reducible refine keeps_let (o := org) x ?_ ?_; rotate_left; intro hx; clear_value x; rotate_right; subst x) | clear_value x)
    | with_reducible refine State.set_keeps ?_
    | with_reducible refine State.event_keeps ?_
    | split
    | dsimp -zeta only)

theorem retireBlock_keeps {org : State} {s : State} (hs : Keeps org s) :
    Keeps org (retireBlock s) := by
  unfold retireBlock
  repeat' (first
    | with_reducible assumption
    | with_reducible refine State.bump_keeps ?_
    | with_reducible refine setSpares_keeps ?_
    | split
    | dsimp -zeta only)

theorem execBlockProgramFail_keeps {org : State} {s : State} (hs : Keeps org s) :
    KeepsOut org (execBlockProgramFail s) := by
  unfold execBlockProgramFail
  repeat' (first
    | with_reducible assumption
    | with_reducible refine retireBlock_keeps ?_
    | with_reducible refine keepsOut_next ?_
    | split
    | dsimp -zeta only)

theorem execBlockRefresh_keeps {org : State} {retried : Nat} {s : State} (hs : Keeps org s) :
    KeepsOut org (execBlockRefresh retried s) := by
  unfold execBlockRefresh
  repeat' (first
    | with_reducible assumption
    | ((try lift_lets -underBinder); intro x; first | (with_reducible refine keeps_let (o := org) x ?_ ?_; rotate_left; intro hx; clear_value x; rotate_right; subst x) | clear_value x)
    | with_reducible refine State.set_keeps ?_
    | with_reducible refine State.count_keeps ?_
    | with_reducible refine State.bump_keeps ?_
    | with_reducible refine setSpares_keeps ?_
    | with_reducible refine keepsOut_next ?_
    | split
    | dsimp -zeta only)

theorem execLndUncorr_keeps {org : State} {area : LandingArea} {obj record : Nat} {s : State} (hs : Keeps org s) :
    KeepsOut org (execLndUncorr area obj record s) := by
  unfold execLndUncorr
  refine keepsOut_next (retireBlock_keeps (State.event_keeps ?_))
  cases area
  · exact State.setCapEntry_keeps (State.set_keeps (State.bump_keeps hs))
  · exact setLanding_same_keeps rfl rfl (State.set_keeps (State.bump_keeps hs))
  · exact State.set_keeps (State.bump_keeps hs)

theorem scrubNow_keeps {org : State} {s : State} (hs : Keeps org s) :
    Keeps org (scrubNow s) := by
  unfold scrubNow
  repeat' (first
    | with_reducible assumption
    | with_reducible refine State.set_keeps ?_
    | split
    | dsimp -zeta only)

theorem execScrubPassComplete_keeps {org : State} {s : State} (hs : Keeps org s) :
    KeepsOut org (execScrubPassComplete s) := by
  unfold execScrubPassComplete
  repeat' (first
    | with_reducible assumption
    | with_reducible refine State.set_keeps ?_
    | with_reducible refine keepsOut_next ?_
    | unfold State.setLanding
    | split
    | dsimp -zeta only
    | (rw [keeps_mk]; refine keepsParts_fold ?_))

theorem dirOpen_keeps {org s : State} {r : State × Nat} (hr : dirOpen s = some r) (hs : Keeps org s) : Keeps org r.1 := by
  unfold dirOpen at hr
  split at hr
  · cases hr
    exact hs
  · split at hr
    · cases hr
      exact State.setCapEntry_keeps hs
    · cases hr

theorem captureRoom_keeps {org : State} {a0 : Nat} {a1 : State} {a2 : Nat} {a3 : Nat} (hs : Keeps org a1) :
    Keeps org (captureRoom a0 a1 a2 a3).1 := by
  induction a0 generalizing a1 a2 a3 with
  | zero =>
    unfold captureRoom
    repeat' (first
    | with_reducible assumption
    | with_reducible refine State.setCapEntry_keeps ?_
    | split
    | dsimp -zeta only
    | (rw [keeps_mk]; refine keepsParts_fold ?_))
  | succ n ih =>
    unfold captureRoom
    repeat' (first
    | with_reducible assumption
    | with_reducible apply ih
    | with_reducible refine State.setCapEntry_keeps ?_
    | split
    | dsimp -zeta only
    | (rw [keeps_mk]; refine keepsParts_fold ?_))

theorem capturePut_keeps {org : State} {s : State} {i : Nat} {bytes : List Byte} {launch : Nat} (hs : Keeps org s) :
    Keeps org (capturePut s i bytes launch) := by
  unfold capturePut
  repeat' (first
    | with_reducible assumption
    | ((try lift_lets -underBinder); intro x; first | (with_reducible refine keeps_let (o := org) x ?_ ?_; rotate_left; intro hx; clear_value x; rotate_right; subst x) | (with_reducible refine keeps_let_landing x ?_; subst x) | clear_value x)
    | with_reducible refine State.setCapEntry_keeps ?_
    | unfold State.setLanding
    | split
    | dsimp -zeta only
    | (rw [keeps_mk]; refine keepsParts_fold ?_))

theorem execSnapshotCaptureDirectory_keeps {org : State} {ring : Fin 16} {s : State} (hs : Keeps org s) :
    KeepsOut org (execSnapshotCaptureDirectory ring s) := by
  unfold execSnapshotCaptureDirectory
  repeat' (first
    | with_reducible assumption
    | with_reducible refine snapshotRun_keeps ?_
    | with_reducible refine keepsOut_next ?_
    | split
    | dsimp -zeta only)

theorem lndPartWrite_keeps {org : State} {s : State} {gib : Nat} (hs : Keeps org s) :
    Keeps org (lndPartWrite s gib) := by
  unfold lndPartWrite
  repeat' (first
    | with_reducible assumption
    | ((try lift_lets -underBinder); intro x; first | (with_reducible refine keeps_let (o := org) x ?_ ?_; rotate_left; intro hx; clear_value x; rotate_right; subst x) | (with_reducible refine keeps_let_landing x ?_; subst x) | clear_value x)
    | with_reducible refine State.set_keeps ?_
    | unfold State.setLanding
    | split
    | dsimp -zeta only
    | (rw [keeps_mk]; refine keepsParts_fold ?_)
    | (rw [keeps_mk]; refine keepsParts_change ?_ (fun h0 => by unfold SoundParts State.Sound LandingWf at *; simp only [h0, swf_nil, and_self])))

theorem arcSet_keeps {org : State} {s : State} {k : Nat} {e : List Byte} (hs : Keeps org s) :
    Keeps org (arcSet s k e) := by
  unfold arcSet
  repeat' (first
    | with_reducible assumption
    | ((try lift_lets -underBinder); intro x; first | (with_reducible refine keeps_let (o := org) x ?_ ?_; rotate_left; intro hx; clear_value x; rotate_right; subst x) | (with_reducible refine keeps_let_fun x ?_; subst x) | (with_reducible refine keeps_let_landing x ?_; subst x) | clear_value x)
    | with_reducible refine State.set_keeps ?_
    | with_reducible refine State.setFlag_keeps ?_
    | unfold State.setLanding
    | split
    | dsimp -zeta only
    | (rw [keeps_mk]; refine keepsParts_fold ?_)
    | (rw [keeps_mk]; refine keepsParts_change ?_ (fun h0 => by unfold SoundParts State.Sound FlumeWf LandingWf at *; simp only [h0, swf_sput, and_self])))

theorem loadArchive_keeps {org : State} {s : State} {it : Item} {bytes : List Byte} (hs : Keeps org s) :
    KeepsLoad org (loadArchive s it bytes) := by
  unfold loadArchive
  repeat' (first
    | with_reducible assumption
    | ((try lift_lets -underBinder); intro x; first | (with_reducible refine keeps_let (o := org) x ?_ ?_; rotate_left; intro hx; clear_value x; rotate_right; subst x) | (with_reducible refine keeps_let_fst (o := org) x ?_ ?_; rotate_left; intro hx; clear_value x; rotate_right; subst x) | (with_reducible refine keeps_let_fun x ?_; subst x) | clear_value x)
    | with_reducible refine arcSet_keeps ?_
    | with_reducible refine foldl_keeps ?_ (fun s1 a1 h1 => ?_)
    | with_reducible refine foldl_fst_keeps ?_ (fun s1 a1 h1 => ?_)
    | with_reducible refine keepsLoad_refused ?_
    | with_reducible refine keepsLoad_loaded ?_
    | with_reducible refine keepsLoad_later ?_
    | split
    | dsimp -zeta only
    | (rw [keeps_mk]; refine keepsParts_fold ?_))

theorem execTableLoadArchive_keeps {org : State} {ring : Fin 16} {payload : List Byte} {s : State} (hs : Keeps org s) :
    KeepsOut org (execTableLoadArchive ring payload s) := by
  unfold execTableLoadArchive
  repeat' (first
    | with_reducible assumption
    | with_reducible refine tableRun_keeps (fun h => loadArchive_keeps h) ?_
    | with_reducible refine loadArchive_keeps ?_
    | with_reducible refine keepsOut_next ?_
    | split
    | dsimp -zeta only)

theorem arcStep_keeps {org : State} {s : State} {k : Nat} {up : Bool} (hs : Keeps org s) :
    Keeps org (arcStep s k up) := by
  unfold arcStep
  repeat' (first
    | with_reducible assumption
    | ((try lift_lets -underBinder); intro x; first | (with_reducible refine keeps_let (o := org) x ?_ ?_; rotate_left; intro hx; clear_value x; rotate_right; subst x) | (with_reducible refine keeps_let_landing x ?_; subst x) | clear_value x)
    | with_reducible refine State.set_keeps ?_
    | with_reducible refine State.event_keeps ?_
    | unfold State.setLanding
    | split
    | dsimp -zeta only
    | (rw [keeps_mk]; refine keepsParts_fold ?_))

theorem execLndThrottle_keeps {org : State} {peMean : BitVec 16} {projYears : BitVec 8} {s : State} (hs : Keeps org s) :
    KeepsOut org (execLndThrottle peMean projYears s) := by
  unfold execLndThrottle
  repeat' (first
    | with_reducible assumption
    | ((try lift_lets -underBinder); intro x; first | (with_reducible refine keeps_let (o := org) x ?_ ?_; rotate_left; intro hx; clear_value x; rotate_right; subst x) | (with_reducible refine keeps_let_fst (o := org) x ?_ ?_; rotate_left; intro hx; clear_value x; rotate_right; subst x) | (with_reducible refine keeps_let_fun x ?_; subst x) | (with_reducible refine keeps_let_landing x ?_; subst x) | clear_value x)
    | with_reducible refine State.set_keeps ?_
    | with_reducible refine arcStep_keeps ?_
    | with_reducible refine keepsOut_next ?_
    | unfold State.setLanding
    | split
    | dsimp -zeta only
    | (rw [keeps_mk]; refine keepsParts_fold ?_))

theorem execLndRead_keeps {org : State} {ring : Fin 16} {s : State} (hs : Keeps org s) :
    KeepsOut org (execLndRead ring s) := by
  unfold execLndRead
  repeat' (first
    | with_reducible assumption
    | ((try lift_lets -underBinder); intro x; first | (with_reducible refine keeps_let (o := org) x ?_ ?_; rotate_left; intro hx; clear_value x; rotate_right; subst x) | (with_reducible refine keeps_let_fst (o := org) x ?_ ?_; rotate_left; intro hx; clear_value x; rotate_right; subst x) | (with_reducible refine keeps_let_fun x ?_; subst x) | clear_value x)
    | with_reducible refine State.count_keeps ?_
    | with_reducible refine State.emit_keeps ?_
    | with_reducible refine complete_keeps ?_
    | with_reducible refine keepsOut_next ?_
    | split
    | dsimp -zeta only
    | (rw [keeps_mk]; refine keepsParts_fold ?_)
    | (rw [keeps_mk]; refine keepsParts_change ?_ (fun h0 => by unfold SoundParts State.Sound LampWf at *; simp only [h0, and_self])))

theorem execLndDelete_keeps {org : State} {ring : Fin 16} {s : State} (hs : Keeps org s) :
    KeepsOut org (execLndDelete ring s) := by
  unfold execLndDelete
  repeat' (first
    | with_reducible assumption
    | ((try lift_lets -underBinder); intro x; first | (with_reducible refine keeps_let (o := org) x ?_ ?_; rotate_left; intro hx; clear_value x; rotate_right; subst x) | clear_value x)
    | with_reducible refine complete_keeps ?_
    | with_reducible refine State.setCapEntry_keeps ?_
    | with_reducible refine keepsOut_next ?_
    | split
    | dsimp -zeta only
    | (rw [keeps_mk]; refine keepsParts_fold ?_)
    | (rw [keeps_mk]; refine keepsParts_change ?_ (fun h0 => by unfold SoundParts State.Sound LampWf at *; simp only [h0, and_self])))

theorem lndPowerLoss_keeps {org : State} {s : State} (hs : Keeps org s) :
    Keeps org (lndPowerLoss s) := by
  unfold lndPowerLoss
  repeat' (first
    | with_reducible assumption
    | ((try lift_lets -underBinder); intro x; first | (with_reducible refine keeps_let (o := org) x ?_ ?_; rotate_left; intro hx; clear_value x; rotate_right; subst x) | (with_reducible refine keeps_let_fun x ?_; subst x) | (with_reducible refine keeps_let_landing x ?_; subst x) | clear_value x)
    | with_reducible refine State.setCapEntry_keeps ?_
    | with_reducible refine State.each_keeps ?_ (fun s1 a1 h1 => ?_)
    | unfold State.setLanding
    | split
    | dsimp -zeta only
    | (rw [keeps_mk]; refine keepsParts_fold ?_)
    | exact ⟨hx.1, hx.2.1, hx.2.2.1, Nat.le_trans hx.2.2.2.1 (Nat.le_add_right _ _), hx.2.2.2.2⟩)

theorem lndCntClr_keeps {org : State} {s : State} (hs : Keeps org s) :
    Keeps org (lndCntClr s) := by
  unfold lndCntClr
  repeat' (first
    | with_reducible assumption
    | with_reducible refine State.clearAll_keeps ?_
    | split
    | dsimp -zeta only)

end Sys2Proof.Machine
end

