-- ==== Sys2Proof/Laws/KeepsCapture.lean ====
section
/-! SUPPORT. The operations of Machine/Capture.lean keep what every command keeps. -/

namespace Sys2Proof.Machine

theorem capBegin_keeps {org s : State} {it : Item} (hs : Keeps org s) : Keeps org (capBegin s it) := by
  unfold capBegin
  lift_lets -underBinder
  intro w n d
  repeat' split
  all_goals first
    | exact complete_keeps hs
    | exact updItem_keeps hs
    | (rename_i h; exact updItem_keeps (setLanding_same_keeps rfl rfl (State.setCapEntry_keeps (dirOpen_keeps h hs))))

theorem hostPut_keeps {org : State} {a0 : Nat} {a1 : State} {a2 : Nat} {a3 : List Byte} {a4 : Nat} (hs : Keeps org a1) :
    Keeps org (hostPut a0 a1 a2 a3 a4).1 := by
  induction a0 generalizing a1 a2 a3 a4 with
  | zero =>
    unfold hostPut
    repeat' (first
    | with_reducible assumption
    | ((try lift_lets -underBinder); intro x; first | (with_reducible refine keeps_let (o := org) x ?_ ?_; rotate_left; intro hx; clear_value x; rotate_right; subst x) | (with_reducible refine keeps_let_fst (o := org) x ?_ ?_; rotate_left; intro hx; clear_value x; rotate_right; subst x) | clear_value x)
    | with_reducible refine finishBuffer_keeps ?_
    | with_reducible refine capPut_keeps ?_
    | split
    | dsimp -zeta only
    | (rw [keeps_mk]; refine keepsParts_fold ?_))
  | succ n ih =>
    unfold hostPut
    repeat' (first
    | with_reducible assumption
    | with_reducible apply ih
    | ((try lift_lets -underBinder); intro x; first | (with_reducible refine keeps_let (o := org) x ?_ ?_; rotate_left; intro hx; clear_value x; rotate_right; subst x) | (with_reducible refine keeps_let_fst (o := org) x ?_ ?_; rotate_left; intro hx; clear_value x; rotate_right; subst x) | clear_value x)
    | with_reducible refine finishBuffer_keeps ?_
    | with_reducible refine capPut_keeps ?_
    | split
    | dsimp -zeta only
    | (rw [keeps_mk]; refine keepsParts_fold ?_))

theorem destPut_keeps {org : State} {s : State} {it : Item} {bytes : List Byte} {launch : Nat} (hs : Keeps org s) :
    Keeps org (destPut s it bytes launch).1 := by
  unfold destPut
  repeat' (first
    | with_reducible assumption
    | ((try lift_lets -underBinder); intro x; first | (with_reducible refine keeps_let (o := org) x ?_ ?_; rotate_left; intro hx; clear_value x; rotate_right; subst x) | (with_reducible refine keeps_let_fst (o := org) x ?_ ?_; rotate_left; intro hx; clear_value x; rotate_right; subst x) | clear_value x)
    | with_reducible refine pushRecord_keeps ?_
    | with_reducible refine captureRoom_keeps ?_
    | with_reducible refine capturePut_keeps ?_
    | with_reducible refine hostPut_keeps ?_
    | split
    | dsimp -zeta only
    | (rw [keeps_mk]; refine keepsParts_fold ?_))

theorem capDone_keeps {org : State} {s : State} {it : Item} (hs : Keeps org s) :
    Keeps org (capDone s it) := by
  unfold capDone
  repeat' (first
    | with_reducible assumption
    | ((try lift_lets -underBinder); intro x; first | (with_reducible refine keeps_let (o := org) x ?_ ?_; rotate_left; intro hx; clear_value x; rotate_right; subst x) | clear_value x)
    | with_reducible refine pushMarker_keeps ?_
    | with_reducible refine updItem_keeps ?_
    | with_reducible refine complete_keeps ?_
    | with_reducible refine State.setCapEntry_keeps ?_
    | split
    | dsimp -zeta only
    | (rw [keeps_mk]; refine keepsParts_fold ?_))

theorem capAdvance_keeps {org : State} {a0 : Nat} {a1 : State} {a2 : Item} (hs : Keeps org a1) :
    Keeps org (capAdvance a0 a1 a2) := by
  induction a0 generalizing a1 a2 with
  | zero =>
    unfold capAdvance
    repeat' (first
    | with_reducible assumption
    | ((try lift_lets -underBinder); intro x; first | (with_reducible refine keeps_let (o := org) x ?_ ?_; rotate_left; intro hx; clear_value x; rotate_right; subst x) | (with_reducible refine keeps_let_fst (o := org) x ?_ ?_; rotate_left; intro hx; clear_value x; rotate_right; subst x) | (with_reducible refine keeps_let_fun x ?_; subst x) | clear_value x)
    | with_reducible refine updItem_keeps ?_
    | with_reducible refine complete_keeps ?_
    | with_reducible refine dirPartial_keeps ?_
    | with_reducible refine destPut_keeps ?_
    | with_reducible refine capDone_keeps ?_
    | split
    | dsimp -zeta only
    | (rw [keeps_mk]; refine keepsParts_fold ?_))
  | succ n ih =>
    unfold capAdvance
    repeat' (first
    | with_reducible assumption
    | with_reducible apply ih
    | ((try lift_lets -underBinder); intro x; first | (with_reducible refine keeps_let (o := org) x ?_ ?_; rotate_left; intro hx; clear_value x; rotate_right; subst x) | (with_reducible refine keeps_let_fst (o := org) x ?_ ?_; rotate_left; intro hx; clear_value x; rotate_right; subst x) | (with_reducible refine keeps_let_fun x ?_; subst x) | clear_value x)
    | with_reducible refine updItem_keeps ?_
    | with_reducible refine complete_keeps ?_
    | with_reducible refine dirPartial_keeps ?_
    | with_reducible refine destPut_keeps ?_
    | with_reducible refine capDone_keeps ?_
    | split
    | dsimp -zeta only
    | (rw [keeps_mk]; refine keepsParts_fold ?_))

theorem capStart_keeps {org : State} {s : State} {it : Item} (hs : Keeps org s) :
    Keeps org (capStart s it) := by
  unfold capStart
  repeat' (first
    | with_reducible assumption
    | with_reducible refine pushMarker_keeps ?_
    | with_reducible refine updItem_keeps ?_
    | split
    | dsimp -zeta only
    | (rw [keeps_mk]; refine keepsParts_fold ?_))

theorem pumpCaptures_keeps {org : State} {s : State} (hs : Keeps org s) :
    Keeps org (pumpCaptures s) := by
  unfold pumpCaptures
  repeat' (first
    | with_reducible assumption
    | with_reducible refine capAdvance_keeps ?_
    | with_reducible refine capStart_keeps ?_
    | with_reducible refine State.each_keeps ?_ (fun s1 a1 h1 => ?_)
    | split
    | dsimp -zeta only)

theorem pumpCaptures2_keeps {org : State} {s : State} (hs : Keeps org s) :
    Keeps org (pumpCaptures2 s) := by
  unfold pumpCaptures2
  repeat' (first
    | with_reducible assumption
    | with_reducible refine pumpCaptures_keeps ?_
    | split
    | dsimp -zeta only)

theorem captureStep_keeps {org : State} {s : State} {ring dest : Nat} (hs : Keeps org s) :
    Keeps org (captureStep s ring dest) := by
  unfold captureStep
  repeat' (first
    | with_reducible assumption
    | with_reducible refine capBegin_keeps ?_
    | with_reducible refine pumpCaptures2_keeps ?_
    | split
    | dsimp -zeta only
    | (rw [keeps_mk]; refine keepsParts_fold ?_))

theorem execCaptureHost_keeps {org : State} {ring : Fin 16} {s : State} (hs : Keeps org s) :
    KeepsOut org (execCaptureHost ring s) := by
  unfold execCaptureHost
  repeat' (first
    | with_reducible assumption
    | with_reducible refine captureStep_keeps ?_
    | with_reducible refine keepsOut_next ?_
    | split
    | dsimp -zeta only)

theorem execCaptureLanding_keeps {org : State} {ring : Fin 16} {s : State} (hs : Keeps org s) :
    KeepsOut org (execCaptureLanding ring s) := by
  unfold execCaptureLanding
  repeat' (first
    | with_reducible assumption
    | with_reducible refine captureStep_keeps ?_
    | with_reducible refine keepsOut_next ?_
    | split
    | dsimp -zeta only)

theorem execCaptureFlume_keeps {org : State} {ring : Fin 16} {s : State} (hs : Keeps org s) :
    KeepsOut org (execCaptureFlume ring s) := by
  unfold execCaptureFlume
  repeat' (first
    | with_reducible assumption
    | with_reducible refine captureStep_keeps ?_
    | with_reducible refine keepsOut_next ?_
    | split
    | dsimp -zeta only)

theorem execLandingCaptureComplete_keeps {org : State} {entry : Fin 1024} {s : State} (hs : Keeps org s) :
    KeepsOut org (execLandingCaptureComplete entry s) := by
  unfold execLandingCaptureComplete
  repeat' (first
    | with_reducible assumption
    | ((try lift_lets -underBinder); intro x; first | (with_reducible refine keeps_let (o := org) x ?_ ?_; rotate_left; intro hx; clear_value x; rotate_right; subst x) | (with_reducible refine keeps_let_fun x ?_; subst x) | clear_value x)
    | with_reducible refine complete_keeps ?_
    | with_reducible refine State.setCapEntry_keeps ?_
    | with_reducible refine keepsOut_next ?_
    | split
    | dsimp -zeta only
    | (rw [keeps_mk]; refine keepsParts_fold ?_))

theorem execDescriptorAccept_keeps {org : State} {cap : Bool} {ring : Fin 16} {desc : List Byte} {s : State} (hs : Keeps org s) :
    KeepsOut org (execDescriptorAccept cap ring desc s) := by
  unfold execDescriptorAccept
  repeat' (first
    | with_reducible assumption
    | with_reducible refine acceptItem_keeps ?_
    | with_reducible refine pumpCaptures2_keeps ?_
    | with_reducible refine keepsOut_next ?_
    | split
    | dsimp -zeta only)

theorem execBuf_keeps {org : State} {ring : Fin 16} {desc : List Byte} {s : State} (hs : Keeps org s) :
    KeepsOut org (execBuf ring desc s) := by
  unfold execBuf
  repeat' (first
    | with_reducible assumption
    | with_reducible refine acceptItem_keeps ?_
    | with_reducible refine pumpCaptures2_keeps ?_
    | with_reducible refine keepsOut_next ?_
    | split
    | dsimp -zeta only)

theorem execDatagramSend_keeps {org : State} {stream : Fin 16} {s : State} (hs : Keeps org s) :
    KeepsOut org (execDatagramSend stream s) := by
  unfold execDatagramSend
  repeat' (first
    | with_reducible assumption
    | with_reducible refine sendFull_keeps ?_
    | with_reducible refine pumpCaptures2_keeps ?_
    | with_reducible refine keepsOut_next ?_
    | split
    | dsimp -zeta only)

theorem execDatagramFlush_keeps {org : State} {stream : Fin 16} {s : State} (hs : Keeps org s) :
    KeepsOut org (execDatagramFlush stream s) := by
  unfold execDatagramFlush
  repeat' (first
    | with_reducible assumption
    | with_reducible refine sendFlush_keeps ?_
    | with_reducible refine pumpCaptures2_keeps ?_
    | with_reducible refine keepsOut_next ?_
    | split
    | dsimp -zeta only)

end Sys2Proof.Machine
end

