-- ==== Sys2Proof/Laws/KeepsProbe.lean ====
section
/-! SUPPORT. The operations of Machine/Probe.lean keep what every command keeps. -/

namespace Sys2Proof.Machine

theorem noiseRegs_keeps {org : State} {s : State} {p : Nat} (hs : Keeps org s) :
    Keeps org (noiseRegs s p) := by
  unfold noiseRegs
  repeat' (first
    | with_reducible assumption
    | ((try lift_lets -underBinder); intro x; first | (with_reducible refine keeps_let (o := org) x ?_ ?_; rotate_left; intro hx; clear_value x; rotate_right; subst x) | (with_reducible refine keeps_let_fun x ?_; subst x) | clear_value x)
    | with_reducible refine State.set_keeps ?_
    | split
    | dsimp -zeta only)

theorem noiseRestart_keeps {org : State} {s : State} {p : Nat} (hs : Keeps org s) :
    Keeps org (noiseRestart s p) := by
  unfold noiseRestart
  repeat' (first
    | with_reducible assumption
    | with_reducible refine State.setKerf_keeps ?_
    | with_reducible refine noiseRegs_keeps ?_
    | split
    | dsimp -zeta only
    | (rw [keeps_mk]; refine keepsParts_fold ?_))

theorem krfSettings_keeps {org : State} {s : State} {p : Nat} (hs : Keeps org s) :
    Keeps org (krfSettings s p).1 := by
  unfold krfSettings
  repeat' (first
    | with_reducible assumption
    | ((try lift_lets -underBinder); intro x; first | (with_reducible refine keeps_let (o := org) x ?_ ?_; rotate_left; intro hx; clear_value x; rotate_right; subst x) | clear_value x)
    | with_reducible refine State.setKerf_keeps ?_
    | with_reducible refine noiseRestart_keeps ?_
    | split
    | dsimp -zeta only
    | (rw [keeps_mk]; refine keepsParts_fold ?_)
    | (rw [keeps_mk]; refine keepsParts_change ?_ (fun h0 => by unfold SoundParts State.Sound BkgWf at *; simp only [h0, and_self])))

theorem krfLoad_keeps {org : State} {s : State} (hs : Keeps org s) :
    Keeps org (krfLoad s) := by
  unfold krfLoad
  repeat' (first
    | with_reducible assumption
    | ((try lift_lets -underBinder); intro x; first | (with_reducible refine keeps_let (o := org) x ?_ ?_; rotate_left; intro hx; clear_value x; rotate_right; subst x) | (with_reducible refine keeps_let_fst (o := org) x ?_ ?_; rotate_left; intro hx; clear_value x; rotate_right; subst x) | clear_value x)
    | with_reducible refine State.set_keeps ?_
    | with_reducible refine State.setFlag_keeps ?_
    | split
    | dsimp -zeta only)

theorem portsChanged_keeps {org : State} {s : State} (hs : Keeps org s) :
    Keeps org (portsChanged s) := by
  unfold portsChanged
  repeat' (first
    | with_reducible assumption
    | ((try lift_lets -underBinder); intro x; first | (with_reducible refine keeps_let (o := org) x ?_ ?_; rotate_left; intro hx; clear_value x; rotate_right; subst x) | (with_reducible refine keeps_let_fun x ?_; subst x) | clear_value x)
    | with_reducible refine State.setFlag_keeps ?_
    | with_reducible refine staleCheck_keeps ?_
    | split
    | dsimp -zeta only)

theorem setPortState_keeps {org : State} {s : State} {p st : Nat} (hs : Keeps org s) :
    Keeps org (setPortState s p st) := by
  unfold setPortState
  repeat' (first
    | with_reducible assumption
    | with_reducible refine State.set_keeps ?_
    | split
    | dsimp -zeta only)

theorem portOff_keeps {org : State} {s : State} {p : Nat} (hs : Keeps org s) :
    Keeps org (portOff s p) := by
  unfold portOff
  repeat' (first
    | with_reducible assumption
    | ((try lift_lets -underBinder); intro x; first | (with_reducible refine keeps_let (o := org) x ?_ ?_; rotate_left; intro hx; clear_value x; rotate_right; subst x) | clear_value x)
    | with_reducible refine State.write_keeps ?_
    | with_reducible refine State.setProbe_keeps ?_
    | with_reducible refine refreshTiming_keeps ?_
    | with_reducible refine portsChanged_keeps ?_
    | with_reducible refine setPortState_keeps ?_
    | split
    | dsimp -zeta only
    | (rw [keeps_mk]; refine keepsParts_fold ?_))

theorem enterSweeping_keeps {org : State} {s : State} {p kind : Nat} (hs : Keeps org s) :
    Keeps org (enterSweeping s p kind) := by
  unfold enterSweeping
  repeat' (first
    | with_reducible assumption
    | ((try lift_lets -underBinder); intro x; first | (with_reducible refine keeps_let (o := org) x ?_ ?_; rotate_left; intro hx; clear_value x; rotate_right; subst x) | clear_value x)
    | with_reducible refine State.setProbe_keeps ?_
    | with_reducible refine refreshTiming_keeps ?_
    | with_reducible refine portsChanged_keeps ?_
    | with_reducible refine setPortState_keeps ?_
    | split
    | dsimp -zeta only
    | (rw [keeps_mk]; refine keepsParts_fold ?_))

theorem enterMeasuring_keeps {org : State} {s : State} {p : Nat} (hs : Keeps org s) :
    Keeps org (enterMeasuring s p) := by
  unfold enterMeasuring
  repeat' (first
    | with_reducible assumption
    | ((try lift_lets -underBinder); intro x; first | (with_reducible refine keeps_let (o := org) x ?_ ?_; rotate_left; intro hx; clear_value x; rotate_right; subst x) | clear_value x)
    | with_reducible refine State.setProbe_keeps ?_
    | with_reducible refine refreshTiming_keeps ?_
    | with_reducible refine portsChanged_keeps ?_
    | with_reducible refine setPortState_keeps ?_
    | split
    | dsimp -zeta only
    | (rw [keeps_mk]; refine keepsParts_fold ?_))

theorem startOn_keeps {org : State} {s : State} {p : Nat} (hs : Keeps org s) :
    Keeps org (startOn s p) := by
  unfold startOn
  repeat' (first
    | with_reducible assumption
    | ((try lift_lets -underBinder); intro x; first | (with_reducible refine keeps_let (o := org) x ?_ ?_; rotate_left; intro hx; clear_value x; rotate_right; subst x) | clear_value x)
    | with_reducible refine State.set_keeps ?_
    | with_reducible refine enterSweeping_keeps ?_
    | with_reducible refine enterMeasuring_keeps ?_
    | split
    | dsimp -zeta only)

theorem startSweep_keeps {org : State} {s : State} {p : Nat} (hs : Keeps org s) :
    Keeps org (startSweep s p) := by
  unfold startSweep
  repeat' (first
    | with_reducible assumption
    | ((try lift_lets -underBinder); intro x; first | (with_reducible refine keeps_let (o := org) x ?_ ?_; rotate_left; intro hx; clear_value x; rotate_right; subst x) | (with_reducible refine keeps_let_fst (o := org) x ?_ ?_; rotate_left; intro hx; clear_value x; rotate_right; subst x) | clear_value x)
    | with_reducible refine State.set_keeps ?_
    | with_reducible refine State.setProbe_keeps ?_
    | with_reducible refine refreshTiming_keeps ?_
    | with_reducible refine bkgBoundary_keeps ?_
    | with_reducible refine krfSettings_keeps ?_
    | with_reducible refine krfLoad_keeps ?_
    | split
    | dsimp -zeta only
    | (rw [keeps_mk]; refine keepsParts_fold ?_))

theorem failFlight_keeps {org : State} {s : State} {p : Nat} (hs : Keeps org s) :
    Keeps org (failFlight s p) := by
  unfold failFlight
  repeat' (first
    | with_reducible assumption
    | ((try lift_lets -underBinder); intro x; first | (with_reducible refine keeps_let (o := org) x ?_ ?_; rotate_left; intro hx; clear_value x; rotate_right; subst x) | (with_reducible refine keeps_let_fun x ?_; subst x) | clear_value x)
    | with_reducible refine State.count_keeps ?_
    | with_reducible refine State.setProbe_keeps ?_
    | split
    | dsimp -zeta only
    | (rw [keeps_mk]; refine keepsParts_fold ?_))

theorem leaveHold_keeps {org : State} {s : State} {p : Nat} (hs : Keeps org s) :
    Keeps org (leaveHold s p) := by
  unfold leaveHold
  repeat' (first
    | with_reducible assumption
    | ((try lift_lets -underBinder); intro x; first | (with_reducible refine keeps_let (o := org) x ?_ ?_; rotate_left; intro hx; clear_value x; rotate_right; subst x) | (with_reducible refine keeps_let_fun x ?_; subst x) | clear_value x)
    | with_reducible refine State.setProbe_keeps ?_
    | split
    | dsimp -zeta only
    | (rw [keeps_mk]; refine keepsParts_fold ?_))

theorem sourceChanged_keeps {org : State} {s : State} (hs : Keeps org s) :
    Keeps org (sourceChanged s) := by
  unfold sourceChanged
  repeat' (first
    | with_reducible assumption
    | with_reducible refine State.setProbe_keeps ?_
    | with_reducible refine foldl_keeps ?_ (fun s1 a1 h1 => ?_)
    | with_reducible refine foldl_fst_keeps ?_ (fun s1 a1 h1 => ?_)
    | split
    | dsimp -zeta only
    | (rw [keeps_mk]; refine keepsParts_fold ?_))

theorem loseSource_keeps {org : State} {s : State} (hs : Keeps org s) :
    Keeps org (loseSource s) := by
  unfold loseSource
  repeat' (first
    | with_reducible assumption
    | ((try lift_lets -underBinder); intro x; first | (with_reducible refine keeps_let (o := org) x ?_ ?_; rotate_left; intro hx; clear_value x; rotate_right; subst x) | (with_reducible refine keeps_let_fst (o := org) x ?_ ?_; rotate_left; intro hx; clear_value x; rotate_right; subst x) | (with_reducible refine keeps_let_fun x ?_; subst x) | clear_value x)
    | with_reducible refine State.setProbe_keeps ?_
    | with_reducible refine portsChanged_keeps ?_
    | with_reducible refine setPortState_keeps ?_
    | with_reducible refine failFlight_keeps ?_
    | with_reducible refine leaveHold_keeps ?_
    | with_reducible refine State.each_keeps ?_ (fun s1 a1 h1 => ?_)
    | with_reducible refine foldl_keeps ?_ (fun s1 a1 h1 => ?_)
    | with_reducible refine foldl_fst_keeps ?_ (fun s1 a1 h1 => ?_)
    | split
    | dsimp -zeta only
    | (rw [keeps_mk]; refine keepsParts_fold ?_))

theorem resumePorts_keeps {org : State} {s : State} (hs : Keeps org s) :
    Keeps org (resumePorts s) := by
  unfold resumePorts
  repeat' (first
    | with_reducible assumption
    | with_reducible refine enterSweeping_keeps ?_
    | with_reducible refine enterMeasuring_keeps ?_
    | with_reducible refine foldl_keeps ?_ (fun s1 a1 h1 => ?_)
    | with_reducible refine foldl_fst_keeps ?_ (fun s1 a1 h1 => ?_)
    | split
    | dsimp -zeta only)

theorem handover_keeps {org : State} {s : State} (hs : Keeps org s) :
    Keeps org (handover s) := by
  unfold handover
  repeat' (first
    | with_reducible assumption
    | ((try lift_lets -underBinder); intro x; first | (with_reducible refine keeps_let (o := org) x ?_ ?_; rotate_left; intro hx; clear_value x; rotate_right; subst x) | clear_value x)
    | with_reducible refine State.set_keeps ?_
    | with_reducible refine State.bump_keeps ?_
    | with_reducible refine State.event_keeps ?_
    | with_reducible refine portsChanged_keeps ?_
    | with_reducible refine failFlight_keeps ?_
    | with_reducible refine sourceChanged_keeps ?_
    | with_reducible refine State.each_keeps ?_ (fun s1 a1 h1 => ?_)
    | split
    | dsimp -zeta only
    | (rw [keeps_mk]; refine keepsParts_fold ?_))

theorem abandonReturn_keeps {org : State} {s : State} (hs : Keeps org s) :
    Keeps org (abandonReturn s) := by
  unfold abandonReturn
  repeat' (first
    | with_reducible assumption
    | ((try lift_lets -underBinder); intro x; first | (with_reducible refine keeps_let (o := org) x ?_ ?_; rotate_left; intro hx; clear_value x; rotate_right; subst x) | (with_reducible refine keeps_let_fun x ?_; subst x) | clear_value x)
    | with_reducible refine State.setProbe_keeps ?_
    | with_reducible refine startSweep_keeps ?_
    | with_reducible refine leaveHold_keeps ?_
    | with_reducible refine State.each_keeps ?_ (fun s1 a1 h1 => ?_)
    | split
    | dsimp -zeta only
    | (rw [keeps_mk]; refine keepsParts_fold ?_))

theorem execLaserAFailure_keeps {org : State} {s : State} (hs : Keeps org s) :
    KeepsOut org (execLaserAFailure s) := by
  unfold execLaserAFailure
  repeat' (first
    | with_reducible assumption
    | ((try lift_lets -underBinder); intro x; first | (with_reducible refine keeps_let (o := org) x ?_ ?_; rotate_left; intro hx; clear_value x; rotate_right; subst x) | clear_value x)
    | with_reducible refine State.set_keeps ?_
    | with_reducible refine State.event_keeps ?_
    | with_reducible refine portsChanged_keeps ?_
    | with_reducible refine loseSource_keeps ?_
    | with_reducible refine handover_keeps ?_
    | with_reducible refine abandonReturn_keeps ?_
    | with_reducible refine keepsOut_next ?_
    | split
    | dsimp -zeta only
    | (rw [keeps_mk]; refine keepsParts_fold ?_))

theorem execHandoverSweepRestart_keeps {org : State} {s : State} (hs : Keeps org s) :
    KeepsOut org (execHandoverSweepRestart s) := by
  unfold execHandoverSweepRestart
  repeat' (first
    | with_reducible assumption
    | ((try lift_lets -underBinder); intro x; first | (with_reducible refine keeps_let (o := org) x ?_ ?_; rotate_left; intro hx; clear_value x; rotate_right; subst x) | (with_reducible refine keeps_let_fun x ?_; subst x) | clear_value x)
    | with_reducible refine startSweep_keeps ?_
    | with_reducible refine State.each_keeps ?_ (fun s1 a1 h1 => ?_)
    | with_reducible refine keepsOut_next ?_
    | split
    | dsimp -zeta only)

theorem laserLocked_keeps {org : State} {s : State} {b : Bool} (hs : Keeps org s) :
    Keeps org (laserLocked s b) := by
  unfold laserLocked
  repeat' (first
    | with_reducible assumption
    | ((try lift_lets -underBinder); intro x; first | (with_reducible refine keeps_let (o := org) x ?_ ?_; rotate_left; intro hx; clear_value x; rotate_right; subst x) | clear_value x)
    | with_reducible refine State.set_keeps ?_
    | with_reducible refine portsChanged_keeps ?_
    | with_reducible refine sourceChanged_keeps ?_
    | with_reducible refine resumePorts_keeps ?_
    | split
    | dsimp -zeta only
    | (rw [keeps_mk]; refine keepsParts_fold ?_))

theorem execLaserARelock_keeps {org : State} {s : State} (hs : Keeps org s) :
    KeepsOut org (execLaserARelock s) := by
  unfold execLaserARelock
  repeat' (first
    | with_reducible assumption
    | with_reducible refine laserLocked_keeps ?_
    | with_reducible refine keepsOut_next ?_
    | split
    | dsimp -zeta only)

theorem execLaserLock_keeps {org : State} {b : Bool} {s : State} (hs : Keeps org s) :
    KeepsOut org (execLaserLock b s) := by
  unfold execLaserLock
  repeat' (first
    | with_reducible assumption
    | with_reducible refine laserLocked_keeps ?_
    | with_reducible refine keepsOut_next ?_
    | split
    | dsimp -zeta only)

theorem execLaserBFailure_keeps {org : State} {s : State} (hs : Keeps org s) :
    KeepsOut org (execLaserBFailure s) := by
  unfold execLaserBFailure
  repeat' (first
    | with_reducible assumption
    | ((try lift_lets -underBinder); intro x; first | (with_reducible refine keeps_let (o := org) x ?_ ?_; rotate_left; intro hx; clear_value x; rotate_right; subst x) | clear_value x)
    | with_reducible refine State.set_keeps ?_
    | with_reducible refine State.event_keeps ?_
    | with_reducible refine portsChanged_keeps ?_
    | with_reducible refine sourceChanged_keeps ?_
    | with_reducible refine loseSource_keeps ?_
    | with_reducible refine resumePorts_keeps ?_
    | with_reducible refine keepsOut_next ?_
    | split
    | dsimp -zeta only
    | (rw [keeps_mk]; refine keepsParts_fold ?_))

theorem returnTrigger_keeps {org : State} {s : State} (hs : Keeps org s) :
    Keeps org (returnTrigger s) := by
  unfold returnTrigger
  repeat' (first
    | with_reducible assumption
    | ((try lift_lets -underBinder); intro x; first | (with_reducible refine keeps_let (o := org) x ?_ ?_; rotate_left; intro hx; clear_value x; rotate_right; subst x) | (with_reducible refine keeps_let_fun x ?_; subst x) | clear_value x)
    | with_reducible refine State.setProbe_keeps ?_
    | with_reducible refine State.each_keeps ?_ (fun s1 a1 h1 => ?_)
    | split
    | dsimp -zeta only
    | (rw [keeps_mk]; refine keepsParts_fold ?_))

theorem execReturnHoldExpiry_keeps {org : State} {s : State} (hs : Keeps org s) :
    KeepsOut org (execReturnHoldExpiry s) := by
  unfold execReturnHoldExpiry
  repeat' (first
    | with_reducible assumption
    | with_reducible refine returnTrigger_keeps ?_
    | with_reducible refine keepsOut_next ?_
    | split
    | dsimp -zeta only)

theorem execReturnSwitch_keeps {org : State} {s : State} (hs : Keeps org s) :
    KeepsOut org (execReturnSwitch s) := by
  unfold execReturnSwitch
  repeat' (first
    | with_reducible assumption
    | ((try lift_lets -underBinder); intro x; first | (with_reducible refine keeps_let (o := org) x ?_ ?_; rotate_left; intro hx; clear_value x; rotate_right; subst x) | (with_reducible refine keeps_let_fun x ?_; subst x) | clear_value x)
    | with_reducible refine State.set_keeps ?_
    | with_reducible refine State.bump_keeps ?_
    | with_reducible refine State.event_keeps ?_
    | with_reducible refine portsChanged_keeps ?_
    | with_reducible refine startSweep_keeps ?_
    | with_reducible refine leaveHold_keeps ?_
    | with_reducible refine sourceChanged_keeps ?_
    | with_reducible refine State.each_keeps ?_ (fun s1 a1 h1 => ?_)
    | with_reducible refine keepsOut_next ?_
    | split
    | dsimp -zeta only
    | (rw [keeps_mk]; refine keepsParts_fold ?_))

theorem handoverTest_keeps {org : State} {s : State} (hs : Keeps org s) :
    Keeps org (handoverTest s) := by
  unfold handoverTest
  repeat' (first
    | with_reducible assumption
    | with_reducible refine State.set_keeps ?_
    | with_reducible refine State.wrErr_keeps ?_
    | with_reducible refine handover_keeps ?_
    | split
    | dsimp -zeta only
    | (rw [keeps_mk]; refine keepsParts_fold ?_))

theorem loopAfresh_keeps {org : State} {s : State} {p : Nat} (hs : Keeps org s) :
    Keeps org (loopAfresh s p) := by
  unfold loopAfresh
  repeat' (first
    | with_reducible assumption
    | with_reducible refine State.set_keeps ?_
    | split
    | dsimp -zeta only
    | (rw [keeps_mk]; refine keepsParts_fold ?_))

theorem portEnable_keeps {org : State} {s : State} {p : Nat} (hs : Keeps org s) :
    Keeps org (portEnable s p) := by
  unfold portEnable
  repeat' (first
    | with_reducible assumption
    | ((try lift_lets -underBinder); intro x; first | (with_reducible refine keeps_let (o := org) x ?_ ?_; rotate_left; intro hx; clear_value x; rotate_right; subst x) | clear_value x)
    | with_reducible refine State.write_keeps ?_
    | with_reducible refine State.setProbe_keeps ?_
    | with_reducible refine refreshTiming_keeps ?_
    | with_reducible refine noiseRestart_keeps ?_
    | with_reducible refine portsChanged_keeps ?_
    | with_reducible refine setPortState_keeps ?_
    | with_reducible refine loopAfresh_keeps ?_
    | split
    | dsimp -zeta only
    | (rw [keeps_mk]; refine keepsParts_fold ?_))

theorem portDisable_keeps {org : State} {s : State} {p : Nat} (hs : Keeps org s) :
    Keeps org (portDisable s p) := by
  unfold portDisable
  repeat' (first
    | with_reducible assumption
    | ((try lift_lets -underBinder); intro x; first | (with_reducible refine keeps_let (o := org) x ?_ ?_; rotate_left; intro hx; clear_value x; rotate_right; subst x) | clear_value x)
    | with_reducible refine State.setFlag_keeps ?_
    | with_reducible refine State.setProbe_keeps ?_
    | with_reducible refine portsChanged_keeps ?_
    | with_reducible refine portOff_keeps ?_
    | with_reducible refine leaveHold_keeps ?_
    | split
    | dsimp -zeta only
    | (rw [keeps_mk]; refine keepsParts_fold ?_))

theorem aprEntry_keeps {org : State} {s : State} {p : Nat} (hs : Keeps org s) :
    Keeps org (aprEntry s p) := by
  unfold aprEntry
  repeat' (first
    | with_reducible assumption
    | ((try lift_lets -underBinder); intro x; first | (with_reducible refine keeps_let (o := org) x ?_ ?_; rotate_left; intro hx; clear_value x; rotate_right; subst x) | clear_value x)
    | with_reducible refine State.set_keeps ?_
    | with_reducible refine State.setFlag_keeps ?_
    | with_reducible refine State.bump_keeps ?_
    | with_reducible refine State.post_keeps ?_
    | with_reducible refine State.setProbe_keeps ?_
    | with_reducible refine portsChanged_keeps ?_
    | with_reducible refine setPortState_keeps ?_
    | with_reducible refine leaveHold_keeps ?_
    | split
    | dsimp -zeta only
    | (rw [keeps_mk]; refine keepsParts_fold ?_))

theorem execAprEntry_keeps {org : State} {port : Port} {s : State} (hs : Keeps org s) :
    KeepsOut org (execAprEntry port s) := by
  unfold execAprEntry
  repeat' (first
    | with_reducible assumption
    | ((try lift_lets -underBinder); intro x; first | (with_reducible refine keeps_let (o := org) x ?_ ?_; rotate_left; intro hx; clear_value x; rotate_right; subst x) | clear_value x)
    | with_reducible refine aprEntry_keeps ?_
    | with_reducible refine keepsOut_next ?_
    | split
    | dsimp -zeta only)

theorem aprExit_keeps {org : State} {s : State} {p : Nat} (hs : Keeps org s) :
    Keeps org (aprExit s p) := by
  unfold aprExit
  repeat' (first
    | with_reducible assumption
    | ((try lift_lets -underBinder); intro x; first | (with_reducible refine keeps_let (o := org) x ?_ ?_; rotate_left; intro hx; clear_value x; rotate_right; subst x) | clear_value x)
    | with_reducible refine State.set_keeps ?_
    | with_reducible refine State.post_keeps ?_
    | with_reducible refine enterSweeping_keeps ?_
    | with_reducible refine startOn_keeps ?_
    | split
    | dsimp -zeta only)

theorem aprResume_keeps {org : State} {s : State} {p : Nat} (hs : Keeps org s) :
    Keeps org (aprResume s p) := by
  unfold aprResume
  repeat' (first
    | with_reducible assumption
    | with_reducible refine State.set_keeps ?_
    | with_reducible refine State.setProbe_keeps ?_
    | split
    | dsimp -zeta only
    | (rw [keeps_mk]; refine keepsParts_fold ?_))

theorem execTestSlot_keeps {org : State} {port : Port} {signature : Bool} {s : State} (hs : Keeps org s) :
    KeepsOut org (execTestSlot port signature s) := by
  unfold execTestSlot
  repeat' (first
    | with_reducible assumption
    | ((try lift_lets -underBinder); intro x; first | (with_reducible refine keeps_let (o := org) x ?_ ?_; rotate_left; intro hx; clear_value x; rotate_right; subst x) | clear_value x)
    | with_reducible refine State.setProbe_keeps ?_
    | with_reducible refine startOn_keeps ?_
    | with_reducible refine aprEntry_keeps ?_
    | with_reducible refine aprExit_keeps ?_
    | with_reducible refine keepsOut_next ?_
    | split
    | dsimp -zeta only
    | (rw [keeps_mk]; refine keepsParts_fold ?_))

theorem ownerRegs_keeps {org : State} {s : State} {own : List Nat} (hs : Keeps org s) :
    Keeps org (ownerRegs s own) := by
  unfold ownerRegs
  repeat' (first
    | with_reducible assumption
    | ((try lift_lets -underBinder); intro x; first | (with_reducible refine keeps_let (o := org) x ?_ ?_; rotate_left; intro hx; clear_value x; rotate_right; subst x) | clear_value x)
    | with_reducible refine State.set_keeps ?_
    | with_reducible refine State.setFlag_keeps ?_
    | split
    | dsimp -zeta only)

theorem loopOwners_keeps {org : State} {s : State} {snr : List (Int × Int)} (hs : Keeps org s) :
    Keeps org (loopOwners s snr) := by
  unfold loopOwners
  repeat' (first
    | with_reducible assumption
    | ((try lift_lets -underBinder); intro x; first | (with_reducible refine keeps_let (o := org) x ?_ ?_; rotate_left; intro hx; clear_value x; rotate_right; subst x) | (with_reducible refine keeps_let_fst (o := org) x ?_ ?_; rotate_left; intro hx; clear_value x; rotate_right; subst x) | (with_reducible refine keeps_let_fun x ?_; subst x) | clear_value x)
    | with_reducible refine State.bump_keeps ?_
    | with_reducible refine State.post_keeps ?_
    | with_reducible refine ownerRegs_keeps ?_
    | split
    | dsimp -zeta only
    | (rw [keeps_mk]; refine keepsParts_fold ?_))

theorem execSweepBoundary_keeps {org : State} {port : Port} {snr : List (Int × Int)} {s : State} (hs : Keeps org s) :
    KeepsOut org (execSweepBoundary port snr s) := by
  unfold execSweepBoundary
  repeat' (first
    | with_reducible assumption
    | ((try lift_lets -underBinder); intro x; first | (with_reducible refine keeps_let (o := org) x ?_ ?_; rotate_left; intro hx; clear_value x; rotate_right; subst x) | clear_value x)
    | with_reducible refine State.setProbe_keeps ?_
    | with_reducible refine startSweep_keeps ?_
    | with_reducible refine loopOwners_keeps ?_
    | with_reducible refine keepsOut_next ?_
    | split
    | dsimp -zeta only
    | (rw [keeps_mk]; refine keepsParts_fold ?_))

theorem execSlotLaunch_keeps {org : State} {port : Port} {s : State} (hs : Keeps org s) :
    KeepsOut org (execSlotLaunch port s) := by
  unfold execSlotLaunch
  repeat' (first
    | with_reducible assumption
    | ((try lift_lets -underBinder); intro x; first | (with_reducible refine keeps_let (o := org) x ?_ ?_; rotate_left; intro hx; clear_value x; rotate_right; subst x) | (with_reducible refine keeps_let_fst (o := org) x ?_ ?_; rotate_left; intro hx; clear_value x; rotate_right; subst x) | clear_value x)
    | with_reducible refine State.setProbe_keeps ?_
    | with_reducible refine State.setScl_keeps ?_
    | with_reducible refine refreshTiming_keeps ?_
    | with_reducible refine sclBorrow_keeps ?_
    | with_reducible refine keepsOut_next ?_
    | split
    | dsimp -zeta only
    | (rw [keeps_mk]; refine keepsParts_fold ?_)
    | (rw [keeps_mk]; refine keepsParts_change ?_ (fun h0 => by unfold SoundParts State.Sound BkgWf at *; simp only [h0, and_self])))

theorem cutEvaluate_keeps {org : State} {s : State} {p : Nat} {made : Bool} {c : Option Nat} (hs : Keeps org s) :
    Keeps org (cutEvaluate s p made c) := by
  unfold cutEvaluate
  repeat' (first
    | with_reducible assumption
    | ((try lift_lets -underBinder); intro x; first | (with_reducible refine keeps_let (o := org) x ?_ ?_; rotate_left; intro hx; clear_value x; rotate_right; subst x) | (with_reducible refine keeps_let_fst (o := org) x ?_ ?_; rotate_left; intro hx; clear_value x; rotate_right; subst x) | clear_value x)
    | with_reducible refine State.set_keeps ?_
    | with_reducible refine State.setFlag_keeps ?_
    | with_reducible refine State.post_keeps ?_
    | with_reducible refine State.setProbe_keeps ?_
    | split
    | dsimp -zeta only
    | (rw [keeps_mk]; refine keepsParts_fold ?_))

theorem endMeasured_keeps {org : State} {s : State} {p : Nat} {e : Option Nat} {refl : Bool} (hs : Keeps org s) :
    Keeps org (endMeasured s p e refl) := by
  unfold endMeasured
  repeat' (first
    | with_reducible assumption
    | ((try lift_lets -underBinder); intro x; first | (with_reducible refine keeps_let (o := org) x ?_ ?_; rotate_left; intro hx; clear_value x; rotate_right; subst x) | clear_value x)
    | with_reducible refine State.set_keeps ?_
    | with_reducible refine State.setFlag_keeps ?_
    | split
    | dsimp -zeta only
    | (rw [keeps_mk]; refine keepsParts_fold ?_))

theorem execSweepComplete_keeps {org : State} {port : Port} {i : SweepInput} {s : State} (hs : Keeps org s) :
    KeepsOut org (execSweepComplete port i s) := by
  unfold execSweepComplete
  repeat' (first
    | with_reducible assumption
    | ((try lift_lets -underBinder); intro x; first | (with_reducible refine keeps_let (o := org) x ?_ ?_; rotate_left; intro hx; clear_value x; rotate_right; subst x) | clear_value x)
    | with_reducible refine State.write_keeps ?_
    | with_reducible refine State.setProbe_keeps ?_
    | with_reducible refine State.setKerf_keeps ?_
    | with_reducible refine noiseRegs_keeps ?_
    | with_reducible refine cutEvaluate_keeps ?_
    | with_reducible refine endMeasured_keeps ?_
    | with_reducible refine keepsOut_next ?_
    | split
    | dsimp -zeta only
    | (rw [keeps_mk]; refine keepsParts_fold ?_))

theorem execEndMeasurementDone_keeps {org : State} {port : Port} {endPoint : Option Nat} {refl : Bool} {s : State} (hs : Keeps org s) :
    KeepsOut org (execEndMeasurementDone port endPoint refl s) := by
  unfold execEndMeasurementDone
  repeat' (first
    | with_reducible assumption
    | ((try lift_lets -underBinder); intro x; first | (with_reducible refine keeps_let (o := org) x ?_ ?_; rotate_left; intro hx; clear_value x; rotate_right; subst x) | clear_value x)
    | with_reducible refine State.set_keeps ?_
    | with_reducible refine State.setFlag_keeps ?_
    | with_reducible refine State.setProbe_keeps ?_
    | with_reducible refine enterSweeping_keeps ?_
    | with_reducible refine endMeasured_keeps ?_
    | with_reducible refine keepsOut_next ?_
    | split
    | dsimp -zeta only
    | (rw [keeps_mk]; refine keepsParts_fold ?_))

theorem execLoopLengthMeasured_keeps {org : State} {length : Option Nat} {s : State} (hs : Keeps org s) :
    KeepsOut org (execLoopLengthMeasured length s) := by
  unfold execLoopLengthMeasured
  repeat' (first
    | with_reducible assumption
    | ((try lift_lets -underBinder); intro x; first | (with_reducible refine keeps_let (o := org) x ?_ ?_; rotate_left; intro hx; clear_value x; rotate_right; subst x) | (with_reducible refine keeps_let_fun x ?_; subst x) | clear_value x)
    | with_reducible refine State.set_keeps ?_
    | with_reducible refine State.post_keeps ?_
    | with_reducible refine State.setProbe_keeps ?_
    | with_reducible refine enterSweeping_keeps ?_
    | with_reducible refine keepsOut_next ?_
    | split
    | dsimp -zeta only
    | (rw [keeps_mk]; refine keepsParts_fold ?_))

theorem refCapture_keeps {org : State} {s : State} {p : Nat} (hs : Keeps org s) :
    Keeps org (refCapture s p) := by
  unfold refCapture
  repeat' (first
    | with_reducible assumption
    | with_reducible refine State.set_keeps ?_
    | split
    | dsimp -zeta only)

theorem execSnapshotLoopOwnership_keeps {org : State} {ring : Fin 16} {s : State} (hs : Keeps org s) :
    KeepsOut org (execSnapshotLoopOwnership ring s) := by
  unfold execSnapshotLoopOwnership
  repeat' (first
    | with_reducible assumption
    | with_reducible refine snapshotRun_keeps ?_
    | with_reducible refine keepsOut_next ?_
    | split
    | dsimp -zeta only)

end Sys2Proof.Machine
end

