-- ==== Sys2Proof/Laws/KeepsClocks.lean ====
section
/-! SUPPORT. The operations of Machine/Clocks.lean keep what every command keeps. -/

namespace Sys2Proof.Machine

theorem State.setClk_keeps {org : State} {s : State} {c : ClockState} (hs : Keeps org s) :
    Keeps org (State.setClk s c) := by
  unfold State.setClk
  repeat' (first
    | with_reducible assumption
    | split
    | dsimp -zeta only
    | (rw [keeps_mk]; refine keepsParts_fold ?_))

theorem clockRecord_keeps {org : State} {s : State} {cause domain : Nat} (hs : Keeps org s) :
    Keeps org (clockRecord s cause domain) := by
  unfold clockRecord
  repeat' (first
    | with_reducible assumption
    | with_reducible refine State.event_keeps ?_
    | split
    | dsimp -zeta only)

theorem trimUpdate_keeps {org : State} {s : State} (hs : Keeps org s) :
    Keeps org (trimUpdate s) := by
  unfold trimUpdate
  repeat' (first
    | with_reducible assumption
    | ((try lift_lets -underBinder); intro x; first | (with_reducible refine keeps_let (o := org) x ?_ ?_; rotate_left; intro hx; clear_value x; rotate_right; subst x) | clear_value x)
    | with_reducible refine State.set_keeps ?_
    | with_reducible refine State.setFlag_keeps ?_
    | split
    | dsimp -zeta only)

theorem pllRef_keeps {org : State} {s : State} (hs : Keeps org s) :
    Keeps org (pllRef s) := by
  unfold pllRef
  repeat' (first
    | with_reducible assumption
    | with_reducible refine State.setFlag_keeps ?_
    | split
    | dsimp -zeta only)

theorem execWarmReady_keeps {org : State} {s : State} (hs : Keeps org s) :
    KeepsOut org (execWarmReady s) := by
  unfold execWarmReady
  repeat' (first
    | with_reducible assumption
    | with_reducible refine State.set_keeps ?_
    | with_reducible refine pllRef_keeps ?_
    | with_reducible refine keepsOut_next ?_
    | split
    | dsimp -zeta only)

theorem execCrystalProven_keeps {org : State} {s : State} (hs : Keeps org s) :
    KeepsOut org (execCrystalProven s) := by
  unfold execCrystalProven
  repeat' (first
    | with_reducible assumption
    | with_reducible refine State.set_keeps ?_
    | with_reducible refine trimUpdate_keeps ?_
    | with_reducible refine pllRef_keeps ?_
    | with_reducible refine keepsOut_next ?_
    | split
    | dsimp -zeta only)

theorem domainTo_keeps {org : State} {s : State} {d st div : Nat} (hs : Keeps org s) :
    Keeps org (domainTo s d st div) := by
  unfold domainTo
  repeat' (first
    | with_reducible assumption
    | with_reducible refine State.set_keeps ?_
    | split
    | dsimp -zeta only)

theorem execXtalLost_keeps {org : State} {s : State} (hs : Keeps org s) :
    KeepsOut org (execXtalLost s) := by
  unfold execXtalLost
  repeat' (first
    | with_reducible assumption
    | ((try lift_lets -underBinder); intro x; first | (with_reducible refine keeps_let (o := org) x ?_ ?_; rotate_left; intro hx; clear_value x; rotate_right; subst x) | (with_reducible refine keeps_let_fun x ?_; subst x) | clear_value x)
    | with_reducible refine State.set_keeps ?_
    | with_reducible refine State.bump_keeps ?_
    | with_reducible refine State.setClk_keeps ?_
    | with_reducible refine clockRecord_keeps ?_
    | with_reducible refine trimUpdate_keeps ?_
    | with_reducible refine pllRef_keeps ?_
    | with_reducible refine domainTo_keeps ?_
    | with_reducible refine State.each_keeps ?_ (fun s1 a1 h1 => ?_)
    | with_reducible refine keepsOut_next ?_
    | split
    | dsimp -zeta only
    | (rw [keeps_mk]; refine keepsParts_fold ?_))

theorem execRefinCheck_keeps {org : State} {dev : Option Int} {s : State} (hs : Keeps org s) :
    KeepsOut org (execRefinCheck dev s) := by
  unfold execRefinCheck
  repeat' (first
    | with_reducible assumption
    | with_reducible refine State.setFlag_keeps ?_
    | with_reducible refine trimUpdate_keeps ?_
    | with_reducible refine keepsOut_next ?_
    | split
    | dsimp -zeta only
    | (rw [keeps_mk]; refine keepsParts_fold ?_))

theorem execPllLock_keeps {org : State} {s : State} (hs : Keeps org s) :
    KeepsOut org (execPllLock s) := by
  unfold execPllLock
  repeat' (first
    | with_reducible assumption
    | ((try lift_lets -underBinder); intro x; first | (with_reducible refine keeps_let (o := org) x ?_ ?_; rotate_left; intro hx; clear_value x; rotate_right; subst x) | clear_value x)
    | with_reducible refine State.set_keeps ?_
    | with_reducible refine State.setClk_keeps ?_
    | with_reducible refine clockRecord_keeps ?_
    | with_reducible refine keepsOut_next ?_
    | split
    | dsimp -zeta only
    | (rw [keeps_mk]; refine keepsParts_fold ?_))

theorem execPllUnlock_keeps {org : State} {s : State} (hs : Keeps org s) :
    KeepsOut org (execPllUnlock s) := by
  unfold execPllUnlock
  repeat' (first
    | with_reducible assumption
    | ((try lift_lets -underBinder); intro x; first | (with_reducible refine keeps_let (o := org) x ?_ ?_; rotate_left; intro hx; clear_value x; rotate_right; subst x) | (with_reducible refine keeps_let_fun x ?_; subst x) | clear_value x)
    | with_reducible refine State.set_keeps ?_
    | with_reducible refine State.bump_keeps ?_
    | with_reducible refine loseSource_keeps ?_
    | with_reducible refine State.setClk_keeps ?_
    | with_reducible refine clockRecord_keeps ?_
    | with_reducible refine domainTo_keeps ?_
    | with_reducible refine State.each_keeps ?_ (fun s1 a1 h1 => ?_)
    | with_reducible refine keepsOut_next ?_
    | split
    | dsimp -zeta only
    | (rw [keeps_mk]; refine keepsParts_fold ?_))

theorem execForcedSwitch_keeps {org : State} {domain : Fin 6} {s : State} (hs : Keeps org s) :
    KeepsOut org (execForcedSwitch domain s) := by
  unfold execForcedSwitch
  repeat' (first
    | with_reducible assumption
    | ((try lift_lets -underBinder); intro x; first | (with_reducible refine keeps_let (o := org) x ?_ ?_; rotate_left; intro hx; clear_value x; rotate_right; subst x) | clear_value x)
    | with_reducible refine State.set_keeps ?_
    | with_reducible refine State.bump_keeps ?_
    | with_reducible refine State.setClk_keeps ?_
    | with_reducible refine clockRecord_keeps ?_
    | with_reducible refine keepsOut_next ?_
    | split
    | dsimp -zeta only
    | (rw [keeps_mk]; refine keepsParts_fold ?_))

theorem execStartRetry_keeps {org : State} {s : State} (hs : Keeps org s) :
    KeepsOut org (execStartRetry s) := by
  unfold execStartRetry
  repeat' (first
    | with_reducible assumption
    | ((try lift_lets -underBinder); intro x; first | (with_reducible refine keeps_let (o := org) x ?_ ?_; rotate_left; intro hx; clear_value x; rotate_right; subst x) | (with_reducible refine keeps_let_fun x ?_; subst x) | clear_value x)
    | with_reducible refine State.set_keeps ?_
    | with_reducible refine State.bump_keeps ?_
    | with_reducible refine State.setClk_keeps ?_
    | with_reducible refine clockRecord_keeps ?_
    | with_reducible refine domainTo_keeps ?_
    | with_reducible refine State.each_keeps ?_ (fun s1 a1 h1 => ?_)
    | with_reducible refine keepsOut_next ?_
    | split
    | dsimp -zeta only
    | (rw [keeps_mk]; refine keepsParts_fold ?_))

theorem oppNextStep_keeps {org : State} {s : State} (hs : Keeps org s) :
    Keeps org (oppNextStep s) := by
  unfold oppNextStep
  repeat' (first
    | with_reducible assumption
    | ((try lift_lets -underBinder); intro x; first | (with_reducible refine keeps_let (o := org) x ?_ ?_; rotate_left; intro hx; clear_value x; rotate_right; subst x) | clear_value x)
    | with_reducible refine State.set_keeps ?_
    | with_reducible refine State.setClk_keeps ?_
    | split
    | dsimp -zeta only
    | (rw [keeps_mk]; refine keepsParts_fold ?_))

theorem oppAdvance_keeps {org : State} {s : State} (hs : Keeps org s) :
    Keeps org (oppAdvance s) := by
  unfold oppAdvance
  repeat' (first
    | with_reducible assumption
    | ((try lift_lets -underBinder); intro x; first | (with_reducible refine keeps_let (o := org) x ?_ ?_; rotate_left; intro hx; clear_value x; rotate_right; subst x) | clear_value x)
    | with_reducible refine krfLoad_keeps ?_
    | with_reducible refine State.setClk_keeps ?_
    | with_reducible refine domainTo_keeps ?_
    | with_reducible refine oppNextStep_keeps ?_
    | split
    | dsimp -zeta only
    | (rw [keeps_mk]; refine keepsParts_fold ?_))

theorem execOppStepDone_keeps {org : State} {s : State} (hs : Keeps org s) :
    KeepsOut org (execOppStepDone s) := by
  unfold execOppStepDone
  repeat' (first
    | with_reducible assumption
    | with_reducible refine oppAdvance_keeps ?_
    | with_reducible refine keepsOut_next ?_
    | split
    | dsimp -zeta only)

theorem oppWrite_keeps {org : State} {s : State} {v : Nat} (hs : Keeps org s) :
    Keeps org (oppWrite s v) := by
  unfold oppWrite
  repeat' (first
    | with_reducible assumption
    | ((try lift_lets -underBinder); intro x; first | (with_reducible refine keeps_let (o := org) x ?_ ?_; rotate_left; intro hx; clear_value x; rotate_right; subst x) | clear_value x)
    | with_reducible refine State.set_keeps ?_
    | with_reducible refine State.setFlag_keeps ?_
    | with_reducible refine oppNextStep_keeps ?_
    | split
    | dsimp -zeta only)

theorem domainDone_keeps {org : State} {s : State} {d : Nat} (hs : Keeps org s) :
    Keeps org (domainDone s d) := by
  unfold domainDone
  repeat' (first
    | with_reducible assumption
    | ((try lift_lets -underBinder); intro x; first | (with_reducible refine keeps_let (o := org) x ?_ ?_; rotate_left; intro hx; clear_value x; rotate_right; subst x) | (with_reducible refine keeps_let_fun x ?_; subst x) | clear_value x)
    | with_reducible refine State.set_keeps ?_
    | with_reducible refine portsChanged_keeps ?_
    | with_reducible refine resumePorts_keeps ?_
    | with_reducible refine State.setClk_keeps ?_
    | with_reducible refine domainTo_keeps ?_
    | with_reducible refine oppAdvance_keeps ?_
    | with_reducible refine State.each_keeps ?_ (fun s1 a1 h1 => ?_)
    | split
    | dsimp -zeta only
    | (rw [keeps_mk]; refine keepsParts_fold ?_))

theorem clkCntClr_keeps {org : State} {s : State} (hs : Keeps org s) :
    Keeps org (clkCntClr s) := by
  unfold clkCntClr
  repeat' (first
    | with_reducible assumption
    | with_reducible refine State.clearAll_keeps ?_
    | split
    | dsimp -zeta only)

theorem blockRestart_keeps {org : State} {s : State} {b : Nat} (hs : Keeps org s) :
    Keeps org (blockRestart s b) := by
  unfold blockRestart
  repeat' (first
    | with_reducible assumption
    | ((try lift_lets -underBinder); intro x; first | (with_reducible refine keeps_let (o := org) x ?_ ?_; rotate_left; intro hx; clear_value x; rotate_right; subst x) | (with_reducible refine keeps_let_map x ?_; subst x) | (with_reducible refine keeps_let_flume x ?_; subst x) | clear_value x)
    | with_reducible refine State.set_keeps ?_
    | with_reducible refine resetWindow_keeps ?_
    | with_reducible refine baseValid_keeps ?_
    | with_reducible refine partPending_keeps ?_
    | with_reducible refine partApply_keeps ?_
    | split
    | dsimp -zeta only
    | with_reducible refine keeps_profileBuf ?_
    | with_reducible refine keeps_comp (fun h0 => ?_) ?_
    | with_reducible refine keeps_baseline (fun h0 => ?_) ?_
    | with_reducible refine swf_foldl (fun m1 b1 h1 => ?_) ?_
    | with_reducible refine swf_sput _ _ ?_
    | with_reducible refine swf_filter ?_
    | exact h0.baseline
    | rfl
    | (refine Keeps.change hx (fun h0 => ?_) rfl rfl rfl rfl; unfold State.Sound CoreWf DeckWf FlumeWf LandingWf BkgWf CruWf at *; simp_all [swf, swfFrom, DeckState.zero, BkgState.zero, CruState.zero, FlumeState.zero, LandingState.cold]; done))

theorem gateWrite_keeps {org : State} {s : State} {v : Nat} (hs : Keeps org s) :
    Keeps org (gateWrite s v) := by
  unfold gateWrite
  repeat' (first
    | with_reducible assumption
    | ((try lift_lets -underBinder); intro x; first | (with_reducible refine keeps_let (o := org) x ?_ ?_; rotate_left; intro hx; clear_value x; rotate_right; subst x) | (with_reducible refine keeps_let_fst (o := org) x ?_ ?_; rotate_left; intro hx; clear_value x; rotate_right; subst x) | (with_reducible refine keeps_let_fun x ?_; subst x) | clear_value x)
    | with_reducible refine State.set_keeps ?_
    | with_reducible refine State.wrErr_keeps ?_
    | with_reducible refine blockRestart_keeps ?_
    | with_reducible refine State.each_keeps ?_ (fun s1 a1 h1 => ?_)
    | with_reducible refine foldl_keeps ?_ (fun s1 a1 h1 => ?_)
    | with_reducible refine foldl_fst_keeps ?_ (fun s1 a1 h1 => ?_)
    | split
    | dsimp -zeta only)

theorem gatedAccess_keeps {org : State} {s : State} {b : Nat} (hs : Keeps org s) :
    Keeps org (gatedAccess s b) := by
  unfold gatedAccess
  repeat' (first
    | with_reducible assumption
    | with_reducible refine State.set_keeps ?_
    | with_reducible refine State.bump_keeps ?_
    | split
    | dsimp -zeta only)

theorem execGatedAccess_keeps {org : State} {block : Fin 19} {off : BitVec 16} {wr : Bool} {s : State} (hs : Keeps org s) :
    KeepsOut org (execGatedAccess block off wr s) := by
  unfold execGatedAccess
  repeat' (first
    | with_reducible assumption
    | ((try lift_lets -underBinder); intro x; first | (with_reducible refine keeps_let (o := org) x ?_ ?_; rotate_left; intro hx; clear_value x; rotate_right; subst x) | clear_value x)
    | with_reducible refine State.emit_keeps ?_
    | with_reducible refine gatedAccess_keeps ?_
    | with_reducible refine keepsOut_next ?_
    | split
    | dsimp -zeta only)

end Sys2Proof.Machine
end

