-- ==== Sys2Proof/Laws/KeepsFieldIo.lean ====
section
/-! SUPPORT. The operations of Machine/FieldIo.lean keep what every command keeps. -/

namespace Sys2Proof.Machine

theorem State.setFio_keeps {org s : State} {n : Nat} {x : FioChan} (h : Keeps org s) : Keeps org (s.setFio n x) := by
  refine h.change (fun hs => ?_) rfl rfl rfl rfl
  unfold State.Sound CoreWf State.setFio at *
  simp only [hs, swf_sput, and_self]

theorem fioRefresh_keeps {org : State} {s : State} {n : Nat} (hs : Keeps org s) :
    Keeps org (fioRefresh s n) := by
  unfold fioRefresh
  repeat' (first
    | with_reducible assumption
    | ((try lift_lets -underBinder); intro x; first | (with_reducible refine keeps_let (o := org) x ?_ ?_; rotate_left; intro hx; clear_value x; rotate_right; subst x) | clear_value x)
    | with_reducible refine State.setFlag_keeps ?_
    | split
    | dsimp -zeta only)

theorem linkRecord_keeps {org : State} {s : State} {n kind : Nat} {state : Bool} (hs : Keeps org s) :
    Keeps org (linkRecord s n kind state) := by
  unfold linkRecord
  repeat' (first
    | with_reducible assumption
    | with_reducible refine State.event_keeps ?_
    | split
    | dsimp -zeta only)

theorem leaveSafe_keeps {org : State} {s : State} {n : Nat} (hs : Keeps org s) :
    Keeps org (leaveSafe s n) := by
  unfold leaveSafe
  repeat' (first
    | with_reducible assumption
    | ((try lift_lets -underBinder); intro x; first | (with_reducible refine keeps_let (o := org) x ?_ ?_; rotate_left; intro hx; clear_value x; rotate_right; subst x) | clear_value x)
    | with_reducible refine State.set_keeps ?_
    | with_reducible refine State.setFio_keeps ?_
    | with_reducible refine fioRefresh_keeps ?_
    | with_reducible refine linkRecord_keeps ?_
    | split
    | dsimp -zeta only
    | (rw [keeps_mk]; refine keepsParts_fold ?_))

theorem fieldOff_keeps {org : State} {s : State} {n : Nat} (hs : Keeps org s) :
    Keeps org (fieldOff s n) := by
  unfold fieldOff
  repeat' (first
    | with_reducible assumption
    | ((try lift_lets -underBinder); intro x; first | (with_reducible refine keeps_let (o := org) x ?_ ?_; rotate_left; intro hx; clear_value x; rotate_right; subst x) | clear_value x)
    | with_reducible refine State.clearAll_keeps ?_
    | with_reducible refine State.setFio_keeps ?_
    | with_reducible refine leaveSafe_keeps ?_
    | split
    | dsimp -zeta only
    | (rw [keeps_mk]; refine keepsParts_fold ?_))

theorem fieldCfgWrite_keeps {org : State} {s : State} {n v : Nat} (hs : Keeps org s) :
    Keeps org (fieldCfgWrite s n v) := by
  unfold fieldCfgWrite
  repeat' (first
    | with_reducible assumption
    | ((try lift_lets -underBinder); intro x; first | (with_reducible refine keeps_let (o := org) x ?_ ?_; rotate_left; intro hx; clear_value x; rotate_right; subst x) | (with_reducible refine keeps_let_fun x ?_; subst x) | clear_value x)
    | with_reducible refine State.write_keeps ?_
    | with_reducible refine State.set_keeps ?_
    | with_reducible refine State.wrErr_keeps ?_
    | with_reducible refine refuseClaim_keeps ?_
    | with_reducible refine releaseOwn_keeps ?_
    | with_reducible refine State.setFio_keeps ?_
    | with_reducible refine fioRefresh_keeps ?_
    | with_reducible refine fieldOff_keeps ?_
    | with_reducible refine State.each_keeps ?_ (fun s1 a1 h1 => ?_)
    | split
    | dsimp -zeta only
    | (rw [keeps_mk]; refine keepsParts_fold ?_))

theorem execFioInput_keeps {org : State} {ch : Fin 16} {on : Bool} {stamp : BitVec 64} {s : State} (hs : Keeps org s) :
    KeepsOut org (execFioInput ch on stamp s) := by
  unfold execFioInput
  repeat' (first
    | with_reducible assumption
    | ((try lift_lets -underBinder); intro x; first | (with_reducible refine keeps_let (o := org) x ?_ ?_; rotate_left; intro hx; clear_value x; rotate_right; subst x) | clear_value x)
    | with_reducible refine State.set_keeps ?_
    | with_reducible refine State.bump_keeps ?_
    | with_reducible refine State.post_keeps ?_
    | with_reducible refine State.setFio_keeps ?_
    | with_reducible refine fioRefresh_keeps ?_
    | with_reducible refine keepsOut_next ?_
    | split
    | dsimp -zeta only
    | (rw [keeps_mk]; refine keepsParts_fold ?_))

theorem outWrite_keeps {org : State} {s : State} {v : Nat} (hs : Keeps org s) :
    Keeps org (outWrite s v) := by
  unfold outWrite
  repeat' (first
    | with_reducible assumption
    | ((try lift_lets -underBinder); intro x; first | (with_reducible refine keeps_let (o := org) x ?_ ?_; rotate_left; intro hx; clear_value x; rotate_right; subst x) | (with_reducible refine keeps_let_fun x ?_; subst x) | clear_value x)
    | with_reducible refine State.setFlag_keeps ?_
    | with_reducible refine State.setFio_keeps ?_
    | with_reducible refine fioRefresh_keeps ?_
    | with_reducible refine State.each_keeps ?_ (fun s1 a1 h1 => ?_)
    | split
    | dsimp -zeta only
    | (rw [keeps_mk]; refine keepsParts_fold ?_))

theorem outSet_keeps {org : State} {s : State} {v : Nat} (hs : Keeps org s) :
    Keeps org (outSet s v) := by
  unfold outSet
  repeat' (first
    | with_reducible assumption
    | with_reducible refine outWrite_keeps ?_
    | split
    | dsimp -zeta only)

theorem outClr_keeps {org : State} {s : State} {v : Nat} (hs : Keeps org s) :
    Keeps org (outClr s v) := by
  unfold outClr
  repeat' (first
    | with_reducible assumption
    | with_reducible refine outWrite_keeps ?_
    | split
    | dsimp -zeta only)

theorem execPulsePhaseExpiry_keeps {org : State} {ch : Fin 16} {s : State} (hs : Keeps org s) :
    KeepsOut org (execPulsePhaseExpiry ch s) := by
  unfold execPulsePhaseExpiry
  repeat' (first
    | with_reducible assumption
    | ((try lift_lets -underBinder); intro x; first | (with_reducible refine keeps_let (o := org) x ?_ ?_; rotate_left; intro hx; clear_value x; rotate_right; subst x) | clear_value x)
    | with_reducible refine State.setFio_keeps ?_
    | with_reducible refine fioRefresh_keeps ?_
    | with_reducible refine keepsOut_next ?_
    | split
    | dsimp -zeta only
    | (rw [keeps_mk]; refine keepsParts_fold ?_))

theorem diagEval_keeps {org : State} {s : State} {n k : Nat} (hs : Keeps org s) :
    Keeps org (diagEval s n k) := by
  unfold diagEval
  repeat' (first
    | with_reducible assumption
    | ((try lift_lets -underBinder); intro x; first | (with_reducible refine keeps_let (o := org) x ?_ ?_; rotate_left; intro hx; clear_value x; rotate_right; subst x) | (with_reducible refine keeps_let_fst (o := org) x ?_ ?_; rotate_left; intro hx; clear_value x; rotate_right; subst x) | (with_reducible refine keeps_let_fun x ?_; subst x) | clear_value x)
    | with_reducible refine State.setFlag_keeps ?_
    | with_reducible refine faultRecord_keeps ?_
    | with_reducible refine State.setFio_keeps ?_
    | split
    | dsimp -zeta only
    | (rw [keeps_mk]; refine keepsParts_fold ?_))

theorem execOutputDiagEvaluation_keeps {org : State} {s : State} (hs : Keeps org s) :
    KeepsOut org (execOutputDiagEvaluation s) := by
  unfold execOutputDiagEvaluation
  repeat' (first
    | with_reducible assumption
    | ((try lift_lets -underBinder); intro x; first | (with_reducible refine keeps_let (o := org) x ?_ ?_; rotate_left; intro hx; clear_value x; rotate_right; subst x) | (with_reducible refine keeps_let_fst (o := org) x ?_ ?_; rotate_left; intro hx; clear_value x; rotate_right; subst x) | (with_reducible refine keeps_let_fun x ?_; subst x) | clear_value x)
    | with_reducible refine State.setFio_keeps ?_
    | with_reducible refine diagEval_keeps ?_
    | with_reducible refine State.each_keeps ?_ (fun s1 a1 h1 => ?_)
    | with_reducible refine foldl_keeps ?_ (fun s1 a1 h1 => ?_)
    | with_reducible refine foldl_fst_keeps ?_ (fun s1 a1 h1 => ?_)
    | with_reducible refine keepsOut_next ?_
    | split
    | dsimp -zeta only
    | (rw [keeps_mk]; refine keepsParts_fold ?_))

theorem execOutputOvertemp_keeps {org : State} {ch : Fin 16} {s : State} (hs : Keeps org s) :
    KeepsOut org (execOutputOvertemp ch s) := by
  unfold execOutputOvertemp
  repeat' (first
    | with_reducible assumption
    | ((try lift_lets -underBinder); intro x; first | (with_reducible refine keeps_let (o := org) x ?_ ?_; rotate_left; intro hx; clear_value x; rotate_right; subst x) | clear_value x)
    | with_reducible refine State.set_keeps ?_
    | with_reducible refine State.setFio_keeps ?_
    | with_reducible refine fioRefresh_keeps ?_
    | with_reducible refine keepsOut_next ?_
    | split
    | dsimp -zeta only
    | (rw [keeps_mk]; refine keepsParts_fold ?_))

theorem execOutputOvertempRecover_keeps {org : State} {ch : Fin 16} {s : State} (hs : Keeps org s) :
    KeepsOut org (execOutputOvertempRecover ch s) := by
  unfold execOutputOvertempRecover
  repeat' (first
    | with_reducible assumption
    | ((try lift_lets -underBinder); intro x; first | (with_reducible refine keeps_let (o := org) x ?_ ?_; rotate_left; intro hx; clear_value x; rotate_right; subst x) | clear_value x)
    | with_reducible refine State.set_keeps ?_
    | with_reducible refine State.setFio_keeps ?_
    | with_reducible refine fioRefresh_keeps ?_
    | with_reducible refine keepsOut_next ?_
    | split
    | dsimp -zeta only
    | (rw [keeps_mk]; refine keepsParts_fold ?_))

theorem fieldFrame_keeps {org : State} {s : State} {n : Nat} {raw : Bool} {pin : Option Bool} {ovl openWire cont : Bool} (hs : Keeps org s) :
    Keeps org (fieldFrame s n raw pin ovl openWire cont) := by
  unfold fieldFrame
  repeat' (first
    | with_reducible assumption
    | ((try lift_lets -underBinder); intro x; first | (with_reducible refine keeps_let (o := org) x ?_ ?_; rotate_left; intro hx; clear_value x; rotate_right; subst x) | (with_reducible refine keeps_let_fun x ?_; subst x) | clear_value x)
    | with_reducible refine State.set_keeps ?_
    | with_reducible refine State.setFlag_keeps ?_
    | with_reducible refine State.setFio_keeps ?_
    | with_reducible refine fioRefresh_keeps ?_
    | with_reducible refine linkRecord_keeps ?_
    | with_reducible refine State.each_keeps ?_ (fun s1 a1 h1 => ?_)
    | split
    | dsimp -zeta only
    | (rw [keeps_mk]; refine keepsParts_fold ?_))

theorem commandFrame_keeps {org : State} {s : State} {n : Nat} (hs : Keeps org s) :
    Keeps org (commandFrame s n) := by
  unfold commandFrame
  repeat' (first
    | with_reducible assumption
    | ((try lift_lets -underBinder); intro x; first | (with_reducible refine keeps_let (o := org) x ?_ ?_; rotate_left; intro hx; clear_value x; rotate_right; subst x) | clear_value x)
    | with_reducible refine State.setFio_keeps ?_
    | with_reducible refine fioRefresh_keeps ?_
    | with_reducible refine leaveSafe_keeps ?_
    | split
    | dsimp -zeta only
    | (rw [keeps_mk]; refine keepsParts_fold ?_))

theorem execCouplerFrame_keeps {org : State} {ch : Fin 16} {frame : FieldFrame} {s : State} (hs : Keeps org s) :
    KeepsOut org (execCouplerFrame ch frame s) := by
  unfold execCouplerFrame
  repeat' (first
    | with_reducible assumption
    | with_reducible refine fieldFrame_keeps ?_
    | with_reducible refine commandFrame_keeps ?_
    | with_reducible refine keepsOut_next ?_
    | split
    | dsimp -zeta only
    | (rw [keeps_mk]; refine keepsParts_fold ?_))

theorem execChannelStale_keeps {org : State} {ch : Fin 16} {s : State} (hs : Keeps org s) :
    KeepsOut org (execChannelStale ch s) := by
  unfold execChannelStale
  repeat' (first
    | with_reducible assumption
    | ((try lift_lets -underBinder); intro x; first | (with_reducible refine keeps_let (o := org) x ?_ ?_; rotate_left; intro hx; clear_value x; rotate_right; subst x) | clear_value x)
    | with_reducible refine State.set_keeps ?_
    | with_reducible refine fioRefresh_keeps ?_
    | with_reducible refine linkRecord_keeps ?_
    | with_reducible refine keepsOut_next ?_
    | split
    | dsimp -zeta only)

theorem execSilenceTimeout_keeps {org : State} {ch : Fin 16} {s : State} (hs : Keeps org s) :
    KeepsOut org (execSilenceTimeout ch s) := by
  unfold execSilenceTimeout
  repeat' (first
    | with_reducible assumption
    | ((try lift_lets -underBinder); intro x; first | (with_reducible refine keeps_let (o := org) x ?_ ?_; rotate_left; intro hx; clear_value x; rotate_right; subst x) | clear_value x)
    | with_reducible refine State.set_keeps ?_
    | with_reducible refine State.bump_keeps ?_
    | with_reducible refine State.setFio_keeps ?_
    | with_reducible refine fioRefresh_keeps ?_
    | with_reducible refine linkRecord_keeps ?_
    | with_reducible refine keepsOut_next ?_
    | split
    | dsimp -zeta only
    | (rw [keeps_mk]; refine keepsParts_fold ?_))

theorem safeClr_keeps {org : State} {s : State} {v : Nat} (hs : Keeps org s) :
    Keeps org (safeClr s v) := by
  unfold safeClr
  repeat' (first
    | with_reducible assumption
    | with_reducible refine leaveSafe_keeps ?_
    | with_reducible refine State.each_keeps ?_ (fun s1 a1 h1 => ?_)
    | split
    | dsimp -zeta only)

theorem resetFrames_keeps {org : State} {s : State} (hs : Keeps org s) :
    Keeps org (resetFrames s) := by
  unfold resetFrames
  repeat' (first
    | with_reducible assumption
    | ((try lift_lets -underBinder); intro x; first | (with_reducible refine keeps_let (o := org) x ?_ ?_; rotate_left; intro hx; clear_value x; rotate_right; subst x) | (with_reducible refine keeps_let_fun x ?_; subst x) | clear_value x)
    | with_reducible refine State.emit_keeps ?_
    | with_reducible refine State.setFio_keeps ?_
    | with_reducible refine fioRefresh_keeps ?_
    | with_reducible refine State.each_keeps ?_ (fun s1 a1 h1 => ?_)
    | split
    | dsimp -zeta only
    | (rw [keeps_mk]; refine keepsParts_fold ?_))

theorem execVmainLoss_keeps {org : State} {s : State} (hs : Keeps org s) :
    KeepsOut org (execVmainLoss s) := by
  unfold execVmainLoss
  repeat' (first
    | with_reducible assumption
    | with_reducible refine resetFrames_keeps ?_
    | with_reducible refine keepsOut_next ?_
    | split
    | dsimp -zeta only)

theorem fsupLevel_keeps {org : State} {s : State} {low : Bool} (hs : Keeps org s) :
    Keeps org (fsupLevel s low) := by
  unfold fsupLevel
  repeat' (first
    | with_reducible assumption
    | ((try lift_lets -underBinder); intro x; first | (with_reducible refine keeps_let (o := org) x ?_ ?_; rotate_left; intro hx; clear_value x; rotate_right; subst x) | clear_value x)
    | with_reducible refine State.set_keeps ?_
    | with_reducible refine State.setFlag_keeps ?_
    | with_reducible refine State.event_keeps ?_
    | split
    | dsimp -zeta only)

theorem execFsupHandover_keeps {org : State} {value : BitVec 10} {s : State} (hs : Keeps org s) :
    KeepsOut org (execFsupHandover value s) := by
  unfold execFsupHandover
  repeat' (first
    | with_reducible assumption
    | ((try lift_lets -underBinder); intro x; first | (with_reducible refine keeps_let (o := org) x ?_ ?_; rotate_left; intro hx; clear_value x; rotate_right; subst x) | clear_value x)
    | with_reducible refine State.set_keeps ?_
    | with_reducible refine fsupLevel_keeps ?_
    | with_reducible refine keepsOut_next ?_
    | split
    | dsimp -zeta only)

theorem execFsupLow_keeps {org : State} {value : BitVec 10} {s : State} (hs : Keeps org s) :
    KeepsOut org (execFsupLow value s) := by
  unfold execFsupLow
  repeat' (first
    | with_reducible assumption
    | ((try lift_lets -underBinder); intro x; first | (with_reducible refine keeps_let (o := org) x ?_ ?_; rotate_left; intro hx; clear_value x; rotate_right; subst x) | clear_value x)
    | with_reducible refine State.set_keeps ?_
    | with_reducible refine fsupLevel_keeps ?_
    | with_reducible refine keepsOut_next ?_
    | split
    | dsimp -zeta only)

theorem fioCntClr_keeps {org : State} {s : State} (hs : Keeps org s) :
    Keeps org (fioCntClr s) := by
  unfold fioCntClr
  repeat' (first
    | with_reducible assumption
    | ((try lift_lets -underBinder); intro x; first | (with_reducible refine keeps_let (o := org) x ?_ ?_; rotate_left; intro hx; clear_value x; rotate_right; subst x) | (with_reducible refine keeps_let_fst (o := org) x ?_ ?_; rotate_left; intro hx; clear_value x; rotate_right; subst x) | (with_reducible refine keeps_let_fun x ?_; subst x) | clear_value x)
    | with_reducible refine State.clearAll_keeps ?_
    | with_reducible refine State.setFio_keeps ?_
    | with_reducible refine State.each_keeps ?_ (fun s1 a1 h1 => ?_)
    | split
    | dsimp -zeta only
    | (rw [keeps_mk]; refine keepsParts_fold ?_))

end Sys2Proof.Machine
end

