-- ==== Sys2Proof/Laws/KeepsKerf.lean ====
section
/-! SUPPORT. The operations of Machine/Kerf.lean keep what every command keeps. -/

namespace Sys2Proof.Machine

theorem learnAll_keeps {org : State} {s : State} {p : Nat} {t : Slot} (hs : Keeps org s) :
    Keeps org (learnAll s p t) := by
  unfold learnAll
  repeat' (first
    | with_reducible assumption
    | ((try lift_lets -underBinder); intro x; first | (with_reducible refine keeps_let (o := org) x ?_ ?_; rotate_left; intro hx; clear_value x; rotate_right; subst x) | (with_reducible refine keeps_let_fst (o := org) x ?_ ?_; rotate_left; intro hx; clear_value x; rotate_right; subst x) | (with_reducible refine keeps_let_fun x ?_; subst x) | clear_value x)
    | with_reducible refine State.set_keeps ?_
    | with_reducible refine State.setKerf_keeps ?_
    | with_reducible refine foldl_keeps ?_ (fun s1 a1 h1 => ?_)
    | with_reducible refine foldl_fst_keeps ?_ (fun s1 a1 h1 => ?_)
    | split
    | dsimp -zeta only
    | (rw [keeps_mk]; refine keepsParts_fold ?_))

theorem applyRestart_keeps {org : State} {s : State} {p : Nat} {t : Slot} (hs : Keeps org s) :
    Keeps org (applyRestart s p t) := by
  unfold applyRestart
  repeat' (first
    | with_reducible assumption
    | ((try lift_lets -underBinder); intro x; first | (with_reducible refine keeps_let (o := org) x ?_ ?_; rotate_left; intro hx; clear_value x; rotate_right; subst x) | (with_reducible refine keeps_let_fun x ?_; subst x) | clear_value x)
    | with_reducible refine State.setKerf_keeps ?_
    | split
    | dsimp -zeta only
    | (rw [keeps_mk]; refine keepsParts_fold ?_))

theorem keepRecent_keeps {org : State} {s : State} {p : Nat} {t : Slot} {l : List RawSample} {dead : Bool} (hs : Keeps org s) :
    Keeps org (keepRecent s p t l dead) := by
  unfold keepRecent
  repeat' (first
    | with_reducible assumption
    | ((try lift_lets -underBinder); intro x; first | (with_reducible refine keeps_let (o := org) x ?_ ?_; rotate_left; intro hx; clear_value x; rotate_right; subst x) | (with_reducible refine keeps_let_fun x ?_; subst x) | clear_value x)
    | with_reducible refine State.setKerf_keeps ?_
    | split
    | dsimp -zeta only
    | (rw [keeps_mk]; refine keepsParts_fold ?_))

theorem startRecord_keeps {org : State} {s : State} (hs : Keeps org s) :
    Keeps org (startRecord s) := by
  unfold startRecord
  repeat' (first
    | with_reducible assumption
    | ((try lift_lets -underBinder); intro x; first | (with_reducible refine keeps_let (o := org) x ?_ ?_; rotate_left; intro hx; clear_value x; rotate_right; subst x) | clear_value x)
    | with_reducible refine State.set_keeps ?_
    | with_reducible refine State.event_keeps ?_
    | split
    | dsimp -zeta only
    | (rw [keeps_mk]; refine keepsParts_fold ?_))

theorem slotSeen_keeps {org : State} {s : State} (hs : Keeps org s) :
    Keeps org (slotSeen s) := by
  unfold slotSeen
  repeat' (first
    | with_reducible assumption
    | with_reducible refine State.set_keeps ?_
    | with_reducible refine startRecord_keeps ?_
    | split
    | dsimp -zeta only
    | (rw [keeps_mk]; refine keepsParts_fold ?_))

theorem deliverSlot_keeps {org : State} {s : State} {port : Port} {t : Slot} {bytes : List Byte} (hs : Keeps org s) :
    Keeps org (deliverSlot s port t bytes) := by
  unfold deliverSlot
  repeat' (first
    | with_reducible assumption
    | ((try lift_lets -underBinder); intro x; first | (with_reducible refine keeps_let (o := org) x ?_ ?_; rotate_left; intro hx; clear_value x; rotate_right; subst x) | clear_value x)
    | with_reducible refine publish_keeps ?_
    | with_reducible refine ringStore_keeps ?_
    | with_reducible refine pumpCaptures2_keeps ?_
    | with_reducible refine slotSeen_keeps ?_
    | split
    | dsimp -zeta only)

theorem qualityMap_keeps {org : State} {s : State} {p : Nat} {t : Slot} {l : List OutSample} (hs : Keeps org s) :
    Keeps org (qualityMap s p t l) := by
  unfold qualityMap
  repeat' (first
    | with_reducible assumption
    | ((try lift_lets -underBinder); intro x; first | (with_reducible refine keeps_let (o := org) x ?_ ?_; rotate_left; intro hx; clear_value x; rotate_right; subst x) | (with_reducible refine keeps_let_fun x ?_; subst x) | clear_value x)
    | with_reducible refine State.set_keeps ?_
    | with_reducible refine State.setKerf_keeps ?_
    | split
    | dsimp -zeta only
    | (rw [keeps_mk]; refine keepsParts_fold ?_))

theorem countSamples_keeps {org : State} {s : State} {p : Nat} {l : List OutSample} (hs : Keeps org s) :
    Keeps org (countSamples s p l) := by
  unfold countSamples
  repeat' (first
    | with_reducible assumption
    | ((try lift_lets -underBinder); intro x; first | (with_reducible refine keeps_let (o := org) x ?_ ?_; rotate_left; intro hx; clear_value x; rotate_right; subst x) | (with_reducible refine keeps_let_fst (o := org) x ?_ ?_; rotate_left; intro hx; clear_value x; rotate_right; subst x) | (with_reducible refine keeps_let_fun x ?_; subst x) | clear_value x)
    | with_reducible refine State.count_keeps ?_
    | with_reducible refine foldl_keeps ?_ (fun s1 a1 h1 => ?_)
    | with_reducible refine foldl_fst_keeps ?_ (fun s1 a1 h1 => ?_)
    | split
    | dsimp -zeta only)

theorem countInput_keeps {org : State} {s : State} {p : Nat} {i : SlotInput} (hs : Keeps org s) :
    Keeps org (countInput s p i) := by
  unfold countInput
  repeat' (first
    | with_reducible assumption
    | ((try lift_lets -underBinder); intro x; first | (with_reducible refine keeps_let (o := org) x ?_ ?_; rotate_left; intro hx; clear_value x; rotate_right; subst x) | clear_value x)
    | with_reducible refine State.set_keeps ?_
    | with_reducible refine State.count_keeps ?_
    | split
    | dsimp -zeta only)

theorem bareRecord_keeps {org : State} {s : State} {port : Port} {t : Slot} {dropped : Bool} (hs : Keeps org s) :
    Keeps org (bareRecord s port t dropped) := by
  unfold bareRecord
  repeat' (first
    | with_reducible assumption
    | ((try lift_lets -underBinder); intro x; first | (with_reducible refine keeps_let (o := org) x ?_ ?_; rotate_left; intro hx; clear_value x; rotate_right; subst x) | clear_value x)
    | with_reducible refine State.set_keeps ?_
    | with_reducible refine bkgRecord_keeps ?_
    | with_reducible refine sclRecord_keeps ?_
    | with_reducible refine deliverSlot_keeps ?_
    | split
    | dsimp -zeta only)

theorem droppedRecord_keeps {org : State} {s : State} {port : Port} {t : Slot} (hs : Keeps org s) :
    Keeps org (droppedRecord s port t) := by
  unfold droppedRecord
  repeat' (first
    | with_reducible assumption
    | ((try lift_lets -underBinder); intro x; first | (with_reducible refine keeps_let (o := org) x ?_ ?_; rotate_left; intro hx; clear_value x; rotate_right; subst x) | clear_value x)
    | with_reducible refine State.set_keeps ?_
    | with_reducible refine State.bump_keeps ?_
    | with_reducible refine learnAll_keeps ?_
    | with_reducible refine bareRecord_keeps ?_
    | split
    | dsimp -zeta only)

theorem fullRecord_keeps {org : State} {s : State} {port : Port} {t : Slot} {a b : SlotInput} (hs : Keeps org s) :
    Keeps org (fullRecord s port t a b) := by
  unfold fullRecord
  repeat' (first
    | with_reducible assumption
    | ((try lift_lets -underBinder); intro x; first | (with_reducible refine keeps_let (o := org) x ?_ ?_; rotate_left; intro hx; clear_value x; rotate_right; subst x) | (with_reducible refine keeps_let_fun x ?_; subst x) | clear_value x)
    | with_reducible refine State.set_keeps ?_
    | with_reducible refine State.setKerf_keeps ?_
    | with_reducible refine bkgRecord_keeps ?_
    | with_reducible refine sclRecord_keeps ?_
    | with_reducible refine learnAll_keeps ?_
    | with_reducible refine applyRestart_keeps ?_
    | with_reducible refine keepRecent_keeps ?_
    | with_reducible refine deliverSlot_keeps ?_
    | with_reducible refine qualityMap_keeps ?_
    | with_reducible refine countSamples_keeps ?_
    | with_reducible refine countInput_keeps ?_
    | split
    | dsimp -zeta only
    | (rw [keeps_mk]; refine keepsParts_fold ?_))

theorem execSlotRecordComplete_keeps {org : State} {port : Port} {a b : SlotInput} {s : State} (hs : Keeps org s) :
    KeepsOut org (execSlotRecordComplete port a b s) := by
  unfold execSlotRecordComplete
  repeat' (first
    | with_reducible assumption
    | ((try lift_lets -underBinder); intro x; first | (with_reducible refine keeps_let (o := org) x ?_ ?_; rotate_left; intro hx; clear_value x; rotate_right; subst x) | (with_reducible refine keeps_let_fst (o := org) x ?_ ?_; rotate_left; intro hx; clear_value x; rotate_right; subst x) | (with_reducible refine keeps_let_fun x ?_; subst x) | clear_value x)
    | with_reducible refine State.setProbe_keeps ?_
    | with_reducible refine portOff_keeps ?_
    | with_reducible refine cutEvaluate_keeps ?_
    | with_reducible refine bareRecord_keeps ?_
    | with_reducible refine droppedRecord_keeps ?_
    | with_reducible refine fullRecord_keeps ?_
    | with_reducible refine foldl_keeps ?_ (fun s1 a1 h1 => ?_)
    | with_reducible refine foldl_fst_keeps ?_ (fun s1 a1 h1 => ?_)
    | with_reducible refine keepsOut_next ?_
    | split
    | dsimp -zeta only
    | (rw [keeps_mk]; refine keepsParts_fold ?_))

theorem execSnapshotQualityMap_keeps {org : State} {ring : Fin 16} {s : State} (hs : Keeps org s) :
    KeepsOut org (execSnapshotQualityMap ring s) := by
  unfold execSnapshotQualityMap
  repeat' (first
    | with_reducible assumption
    | with_reducible refine snapshotRun_keeps ?_
    | with_reducible refine keepsOut_next ?_
    | split
    | dsimp -zeta only)

theorem krfCntClr_keeps {org : State} {s : State} (hs : Keeps org s) :
    Keeps org (krfCntClr s) := by
  unfold krfCntClr
  repeat' (first
    | with_reducible assumption
    | with_reducible refine State.clearAll_keeps ?_
    | split
    | dsimp -zeta only)

end Sys2Proof.Machine
end

