-- ==== Sys2Proof/Laws/KeepsSupervision.lean ====
section
/-! SUPPORT. The operations of Machine/Supervision.lean keep what every command keeps. -/

namespace Sys2Proof.Machine

theorem execOvercurrentTrip_keeps {org : State} {target : OcTarget} {s : State} (hs : Keeps org s) :
    KeepsOut org (execOvercurrentTrip target s) := by
  unfold execOvercurrentTrip
  repeat' (first
    | with_reducible assumption
    | ((try lift_lets -underBinder); intro x; first | (with_reducible refine keeps_let (o := org) x ?_ ?_; rotate_left; intro hx; clear_value x; rotate_right; subst x) | clear_value x)
    | with_reducible refine State.setObj_keeps ?_
    | with_reducible refine State.setBankSt_keeps ?_
    | with_reducible refine pinEval_keeps ?_
    | with_reducible refine keepsOut_next ?_
    | split
    | dsimp -zeta only
    | (rw [keeps_mk]; refine keepsParts_fold ?_))

theorem execOcRetry_keeps {org : State} {obj : Fin 112} {trips : Bool} {s : State} (hs : Keeps org s) :
    KeepsOut org (execOcRetry obj trips s) := by
  unfold execOcRetry
  repeat' (first
    | with_reducible assumption
    | ((try lift_lets -underBinder); intro x; first | (with_reducible refine keeps_let (o := org) x ?_ ?_; rotate_left; intro hx; clear_value x; rotate_right; subst x) | clear_value x)
    | with_reducible refine State.setObj_keeps ?_
    | with_reducible refine pinEval_keeps ?_
    | with_reducible refine keepsOut_next ?_
    | split
    | dsimp -zeta only
    | (rw [keeps_mk]; refine keepsParts_fold ?_))

theorem execLitUncmd_keeps {org : State} {obj : Fin 112} {volt : Bool} {on : Bool} {s : State} (hs : Keeps org s) :
    KeepsOut org (execLitUncmd obj volt on s) := by
  unfold execLitUncmd
  repeat' (first
    | with_reducible assumption
    | ((try lift_lets -underBinder); intro x; first | (with_reducible refine keeps_let (o := org) x ?_ ?_; rotate_left; intro hx; clear_value x; rotate_right; subst x) | clear_value x)
    | with_reducible refine State.setObj_keeps ?_
    | with_reducible refine keepsOut_next ?_
    | split
    | dsimp -zeta only
    | (rw [keeps_mk]; refine keepsParts_fold ?_))

theorem execProofTimeout_keeps {org : State} {pin : Fin 96} {s : State} (hs : Keeps org s) :
    KeepsOut org (execProofTimeout pin s) := by
  unfold execProofTimeout
  repeat' (first
    | with_reducible assumption
    | ((try lift_lets -underBinder); intro x; first | (with_reducible refine keeps_let (o := org) x ?_ ?_; rotate_left; intro hx; clear_value x; rotate_right; subst x) | clear_value x)
    | with_reducible refine State.setObj_keeps ?_
    | with_reducible refine keepsOut_next ?_
    | split
    | dsimp -zeta only
    | (rw [keeps_mk]; refine keepsParts_fold ?_))

theorem execLsupMonitorReading_keeps {org : State} {value : BitVec 12} {below above : Bool} {s : State} (hs : Keeps org s) :
    KeepsOut org (execLsupMonitorReading value below above s) := by
  unfold execLsupMonitorReading
  repeat' (first
    | with_reducible assumption
    | ((try lift_lets -underBinder); intro x; first | (with_reducible refine keeps_let (o := org) x ?_ ?_; rotate_left; intro hx; clear_value x; rotate_right; subst x) | (with_reducible refine keeps_let_fst (o := org) x ?_ ?_; rotate_left; intro hx; clear_value x; rotate_right; subst x) | clear_value x)
    | with_reducible refine State.set_keeps ?_
    | with_reducible refine State.event_keeps ?_
    | with_reducible refine supplyTest_keeps ?_
    | with_reducible refine foldl_keeps ?_ (fun s1 a1 h1 => ?_)
    | with_reducible refine foldl_fst_keeps ?_ (fun s1 a1 h1 => ?_)
    | with_reducible refine keepsOut_next ?_
    | split
    | dsimp -zeta only)

theorem execAdjacentPinTest_keeps {org : State} {pair : Fin 95} {low : Option Bool} {s : State} (hs : Keeps org s) :
    KeepsOut org (execAdjacentPinTest pair low s) := by
  unfold execAdjacentPinTest
  repeat' (first
    | with_reducible assumption
    | ((try lift_lets -underBinder); intro x; first | (with_reducible refine keeps_let (o := org) x ?_ ?_; rotate_left; intro hx; clear_value x; rotate_right; subst x) | (with_reducible refine keeps_let_fst (o := org) x ?_ ?_; rotate_left; intro hx; clear_value x; rotate_right; subst x) | clear_value x)
    | with_reducible refine State.set_keeps ?_
    | with_reducible refine State.setAdj_keeps ?_
    | with_reducible refine faultRecord_keeps ?_
    | with_reducible refine keepsOut_next ?_
    | split
    | dsimp -zeta only
    | (rw [keeps_mk]; refine keepsParts_fold ?_))

theorem execSnapshotSupervision_keeps {org : State} {ring : Fin 16} {s : State} (hs : Keeps org s) :
    KeepsOut org (execSnapshotSupervision ring s) := by
  unfold execSnapshotSupervision
  repeat' (first
    | with_reducible assumption
    | ((try lift_lets -underBinder); intro x; first | (with_reducible refine keeps_let (o := org) x ?_ ?_; rotate_left; intro hx; clear_value x; rotate_right; subst x) | (with_reducible refine keeps_let_fun x ?_; subst x) | clear_value x)
    | with_reducible refine snapshotRun_keeps ?_
    | with_reducible refine keepsOut_next ?_
    | split
    | dsimp -zeta only)

end Sys2Proof.Machine
end

