-- ==== Sys2Proof/Laws/KeepsWedge.lean ====
section
/-! SUPPORT. The operations of Machine/Wedge.lean keep what every command keeps. -/

namespace Sys2Proof.Machine

theorem State.setWgroup_keeps {org : State} {s : State} {g : Nat} {w : WGroup} (hs : Keeps org s) :
    Keeps org (State.setWgroup s g w) := by
  unfold State.setWgroup
  repeat' (first
    | with_reducible assumption
    | ((try lift_lets -underBinder); intro x; first | (with_reducible refine keeps_let (o := org) x ?_ ?_; rotate_left; intro hx; clear_value x; rotate_right; subst x) | (with_reducible refine keeps_let_fun x ?_; subst x) | (with_reducible refine keeps_let_wedge x ?_; subst x) | clear_value x)
    | with_reducible refine State.write_keeps ?_
    | unfold State.setWedge
    | split
    | dsimp -zeta only
    | (rw [keeps_mk]; refine keepsParts_fold ?_)
    | (rw [keeps_mk]; refine keepsParts_change ?_ (fun h0 => by unfold SoundParts State.Sound RulesWf at *; simp only [h0, swf_sput, and_self])))

theorem aspectRecord_keeps {org : State} {s : State} {g : Nat} {before after : Option Nat} {cause : Nat} (hs : Keeps org s) :
    Keeps org (aspectRecord s g before after cause) := by
  unfold aspectRecord
  repeat' (first
    | with_reducible assumption
    | ((try lift_lets -underBinder); intro x; first | (with_reducible refine keeps_let (o := org) x ?_ ?_; rotate_left; intro hx; clear_value x; rotate_right; subst x) | (with_reducible refine keeps_let_fst (o := org) x ?_ ?_; rotate_left; intro hx; clear_value x; rotate_right; subst x) | clear_value x)
    | with_reducible refine State.event_keeps ?_
    | split
    | dsimp -zeta only)

theorem heldEnd_keeps {org : State} {s : State} {g : Nat} (hs : Keeps org s) :
    Keeps org (heldEnd s g) := by
  unfold heldEnd
  repeat' (first
    | with_reducible assumption
    | with_reducible refine State.event_keeps ?_
    | with_reducible refine State.setWgroup_keeps ?_
    | split
    | dsimp -zeta only
    | (rw [keeps_mk]; refine keepsParts_fold ?_))

theorem leaveAspect_keeps {org : State} {s : State} {g : Nat} (hs : Keeps org s) :
    Keeps org (leaveAspect s g) := by
  unfold leaveAspect
  repeat' (first
    | with_reducible assumption
    | ((try lift_lets -underBinder); intro x; first | (with_reducible refine keeps_let (o := org) x ?_ ?_; rotate_left; intro hx; clear_value x; rotate_right; subst x) | (with_reducible refine keeps_let_fun x ?_; subst x) | clear_value x)
    | with_reducible refine State.event_keeps ?_
    | with_reducible refine State.setWgroup_keeps ?_
    | split
    | dsimp -zeta only
    | (rw [keeps_mk]; refine keepsParts_fold ?_))

theorem grant_keeps {org : State} {s : State} {i : Image} {g a cause : Nat} (hs : Keeps org s) :
    Keeps org (grant s i g a cause) := by
  unfold grant
  repeat' (first
    | with_reducible assumption
    | ((try lift_lets -underBinder); intro x; first | (with_reducible refine keeps_let (o := org) x ?_ ?_; rotate_left; intro hx; clear_value x; rotate_right; subst x) | (with_reducible refine keeps_let_fun x ?_; subst x) | clear_value x)
    | with_reducible refine State.setWgroup_keeps ?_
    | with_reducible refine aspectRecord_keeps ?_
    | with_reducible refine heldEnd_keeps ?_
    | with_reducible refine leaveAspect_keeps ?_
    | split
    | dsimp -zeta only
    | (rw [keeps_mk]; refine keepsParts_fold ?_))

theorem failRecord_keeps {org : State} {s : State} {i : Image} {g cause : Nat} {state : Bool} (hs : Keeps org s) :
    Keeps org (failRecord s i g cause state) := by
  unfold failRecord
  repeat' (first
    | with_reducible assumption
    | with_reducible refine State.event_keeps ?_
    | split
    | dsimp -zeta only)

theorem endCause_keeps {org : State} {s : State} {i : Image} {g cause : Nat} (hs : Keeps org s) :
    Keeps org (endCause s i g cause) := by
  unfold endCause
  repeat' (first
    | with_reducible assumption
    | ((try lift_lets -underBinder); intro x; first | (with_reducible refine keeps_let (o := org) x ?_ ?_; rotate_left; intro hx; clear_value x; rotate_right; subst x) | clear_value x)
    | with_reducible refine State.setWgroup_keeps ?_
    | with_reducible refine grant_keeps ?_
    | with_reducible refine failRecord_keeps ?_
    | split
    | dsimp -zeta only
    | (rw [keeps_mk]; refine keepsParts_fold ?_))

theorem failMove_keeps {org : State} {s : State} {i : Image} {g : Nat} (hs : Keeps org s) :
    Keeps org (failMove s i g) := by
  unfold failMove
  repeat' (first
    | with_reducible assumption
    | ((try lift_lets -underBinder); intro x; first | (with_reducible refine keeps_let (o := org) x ?_ ?_; rotate_left; intro hx; clear_value x; rotate_right; subst x) | clear_value x)
    | with_reducible refine State.setWgroup_keeps ?_
    | with_reducible refine grant_keeps ?_
    | with_reducible refine endCause_keeps ?_
    | split
    | dsimp -zeta only
    | (rw [keeps_mk]; refine keepsParts_fold ?_))

theorem enterFail_keeps {org : State} {s : State} {i : Image} {g cause : Nat} (hs : Keeps org s) :
    Keeps org (enterFail s i g cause) := by
  unfold enterFail
  repeat' (first
    | with_reducible assumption
    | ((try lift_lets -underBinder); intro x; first | (with_reducible refine keeps_let (o := org) x ?_ ?_; rotate_left; intro hx; clear_value x; rotate_right; subst x) | clear_value x)
    | with_reducible refine State.set_keeps ?_
    | with_reducible refine State.bump_keeps ?_
    | with_reducible refine State.setWgroup_keeps ?_
    | with_reducible refine aspectRecord_keeps ?_
    | with_reducible refine heldEnd_keeps ?_
    | with_reducible refine leaveAspect_keeps ?_
    | with_reducible refine failRecord_keeps ?_
    | with_reducible refine endCause_keeps ?_
    | with_reducible refine failMove_keeps ?_
    | split
    | dsimp -zeta only
    | (rw [keeps_mk]; refine keepsParts_fold ?_))

theorem litRecord_keeps {org : State} {s : State} {g a cls : Nat} {els lit : Nat} (hs : Keeps org s) :
    Keeps org (litRecord s g a cls els lit) := by
  unfold litRecord
  repeat' (first
    | with_reducible assumption
    | ((try lift_lets -underBinder); intro x; first | (with_reducible refine keeps_let (o := org) x ?_ ?_; rotate_left; intro hx; clear_value x; rotate_right; subst x) | clear_value x)
    | with_reducible refine State.event_keeps ?_
    | split
    | dsimp -zeta only)

theorem fallbackOn_keeps {org : State} {s : State} {i : Image} {g a : Nat} (hs : Keeps org s) :
    Keeps org (fallbackOn s i g a) := by
  unfold fallbackOn
  repeat' (first
    | with_reducible assumption
    | ((try lift_lets -underBinder); intro x; first | (with_reducible refine keeps_let (o := org) x ?_ ?_; rotate_left; intro hx; clear_value x; rotate_right; subst x) | (with_reducible refine keeps_let_fun x ?_; subst x) | clear_value x)
    | with_reducible refine State.set_keeps ?_
    | with_reducible refine State.bump_keeps ?_
    | with_reducible refine State.event_keeps ?_
    | with_reducible refine wedgePin_keeps ?_
    | with_reducible refine State.setWgroup_keeps ?_
    | with_reducible refine State.each_keeps ?_ (fun s1 a1 h1 => ?_)
    | split
    | dsimp -zeta only
    | (rw [keeps_mk]; refine keepsParts_fold ?_))

theorem aspectFailed_keeps {org : State} {s : State} {i : Image} {g a : Nat} (hs : Keeps org s) :
    Keeps org (aspectFailed s i g a) := by
  unfold aspectFailed
  repeat' (first
    | with_reducible assumption
    | ((try lift_lets -underBinder); intro x; first | (with_reducible refine keeps_let (o := org) x ?_ ?_; rotate_left; intro hx; clear_value x; rotate_right; subst x) | (with_reducible refine keeps_let_fun x ?_; subst x) | clear_value x)
    | with_reducible refine State.event_keeps ?_
    | with_reducible refine State.setWgroup_keeps ?_
    | with_reducible refine failRecord_keeps ?_
    | with_reducible refine enterFail_keeps ?_
    | with_reducible refine fallbackOn_keeps ?_
    | split
    | dsimp -zeta only
    | (rw [keeps_mk]; refine keepsParts_fold ?_))

theorem classify_keeps {org : State} {s : State} {i : Image} {g : Nat} (hs : Keeps org s) :
    Keeps org (classify s i g) := by
  unfold classify
  repeat' (first
    | with_reducible assumption
    | ((try lift_lets -underBinder); intro x; first | (with_reducible refine keeps_let (o := org) x ?_ ?_; rotate_left; intro hx; clear_value x; rotate_right; subst x) | (with_reducible refine keeps_let_fst (o := org) x ?_ ?_; rotate_left; intro hx; clear_value x; rotate_right; subst x) | clear_value x)
    | with_reducible refine State.set_keeps ?_
    | with_reducible refine State.setWgroup_keeps ?_
    | with_reducible refine failMove_keeps ?_
    | with_reducible refine litRecord_keeps ?_
    | with_reducible refine aspectFailed_keeps ?_
    | split
    | dsimp -zeta only
    | (rw [keeps_mk]; refine keepsParts_fold ?_))

theorem flagSet_keeps {org : State} {s : State} {i : Image} {x : Nat} (hs : Keeps org s) :
    Keeps org (flagSet s i x) := by
  unfold flagSet
  repeat' (first
    | with_reducible assumption
    | ((try lift_lets -underBinder); intro x; first | (with_reducible refine keeps_let (o := org) x ?_ ?_; rotate_left; intro hx; clear_value x; rotate_right; subst x) | (with_reducible refine keeps_let_fun x ?_; subst x) | clear_value x)
    | with_reducible refine State.set_keeps ?_
    | with_reducible refine State.event_keeps ?_
    | with_reducible refine State.setWgroup_keeps ?_
    | with_reducible refine enterFail_keeps ?_
    | with_reducible refine State.each_keeps ?_ (fun s1 a1 h1 => ?_)
    | split
    | dsimp -zeta only
    | (rw [keeps_mk]; refine keepsParts_fold ?_))

theorem flagCleared_keeps {org : State} {s : State} {i : Image} {x : Nat} (hs : Keeps org s) :
    Keeps org (flagCleared s i x) := by
  unfold flagCleared
  repeat' (first
    | with_reducible assumption
    | ((try lift_lets -underBinder); intro x; first | (with_reducible refine keeps_let (o := org) x ?_ ?_; rotate_left; intro hx; clear_value x; rotate_right; subst x) | (with_reducible refine keeps_let_fun x ?_; subst x) | clear_value x)
    | with_reducible refine State.event_keeps ?_
    | with_reducible refine State.setWgroup_keeps ?_
    | with_reducible refine endCause_keeps ?_
    | with_reducible refine State.each_keeps ?_ (fun s1 a1 h1 => ?_)
    | split
    | dsimp -zeta only
    | (rw [keeps_mk]; refine keepsParts_fold ?_))

theorem flagStage_keeps {org : State} {s : State} {i : Image} (hs : Keeps org s) :
    Keeps org (flagStage s i) := by
  unfold flagStage
  repeat' (first
    | with_reducible assumption
    | ((try lift_lets -underBinder); intro x; first | (with_reducible refine keeps_let (o := org) x ?_ ?_; rotate_left; intro hx; clear_value x; rotate_right; subst x) | (with_reducible refine keeps_let_fun x ?_; subst x) | (with_reducible refine keeps_let_wedge x ?_; subst x) | clear_value x)
    | with_reducible refine flagSet_keeps ?_
    | with_reducible refine flagCleared_keeps ?_
    | with_reducible refine State.each_keeps ?_ (fun s1 a1 h1 => ?_)
    | unfold State.setWedge
    | split
    | dsimp -zeta only
    | (rw [keeps_mk]; refine keepsParts_fold ?_))

theorem refused_keeps {org : State} {s : State} {g : Nat} (hs : Keeps org s) :
    Keeps org (refused s g) := by
  unfold refused
  repeat' (first
    | with_reducible assumption
    | with_reducible refine State.bump_keeps ?_
    | with_reducible refine State.setWgroup_keeps ?_
    | with_reducible refine heldEnd_keeps ?_
    | split
    | dsimp -zeta only
    | (rw [keeps_mk]; refine keepsParts_fold ?_))

theorem admitGroup_keeps {org : State} {s : State} {i : Image} {g : Nat} (hs : Keeps org s) :
    Keeps org (admitGroup s i g) := by
  unfold admitGroup
  repeat' (first
    | with_reducible assumption
    | ((try lift_lets -underBinder); intro x; first | (with_reducible refine keeps_let (o := org) x ?_ ?_; rotate_left; intro hx; clear_value x; rotate_right; subst x) | (with_reducible refine keeps_let_fun x ?_; subst x) | clear_value x)
    | with_reducible refine State.set_keeps ?_
    | with_reducible refine State.bump_keeps ?_
    | with_reducible refine State.event_keeps ?_
    | with_reducible refine State.setWgroup_keeps ?_
    | with_reducible refine heldEnd_keeps ?_
    | with_reducible refine grant_keeps ?_
    | with_reducible refine refused_keeps ?_
    | split
    | dsimp -zeta only
    | (rw [keeps_mk]; refine keepsParts_fold ?_))

theorem failAll_keeps {org : State} {s : State} {i : Image} {cause : Nat} (hs : Keeps org s) :
    Keeps org (failAll s i cause) := by
  unfold failAll
  repeat' (first
    | with_reducible assumption
    | ((try lift_lets -underBinder); intro x; first | (with_reducible refine keeps_let (o := org) x ?_ ?_; rotate_left; intro hx; clear_value x; rotate_right; subst x) | (with_reducible refine keeps_let_fun x ?_; subst x) | clear_value x)
    | with_reducible refine State.set_keeps ?_
    | with_reducible refine State.event_keeps ?_
    | with_reducible refine State.setWgroup_keeps ?_
    | with_reducible refine enterFail_keeps ?_
    | with_reducible refine State.each_keeps ?_ (fun s1 a1 h1 => ?_)
    | split
    | dsimp -zeta only
    | (rw [keeps_mk]; refine keepsParts_fold ?_))

theorem presentationSeen_keeps {org : State} {s : State} {i : Image} (hs : Keeps org s) :
    Keeps org (presentationSeen s i) := by
  unfold presentationSeen
  repeat' (first
    | with_reducible assumption
    | ((try lift_lets -underBinder); intro x; first | (with_reducible refine keeps_let (o := org) x ?_ ?_; rotate_left; intro hx; clear_value x; rotate_right; subst x) | (with_reducible refine keeps_let_fun x ?_; subst x) | (with_reducible refine keeps_let_wedge x ?_; subst x) | clear_value x)
    | with_reducible refine State.event_keeps ?_
    | with_reducible refine State.setWgroup_keeps ?_
    | with_reducible refine endCause_keeps ?_
    | with_reducible refine State.each_keeps ?_ (fun s1 a1 h1 => ?_)
    | unfold State.setWedge
    | split
    | dsimp -zeta only
    | (rw [keeps_mk]; refine keepsParts_fold ?_))

theorem wedgeStages_keeps {org : State} {s : State} {lost : Option Nat} (hs : Keeps org s) :
    Keeps org (wedgeStages s lost) := by
  unfold wedgeStages
  repeat' (first
    | with_reducible assumption
    | ((try lift_lets -underBinder); intro x; first | (with_reducible refine keeps_let (o := org) x ?_ ?_; rotate_left; intro hx; clear_value x; rotate_right; subst x) | (with_reducible refine keeps_let_fst (o := org) x ?_ ?_; rotate_left; intro hx; clear_value x; rotate_right; subst x) | (with_reducible refine keeps_let_fun x ?_; subst x) | clear_value x)
    | with_reducible refine applyEnables_keeps ?_
    | with_reducible refine classify_keeps ?_
    | with_reducible refine flagStage_keeps ?_
    | with_reducible refine admitGroup_keeps ?_
    | with_reducible refine failAll_keeps ?_
    | with_reducible refine presentationSeen_keeps ?_
    | with_reducible refine foldl_keeps ?_ (fun s1 a1 h1 => ?_)
    | with_reducible refine foldl_fst_keeps ?_ (fun s1 a1 h1 => ?_)
    | split
    | dsimp -zeta only
    | (rw [keeps_mk]; refine keepsParts_fold ?_))

theorem State.setLane_keeps {org : State} {s : State} {l : Nat} {r : LaneSt} (hs : Keeps org s) :
    Keeps org (State.setLane s l r) := by
  unfold State.setLane
  repeat' (first
    | with_reducible assumption
    | unfold State.setWedge
    | split
    | dsimp -zeta only
    | (rw [keeps_mk]; refine keepsParts_fold ?_)
    | (rw [keeps_mk]; refine keepsParts_change ?_ (fun h0 => by unfold SoundParts State.Sound RulesWf at *; simp only [h0, swf_sput, and_self])))

theorem isolate_keeps {org : State} {s : State} {l cause : Nat} (hs : Keeps org s) :
    Keeps org (isolate s l cause) := by
  unfold isolate
  repeat' (first
    | with_reducible assumption
    | ((try lift_lets -underBinder); intro x; first | (with_reducible refine keeps_let (o := org) x ?_ ?_; rotate_left; intro hx; clear_value x; rotate_right; subst x) | clear_value x)
    | with_reducible refine State.set_keeps ?_
    | with_reducible refine State.bump_keeps ?_
    | with_reducible refine State.event_keeps ?_
    | with_reducible refine State.setLane_keeps ?_
    | split
    | dsimp -zeta only)

theorem voteNow_keeps {org : State} {s : State} {disagree : Bool} (hs : Keeps org s) :
    Keeps org (voteNow s disagree) := by
  unfold voteNow
  repeat' (first
    | with_reducible assumption
    | ((try lift_lets -underBinder); intro x; first | (with_reducible refine keeps_let (o := org) x ?_ ?_; rotate_left; intro hx; clear_value x; rotate_right; subst x) | (with_reducible refine keeps_let_wedge x ?_; subst x) | clear_value x)
    | with_reducible refine State.set_keeps ?_
    | with_reducible refine State.event_keeps ?_
    | unfold State.setWedge
    | split
    | dsimp -zeta only
    | (rw [keeps_mk]; refine keepsParts_fold ?_))

theorem laneStage_keeps {org : State} {s : State} {v : LaneView} (hs : Keeps org s) :
    Keeps org (laneStage s v) := by
  unfold laneStage
  repeat' (first
    | with_reducible assumption
    | ((try lift_lets -underBinder); intro x; first | (with_reducible refine keeps_let (o := org) x ?_ ?_; rotate_left; intro hx; clear_value x; rotate_right; subst x) | (with_reducible refine keeps_let_fun x ?_; subst x) | clear_value x)
    | with_reducible refine State.set_keeps ?_
    | with_reducible refine State.bump_keeps ?_
    | with_reducible refine State.event_keeps ?_
    | with_reducible refine isolate_keeps ?_
    | with_reducible refine voteNow_keeps ?_
    | with_reducible refine State.each_keeps ?_ (fun s1 a1 h1 => ?_)
    | split
    | dsimp -zeta only
    | (rw [keeps_mk]; refine keepsParts_fold ?_))

theorem execWedgeStep_keeps {org : State} {view : LaneView} {s : State} (hs : Keeps org s) :
    KeepsOut org (execWedgeStep view s) := by
  unfold execWedgeStep
  repeat' (first
    | with_reducible assumption
    | with_reducible refine wedgeStages_keeps ?_
    | with_reducible refine laneStage_keeps ?_
    | with_reducible refine keepsOut_next ?_
    | split
    | dsimp -zeta only)

theorem execLaneStallTimeout_keeps {org : State} {lane : Fin 3} {s : State} (hs : Keeps org s) :
    KeepsOut org (execLaneStallTimeout lane s) := by
  unfold execLaneStallTimeout
  repeat' (first
    | with_reducible assumption
    | with_reducible refine applyEnables_keeps ?_
    | with_reducible refine isolate_keeps ?_
    | with_reducible refine voteNow_keeps ?_
    | with_reducible refine keepsOut_next ?_
    | split
    | dsimp -zeta only)

theorem execLaneRejoinAttempt_keeps {org : State} {lane : Fin 3} {s : State} (hs : Keeps org s) :
    KeepsOut org (execLaneRejoinAttempt lane s) := by
  unfold execLaneRejoinAttempt
  repeat' (first
    | with_reducible assumption
    | with_reducible refine State.set_keeps ?_
    | with_reducible refine keepsOut_next ?_
    | split
    | dsimp -zeta only)

theorem execPresentationTimeout_keeps {org : State} {s : State} (hs : Keeps org s) :
    KeepsOut org (execPresentationTimeout s) := by
  unfold execPresentationTimeout
  repeat' (first
    | with_reducible assumption
    | with_reducible refine State.set_keeps ?_
    | with_reducible refine wedgeStages_keeps ?_
    | with_reducible refine keepsOut_next ?_
    | split
    | dsimp -zeta only
    | (rw [keeps_mk]; refine keepsParts_fold ?_))

theorem execStartWaitTimeout_keeps {org : State} {s : State} (hs : Keeps org s) :
    KeepsOut org (execStartWaitTimeout s) := by
  unfold execStartWaitTimeout
  repeat' (first
    | with_reducible assumption
    | with_reducible refine wedgeStages_keeps ?_
    | with_reducible refine keepsOut_next ?_
    | unfold State.setWedge
    | split
    | dsimp -zeta only
    | (rw [keeps_mk]; refine keepsParts_fold ?_))

theorem execDwellExpiry_keeps {org : State} {group : Fin 256} {units : BitVec 8} {s : State} (hs : Keeps org s) :
    KeepsOut org (execDwellExpiry group units s) := by
  unfold execDwellExpiry
  repeat' (first
    | with_reducible assumption
    | ((try lift_lets -underBinder); intro x; first | (with_reducible refine keeps_let (o := org) x ?_ ?_; rotate_left; intro hx; clear_value x; rotate_right; subst x) | clear_value x)
    | with_reducible refine State.setWgroup_keeps ?_
    | with_reducible refine wedgeStages_keeps ?_
    | with_reducible refine keepsOut_next ?_
    | split
    | dsimp -zeta only
    | (rw [keeps_mk]; refine keepsParts_fold ?_))

theorem execFlashEdge_keeps {org : State} {group : Fin 256} {s : State} (hs : Keeps org s) :
    KeepsOut org (execFlashEdge group s) := by
  unfold execFlashEdge
  repeat' (first
    | with_reducible assumption
    | ((try lift_lets -underBinder); intro x; first | (with_reducible refine keeps_let (o := org) x ?_ ?_; rotate_left; intro hx; clear_value x; rotate_right; subst x) | (with_reducible refine keeps_let_fst (o := org) x ?_ ?_; rotate_left; intro hx; clear_value x; rotate_right; subst x) | clear_value x)
    | with_reducible refine State.setWgroup_keeps ?_
    | with_reducible refine wedgeStages_keeps ?_
    | with_reducible refine keepsOut_next ?_
    | split
    | dsimp -zeta only
    | (rw [keeps_mk]; refine keepsParts_fold ?_))

theorem execOccupancyRelease_keeps {org : State} {group : Fin 256} {aspect : Fin 8} {s : State} (hs : Keeps org s) :
    KeepsOut org (execOccupancyRelease group aspect s) := by
  unfold execOccupancyRelease
  repeat' (first
    | with_reducible assumption
    | ((try lift_lets -underBinder); intro x; first | (with_reducible refine keeps_let (o := org) x ?_ ?_; rotate_left; intro hx; clear_value x; rotate_right; subst x) | (with_reducible refine keeps_let_fst (o := org) x ?_ ?_; rotate_left; intro hx; clear_value x; rotate_right; subst x) | (with_reducible refine keeps_let_fun x ?_; subst x) | clear_value x)
    | with_reducible refine State.setWgroup_keeps ?_
    | with_reducible refine wedgeStages_keeps ?_
    | with_reducible refine keepsOut_next ?_
    | split
    | dsimp -zeta only
    | (rw [keeps_mk]; refine keepsParts_fold ?_))

theorem execClassificationStart_keeps {org : State} {group : Fin 256} {s : State} (hs : Keeps org s) :
    KeepsOut org (execClassificationStart group s) := by
  unfold execClassificationStart
  repeat' (first
    | with_reducible assumption
    | ((try lift_lets -underBinder); intro x; first | (with_reducible refine keeps_let (o := org) x ?_ ?_; rotate_left; intro hx; clear_value x; rotate_right; subst x) | clear_value x)
    | with_reducible refine State.setWgroup_keeps ?_
    | with_reducible refine wedgeStages_keeps ?_
    | with_reducible refine keepsOut_next ?_
    | split
    | dsimp -zeta only
    | (rw [keeps_mk]; refine keepsParts_fold ?_))

theorem unblock_keeps {org : State} {s : State} {g a how : Nat} (hs : Keeps org s) :
    Keeps org (unblock s g a how) := by
  unfold unblock
  repeat' (first
    | with_reducible assumption
    | ((try lift_lets -underBinder); intro x; first | (with_reducible refine keeps_let (o := org) x ?_ ?_; rotate_left; intro hx; clear_value x; rotate_right; subst x) | (with_reducible refine keeps_let_fun x ?_; subst x) | clear_value x)
    | with_reducible refine State.event_keeps ?_
    | with_reducible refine State.setWgroup_keeps ?_
    | split
    | dsimp -zeta only
    | (rw [keeps_mk]; refine keepsParts_fold ?_))

theorem execBlockRetryExpiry_keeps {org : State} {group : Fin 256} {aspect : Fin 8} {s : State} (hs : Keeps org s) :
    KeepsOut org (execBlockRetryExpiry group aspect s) := by
  unfold execBlockRetryExpiry
  repeat' (first
    | with_reducible assumption
    | with_reducible refine wedgeStages_keeps ?_
    | with_reducible refine unblock_keeps ?_
    | with_reducible refine keepsOut_next ?_
    | split
    | dsimp -zeta only
    | (rw [keeps_mk]; refine keepsParts_fold ?_))

theorem wdgUnblock_keeps {org : State} {s : State} {v : Nat} (hs : Keeps org s) :
    Keeps org (wdgUnblock s v) := by
  unfold wdgUnblock
  repeat' (first
    | with_reducible assumption
    | with_reducible refine unblock_keeps ?_
    | with_reducible refine State.each_keeps ?_ (fun s1 a1 h1 => ?_)
    | split
    | dsimp -zeta only)

theorem wdgCntClr_keeps {org : State} {s : State} (hs : Keeps org s) :
    Keeps org (wdgCntClr s) := by
  unfold wdgCntClr
  repeat' (first
    | with_reducible assumption
    | with_reducible refine State.clearAll_keeps ?_
    | split
    | dsimp -zeta only)

theorem tallyWords_keeps {org : State} {s : State} {l : List Nat} (hs : Keeps org s) :
    Keeps org (tallyWords s l) := by
  unfold tallyWords
  repeat' (first
    | with_reducible assumption
    | ((try lift_lets -underBinder); intro x; first | (with_reducible refine keeps_let (o := org) x ?_ ?_; rotate_left; intro hx; clear_value x; rotate_right; subst x) | (with_reducible refine keeps_let_fst (o := org) x ?_ ?_; rotate_left; intro hx; clear_value x; rotate_right; subst x) | (with_reducible refine keeps_let_fun x ?_; subst x) | clear_value x)
    | with_reducible refine State.set_keeps ?_
    | with_reducible refine State.setObj_keeps ?_
    | with_reducible refine State.setBankSt_keeps ?_
    | with_reducible refine State.setAdj_keeps ?_
    | with_reducible refine State.each_keeps ?_ (fun s1 a1 h1 => ?_)
    | split
    | dsimp -zeta only
    | (rw [keeps_mk]; refine keepsParts_fold ?_))

theorem allDark_keeps {org : State} {s : State} (hs : Keeps org s) :
    Keeps org (allDark s) := by
  unfold allDark
  repeat' (first
    | with_reducible assumption
    | ((try lift_lets -underBinder); intro x; first | (with_reducible refine keeps_let (o := org) x ?_ ?_; rotate_left; intro hx; clear_value x; rotate_right; subst x) | (with_reducible refine keeps_let_fun x ?_; subst x) | (with_reducible refine keeps_let_wedge x ?_; subst x) | clear_value x)
    | with_reducible refine State.write_keeps ?_
    | with_reducible refine applyEnables_keeps ?_
    | with_reducible refine State.each_keeps ?_ (fun s1 a1 h1 => ?_)
    | unfold State.setWedge
    | split
    | dsimp -zeta only
    | (rw [keeps_mk]; refine keepsParts_fold ?_)
    | (rw [keeps_mk]; refine keepsParts_change ?_ (fun h0 => by unfold SoundParts State.Sound RulesWf at *; simp only [h0, swf_nil, and_self])))

theorem activate_keeps {org : State} {s : State} {i : Image} {cause : Nat} (hs : Keeps org s) :
    Keeps org (activate s i cause) := by
  unfold activate
  repeat' (first
    | with_reducible assumption
    | ((try lift_lets -underBinder); intro x; first | (with_reducible refine keeps_let (o := org) x ?_ ?_; rotate_left; intro hx; clear_value x; rotate_right; subst x) | (with_reducible refine keeps_let_fun x ?_; subst x) | (with_reducible refine keeps_let_wedge x ?_; subst x) | clear_value x)
    | with_reducible refine State.set_keeps ?_
    | with_reducible refine releaseOwn_keeps ?_
    | with_reducible refine applyEnables_keeps ?_
    | with_reducible refine wedgePin_keeps ?_
    | with_reducible refine State.setWgroup_keeps ?_
    | with_reducible refine grant_keeps ?_
    | with_reducible refine tallyWords_keeps ?_
    | with_reducible refine allDark_keeps ?_
    | with_reducible refine State.each_keeps ?_ (fun s1 a1 h1 => ?_)
    | unfold State.setWedge
    | split
    | dsimp -zeta only
    | (rw [keeps_mk]; refine keepsParts_fold ?_))

theorem markStat_keeps {org : State} {s : State} (hs : Keeps org s) :
    Keeps org (markStat s) := by
  unfold markStat
  repeat' (first
    | with_reducible assumption
    | ((try lift_lets -underBinder); intro x; first | (with_reducible refine keeps_let (o := org) x ?_ ?_; rotate_left; intro hx; clear_value x; rotate_right; subst x) | (with_reducible refine keeps_let_fun x ?_; subst x) | clear_value x)
    | with_reducible refine State.set_keeps ?_
    | split
    | dsimp -zeta only)

theorem loadImage_keeps {org : State} {s : State} {u1 : Item} {bytes : List Byte} (hs : Keeps org s) :
    KeepsLoad org (loadImage s u1 bytes) := by
  unfold loadImage
  repeat' (first
    | with_reducible assumption
    | with_reducible refine State.set_keeps ?_
    | with_reducible refine keepsLoad_refused ?_
    | with_reducible refine keepsLoad_loaded ?_
    | with_reducible refine keepsLoad_later ?_
    | unfold State.setWedge
    | split
    | dsimp -zeta only
    | (rw [keeps_mk]; refine keepsParts_fold ?_))

theorem execTableLoadWedgeImage_keeps {org : State} {ring : Fin 16} {payload : List Byte} {s : State} (hs : Keeps org s) :
    KeepsOut org (execTableLoadWedgeImage ring payload s) := by
  unfold execTableLoadWedgeImage
  repeat' (first
    | with_reducible assumption
    | with_reducible refine tableRun_keeps (fun h => loadImage_keeps h) ?_
    | with_reducible refine loadImage_keeps ?_
    | with_reducible refine keepsOut_next ?_
    | split
    | dsimp -zeta only)

theorem wedgeStore_keeps {org : State} {s : State} {c : Option (List Byte)} {l : List StoreCopy} (hs : Keeps org s) :
    Keeps org (s.setWedge { s.wedge with commit := c, store := l }) := by
  unfold State.setWedge
  rw [keeps_mk]
  exact keepsParts_fold hs

/-- The item found among those that run completes, where there is one. -/
theorem complete_found_keeps {org : State} {s : State} {p : Item → Bool} {f : Item → Outcome} (hs : Keeps org s) :
    Keeps org (match s.hif.items.find? p with
      | none => s
      | some it => complete s it (f it)) := by
  split
  · exact hs
  · exact complete_keeps hs

theorem imageActivation_keeps {org : State} {s : State} (hs : Keeps org s) :
    Keeps org (imageActivation s) := by
  unfold imageActivation
  split
  · exact hs
  · exact complete_found_keeps (State.event_keeps (State.set_keeps (markStat_keeps (activate_keeps (State.set_keeps
      (State.set_keeps (wedgeStore_keeps hs)))))))

theorem markInForce_keeps {org : State} {s : State} {b : List Byte} (hs : Keeps org s) :
    Keeps org (markInForce s b) := by
  unfold markInForce
  repeat' (first
    | with_reducible assumption
    | ((try lift_lets -underBinder); intro x; first | (with_reducible refine keeps_let (o := org) x ?_ ?_; rotate_left; intro hx; clear_value x; rotate_right; subst x) | (with_reducible refine keeps_let_mark x ?_; subst x) | clear_value x)
    | with_reducible refine State.set_keeps ?_
    | with_reducible refine State.event_keeps ?_
    | with_reducible refine markStat_keeps ?_
    | split
    | dsimp -zeta only
    | (rw [keeps_mk]; refine keepsParts_fold ?_)
    | (rw [keeps_mk]; refine keepsParts_change ?_ (fun h0 => by unfold SoundParts State.Sound RulesWf at *; simp only [h0, swf_nil, and_self])))

theorem markStart_keeps {org : State} {s : State} (hs : Keeps org s) :
    Keeps org (markStart s) := by
  unfold markStart
  repeat' (first
    | with_reducible assumption
    | ((try lift_lets -underBinder); intro x; first | (with_reducible refine keeps_let (o := org) x ?_ ?_; rotate_left; intro hx; clear_value x; rotate_right; subst x) | (with_reducible refine keeps_let_fst (o := org) x ?_ ?_; rotate_left; intro hx; clear_value x; rotate_right; subst x) | (with_reducible refine keeps_let_mark x ?_; subst x) | clear_value x)
    | with_reducible refine State.set_keeps ?_
    | with_reducible refine markInForce_keeps ?_
    | split
    | dsimp -zeta only
    | (rw [keeps_mk]; refine keepsParts_fold ?_))

theorem wedgeStart_keeps {org : State} {s : State} (hs : Keeps org s) :
    Keeps org (wedgeStart s) := by
  unfold wedgeStart
  repeat' (first
    | with_reducible assumption
    | ((try lift_lets -underBinder); intro x; first | (with_reducible refine keeps_let (o := org) x ?_ ?_; rotate_left; intro hx; clear_value x; rotate_right; subst x) | (with_reducible refine keeps_let_fst (o := org) x ?_ ?_; rotate_left; intro hx; clear_value x; rotate_right; subst x) | (with_reducible refine keeps_let_fun x ?_; subst x) | (with_reducible refine keeps_let_wedge x ?_; subst x) | clear_value x)
    | with_reducible refine State.set_keeps ?_
    | with_reducible refine State.event_keeps ?_
    | with_reducible refine voteNow_keeps ?_
    | with_reducible refine activate_keeps ?_
    | with_reducible refine markStat_keeps ?_
    | with_reducible refine markStart_keeps ?_
    | with_reducible refine State.each_keeps ?_ (fun s1 a1 h1 => ?_)
    | unfold State.setWedge
    | split
    | dsimp -zeta only
    | (rw [keeps_mk]; refine keepsParts_fold ?_))

end Sys2Proof.Machine
end

