-- ==== Sys2Proof/Laws/KeepsMarking.lean ====
section
/-! SUPPORT. The operations of Machine/Marking.lean keep what every command keeps. -/

namespace Sys2Proof.Machine

theorem State.setRule_keeps {org : State} {s : State} {r : Nat} {x : RuleSt} (hs : Keeps org s) :
    Keeps org (State.setRule s r x) := by
  unfold State.setRule
  repeat' (first
    | with_reducible assumption
    | unfold State.setMark
    | split
    | dsimp -zeta only
    | (rw [keeps_mk]; refine keepsParts_fold ?_)
    | (rw [keeps_mk]; refine keepsParts_change ?_ (fun h0 => by unfold SoundParts State.Sound RulesWf at *; simp only [h0, swf_sput, and_self])))

theorem hreqExpire_keeps {org : State} {s : State} {i : Nat} (hs : Keeps org s) :
    Keeps org (hreqExpire s i) := by
  unfold hreqExpire
  repeat' (first
    | with_reducible assumption
    | with_reducible refine State.set_keeps ?_
    | with_reducible refine State.event_keeps ?_
    | split
    | dsimp -zeta only)

theorem ruleRecord_keeps {org : State} {s : State} {g : Nat} {w : Option (Nat × Nat × Nat)} {state : Bool} (hs : Keeps org s) :
    Keeps org (ruleRecord s g w state) := by
  unfold ruleRecord
  repeat' (first
    | with_reducible assumption
    | with_reducible refine State.event_keeps ?_
    | split
    | dsimp -zeta only
    | (rw [keeps_mk]; refine keepsParts_fold ?_))

theorem presentGroup_keeps {org : State} {s : State} {wins : List (Nat × Nat × Nat × Nat)} {g : Nat} (hs : Keeps org s) :
    Keeps org (presentGroup s wins g) := by
  unfold presentGroup
  repeat' (first
    | with_reducible assumption
    | ((try lift_lets -underBinder); intro x; first | (with_reducible refine keeps_let (o := org) x ?_ ?_; rotate_left; intro hx; clear_value x; rotate_right; subst x) | (with_reducible refine keeps_let_fst (o := org) x ?_ ?_; rotate_left; intro hx; clear_value x; rotate_right; subst x) | (with_reducible refine keeps_let_fun x ?_; subst x) | clear_value x)
    | with_reducible refine State.setWgroup_keeps ?_
    | with_reducible refine ruleRecord_keeps ?_
    | split
    | dsimp -zeta only
    | (rw [keeps_mk]; refine keepsParts_fold ?_))

theorem execMarkingPass_keeps {org : State} {s : State} (hs : Keeps org s) :
    KeepsOut org (execMarkingPass s) := by
  unfold execMarkingPass
  repeat' (first
    | with_reducible assumption
    | ((try lift_lets -underBinder); intro x; first | (with_reducible refine keeps_let (o := org) x ?_ ?_; rotate_left; intro hx; clear_value x; rotate_right; subst x) | (with_reducible refine keeps_let_fst (o := org) x ?_ ?_; rotate_left; intro hx; clear_value x; rotate_right; subst x) | (with_reducible refine keeps_let_fun x ?_; subst x) | (with_reducible refine keeps_let_wedge x ?_; subst x) | (with_reducible refine keeps_let_mark x ?_; subst x) | clear_value x)
    | with_reducible refine State.write_keeps ?_
    | with_reducible refine State.set_keeps ?_
    | with_reducible refine markInForce_keeps ?_
    | with_reducible refine State.setRule_keeps ?_
    | with_reducible refine hreqExpire_keeps ?_
    | with_reducible refine presentGroup_keeps ?_
    | with_reducible refine State.each_keeps ?_ (fun s1 a1 h1 => ?_)
    | with_reducible refine keepsOut_next ?_
    | unfold State.setMark
    | unfold State.setWedge
    | split
    | dsimp -zeta only
    | (rw [keeps_mk]; refine keepsParts_fold ?_))

theorem hreqSet_keeps {org : State} {s : State} {v : Nat} (hs : Keeps org s) :
    Keeps org (hreqSet s v) := by
  unfold hreqSet
  repeat' (first
    | with_reducible assumption
    | ((try lift_lets -underBinder); intro x; first | (with_reducible refine keeps_let (o := org) x ?_ ?_; rotate_left; intro hx; clear_value x; rotate_right; subst x) | (with_reducible refine keeps_let_fun x ?_; subst x) | (with_reducible refine keeps_let_mark x ?_; subst x) | clear_value x)
    | with_reducible refine State.set_keeps ?_
    | unfold State.setMark
    | split
    | dsimp -zeta only
    | (rw [keeps_mk]; refine keepsParts_fold ?_)
    | (rw [keeps_mk]; refine keepsParts_change ?_ (fun h0 => by unfold SoundParts State.Sound RulesWf at *; simp only [h0, swf_sput, and_self])))

theorem hreqClr_keeps {org : State} {s : State} {v : Nat} (hs : Keeps org s) :
    Keeps org (hreqClr s v) := by
  unfold hreqClr
  repeat' (first
    | with_reducible assumption
    | with_reducible refine State.set_keeps ?_
    | split
    | dsimp -zeta only)

theorem execHreqExpired_keeps {org : State} {index : Fin 256} {s : State} (hs : Keeps org s) :
    KeepsOut org (execHreqExpired index s) := by
  unfold execHreqExpired
  repeat' (first
    | with_reducible assumption
    | ((try lift_lets -underBinder); intro x; first | (with_reducible refine keeps_let (o := org) x ?_ ?_; rotate_left; intro hx; clear_value x; rotate_right; subst x) | (with_reducible refine keeps_let_fun x ?_; subst x) | clear_value x)
    | with_reducible refine hreqExpire_keeps ?_
    | with_reducible refine keepsOut_next ?_
    | split
    | dsimp -zeta only)

theorem latchClr_keeps {org : State} {s : State} {v : Nat} (hs : Keeps org s) :
    Keeps org (latchClr s v) := by
  unfold latchClr
  repeat' (first
    | with_reducible assumption
    | unfold State.setMark
    | split
    | dsimp -zeta only
    | (rw [keeps_mk]; refine keepsParts_fold ?_))

theorem mrkCntClr_keeps {org : State} {s : State} (hs : Keeps org s) :
    Keeps org (mrkCntClr s) := by
  unfold mrkCntClr
  repeat' (first
    | with_reducible assumption
    | with_reducible refine State.clearAll_keeps ?_
    | split
    | dsimp -zeta only)

theorem loadMark_keeps {org : State} {s : State} {u1 : Item} {bytes : List Byte} (hs : Keeps org s) :
    KeepsLoad org (loadMark s u1 bytes) := by
  unfold loadMark
  repeat' (first
    | with_reducible assumption
    | ((try lift_lets -underBinder); intro x; first | (with_reducible refine keeps_let (o := org) x ?_ ?_; rotate_left; intro hx; clear_value x; rotate_right; subst x) | (with_reducible refine keeps_let_fst (o := org) x ?_ ?_; rotate_left; intro hx; clear_value x; rotate_right; subst x) | (with_reducible refine keeps_let_mark x ?_; subst x) | clear_value x)
    | with_reducible refine State.set_keeps ?_
    | with_reducible refine keepsLoad_refused ?_
    | with_reducible refine keepsLoad_loaded ?_
    | with_reducible refine keepsLoad_later ?_
    | unfold State.setMark
    | split
    | dsimp -zeta only
    | (rw [keeps_mk]; refine keepsParts_fold ?_))

theorem execTableLoadMarkingTable_keeps {org : State} {ring : Fin 16} {payload : List Byte} {s : State} (hs : Keeps org s) :
    KeepsOut org (execTableLoadMarkingTable ring payload s) := by
  unfold execTableLoadMarkingTable
  repeat' (first
    | with_reducible assumption
    | with_reducible refine tableRun_keeps (fun h => loadMark_keeps h) ?_
    | with_reducible refine loadMark_keeps ?_
    | with_reducible refine keepsOut_next ?_
    | split
    | dsimp -zeta only)

end Sys2Proof.Machine
end

