-- ==== Sys2Proof/Laws/KeepsSelfTest.lean ====
section
/-! SUPPORT. The operations of Machine/SelfTest.lean keep what every command keeps. -/

namespace Sys2Proof.Machine

theorem State.setSst_keeps {org s : State} {x : SstState} (hx : s.Sound → x.records.length ≤ 8) (hs : Keeps org s) :
    Keeps org (s.setSst x) := by
  refine hs.change (fun h => ?_) rfl rfl rfl rfl
  have hx := hx h
  unfold State.Sound CoreWf State.setSst at *
  simp only [h, hx, and_self]

theorem keeps_let_sst (_ : SstState) {P : Prop} (h : P) : P := h

theorem State.setRun_keeps {org : State} {s : State} {r : SstRun} (hs : Keeps org s) :
    Keeps org (State.setRun s r) := by
  unfold State.setRun
  repeat' (first
    | with_reducible assumption
    | with_reducible refine State.setSst_keeps (fun h0 => ?_) ?_
    | exact h0.records
    | split
    | dsimp -zeta only
    | (rw [keeps_mk]; refine keepsParts_fold ?_))

theorem State.updRecord_keeps {org : State} {s : State} {f : List Byte → List Byte} (hs : Keeps org s) :
    Keeps org (State.updRecord s f) := by
  unfold State.updRecord
  repeat' (first
    | with_reducible assumption
    | with_reducible refine State.setSst_keeps (fun h0 => ?_) ?_
    | exact h0.records
    | split
    | dsimp -zeta only
    | (have h1 := h0.records; rename_i h; rw [h] at h1; exact h1))

theorem newRecord_keeps {org : State} {s : State} {kind : Nat} (hs : Keeps org s) :
    Keeps org (newRecord s kind) := by
  unfold newRecord
  repeat' (first
    | with_reducible assumption
    | ((try lift_lets -underBinder); intro x; first | (with_reducible refine keeps_let (o := org) x ?_ ?_; rotate_left; intro hx; clear_value x; rotate_right; subst x) | (with_reducible refine keeps_let_sst x ?_; subst x) | clear_value x)
    | with_reducible refine State.setSst_keeps (fun h0 => ?_) ?_
    | exact h0.records
    | split
    | dsimp -zeta only
    | (exact List.length_take_le _ _))

theorem sstStat_keeps {org : State} {s : State} (hs : Keeps org s) :
    Keeps org (sstStat s) := by
  unfold sstStat
  repeat' (first
    | with_reducible assumption
    | with_reducible refine State.set_keeps ?_
    | split
    | dsimp -zeta only
    | (rw [keeps_mk]; refine keepsParts_fold ?_))

theorem enterStep_keeps {org : State} {s : State} {r : SstRun} {step : Nat} (hs : Keeps org s) :
    Keeps org (enterStep s r step) := by
  unfold enterStep
  repeat' (first
    | with_reducible assumption
    | ((try lift_lets -underBinder); intro x; first | (with_reducible refine keeps_let (o := org) x ?_ ?_; rotate_left; intro hx; clear_value x; rotate_right; subst x) | clear_value x)
    | with_reducible refine State.setRun_keeps ?_
    | with_reducible refine sstStat_keeps ?_
    | split
    | dsimp -zeta only
    | (rw [keeps_mk]; refine keepsParts_fold ?_))

theorem repairTable_keeps {org : State} {s : State} {r : SstRun} (hs : Keeps org s) :
    Keeps org (repairTable s r) := by
  unfold repairTable
  repeat' (first
    | with_reducible assumption
    | ((try lift_lets -underBinder); intro x; first | (with_reducible refine keeps_let (o := org) x ?_ ?_; rotate_left; intro hx; clear_value x; rotate_right; subst x) | (with_reducible refine keeps_let_sst x ?_; subst x) | clear_value x)
    | with_reducible refine State.setSst_keeps (fun h0 => ?_) ?_
    | exact h0.records
    | split
    | dsimp -zeta only
    | (rw [keeps_mk]; refine keepsParts_fold ?_))

theorem fuseStep_keeps {org : State} {s : State} {r : SstRun} (hs : Keeps org s) :
    Keeps org (fuseStep s r).1 := by
  unfold fuseStep
  repeat' (first
    | with_reducible assumption
    | ((try lift_lets -underBinder); intro x; first | (with_reducible refine keeps_let (o := org) x ?_ ?_; rotate_left; intro hx; clear_value x; rotate_right; subst x) | (with_reducible refine keeps_let_fun x ?_; subst x) | (with_reducible refine keeps_let_sst x ?_; subst x) | clear_value x)
    | with_reducible refine State.count_keeps ?_
    | with_reducible refine State.setSst_keeps (fun h0 => ?_) ?_
    | exact h0.records
    | split
    | dsimp -zeta only
    | (rw [keeps_mk]; refine keepsParts_fold ?_))

theorem closeStep_keeps {org : State} {s : State} {r : SstRun} (hs : Keeps org s) :
    Keeps org (closeStep s r) := by
  unfold closeStep
  repeat' (first
    | with_reducible assumption
    | ((try lift_lets -underBinder); intro x; first | (with_reducible refine keeps_let (o := org) x ?_ ?_; rotate_left; intro hx; clear_value x; rotate_right; subst x) | (with_reducible refine keeps_let_fst (o := org) x ?_ ?_; rotate_left; intro hx; clear_value x; rotate_right; subst x) | (with_reducible refine keeps_let_fun x ?_; subst x) | clear_value x)
    | with_reducible refine State.set_keeps ?_
    | with_reducible refine State.event_keeps ?_
    | with_reducible refine State.setRun_keeps ?_
    | with_reducible refine State.updRecord_keeps ?_
    | with_reducible refine sstStat_keeps ?_
    | with_reducible refine enterStep_keeps ?_
    | with_reducible refine repairTable_keeps ?_
    | with_reducible refine fuseStep_keeps ?_
    | split
    | dsimp -zeta only
    | (rw [keeps_mk]; refine keepsParts_fold ?_))

theorem endStep_keeps {org : State} {s : State} {r : SstRun} (hs : Keeps org s) :
    Keeps org (endStep s r) := by
  unfold endStep
  repeat' (first
    | with_reducible assumption
    | ((try lift_lets -underBinder); intro x; first | (with_reducible refine keeps_let (o := org) x ?_ ?_; rotate_left; intro hx; clear_value x; rotate_right; subst x) | clear_value x)
    | with_reducible refine closeStep_keeps ?_
    | split
    | dsimp -zeta only
    | (rw [keeps_mk]; refine keepsParts_fold ?_))

theorem sstPower_keeps {org : State} {s : State} {p : Nat} (hs : Keeps org s) :
    Keeps org (sstPower s p) := by
  unfold sstPower
  repeat' (first
    | with_reducible assumption
    | with_reducible refine State.set_keeps ?_
    | split
    | dsimp -zeta only)

theorem startPart_keeps {org : State} {s : State} {r : SstRun} (hs : Keeps org s) :
    Keeps org (startPart s r) := by
  unfold startPart
  repeat' (first
    | with_reducible assumption
    | ((try lift_lets -underBinder); intro x; first | (with_reducible refine keeps_let (o := org) x ?_ ?_; rotate_left; intro hx; clear_value x; rotate_right; subst x) | clear_value x)
    | with_reducible refine applyEnables_keeps ?_
    | with_reducible refine resetFrames_keeps ?_
    | with_reducible refine State.setRun_keeps ?_
    | with_reducible refine sstStat_keeps ?_
    | split
    | dsimp -zeta only
    | (rw [keeps_mk]; refine keepsParts_fold ?_))

theorem execSstPartitionStart_keeps {org : State} {power : BitVec 10} {s : State} (hs : Keeps org s) :
    KeepsOut org (execSstPartitionStart power s) := by
  unfold execSstPartitionStart
  repeat' (first
    | with_reducible assumption
    | ((try lift_lets -underBinder); intro x; first | (with_reducible refine keeps_let (o := org) x ?_ ?_; rotate_left; intro hx; clear_value x; rotate_right; subst x) | clear_value x)
    | with_reducible refine sstPower_keeps ?_
    | with_reducible refine startPart_keeps ?_
    | with_reducible refine keepsOut_next ?_
    | split
    | dsimp -zeta only
    | (rw [keeps_mk]; refine keepsParts_fold ?_))

theorem sparesUsed_keeps {org : State} {s : State} (hs : Keeps org s) :
    Keeps org (sparesUsed s) := by
  unfold sparesUsed
  repeat' (first
    | with_reducible assumption
    | ((try lift_lets -underBinder); intro x; first | (with_reducible refine keeps_let (o := org) x ?_ ?_; rotate_left; intro hx; clear_value x; rotate_right; subst x) | clear_value x)
    | with_reducible refine State.set_keeps ?_
    | with_reducible refine State.tookFree_keeps ?_
    | split
    | dsimp -zeta only)

theorem partDone_keeps {org : State} {s : State} {r : SstRun} {p : Nat} {x : PartResult} (hs : Keeps org s) :
    Keeps org (partDone s r p x) := by
  unfold partDone
  repeat' (first
    | with_reducible assumption
    | ((try lift_lets -underBinder); intro x; first | (with_reducible refine keeps_let (o := org) x ?_ ?_; rotate_left; intro hx; clear_value x; rotate_right; subst x) | (with_reducible refine keeps_let_sst x ?_; subst x) | clear_value x)
    | with_reducible refine State.setSst_keeps (fun h0 => ?_) ?_
    | exact h0.records
    | with_reducible refine State.setRun_keeps ?_
    | with_reducible refine sstStat_keeps ?_
    | with_reducible refine endStep_keeps ?_
    | with_reducible refine sparesUsed_keeps ?_
    | split
    | dsimp -zeta only
    | (rw [keeps_mk]; refine keepsParts_fold ?_)
    | (rw [keeps_mk]; refine keepsParts_change ?_ (fun h0 => by unfold SoundParts State.Sound RulesWf at *; simp only [h0, and_self])))

theorem execSstPartitionComplete_keeps {org : State} {part : Fin 9} {result : PartResult} {s : State} (hs : Keeps org s) :
    KeepsOut org (execSstPartitionComplete part result s) := by
  unfold execSstPartitionComplete
  repeat' (first
    | with_reducible assumption
    | with_reducible refine partDone_keeps ?_
    | with_reducible refine keepsOut_next ?_
    | split
    | dsimp -zeta only
    | (rw [keeps_mk]; refine keepsParts_fold ?_))

theorem execSstPowerTimeout_keeps {org : State} {power : BitVec 10} {s : State} (hs : Keeps org s) :
    KeepsOut org (execSstPowerTimeout power s) := by
  unfold execSstPowerTimeout
  repeat' (first
    | with_reducible assumption
    | ((try lift_lets -underBinder); intro x; first | (with_reducible refine keeps_let (o := org) x ?_ ?_; rotate_left; intro hx; clear_value x; rotate_right; subst x) | clear_value x)
    | with_reducible refine endStep_keeps ?_
    | with_reducible refine sstPower_keeps ?_
    | with_reducible refine keepsOut_next ?_
    | split
    | dsimp -zeta only
    | (rw [keeps_mk]; refine keepsParts_fold ?_))

theorem execInterlock_keeps {org : State} {s : State} (hs : Keeps org s) :
    KeepsOut org (execInterlock s) := by
  unfold execInterlock
  repeat' (first
    | with_reducible assumption
    | with_reducible refine State.set_keeps ?_
    | with_reducible refine endStep_keeps ?_
    | with_reducible refine startPart_keeps ?_
    | with_reducible refine keepsOut_next ?_
    | split
    | dsimp -zeta only
    | (rw [keeps_mk]; refine keepsParts_fold ?_))

theorem sstRecord_keeps {org : State} {s : State} {kind : Nat} {state : Bool} {verdict done_ dur : Nat} (hs : Keeps org s) :
    Keeps org (sstRecord s kind state verdict done_ dur) := by
  unfold sstRecord
  repeat' (first
    | with_reducible assumption
    | with_reducible refine State.event_keeps ?_
    | split
    | dsimp -zeta only)

theorem sstBegin_keeps {org : State} {s : State} {kind : Nat} (hs : Keeps org s) :
    Keeps org (sstBegin s kind) := by
  unfold sstBegin
  repeat' (first
    | with_reducible assumption
    | ((try lift_lets -underBinder); intro x; first | (with_reducible refine keeps_let (o := org) x ?_ ?_; rotate_left; intro hx; clear_value x; rotate_right; subst x) | clear_value x)
    | with_reducible refine State.set_keeps ?_
    | with_reducible refine newRecord_keeps ?_
    | with_reducible refine enterStep_keeps ?_
    | with_reducible refine sstRecord_keeps ?_
    | split
    | dsimp -zeta only
    | (rw [keeps_mk]; refine keepsParts_fold ?_))

theorem seqUnload_keeps {org : State} {s : State} {u : Nat} (hs : Keeps org s) :
    Keeps org (seqUnload s u) := by
  unfold seqUnload
  repeat' (first
    | with_reducible assumption
    | ((try lift_lets -underBinder); intro x; first | (with_reducible refine keeps_let (o := org) x ?_ ?_; rotate_left; intro hx; clear_value x; rotate_right; subst x) | (with_reducible refine keeps_let_fun x ?_; subst x) | clear_value x)
    | with_reducible refine State.set_keeps ?_
    | with_reducible refine releaseOwn_keeps ?_
    | with_reducible refine State.setCal_keeps ?_
    | with_reducible refine dropPart_keeps ?_
    | with_reducible refine State.each_keeps ?_ (fun s1 a1 h1 => ?_)
    | split
    | dsimp -zeta only
    | (rw [keeps_mk]; refine keepsParts_fold ?_)
    | (rw [keeps_mk]; refine keepsParts_change ?_ (fun h0 => by unfold SoundParts State.Sound FlumeWf LandingWf at *; simp only [h0, swf_nil, and_self])))

theorem portQuiesce_keeps {org : State} {s : State} {p : Nat} (hs : Keeps org s) :
    Keeps org (portQuiesce s p) := by
  unfold portQuiesce
  repeat' (first
    | with_reducible assumption
    | ((try lift_lets -underBinder); intro x; first | (with_reducible refine keeps_let (o := org) x ?_ ?_; rotate_left; intro hx; clear_value x; rotate_right; subst x) | clear_value x)
    | with_reducible refine State.set_keeps ?_
    | with_reducible refine portDisable_keeps ?_
    | split
    | dsimp -zeta only)

theorem itemsQuiesce_keeps {org : State} {s : State} (hs : Keeps org s) :
    Keeps org (itemsQuiesce s) := by
  unfold itemsQuiesce
  repeat' (first
    | with_reducible assumption
    | ((try lift_lets -underBinder); intro x; first | (with_reducible refine keeps_let (o := org) x ?_ ?_; rotate_left; intro hx; clear_value x; rotate_right; subst x) | (with_reducible refine keeps_let_fun x ?_; subst x) | clear_value x)
    | with_reducible refine finishItem_keeps ?_
    | with_reducible refine pumpAll_keeps ?_
    | with_reducible refine abortCapture_keeps ?_
    | with_reducible refine State.each_keeps ?_ (fun s1 a1 h1 => ?_)
    | split
    | dsimp -zeta only)

theorem quiesce_keeps {org : State} {s : State} (hs : Keeps org s) :
    Keeps org (quiesce s) := by
  unfold quiesce
  repeat' (first
    | with_reducible assumption
    | ((try lift_lets -underBinder); intro x; first | (with_reducible refine keeps_let (o := org) x ?_ ?_; rotate_left; intro hx; clear_value x; rotate_right; subst x) | (with_reducible refine keeps_let_fst (o := org) x ?_ ?_; rotate_left; intro hx; clear_value x; rotate_right; subst x) | (with_reducible refine keeps_let_fun x ?_; subst x) | clear_value x)
    | with_reducible refine State.set_keeps ?_
    | with_reducible refine claimAll_keeps ?_
    | with_reducible refine waitingAll_keeps ?_
    | with_reducible refine releaseStreams_keeps ?_
    | with_reducible refine streamChanged_keeps ?_
    | with_reducible refine cruEnable_keeps ?_
    | with_reducible refine staleCheck_keeps ?_
    | with_reducible refine ringCfgWrite_keeps ?_
    | with_reducible refine arcSet_keeps ?_
    | with_reducible refine seqUnload_keeps ?_
    | with_reducible refine portQuiesce_keeps ?_
    | with_reducible refine itemsQuiesce_keeps ?_
    | with_reducible refine State.each_keeps ?_ (fun s1 a1 h1 => ?_)
    | split
    | dsimp -zeta only)

theorem startRun_keeps {org : State} {s : State} (hs : Keeps org s) :
    Keeps org (match s.sst.run with
      | none => s
      | some r => startPart s r) := by
  split
  · exact hs
  · exact startPart_keeps hs

theorem unpowered_keeps {org : State} {s : State} {n : Nat} (hs : Keeps org s) :
    Keeps org { s with start := { s.start with unpowered := n } } := by
  rw [keeps_mk]
  exact keepsParts_fold hs

theorem shutdownBegin_keeps {org : State} {s : State} (hs : Keeps org s) :
    Keeps org (shutdownBegin s) :=
  startRun_keeps (quiesce_keeps (sstBegin_keeps (unpowered_keeps (State.setSst_keeps (fun h0 => h0.records) hs))))

theorem shutdownPending_keeps {org : State} {s : State} (hs : Keeps org s) :
    Keeps org (shutdownPending s) := by
  unfold shutdownPending
  repeat' (first
    | with_reducible assumption
    | with_reducible refine shutdownBegin_keeps ?_
    | split
    | dsimp -zeta only)

theorem shutdownWrite_keeps {org : State} {s : State} (hs : Keeps org s) :
    Keeps org (shutdownWrite s) := by
  unfold shutdownWrite
  repeat' (first
    | with_reducible assumption
    | ((try lift_lets -underBinder); intro x; first | (with_reducible refine keeps_let (o := org) x ?_ ?_; rotate_left; intro hx; clear_value x; rotate_right; subst x) | (with_reducible refine keeps_let_sst x ?_; subst x) | clear_value x)
    | with_reducible refine State.set_keeps ?_
    | with_reducible refine State.wrErr_keeps ?_
    | with_reducible refine State.setSst_keeps (fun h0 => ?_) ?_
    | exact h0.records
    | with_reducible refine shutdownPending_keeps ?_
    | split
    | dsimp -zeta only
    | (rw [keeps_mk]; refine keepsParts_fold ?_))

theorem sstVoid_keeps {org : State} {s : State} (hs : Keeps org s) :
    Keeps org (sstVoid s) := by
  unfold sstVoid
  repeat' (first
    | with_reducible assumption
    | ((try lift_lets -underBinder); intro x; first | (with_reducible refine keeps_let (o := org) x ?_ ?_; rotate_left; intro hx; clear_value x; rotate_right; subst x) | (with_reducible refine keeps_let_fun x ?_; subst x) | (with_reducible refine keeps_let_sst x ?_; subst x) | clear_value x)
    | with_reducible refine State.set_keeps ?_
    | with_reducible refine State.setSst_keeps (fun h0 => ?_) ?_
    | exact h0.records
    | split
    | dsimp -zeta only
    | (rw [List.length_modify]; exact h0.records))

theorem execSnapshotResultRecords_keeps {org : State} {ring : Fin 16} {s : State} (hs : Keeps org s) :
    KeepsOut org (execSnapshotResultRecords ring s) := by
  unfold execSnapshotResultRecords
  repeat' (first
    | with_reducible assumption
    | with_reducible refine snapshotRun_keeps ?_
    | with_reducible refine keepsOut_next ?_
    | split
    | dsimp -zeta only)

end Sys2Proof.Machine
end

