-- ==== Sys2Proof/Laws/KeepsReset.lean ====
section
/-! SUPPORT. The operations of Machine/Reset.lean keep what every command keeps. -/

namespace Sys2Proof.Machine

theorem State.setStart_keeps {org : State} {s : State} {x : StartState} (hs : Keeps org s) :
    Keeps org (State.setStart s x) := by
  unfold State.setStart
  repeat' (first
    | with_reducible assumption
    | split
    | dsimp -zeta only
    | (rw [keeps_mk]; refine keepsParts_fold ?_))

theorem resetBase_keeps {org s : State} (hs : Keeps org s) : Keeps org (resetBase s) :=
  hs.trans ⟨fun h => ⟨⟨swf_filter h.1.1, ⟨rfl, List.Pairwise.nil, fun _ hm => absurd hm (List.not_mem_nil)⟩, rfl, rfl, rfl, rfl, h.baseline, rfl, rfl, rfl, rfl⟩, ⟨rfl, rfl, rfl⟩,
    ⟨rfl, rfl, rfl, rfl, rfl⟩, ⟨h.landingWf.1, rfl⟩, ⟨rfl, rfl, rfl, rfl, rfl, rfl, rfl, rfl, rfl⟩,
    ⟨rfl, rfl, rfl, rfl, rfl, rfl⟩, ⟨rfl, rfl, rfl⟩, ⟨rfl, rfl, rfl, rfl⟩, (by decide : 0 < 2 ^ 32), h.records⟩, rfl, rfl, Nat.le_succ _, List.suffix_refl _⟩

theorem lanesStart_keeps {org : State} {s : State} {out : List Nat} (hs : Keeps org s) :
    Keeps org (lanesStart s out) := by
  unfold lanesStart
  repeat' (first
    | with_reducible assumption
    | with_reducible refine State.set_keeps ?_
    | with_reducible refine voteNow_keeps ?_
    | with_reducible refine State.each_keeps ?_ (fun s1 a1 h1 => ?_)
    | split
    | dsimp -zeta only)

theorem resetCore_keeps {org : State} {s : State} {cause : Nat} (hs : Keeps org s) :
    Keeps org (resetCore s cause) := by
  unfold resetCore
  repeat' (first
    | with_reducible assumption
    | ((try lift_lets -underBinder); intro x; first | (with_reducible refine keeps_let (o := org) x ?_ ?_; rotate_left; intro hx; clear_value x; rotate_right; subst x) | clear_value x)
    | with_reducible refine State.set_keeps ?_
    | with_reducible refine State.emit_keeps ?_
    | with_reducible refine baseValid_keeps ?_
    | with_reducible refine partPending_keeps ?_
    | with_reducible refine partApply_keeps ?_
    | with_reducible refine resetBase_keeps ?_
    | with_reducible refine lanesStart_keeps ?_
    | split
    | dsimp -zeta only)

theorem resetCut_keeps {org : State} {s : State} {cause : Nat} (hs : Keeps org s) :
    Keeps org (resetCut s cause) := by
  unfold resetCut
  repeat' (first
    | with_reducible assumption
    | with_reducible refine lndPowerLoss_keeps ?_
    | with_reducible refine resetCore_keeps ?_
    | split
    | dsimp -zeta only)

theorem execPowerGood_keeps {org : State} {unpowered : Nat} {s : State} (hs : Keeps org s) :
    KeepsOut org (execPowerGood unpowered s) := by
  unfold execPowerGood
  repeat' (first
    | with_reducible assumption
    | ((try lift_lets -underBinder); intro x; first | (with_reducible refine keeps_let (o := org) x ?_ ?_; rotate_left; intro hx; clear_value x; rotate_right; subst x) | clear_value x)
    | with_reducible refine State.setStart_keeps ?_
    | with_reducible refine resetCut_keeps ?_
    | with_reducible refine keepsOut_next ?_
    | split
    | dsimp -zeta only
    | (rw [keeps_mk]; refine keepsParts_fold ?_))

theorem execBrownOut_keeps {org : State} {s : State} (hs : Keeps org s) :
    KeepsOut org (execBrownOut s) := by
  unfold execBrownOut
  repeat' (first
    | with_reducible assumption
    | with_reducible refine resetCut_keeps ?_
    | with_reducible refine keepsOut_next ?_
    | split
    | dsimp -zeta only)

theorem execThermalReset_keeps {org : State} {s : State} (hs : Keeps org s) :
    KeepsOut org (execThermalReset s) := by
  unfold execThermalReset
  repeat' (first
    | with_reducible assumption
    | with_reducible refine resetCut_keeps ?_
    | with_reducible refine keepsOut_next ?_
    | split
    | dsimp -zeta only)

theorem itemsReset_keeps {org : State} {s : State} (hs : Keeps org s) :
    Keeps org (itemsReset s) := by
  unfold itemsReset
  repeat' (first
    | with_reducible assumption
    | with_reducible refine finishItem_keeps ?_
    | with_reducible refine dirPartial_keeps ?_
    | with_reducible refine State.each_keeps ?_ (fun s1 a1 h1 => ?_)
    | split
    | dsimp -zeta only
    | (rw [keeps_mk]; refine keepsParts_fold ?_))

theorem requestReset_keeps {org : State} {s : State} {cause : Nat} {target : Option Nat} (hs : Keeps org s) :
    Keeps org (requestReset s cause target) := by
  unfold requestReset
  repeat' (first
    | with_reducible assumption
    | ((try lift_lets -underBinder); intro x; first | (with_reducible refine keeps_let (o := org) x ?_ ?_; rotate_left; intro hx; clear_value x; rotate_right; subst x) | clear_value x)
    | with_reducible refine State.setStart_keeps ?_
    | with_reducible refine itemsReset_keeps ?_
    | split
    | dsimp -zeta only
    | (rw [keeps_mk]; refine keepsParts_fold ?_))

theorem eraseStores_keeps {org : State} {s : State} (hs : Keeps org s) :
    Keeps org (eraseStores s) := by
  unfold eraseStores
  repeat' (first
    | with_reducible assumption
    | ((try lift_lets -underBinder); intro x; first | (with_reducible refine keeps_let (o := org) x ?_ ?_; rotate_left; intro hx; clear_value x; rotate_right; subst x) | (with_reducible refine keeps_let_wedge x ?_; subst x) | (with_reducible refine keeps_let_mark x ?_; subst x) | clear_value x)
    | with_reducible refine State.setStart_keeps ?_
    | unfold State.setWedge
    | split
    | dsimp -zeta only
    | (rw [keeps_mk]; refine keepsParts_fold ?_))

theorem eraseData_keeps {org s : State} {first : Option Nat} (hs : Keeps org s) : Keeps org (eraseData s first) := by
  unfold eraseData
  have h1 : Keeps org (s.setLanding { LandingState.zero with firstOperational := first }) :=
    hs.change (fun h => ⟨h.1, h.2.1, h.2.2.1, ⟨rfl, rfl⟩, h.2.2.2.2⟩) rfl rfl rfl rfl
  exact State.setSst_keeps (fun _ => Nat.zero_le _) (State.setStart_keeps (keeps_baseline (fun _ => rfl) h1))

theorem erase_keeps {org : State} {s : State} {target : Nat} (hs : Keeps org s) :
    Keeps org (erase s target) := by
  unfold erase
  repeat' (first
    | with_reducible assumption
    | ((try lift_lets -underBinder); intro x; first | (with_reducible refine keeps_let (o := org) x ?_ ?_; rotate_left; intro hx; clear_value x; rotate_right; subst x) | clear_value x)
    | exact Nat.zero_le _
    | with_reducible refine eraseStores_keeps ?_
    | with_reducible refine eraseData_keeps ?_
    | split
    | dsimp -zeta only)

theorem lcRecord_keeps {org : State} {s : State} {old target : Nat} (hs : Keeps org s) :
    Keeps org (lcRecord s old target) := by
  unfold lcRecord
  repeat' (first
    | with_reducible assumption
    | with_reducible refine State.set_keeps ?_
    | with_reducible refine State.event_keeps ?_
    | split
    | dsimp -zeta only)

theorem execTj120Reset_keeps {org : State} {s : State} (hs : Keeps org s) :
    KeepsOut org (execTj120Reset s) := by
  unfold execTj120Reset
  repeat' (first
    | with_reducible assumption
    | with_reducible refine resetCore_keeps ?_
    | with_reducible refine erase_keeps ?_
    | with_reducible refine lcRecord_keeps ?_
    | with_reducible refine keepsOut_next ?_
    | split
    | dsimp -zeta only
    | (rw [keeps_mk]; refine keepsParts_fold ?_))

theorem lcDisarm_keeps {org : State} {s : State} {result : Nat} (hs : Keeps org s) :
    Keeps org (lcDisarm s result) := by
  unfold lcDisarm
  repeat' (first
    | with_reducible assumption
    | with_reducible refine State.set_keeps ?_
    | split
    | dsimp -zeta only)

theorem lcConfirm_keeps {org : State} {s : State} {target : Nat} (hs : Keeps org s) :
    Keeps org (lcConfirm s target) := by
  unfold lcConfirm
  repeat' (first
    | with_reducible assumption
    | with_reducible refine requestReset_keeps ?_
    | with_reducible refine lcRecord_keeps ?_
    | with_reducible refine lcDisarm_keeps ?_
    | split
    | dsimp -zeta only
    | (rw [keeps_mk]; refine keepsParts_fold ?_))

theorem lcReqWrite_keeps {org : State} {s : State} {v : Nat} (hs : Keeps org s) :
    Keeps org (lcReqWrite s v) := by
  unfold lcReqWrite
  repeat' (first
    | with_reducible assumption
    | ((try lift_lets -underBinder); intro x; first | (with_reducible refine keeps_let (o := org) x ?_ ?_; rotate_left; intro hx; clear_value x; rotate_right; subst x) | clear_value x)
    | with_reducible refine State.set_keeps ?_
    | with_reducible refine State.wrErr_keeps ?_
    | with_reducible refine State.setStart_keeps ?_
    | with_reducible refine lcDisarm_keeps ?_
    | with_reducible refine lcConfirm_keeps ?_
    | split
    | dsimp -zeta only
    | (rw [keeps_mk]; refine keepsParts_fold ?_))

theorem execLcArmExpiry_keeps {org : State} {s : State} (hs : Keeps org s) :
    KeepsOut org (execLcArmExpiry s) := by
  unfold execLcArmExpiry
  repeat' (first
    | with_reducible assumption
    | with_reducible refine lcDisarm_keeps ?_
    | with_reducible refine keepsOut_next ?_
    | split
    | dsimp -zeta only)

theorem saveWrite_keeps {org : State} {s : State} (hs : Keeps org s) :
    Keeps org (saveWrite s) := by
  unfold saveWrite
  repeat' (first
    | with_reducible assumption
    | with_reducible refine State.wrErr_keeps ?_
    | with_reducible refine State.setStart_keeps ?_
    | split
    | dsimp -zeta only
    | (rw [keeps_mk]; refine keepsParts_fold ?_))

theorem saveDone_keeps {org : State} {s : State} {ok : Bool} (hs : Keeps org s) :
    Keeps org (saveDone s ok) := by
  unfold saveDone
  repeat' (first
    | with_reducible assumption
    | ((try lift_lets -underBinder); intro x; first | (with_reducible refine keeps_let (o := org) x ?_ ?_; rotate_left; intro hx; clear_value x; rotate_right; subst x) | (with_reducible refine keeps_let_fst (o := org) x ?_ ?_; rotate_left; intro hx; clear_value x; rotate_right; subst x) | clear_value x)
    | with_reducible refine State.set_keeps ?_
    | with_reducible refine shutdownPending_keeps ?_
    | with_reducible refine State.setStart_keeps ?_
    | split
    | dsimp -zeta only
    | (rw [keeps_mk]; refine keepsParts_fold ?_))

theorem execSaveDone_keeps {org : State} {ok : Bool} {s : State} (hs : Keeps org s) :
    KeepsOut org (execSaveDone ok s) := by
  unfold execSaveDone
  repeat' (first
    | with_reducible assumption
    | with_reducible refine saveDone_keeps ?_
    | with_reducible refine keepsOut_next ?_
    | split
    | dsimp -zeta only)

theorem hold_keeps {org : State} {s : State} (hs : Keeps org s) :
    Keeps org (hold s) := by
  unfold hold
  repeat' (first
    | with_reducible assumption
    | ((try lift_lets -underBinder); intro x; first | (with_reducible refine keeps_let (o := org) x ?_ ?_; rotate_left; intro hx; clear_value x; rotate_right; subst x) | (with_reducible refine keeps_let_sst x ?_; subst x) | clear_value x)
    | with_reducible refine State.set_keeps ?_
    | with_reducible refine State.setSst_keeps (fun h0 => ?_) ?_
    | exact h0.records
    | with_reducible refine State.setStart_keeps ?_
    | with_reducible refine resetCore_keeps ?_
    | split
    | dsimp -zeta only
    | (rw [keeps_mk]; refine keepsParts_fold ?_))

theorem shutdownCtl_keeps {org : State} {s : State} (hs : Keeps org s) :
    Keeps org (shutdownCtl s) := by
  unfold shutdownCtl
  repeat' (first
    | with_reducible assumption
    | with_reducible refine shutdownWrite_keeps ?_
    | with_reducible refine hold_keeps ?_
    | split
    | dsimp -zeta only)

theorem finalPage_keeps {org : State} {s : State} {r : SstRun} (hs : Keeps org s) :
    Keeps org (finalPage s r) := by
  unfold finalPage
  repeat' (first
    | with_reducible assumption
    | ((try lift_lets -underBinder); intro x; first | (with_reducible refine keeps_let (o := org) x ?_ ?_; rotate_left; intro hx; clear_value x; rotate_right; subst x) | clear_value x)
    | with_reducible refine State.updRecord_keeps ?_
    | with_reducible refine sstRecord_keeps ?_
    | split
    | dsimp -zeta only
    | (rw [keeps_mk]; refine keepsParts_fold ?_))

theorem execSstFinalPage_keeps {org : State} {s : State} (hs : Keeps org s) :
    KeepsOut org (execSstFinalPage s) := by
  unfold execSstFinalPage
  repeat' (first
    | with_reducible assumption
    | ((try lift_lets -underBinder); intro x; first | (with_reducible refine keeps_let (o := org) x ?_ ?_; rotate_left; intro hx; clear_value x; rotate_right; subst x) | clear_value x)
    | with_reducible refine State.setStart_keeps ?_
    | with_reducible refine hold_keeps ?_
    | with_reducible refine finalPage_keeps ?_
    | with_reducible refine keepsOut_next ?_
    | split
    | dsimp -zeta only
    | (rw [keeps_mk]; refine keepsParts_fold ?_))

end Sys2Proof.Machine
end

