-- ==== Sys2Proof/Laws/KeepsSkyline.lean ====
section
/-! SUPPORT. The operations of Machine/Skyline.lean keep what every command keeps. -/

namespace Sys2Proof.Machine

theorem State.setHead_keeps {org : State} {s : State} {c h : Nat} {x : SkyHead} (hs : Keeps org s) :
    Keeps org (State.setHead s c h x) := by
  unfold State.setHead
  repeat' (first
    | with_reducible assumption
    | with_reducible refine State.setChain_keeps ?_
    | split
    | dsimp -zeta only
    | (rw [keeps_mk]; refine keepsParts_fold ?_))

theorem setChainState_keeps {org : State} {s : State} {c v : Nat} (hs : Keeps org s) :
    Keeps org (setChainState s c v) := by
  unfold setChainState
  repeat' (first
    | with_reducible assumption
    | with_reducible refine State.set_keeps ?_
    | split
    | dsimp -zeta only)

theorem enableCarried_keeps {org : State} {s : State} {c : Nat} (hs : Keeps org s) :
    Keeps org (enableCarried s c) := by
  unfold enableCarried
  repeat' (first
    | with_reducible assumption
    | ((try lift_lets -underBinder); intro x; first | (with_reducible refine keeps_let (o := org) x ?_ ?_; rotate_left; intro hx; clear_value x; rotate_right; subst x) | (with_reducible refine keeps_let_fst (o := org) x ?_ ?_; rotate_left; intro hx; clear_value x; rotate_right; subst x) | (with_reducible refine keeps_let_fun x ?_; subst x) | clear_value x)
    | with_reducible refine State.setWgroup_keeps ?_
    | with_reducible refine State.each_keeps ?_ (fun s1 a1 h1 => ?_)
    | split
    | dsimp -zeta only
    | (rw [keeps_mk]; refine keepsParts_fold ?_))

theorem execExchangeStart_keeps {org : State} {chain : Fin 4} {high : Bool} {s : State} (hs : Keeps org s) :
    KeepsOut org (execExchangeStart chain high s) := by
  unfold execExchangeStart
  repeat' (first
    | with_reducible assumption
    | ((try lift_lets -underBinder); intro x; first | (with_reducible refine keeps_let (o := org) x ?_ ?_; rotate_left; intro hx; clear_value x; rotate_right; subst x) | (with_reducible refine keeps_let_fst (o := org) x ?_ ?_; rotate_left; intro hx; clear_value x; rotate_right; subst x) | (with_reducible refine keeps_let_fun x ?_; subst x) | clear_value x)
    | with_reducible refine State.write_keeps ?_
    | with_reducible refine State.set_keeps ?_
    | with_reducible refine State.bump_keeps ?_
    | with_reducible refine State.emit_keeps ?_
    | with_reducible refine State.setChain_keeps ?_
    | with_reducible refine State.setHead_keeps ?_
    | with_reducible refine enableCarried_keeps ?_
    | with_reducible refine State.each_keeps ?_ (fun s1 a1 h1 => ?_)
    | with_reducible refine keepsOut_next ?_
    | split
    | dsimp -zeta only
    | (rw [keeps_mk]; refine keepsParts_fold ?_))

theorem execLineShort_keeps {org : State} {chain : Fin 4} {s : State} (hs : Keeps org s) :
    KeepsOut org (execLineShort chain s) := by
  unfold execLineShort
  repeat' (first
    | with_reducible assumption
    | ((try lift_lets -underBinder); intro x; first | (with_reducible refine keeps_let (o := org) x ?_ ?_; rotate_left; intro hx; clear_value x; rotate_right; subst x) | clear_value x)
    | with_reducible refine State.bump_keeps ?_
    | with_reducible refine State.setChain_keeps ?_
    | with_reducible refine keepsOut_next ?_
    | split
    | dsimp -zeta only
    | (rw [keeps_mk]; refine keepsParts_fold ?_))

theorem traceRelease_keeps {org : State} {s : State} {n : Nat} (hs : Keeps org s) :
    Keeps org (traceRelease s n) := by
  unfold traceRelease
  repeat' (first
    | with_reducible assumption
    | with_reducible refine releaseOwn_keeps ?_
    | split
    | dsimp -zeta only)

theorem traceEnd_keeps {org : State} {s : State} {c : Nat} {edges : List (Nat × Bool)} (hs : Keeps org s) :
    Keeps org (traceEnd s c edges) := by
  unfold traceEnd
  repeat' (first
    | with_reducible assumption
    | ((try lift_lets -underBinder); intro x; first | (with_reducible refine keeps_let (o := org) x ?_ ?_; rotate_left; intro hx; clear_value x; rotate_right; subst x) | (with_reducible refine keeps_let_fst (o := org) x ?_ ?_; rotate_left; intro hx; clear_value x; rotate_right; subst x) | (with_reducible refine keeps_let_fun x ?_; subst x) | clear_value x)
    | with_reducible refine State.set_keeps ?_
    | with_reducible refine State.setChain_keeps ?_
    | with_reducible refine wbWrite_keeps ?_
    | with_reducible refine traceRelease_keeps ?_
    | split
    | dsimp -zeta only
    | (rw [keeps_mk]; refine keepsParts_fold ?_))

theorem traceArm_keeps {org : State} {s : State} {c : Nat} (hs : Keeps org s) :
    Keeps org (traceArm s c) := by
  unfold traceArm
  repeat' (first
    | with_reducible assumption
    | ((try lift_lets -underBinder); intro x; first | (with_reducible refine keeps_let (o := org) x ?_ ?_; rotate_left; intro hx; clear_value x; rotate_right; subst x) | (with_reducible refine keeps_let_fst (o := org) x ?_ ?_; rotate_left; intro hx; clear_value x; rotate_right; subst x) | clear_value x)
    | with_reducible refine State.set_keeps ?_
    | with_reducible refine claimAll_keeps ?_
    | with_reducible refine State.setChain_keeps ?_
    | split
    | dsimp -zeta only
    | (rw [keeps_mk]; refine keepsParts_fold ?_))

theorem chainRecord_keeps {org : State} {s : State} {c kind : Nat} {state : Bool} (hs : Keeps org s) :
    Keeps org (chainRecord s c kind state) := by
  unfold chainRecord
  repeat' (first
    | with_reducible assumption
    | ((try lift_lets -underBinder); intro x; first | (with_reducible refine keeps_let (o := org) x ?_ ?_; rotate_left; intro hx; clear_value x; rotate_right; subst x) | clear_value x)
    | with_reducible refine State.set_keeps ?_
    | with_reducible refine State.event_keeps ?_
    | split
    | dsimp -zeta only)

theorem chainStarting_keeps {org : State} {s : State} {c : Nat} (hs : Keeps org s) :
    Keeps org (chainStarting s c) := by
  unfold chainStarting
  repeat' (first
    | with_reducible assumption
    | ((try lift_lets -underBinder); intro x; first | (with_reducible refine keeps_let (o := org) x ?_ ?_; rotate_left; intro hx; clear_value x; rotate_right; subst x) | (with_reducible refine keeps_let_fst (o := org) x ?_ ?_; rotate_left; intro hx; clear_value x; rotate_right; subst x) | (with_reducible refine keeps_let_fun x ?_; subst x) | clear_value x)
    | with_reducible refine State.setChain_keeps ?_
    | with_reducible refine setChainState_keeps ?_
    | split
    | dsimp -zeta only
    | (rw [keeps_mk]; refine keepsParts_fold ?_))

theorem chainOff_keeps {org : State} {s : State} {c : Nat} (hs : Keeps org s) :
    Keeps org (chainOff s c) := by
  unfold chainOff
  repeat' (first
    | with_reducible assumption
    | ((try lift_lets -underBinder); intro x; first | (with_reducible refine keeps_let (o := org) x ?_ ?_; rotate_left; intro hx; clear_value x; rotate_right; subst x) | clear_value x)
    | with_reducible refine State.setChain_keeps ?_
    | with_reducible refine setChainState_keeps ?_
    | with_reducible refine enableCarried_keeps ?_
    | split
    | dsimp -zeta only
    | (rw [keeps_mk]; refine keepsParts_fold ?_))

theorem chainFault_keeps {org : State} {s : State} {c : Nat} {fault : Option Nat} (hs : Keeps org s) :
    Keeps org (chainFault s c fault) := by
  unfold chainFault
  repeat' (first
    | with_reducible assumption
    | ((try lift_lets -underBinder); intro x; first | (with_reducible refine keeps_let (o := org) x ?_ ?_; rotate_left; intro hx; clear_value x; rotate_right; subst x) | (with_reducible refine keeps_let_fun x ?_; subst x) | clear_value x)
    | with_reducible refine State.setChain_keeps ?_
    | with_reducible refine setChainState_keeps ?_
    | with_reducible refine chainRecord_keeps ?_
    | with_reducible refine chainStarting_keeps ?_
    | split
    | dsimp -zeta only
    | (rw [keeps_mk]; refine keepsParts_fold ?_))

theorem headResult_keeps {org : State} {s : State} {c h : Nat} {r : Nat ⊕ Nat} (hs : Keeps org s) :
    Keeps org (headResult s c h r) := by
  unfold headResult
  repeat' (first
    | with_reducible assumption
    | ((try lift_lets -underBinder); intro x; first | (with_reducible refine keeps_let (o := org) x ?_ ?_; rotate_left; intro hx; clear_value x; rotate_right; subst x) | (with_reducible refine keeps_let_fst (o := org) x ?_ ?_; rotate_left; intro hx; clear_value x; rotate_right; subst x) | clear_value x)
    | with_reducible refine faultRecord_keeps ?_
    | with_reducible refine State.setHead_keeps ?_
    | split
    | dsimp -zeta only
    | (rw [keeps_mk]; refine keepsParts_fold ?_))

theorem exchangeEnd_keeps {org : State} {s : State} {c : Nat} {res : Nat → Nat ⊕ Nat} {brk : Option Nat} {edges : List (Nat × Bool)} (hs : Keeps org s) :
    Keeps org (exchangeEnd s c res brk edges) := by
  unfold exchangeEnd
  repeat' (first
    | with_reducible assumption
    | ((try lift_lets -underBinder); intro x; first | (with_reducible refine keeps_let (o := org) x ?_ ?_; rotate_left; intro hx; clear_value x; rotate_right; subst x) | (with_reducible refine keeps_let_fst (o := org) x ?_ ?_; rotate_left; intro hx; clear_value x; rotate_right; subst x) | (with_reducible refine keeps_let_fun x ?_; subst x) | clear_value x)
    | with_reducible refine State.write_keeps ?_
    | with_reducible refine State.set_keeps ?_
    | with_reducible refine State.setChain_keeps ?_
    | with_reducible refine State.setHead_keeps ?_
    | with_reducible refine traceEnd_keeps ?_
    | with_reducible refine chainOff_keeps ?_
    | with_reducible refine chainFault_keeps ?_
    | with_reducible refine headResult_keeps ?_
    | with_reducible refine State.each_keeps ?_ (fun s1 a1 h1 => ?_)
    | with_reducible refine foldl_keeps ?_ (fun s1 a1 h1 => ?_)
    | with_reducible refine foldl_fst_keeps ?_ (fun s1 a1 h1 => ?_)
    | split
    | dsimp -zeta only
    | (rw [keeps_mk]; refine keepsParts_fold ?_))

theorem execReturnFrameEnd_keeps {org : State} {chain : Fin 4} {cells : List (Option Bool)} {edges : List (Nat × Bool)} {s : State} (hs : Keeps org s) :
    KeepsOut org (execReturnFrameEnd chain cells edges s) := by
  unfold execReturnFrameEnd
  repeat' (first
    | with_reducible assumption
    | ((try lift_lets -underBinder); intro x; first | (with_reducible refine keeps_let (o := org) x ?_ ?_; rotate_left; intro hx; clear_value x; rotate_right; subst x) | (with_reducible refine keeps_let_fun x ?_; subst x) | clear_value x)
    | with_reducible refine State.set_keeps ?_
    | with_reducible refine State.count_keeps ?_
    | with_reducible refine State.bump_keeps ?_
    | with_reducible refine exchangeEnd_keeps ?_
    | with_reducible refine keepsOut_next ?_
    | split
    | dsimp -zeta only
    | (rw [keeps_mk]; refine keepsParts_fold ?_))

theorem execReturnFrameDeadline_keeps {org : State} {chain : Fin 4} {edges : List (Nat × Bool)} {s : State} (hs : Keeps org s) :
    KeepsOut org (execReturnFrameDeadline chain edges s) := by
  unfold execReturnFrameDeadline
  repeat' (first
    | with_reducible assumption
    | ((try lift_lets -underBinder); intro x; first | (with_reducible refine keeps_let (o := org) x ?_ ?_; rotate_left; intro hx; clear_value x; rotate_right; subst x) | (with_reducible refine keeps_let_fun x ?_; subst x) | clear_value x)
    | with_reducible refine State.bump_keeps ?_
    | with_reducible refine exchangeEnd_keeps ?_
    | with_reducible refine keepsOut_next ?_
    | split
    | dsimp -zeta only)

theorem execChainResultTimeout_keeps {org : State} {chain : Fin 4} {s : State} (hs : Keeps org s) :
    KeepsOut org (execChainResultTimeout chain s) := by
  unfold execChainResultTimeout
  repeat' (first
    | with_reducible assumption
    | ((try lift_lets -underBinder); intro x; first | (with_reducible refine keeps_let (o := org) x ?_ ?_; rotate_left; intro hx; clear_value x; rotate_right; subst x) | clear_value x)
    | with_reducible refine State.setChain_keeps ?_
    | with_reducible refine keepsOut_next ?_
    | split
    | dsimp -zeta only
    | (rw [keeps_mk]; refine keepsParts_fold ?_))

theorem skyCfgWrite_keeps {org : State} {s : State} {c v : Nat} (hs : Keeps org s) :
    Keeps org (skyCfgWrite s c v) := by
  unfold skyCfgWrite
  repeat' (first
    | with_reducible assumption
    | ((try lift_lets -underBinder); intro x; first | (with_reducible refine keeps_let (o := org) x ?_ ?_; rotate_left; intro hx; clear_value x; rotate_right; subst x) | clear_value x)
    | with_reducible refine State.write_keeps ?_
    | with_reducible refine State.set_keeps ?_
    | with_reducible refine State.wrErr_keeps ?_
    | with_reducible refine State.setChain_keeps ?_
    | with_reducible refine chainStarting_keeps ?_
    | with_reducible refine chainOff_keeps ?_
    | split
    | dsimp -zeta only
    | (rw [keeps_mk]; refine keepsParts_fold ?_))

theorem identWrite_keeps {org : State} {s : State} {c h : Nat} (hs : Keeps org s) :
    Keeps org (identWrite s c h) := by
  unfold identWrite
  repeat' (first
    | with_reducible assumption
    | with_reducible refine State.setChain_keeps ?_
    | split
    | dsimp -zeta only
    | (rw [keeps_mk]; refine keepsParts_fold ?_))

theorem fltClrWrite_keeps {org : State} {s : State} {c : Nat} (hs : Keeps org s) :
    Keeps org (fltClrWrite s c) := by
  unfold fltClrWrite
  repeat' (first
    | with_reducible assumption
    | with_reducible refine State.setChain_keeps ?_
    | split
    | dsimp -zeta only
    | (rw [keeps_mk]; refine keepsParts_fold ?_))

theorem skyCtlWrite_keeps {org : State} {s : State} {c v : Nat} (hs : Keeps org s) :
    Keeps org (skyCtlWrite s c v) := by
  unfold skyCtlWrite
  repeat' (first
    | with_reducible assumption
    | ((try lift_lets -underBinder); intro x; first | (with_reducible refine keeps_let (o := org) x ?_ ?_; rotate_left; intro hx; clear_value x; rotate_right; subst x) | clear_value x)
    | with_reducible refine traceArm_keeps ?_
    | with_reducible refine identWrite_keeps ?_
    | with_reducible refine fltClrWrite_keeps ?_
    | split
    | dsimp -zeta only)

theorem execIdentExpiry_keeps {org : State} {chain : Fin 4} {s : State} (hs : Keeps org s) :
    KeepsOut org (execIdentExpiry chain s) := by
  unfold execIdentExpiry
  repeat' (first
    | with_reducible assumption
    | ((try lift_lets -underBinder); intro x; first | (with_reducible refine keeps_let (o := org) x ?_ ?_; rotate_left; intro hx; clear_value x; rotate_right; subst x) | (with_reducible refine keeps_let_fst (o := org) x ?_ ?_; rotate_left; intro hx; clear_value x; rotate_right; subst x) | clear_value x)
    | with_reducible refine State.setChain_keeps ?_
    | with_reducible refine keepsOut_next ?_
    | split
    | dsimp -zeta only
    | (rw [keeps_mk]; refine keepsParts_fold ?_))

theorem skyCntClr_keeps {org : State} {s : State} (hs : Keeps org s) :
    Keeps org (skyCntClr s) := by
  unfold skyCntClr
  repeat' (first
    | with_reducible assumption
    | ((try lift_lets -underBinder); intro x; first | (with_reducible refine keeps_let (o := org) x ?_ ?_; rotate_left; intro hx; clear_value x; rotate_right; subst x) | (with_reducible refine keeps_let_fst (o := org) x ?_ ?_; rotate_left; intro hx; clear_value x; rotate_right; subst x) | (with_reducible refine keeps_let_fun x ?_; subst x) | clear_value x)
    | with_reducible refine State.clearAll_keeps ?_
    | with_reducible refine State.setChain_keeps ?_
    | with_reducible refine State.each_keeps ?_ (fun s1 a1 h1 => ?_)
    | split
    | dsimp -zeta only
    | (rw [keeps_mk]; refine keepsParts_fold ?_))

theorem execSnapshotHeads_keeps {org : State} {ring : Fin 16} {s : State} (hs : Keeps org s) :
    KeepsOut org (execSnapshotHeads ring s) := by
  unfold execSnapshotHeads
  repeat' (first
    | with_reducible assumption
    | ((try lift_lets -underBinder); intro x; first | (with_reducible refine keeps_let (o := org) x ?_ ?_; rotate_left; intro hx; clear_value x; rotate_right; subst x) | (with_reducible refine keeps_let_fun x ?_; subst x) | clear_value x)
    | with_reducible refine snapshotRun_keeps ?_
    | with_reducible refine keepsOut_next ?_
    | split
    | dsimp -zeta only)

end Sys2Proof.Machine
end

