-- ==== Sys2Proof/Laws/KeepsTimebase.lean ====
section
/-! SUPPORT. The operations of Machine/Timebase.lean keep what every command keeps. -/

namespace Sys2Proof.Machine

theorem State.setTb_keeps {org : State} {s : State} {t : TimebaseState} (hs : Keeps org s) :
    Keeps org (State.setTb s t) := by
  unfold State.setTb
  repeat' (first
    | with_reducible assumption
    | split
    | dsimp -zeta only
    | (rw [keeps_mk]; refine keepsParts_fold ?_))

/-- A tick keeps the invariant. -/
theorem tick_sound {s : State} (hs : s.Sound) : (tick s).Sound := by
  unfold tick
  dsimp only
  split <;> exact hs

theorem tbTo_keeps {org : State} {s : State} {st : Nat} (hs : Keeps org s) :
    Keeps org (tbTo s st) := by
  unfold tbTo
  repeat' (first
    | with_reducible assumption
    | ((try lift_lets -underBinder); intro x; first | (with_reducible refine keeps_let (o := org) x ?_ ?_; rotate_left; intro hx; clear_value x; rotate_right; subst x) | clear_value x)
    | with_reducible refine State.set_keeps ?_
    | with_reducible refine State.event_keeps ?_
    | split
    | dsimp -zeta only)

theorem newRate_keeps {org : State} {s : State} (hs : Keeps org s) :
    Keeps org (newRate s) := by
  unfold newRate
  repeat' (first
    | with_reducible assumption
    | with_reducible refine State.set_keeps ?_
    | with_reducible refine State.tookFree_keeps ?_
    | split
    | dsimp -zeta only)

theorem discipline_keeps {org : State} {s : State} {ofs : Int} (hs : Keeps org s) :
    Keeps org (discipline s ofs) := by
  unfold discipline
  repeat' (first
    | with_reducible assumption
    | ((try lift_lets -underBinder); intro x; first | (with_reducible refine keeps_let (o := org) x ?_ ?_; rotate_left; intro hx; clear_value x; rotate_right; subst x) | clear_value x)
    | with_reducible refine State.set_keeps ?_
    | with_reducible refine State.event_keeps ?_
    | with_reducible refine State.setTb_keeps ?_
    | with_reducible refine tbTo_keeps ?_
    | with_reducible refine newRate_keeps ?_
    | split
    | dsimp -zeta only
    | (rw [keeps_mk]; refine keepsParts_fold ?_))

theorem execPpsinEdge_keeps {org : State} {s : State} (hs : Keeps org s) :
    KeepsOut org (execPpsinEdge s) := by
  unfold execPpsinEdge
  repeat' (first
    | with_reducible assumption
    | ((try lift_lets -underBinder); intro x; first | (with_reducible refine keeps_let (o := org) x ?_ ?_; rotate_left; intro hx; clear_value x; rotate_right; subst x) | clear_value x)
    | with_reducible refine State.set_keeps ?_
    | with_reducible refine State.setTb_keeps ?_
    | with_reducible refine tbTo_keeps ?_
    | with_reducible refine newRate_keeps ?_
    | with_reducible refine discipline_keeps ?_
    | with_reducible refine keepsOut_next ?_
    | split
    | dsimp -zeta only
    | (rw [keeps_mk]; refine keepsParts_fold ?_))

theorem syncDone_keeps {org : State} {s : State} {t1 t2 : Nat} (hs : Keeps org s) :
    Keeps org (syncDone s t1 t2) := by
  unfold syncDone
  repeat' (first
    | with_reducible assumption
    | ((try lift_lets -underBinder); intro x; first | (with_reducible refine keeps_let (o := org) x ?_ ?_; rotate_left; intro hx; clear_value x; rotate_right; subst x) | clear_value x)
    | with_reducible refine State.setTb_keeps ?_
    | with_reducible refine discipline_keeps ?_
    | split
    | dsimp -zeta only
    | (rw [keeps_mk]; refine keepsParts_fold ?_))

theorem execPtpMessage_keeps {org : State} {port : EthPort} {v6 : Bool} {ptpDomain : BitVec 8} {msg : PtpMessage} {s : State} (hs : Keeps org s) :
    KeepsOut org (execPtpMessage port v6 ptpDomain msg s) := by
  unfold execPtpMessage
  repeat' (first
    | with_reducible assumption
    | ((try lift_lets -underBinder); intro x; first | (with_reducible refine keeps_let (o := org) x ?_ ?_; rotate_left; intro hx; clear_value x; rotate_right; subst x) | (with_reducible refine keeps_let_fst (o := org) x ?_ ?_; rotate_left; intro hx; clear_value x; rotate_right; subst x) | clear_value x)
    | with_reducible refine State.setTb_keeps ?_
    | with_reducible refine tbTo_keeps ?_
    | with_reducible refine syncDone_keeps ?_
    | with_reducible refine keepsOut_next ?_
    | split
    | dsimp -zeta only
    | (rw [keeps_mk]; refine keepsParts_fold ?_))

theorem execDelayReqSend_keeps {org : State} {s : State} (hs : Keeps org s) :
    KeepsOut org (execDelayReqSend s) := by
  unfold execDelayReqSend
  repeat' (first
    | with_reducible assumption
    | ((try lift_lets -underBinder); intro x; first | (with_reducible refine keeps_let (o := org) x ?_ ?_; rotate_left; intro hx; clear_value x; rotate_right; subst x) | clear_value x)
    | with_reducible refine State.emit_keeps ?_
    | with_reducible refine State.setTb_keeps ?_
    | with_reducible refine keepsOut_next ?_
    | split
    | dsimp -zeta only
    | (rw [keeps_mk]; refine keepsParts_fold ?_))

theorem execTimebaseHoldover_keeps {org : State} {s : State} (hs : Keeps org s) :
    KeepsOut org (execTimebaseHoldover s) := by
  unfold execTimebaseHoldover
  repeat' (first
    | with_reducible assumption
    | ((try lift_lets -underBinder); intro x; first | (with_reducible refine keeps_let (o := org) x ?_ ?_; rotate_left; intro hx; clear_value x; rotate_right; subst x) | clear_value x)
    | with_reducible refine State.setTb_keeps ?_
    | with_reducible refine tbTo_keeps ?_
    | with_reducible refine keepsOut_next ?_
    | split
    | dsimp -zeta only
    | (rw [keeps_mk]; refine keepsParts_fold ?_))

theorem tbCfgWrite_keeps {org : State} {s : State} {v : Nat} (hs : Keeps org s) :
    Keeps org (tbCfgWrite s v) := by
  unfold tbCfgWrite
  repeat' (first
    | with_reducible assumption
    | ((try lift_lets -underBinder); intro x; first | (with_reducible refine keeps_let (o := org) x ?_ ?_; rotate_left; intro hx; clear_value x; rotate_right; subst x) | clear_value x)
    | with_reducible refine State.write_keeps ?_
    | with_reducible refine State.set_keeps ?_
    | with_reducible refine trimUpdate_keeps ?_
    | with_reducible refine State.setTb_keeps ?_
    | with_reducible refine tbTo_keeps ?_
    | split
    | dsimp -zeta only
    | (rw [keeps_mk]; refine keepsParts_fold ?_))

end Sys2Proof.Machine
end

