-- ==== Sys2Proof/Laws/KeepsRegisters.lean ====
section
/-! SUPPORT. The operations of Machine/Registers.lean keep what every command keeps. -/

namespace Sys2Proof.Machine

theorem storeReg_keeps {org : State} {s : State} {addr v : Nat} (hs : Keeps org s) :
    Keeps org (storeReg s addr v) := by
  unfold storeReg
  repeat' (first
    | with_reducible assumption
    | ((try lift_lets -underBinder); intro x; first | (with_reducible refine keeps_let (o := org) x ?_ ?_; rotate_left; intro hx; clear_value x; rotate_right; subst x) | clear_value x)
    | with_reducible refine State.write_keeps ?_
    | split
    | dsimp -zeta only
    | (rw [keeps_mk]; refine keepsParts_fold ?_))

theorem ownWrite_keeps {org : State} {s : State} {r : Resource} {v : Nat} (hs : Keeps org s) :
    Keeps org (ownWrite s r v) := by
  unfold ownWrite
  repeat' (first
    | with_reducible assumption
    | with_reducible refine State.wrErr_keeps ?_
    | with_reducible refine ownAction_keeps ?_
    | split
    | dsimp -zeta only)

theorem genWrite_keeps {org : State} {s : State} {addr v : Nat} (hs : Keeps org s) :
    Keeps org (genWrite s addr v) := by
  unfold genWrite
  repeat' (first
    | with_reducible assumption
    | ((try lift_lets -underBinder); intro x; first | (with_reducible refine keeps_let (o := org) x ?_ ?_; rotate_left; intro hx; clear_value x; rotate_right; subst x) | clear_value x)
    | with_reducible refine requestReset_keeps ?_
    | with_reducible refine lcReqWrite_keeps ?_
    | with_reducible refine saveWrite_keeps ?_
    | with_reducible refine shutdownCtl_keeps ?_
    | with_reducible refine storeReg_keeps ?_
    | split
    | dsimp -zeta only)

theorem clkWrite_keeps {org : State} {s : State} {addr v : Nat} (hs : Keeps org s) :
    Keeps org (clkWrite s addr v) := by
  unfold clkWrite
  repeat' (first
    | with_reducible assumption
    | with_reducible refine State.set_keeps ?_
    | with_reducible refine State.wrErr_keeps ?_
    | with_reducible refine oppWrite_keeps ?_
    | with_reducible refine clkCntClr_keeps ?_
    | with_reducible refine gateWrite_keeps ?_
    | with_reducible refine tbCfgWrite_keeps ?_
    | with_reducible refine storeReg_keeps ?_
    | split
    | dsimp -zeta only)

theorem portSwitch_keeps {org : State} {s : State} {p : Nat} {was on : Bool} (hs : Keeps org s) :
    Keeps org (portSwitch s p was on) := by
  unfold portSwitch
  repeat' (first
    | with_reducible assumption
    | with_reducible refine portEnable_keeps ?_
    | with_reducible refine portDisable_keeps ?_
    | split
    | dsimp -zeta only)

theorem prbCtlWrite_keeps {org : State} {s : State} {v : Nat} (hs : Keeps org s) :
    Keeps org (prbCtlWrite s v) := by
  unfold prbCtlWrite
  repeat' (first
    | with_reducible assumption
    | ((try lift_lets -underBinder); intro x; first | (with_reducible refine keeps_let (o := org) x ?_ ?_; rotate_left; intro hx; clear_value x; rotate_right; subst x) | clear_value x)
    | with_reducible refine State.wrErr_keeps ?_
    | with_reducible refine returnTrigger_keeps ?_
    | with_reducible refine handoverTest_keeps ?_
    | with_reducible refine storeReg_keeps ?_
    | with_reducible refine portSwitch_keeps ?_
    | split
    | dsimp -zeta only)

theorem cutCfgWrite_keeps {org : State} {s : State} {p v : Nat} (hs : Keeps org s) :
    Keeps org (cutCfgWrite s p v) := by
  unfold cutCfgWrite
  repeat' (first
    | with_reducible assumption
    | ((try lift_lets -underBinder); intro x; first | (with_reducible refine keeps_let (o := org) x ?_ ?_; rotate_left; intro hx; clear_value x; rotate_right; subst x) | clear_value x)
    | with_reducible refine State.wrErr_keeps ?_
    | with_reducible refine refCapture_keeps ?_
    | with_reducible refine storeReg_keeps ?_
    | split
    | dsimp -zeta only)

theorem cutTallyWrite_keeps {org : State} {s : State} {p v : Nat} (hs : Keeps org s) :
    Keeps org (cutTallyWrite s p v) := by
  unfold cutTallyWrite
  repeat' (first
    | with_reducible assumption
    | ((try lift_lets -underBinder); intro x; first | (with_reducible refine keeps_let (o := org) x ?_ ?_; rotate_left; intro hx; clear_value x; rotate_right; subst x) | clear_value x)
    | with_reducible refine State.set_keeps ?_
    | with_reducible refine State.wrErr_keeps ?_
    | with_reducible refine State.setProbe_keeps ?_
    | with_reducible refine storeReg_keeps ?_
    | split
    | dsimp -zeta only
    | (rw [keeps_mk]; refine keepsParts_fold ?_))

theorem powerWrite_keeps {org : State} {s : State} {p v : Nat} (hs : Keeps org s) :
    Keeps org (powerWrite s p v) := by
  unfold powerWrite
  repeat' (first
    | with_reducible assumption
    | ((try lift_lets -underBinder); intro x; first | (with_reducible refine keeps_let (o := org) x ?_ ?_; rotate_left; intro hx; clear_value x; rotate_right; subst x) | clear_value x)
    | with_reducible refine State.setFlag_keeps ?_
    | with_reducible refine State.wrErr_keeps ?_
    | with_reducible refine aprResume_keeps ?_
    | with_reducible refine storeReg_keeps ?_
    | split
    | dsimp -zeta only)

theorem prbWrite_keeps {org : State} {s : State} {addr v : Nat} (hs : Keeps org s) :
    Keeps org (prbWrite s addr v) := by
  unfold prbWrite
  repeat' (first
    | with_reducible assumption
    | ((try lift_lets -underBinder); intro x; first | (with_reducible refine keeps_let (o := org) x ?_ ?_; rotate_left; intro hx; clear_value x; rotate_right; subst x) | (with_reducible refine keeps_let_fun x ?_; subst x) | clear_value x)
    | with_reducible refine State.wrErr_keeps ?_
    | with_reducible refine storeReg_keeps ?_
    | with_reducible refine prbCtlWrite_keeps ?_
    | with_reducible refine cutCfgWrite_keeps ?_
    | with_reducible refine cutTallyWrite_keeps ?_
    | with_reducible refine powerWrite_keeps ?_
    | split
    | dsimp -zeta only
    | (rw [keeps_mk]; refine keepsParts_fold ?_))

theorem krfWrite_keeps {org : State} {s : State} {addr v : Nat} (hs : Keeps org s) :
    Keeps org (krfWrite s addr v) := by
  unfold krfWrite
  repeat' (first
    | with_reducible assumption
    | ((try lift_lets -underBinder); intro x; first | (with_reducible refine keeps_let (o := org) x ?_ ?_; rotate_left; intro hx; clear_value x; rotate_right; subst x) | clear_value x)
    | with_reducible refine State.wrErr_keeps ?_
    | with_reducible refine krfCntClr_keeps ?_
    | with_reducible refine storeReg_keeps ?_
    | split
    | dsimp -zeta only
    | (rw [keeps_mk]; refine keepsParts_fold ?_))

theorem sclCtlWrite_keeps {org : State} {s : State} {v : Nat} (hs : Keeps org s) :
    Keeps org (sclCtlWrite s v) := by
  unfold sclCtlWrite
  repeat' (first
    | with_reducible assumption
    | ((try lift_lets -underBinder); intro x; first | (with_reducible refine keeps_let (o := org) x ?_ ?_; rotate_left; intro hx; clear_value x; rotate_right; subst x) | clear_value x)
    | with_reducible refine baseCapture_keeps ?_
    | with_reducible refine staleCheck_keeps ?_
    | with_reducible refine sclCntClr_keeps ?_
    | with_reducible refine storeReg_keeps ?_
    | split
    | dsimp -zeta only)

theorem sclWrite_keeps {org : State} {s : State} {addr v : Nat} (hs : Keeps org s) :
    Keeps org (sclWrite s addr v) := by
  unfold sclWrite
  repeat' (first
    | with_reducible assumption
    | with_reducible refine State.wrErr_keeps ?_
    | with_reducible refine storeReg_keeps ?_
    | with_reducible refine sclCtlWrite_keeps ?_
    | split
    | dsimp -zeta only)

theorem bkgWrite_keeps {org : State} {s : State} {addr v : Nat} (hs : Keeps org s) :
    Keeps org (bkgWrite s addr v) := by
  unfold bkgWrite
  repeat' (first
    | with_reducible assumption
    | with_reducible refine State.wrErr_keeps ?_
    | with_reducible refine fadeRequest_keeps ?_
    | with_reducible refine bkgCntClr_keeps ?_
    | with_reducible refine storeReg_keeps ?_
    | split
    | dsimp -zeta only
    | (rw [keeps_mk]; refine keepsParts_fold ?_))

theorem cruCtlWrite_keeps {org : State} {s : State} {v : Nat} (hs : Keeps org s) :
    Keeps org (cruCtlWrite s v) := by
  unfold cruCtlWrite
  repeat' (first
    | with_reducible assumption
    | ((try lift_lets -underBinder); intro x; first | (with_reducible refine keeps_let (o := org) x ?_ ?_; rotate_left; intro hx; clear_value x; rotate_right; subst x) | clear_value x)
    | with_reducible refine cruEnable_keeps ?_
    | with_reducible refine cruCntClr_keeps ?_
    | with_reducible refine storeReg_keeps ?_
    | split
    | dsimp -zeta only)

theorem cruWrite_keeps {org : State} {s : State} {addr v : Nat} (hs : Keeps org s) :
    Keeps org (cruWrite s addr v) := by
  unfold cruWrite
  repeat' (first
    | with_reducible assumption
    | with_reducible refine State.wrErr_keeps ?_
    | with_reducible refine storeReg_keeps ?_
    | with_reducible refine cruCtlWrite_keeps ?_
    | split
    | dsimp -zeta only)

theorem pinWrite_keeps {org : State} {s : State} {n v : Nat} (hs : Keeps org s) :
    Keeps org (pinWrite s n v) := by
  unfold pinWrite
  repeat' (first
    | with_reducible assumption
    | ((try lift_lets -underBinder); intro x; first | (with_reducible refine keeps_let (o := org) x ?_ ?_; rotate_left; intro hx; clear_value x; rotate_right; subst x) | clear_value x)
    | with_reducible refine State.wrErr_keeps ?_
    | with_reducible refine storeReg_keeps ?_
    | split
    | dsimp -zeta only)

theorem bankCtlWrite_keeps {org : State} {s : State} {b v : Nat} (hs : Keeps org s) :
    Keeps org (bankCtlWrite s b v) := by
  unfold bankCtlWrite
  repeat' (first
    | with_reducible assumption
    | ((try lift_lets -underBinder); intro x; first | (with_reducible refine keeps_let (o := org) x ?_ ?_; rotate_left; intro hx; clear_value x; rotate_right; subst x) | clear_value x)
    | with_reducible refine openClr_keeps ?_
    | with_reducible refine testStart_keeps ?_
    | split
    | dsimp -zeta only)

theorem blzWrite_keeps {org : State} {s : State} {addr v : Nat} (hs : Keeps org s) :
    Keeps org (blzWrite s addr v) := by
  unfold blzWrite
  repeat' (first
    | with_reducible assumption
    | ((try lift_lets -underBinder); intro x; first | (with_reducible refine keeps_let (o := org) x ?_ ?_; rotate_left; intro hx; clear_value x; rotate_right; subst x) | (with_reducible refine keeps_let_fun x ?_; subst x) | clear_value x)
    | with_reducible refine State.wrErr_keeps ?_
    | with_reducible refine bankCfgWrite_keeps ?_
    | with_reducible refine matrixCfgWrite_keeps ?_
    | with_reducible refine swapWrite_keeps ?_
    | with_reducible refine blzCntClr_keeps ?_
    | with_reducible refine storeReg_keeps ?_
    | with_reducible refine pinWrite_keeps ?_
    | with_reducible refine bankCtlWrite_keeps ?_
    | split
    | dsimp -zeta only
    | (rw [keeps_mk]; refine keepsParts_fold ?_))

theorem calCtlWrite_keeps {org : State} {s : State} {u v : Nat} (hs : Keeps org s) :
    Keeps org (calCtlWrite s u v) := by
  unfold calCtlWrite
  repeat' (first
    | with_reducible assumption
    | ((try lift_lets -underBinder); intro x; first | (with_reducible refine keeps_let (o := org) x ?_ ?_; rotate_left; intro hx; clear_value x; rotate_right; subst x) | clear_value x)
    | with_reducible refine State.wrErr_keeps ?_
    | with_reducible refine refSwitch_keeps ?_
    | with_reducible refine accClearAll_keeps ?_
    | split
    | dsimp -zeta only)

theorem calWrite_keeps {org : State} {s : State} {addr v : Nat} (hs : Keeps org s) :
    Keeps org (calWrite s addr v) := by
  unfold calWrite
  repeat' (first
    | with_reducible assumption
    | with_reducible refine State.wrErr_keeps ?_
    | with_reducible refine calUrgWrite_keeps ?_
    | with_reducible refine calCntClr_keeps ?_
    | with_reducible refine storeReg_keeps ?_
    | with_reducible refine calCtlWrite_keeps ?_
    | split
    | dsimp -zeta only
    | (rw [keeps_mk]; refine keepsParts_fold ?_))

theorem wdgWrite_keeps {org : State} {s : State} {addr v : Nat} (hs : Keeps org s) :
    Keeps org (wdgWrite s addr v) := by
  unfold wdgWrite
  repeat' (first
    | with_reducible assumption
    | ((try lift_lets -underBinder); intro x; first | (with_reducible refine keeps_let (o := org) x ?_ ?_; rotate_left; intro hx; clear_value x; rotate_right; subst x) | clear_value x)
    | with_reducible refine wdgUnblock_keeps ?_
    | with_reducible refine wdgCntClr_keeps ?_
    | with_reducible refine storeReg_keeps ?_
    | split
    | dsimp -zeta only)

theorem mrkCfgWrite_keeps {org : State} {s : State} {v : Nat} (hs : Keeps org s) :
    Keeps org (mrkCfgWrite s v) := by
  unfold mrkCfgWrite
  repeat' (first
    | with_reducible assumption
    | ((try lift_lets -underBinder); intro x; first | (with_reducible refine keeps_let (o := org) x ?_ ?_; rotate_left; intro hx; clear_value x; rotate_right; subst x) | (with_reducible refine keeps_let_mark x ?_; subst x) | clear_value x)
    | with_reducible refine storeReg_keeps ?_
    | unfold State.setMark
    | split
    | dsimp -zeta only
    | (rw [keeps_mk]; refine keepsParts_fold ?_))

theorem mrkWrite_keeps {org : State} {s : State} {addr v : Nat} (hs : Keeps org s) :
    Keeps org (mrkWrite s addr v) := by
  unfold mrkWrite
  repeat' (first
    | with_reducible assumption
    | ((try lift_lets -underBinder); intro x; first | (with_reducible refine keeps_let (o := org) x ?_ ?_; rotate_left; intro hx; clear_value x; rotate_right; subst x) | clear_value x)
    | with_reducible refine hreqSet_keeps ?_
    | with_reducible refine hreqClr_keeps ?_
    | with_reducible refine latchClr_keeps ?_
    | with_reducible refine mrkCntClr_keeps ?_
    | with_reducible refine storeReg_keeps ?_
    | with_reducible refine mrkCfgWrite_keeps ?_
    | split
    | dsimp -zeta only)

theorem skyTallyWrite_keeps {org : State} {s : State} {v : Nat} (hs : Keeps org s) :
    Keeps org (skyTallyWrite s v) := by
  unfold skyTallyWrite
  repeat' (first
    | with_reducible assumption
    | ((try lift_lets -underBinder); intro x; first | (with_reducible refine keeps_let (o := org) x ?_ ?_; rotate_left; intro hx; clear_value x; rotate_right; subst x) | (with_reducible refine keeps_let_fst (o := org) x ?_ ?_; rotate_left; intro hx; clear_value x; rotate_right; subst x) | (with_reducible refine keeps_let_fun x ?_; subst x) | clear_value x)
    | with_reducible refine State.wrErr_keeps ?_
    | with_reducible refine State.setChain_keeps ?_
    | with_reducible refine storeReg_keeps ?_
    | with_reducible refine State.each_keeps ?_ (fun s1 a1 h1 => ?_)
    | split
    | dsimp -zeta only
    | (rw [keeps_mk]; refine keepsParts_fold ?_))

theorem skyWrite_keeps {org : State} {s : State} {addr v : Nat} (hs : Keeps org s) :
    Keeps org (skyWrite s addr v) := by
  unfold skyWrite
  repeat' (first
    | with_reducible assumption
    | with_reducible refine skyCfgWrite_keeps ?_
    | with_reducible refine skyCtlWrite_keeps ?_
    | with_reducible refine skyCntClr_keeps ?_
    | with_reducible refine storeReg_keeps ?_
    | with_reducible refine skyTallyWrite_keeps ?_
    | split
    | dsimp -zeta only
    | (rw [keeps_mk]; refine keepsParts_fold ?_))

theorem fioTallyWrite_keeps {org : State} {s : State} {addr first v : Nat} (hs : Keeps org s) :
    Keeps org (fioTallyWrite s addr first v) := by
  unfold fioTallyWrite
  repeat' (first
    | with_reducible assumption
    | ((try lift_lets -underBinder); intro x; first | (with_reducible refine keeps_let (o := org) x ?_ ?_; rotate_left; intro hx; clear_value x; rotate_right; subst x) | (with_reducible refine keeps_let_fun x ?_; subst x) | clear_value x)
    | with_reducible refine State.setFlag_keeps ?_
    | with_reducible refine State.wrErr_keeps ?_
    | with_reducible refine State.setFio_keeps ?_
    | with_reducible refine storeReg_keeps ?_
    | with_reducible refine State.each_keeps ?_ (fun s1 a1 h1 => ?_)
    | split
    | dsimp -zeta only
    | (rw [keeps_mk]; refine keepsParts_fold ?_))

theorem fioWrite_keeps {org : State} {s : State} {addr v : Nat} (hs : Keeps org s) :
    Keeps org (fioWrite s addr v) := by
  unfold fioWrite
  repeat' (first
    | with_reducible assumption
    | with_reducible refine State.wrErr_keeps ?_
    | with_reducible refine fieldCfgWrite_keeps ?_
    | with_reducible refine outWrite_keeps ?_
    | with_reducible refine outSet_keeps ?_
    | with_reducible refine outClr_keeps ?_
    | with_reducible refine safeClr_keeps ?_
    | with_reducible refine fioCntClr_keeps ?_
    | with_reducible refine storeReg_keeps ?_
    | with_reducible refine fioTallyWrite_keeps ?_
    | split
    | dsimp -zeta only
    | (rw [keeps_mk]; refine keepsParts_fold ?_))

theorem ringCfgReg_keeps {org : State} {s : State} {k : RingKind} {n v : Nat} (hs : Keeps org s) :
    Keeps org (ringCfgReg s k n v) := by
  unfold ringCfgReg
  repeat' (first
    | with_reducible assumption
    | ((try lift_lets -underBinder); intro x; first | (with_reducible refine keeps_let (o := org) x ?_ ?_; rotate_left; intro hx; clear_value x; rotate_right; subst x) | clear_value x)
    | with_reducible refine State.wrErr_keeps ?_
    | with_reducible refine ringStart_keeps ?_
    | with_reducible refine ringStop_keeps ?_
    | with_reducible refine storeReg_keeps ?_
    | split
    | dsimp -zeta only)

theorem hifWrite_keeps {org : State} {s : State} {addr v : Nat} (hs : Keeps org s) :
    Keeps org (hifWrite s addr v) := by
  unfold hifWrite
  repeat' (first
    | with_reducible assumption
    | ((try lift_lets -underBinder); intro x; first | (with_reducible refine keeps_let (o := org) x ?_ ?_; rotate_left; intro hx; clear_value x; rotate_right; subst x) | clear_value x)
    | with_reducible refine State.wrErr_keeps ?_
    | with_reducible refine State.msixUnmask_keeps ?_
    | with_reducible refine discardAll_keeps ?_
    | with_reducible refine hifCntClr_keeps ?_
    | with_reducible refine storeReg_keeps ?_
    | with_reducible refine ringCfgReg_keeps ?_
    | split
    | dsimp -zeta only
    | (rw [keeps_mk]; refine keepsParts_fold ?_))

theorem flmWrite_keeps {org : State} {s : State} {addr v : Nat} (hs : Keeps org s) :
    Keeps org (flmWrite s addr v) := by
  unfold flmWrite
  repeat' (first
    | with_reducible assumption
    | ((try lift_lets -underBinder); intro x; first | (with_reducible refine keeps_let (o := org) x ?_ ?_; rotate_left; intro hx; clear_value x; rotate_right; subst x) | clear_value x)
    | with_reducible refine State.wrErr_keeps ?_
    | with_reducible refine waitingAll_keeps ?_
    | with_reducible refine flmCntClr_keeps ?_
    | with_reducible refine storeReg_keeps ?_
    | split
    | dsimp -zeta only
    | (rw [keeps_mk]; refine keepsParts_fold ?_))

theorem dckWrite_keeps {org : State} {s : State} {addr v : Nat} (hs : Keeps org s) :
    Keeps org (dckWrite s addr v) := by
  unfold dckWrite
  repeat' (first
    | with_reducible assumption
    | ((try lift_lets -underBinder); intro x; first | (with_reducible refine keeps_let (o := org) x ?_ ?_; rotate_left; intro hx; clear_value x; rotate_right; subst x) | clear_value x)
    | with_reducible refine State.wrErr_keeps ?_
    | with_reducible refine ringCfgWrite_keeps ?_
    | with_reducible refine dckCntClr_keeps ?_
    | with_reducible refine partPending_keeps ?_
    | with_reducible refine storeReg_keeps ?_
    | split
    | dsimp -zeta only)

theorem lndWrite_keeps {org : State} {s : State} {addr v : Nat} (hs : Keeps org s) :
    Keeps org (lndWrite s addr v) := by
  unfold lndWrite
  repeat' (first
    | with_reducible assumption
    | ((try lift_lets -underBinder); intro x; first | (with_reducible refine keeps_let (o := org) x ?_ ?_; rotate_left; intro hx; clear_value x; rotate_right; subst x) | clear_value x)
    | with_reducible refine State.wrErr_keeps ?_
    | with_reducible refine scrubNow_keeps ?_
    | with_reducible refine lndPartWrite_keeps ?_
    | with_reducible refine lndCntClr_keeps ?_
    | with_reducible refine storeReg_keeps ?_
    | split
    | dsimp -zeta only)

theorem regWrite_keeps {org : State} {s : State} {addr v : Nat} (hs : Keeps org s) :
    Keeps org (regWrite s addr v) := by
  unfold regWrite
  repeat' (first
    | with_reducible assumption
    | with_reducible refine chpCntClr_keeps ?_
    | with_reducible refine sstVoid_keeps ?_
    | with_reducible refine storeReg_keeps ?_
    | with_reducible refine ownWrite_keeps ?_
    | with_reducible refine genWrite_keeps ?_
    | with_reducible refine clkWrite_keeps ?_
    | with_reducible refine prbWrite_keeps ?_
    | with_reducible refine krfWrite_keeps ?_
    | with_reducible refine sclWrite_keeps ?_
    | with_reducible refine bkgWrite_keeps ?_
    | with_reducible refine cruWrite_keeps ?_
    | with_reducible refine blzWrite_keeps ?_
    | with_reducible refine calWrite_keeps ?_
    | with_reducible refine wdgWrite_keeps ?_
    | with_reducible refine mrkWrite_keeps ?_
    | with_reducible refine skyWrite_keeps ?_
    | with_reducible refine fioWrite_keeps ?_
    | with_reducible refine hifWrite_keeps ?_
    | with_reducible refine flmWrite_keeps ?_
    | with_reducible refine dckWrite_keeps ?_
    | with_reducible refine lndWrite_keeps ?_
    | split
    | dsimp -zeta only
    | (rw [keeps_mk]; refine keepsParts_fold ?_))

theorem selfTestWrite_keeps {org : State} {s : State} {addr v : Nat} (hs : Keeps org s) :
    Keeps org (selfTestWrite s addr v) := by
  unfold selfTestWrite
  repeat' (first
    | with_reducible assumption
    | with_reducible refine State.wrErr_keeps ?_
    | with_reducible refine calUrgWrite_keeps ?_
    | with_reducible refine requestReset_keeps ?_
    | with_reducible refine lcReqWrite_keeps ?_
    | split
    | dsimp -zeta only
    | (rw [keeps_mk]; refine keepsParts_fold ?_))

theorem writeWord_keeps {org : State} {s : State} {addr v : Nat} (hs : Keeps org s) :
    Keeps org (writeWord s addr v) := by
  unfold writeWord
  repeat' (first
    | with_reducible assumption
    | ((try lift_lets -underBinder); intro x; first | (with_reducible refine keeps_let (o := org) x ?_ ?_; rotate_left; intro hx; clear_value x; rotate_right; subst x) | clear_value x)
    | with_reducible refine State.wrErr_keeps ?_
    | with_reducible refine gatedAccess_keeps ?_
    | with_reducible refine regWrite_keeps ?_
    | with_reducible refine selfTestWrite_keeps ?_
    | split
    | dsimp -zeta only
    | (rw [keeps_mk]; refine keepsParts_fold ?_))

theorem countOnce_keeps {org : State} {old s : State} (hs : Keeps org old) (hs1 : Keeps org s) :
    Keeps org (countOnce old s) := by
  unfold countOnce
  repeat' (first
    | with_reducible assumption
    | ((try lift_lets -underBinder); intro x; first | (with_reducible refine keeps_let (o := org) x ?_ ?_; rotate_left; intro hx; clear_value x; rotate_right; subst x) | clear_value x)
    | with_reducible refine State.set_keeps ?_
    | split
    | dsimp -zeta only)

theorem hostWrite_keeps {org : State} {s : State} {addr width v : Nat} (hs : Keeps org s) :
    Keeps org (hostWrite s addr width v) := by
  unfold hostWrite
  repeat' (first
    | with_reducible assumption
    | ((try lift_lets -underBinder); intro x; first | (with_reducible refine keeps_let (o := org) x ?_ ?_; rotate_left; intro hx; clear_value x; rotate_right; subst x) | clear_value x)
    | with_reducible refine State.wrErr_keeps ?_
    | with_reducible refine writeWord_keeps ?_
    | with_reducible refine countOnce_keeps ?_ ?_
    | split
    | dsimp -zeta only)

theorem measured_keeps {org : State} {s : State} {w : Nat} (hs : Keeps org s) :
    Keeps org (measured s w).1 := by
  unfold measured
  repeat' (first
    | with_reducible assumption
    | with_reducible refine State.tookFree_keeps ?_
    | split
    | dsimp -zeta only)

theorem hifStat_keeps {org : State} {s : State} (hs : Keeps org s) :
    Keeps org (hifStat s).1 := by
  unfold hifStat
  repeat' (first
    | with_reducible assumption
    | ((try lift_lets -underBinder); intro x; first | (with_reducible refine keeps_let (o := org) x ?_ ?_; rotate_left; intro hx; clear_value x; rotate_right; subst x) | clear_value x)
    | with_reducible refine State.set_keeps ?_
    | with_reducible refine State.tookFree_keeps ?_
    | split
    | dsimp -zeta only)

theorem regRead_keeps {org : State} {s : State} {addr : Nat} (hs : Keeps org s) :
    Keeps org (regRead s addr).1 := by
  unfold regRead
  repeat' (first
    | with_reducible assumption
    | ((try lift_lets -underBinder); intro x; first | (with_reducible refine keeps_let (o := org) x ?_ ?_; rotate_left; intro hx; clear_value x; rotate_right; subst x) | (with_reducible refine keeps_let_fst (o := org) x ?_ ?_; rotate_left; intro hx; clear_value x; rotate_right; subst x) | clear_value x)
    | with_reducible refine State.write_keeps ?_
    | with_reducible refine State.set_keeps ?_
    | with_reducible refine loadShadow_keeps ?_
    | with_reducible refine accClear_keeps ?_
    | with_reducible refine measured_keeps ?_
    | with_reducible refine hifStat_keeps ?_
    | split
    | dsimp -zeta only
    | (rw [keeps_mk]; refine keepsParts_fold ?_))

theorem readWord_keeps {org : State} {s : State} {addr : Nat} (hs : Keeps org s) :
    Keeps org (readWord s addr).1 := by
  unfold readWord
  repeat' (first
    | with_reducible assumption
    | ((try lift_lets -underBinder); intro x; first | (with_reducible refine keeps_let (o := org) x ?_ ?_; rotate_left; intro hx; clear_value x; rotate_right; subst x) | (with_reducible refine keeps_let_fst (o := org) x ?_ ?_; rotate_left; intro hx; clear_value x; rotate_right; subst x) | clear_value x)
    | with_reducible refine gatedAccess_keeps ?_
    | with_reducible refine regRead_keeps ?_
    | split
    | dsimp -zeta only)

theorem readAccess_keeps {org : State} {s : State} {addr width : Nat} (hs : Keeps org s) :
    Keeps org (readAccess s addr width) := by
  unfold readAccess
  repeat' (first
    | with_reducible assumption
    | ((try lift_lets -underBinder); intro x; first | (with_reducible refine keeps_let (o := org) x ?_ ?_; rotate_left; intro hx; clear_value x; rotate_right; subst x) | (with_reducible refine keeps_let_fst (o := org) x ?_ ?_; rotate_left; intro hx; clear_value x; rotate_right; subst x) | clear_value x)
    | with_reducible refine State.emit_keeps ?_
    | with_reducible refine readWord_keeps ?_
    | split
    | dsimp -zeta only)

theorem actWrite_keeps {org : State} {s : State} {addr act : Nat} (hs : Keeps org s) :
    Keeps org (actWrite s addr act) := by
  unfold actWrite
  repeat' (first
    | with_reducible assumption
    | with_reducible refine hostWrite_keeps ?_
    | split
    | dsimp -zeta only)

theorem bitWrite_keeps {org : State} {s : State} {addr i : Nat} {b : Bool} (hs : Keeps org s) :
    Keeps org (bitWrite s addr i b) := by
  unfold bitWrite
  repeat' (first
    | with_reducible assumption
    | with_reducible refine hostWrite_keeps ?_
    | split
    | dsimp -zeta only)

theorem execRegisterWrite_keeps {org : State} {addr width : Nat} {value : BitVec 64} {s : State} (hs : Keeps org s) :
    KeepsOut org (execRegisterWrite addr width value s) := by
  unfold execRegisterWrite
  repeat' (first
    | with_reducible assumption
    | with_reducible refine hostWrite_keeps ?_
    | with_reducible refine keepsOut_next ?_
    | split
    | dsimp -zeta only)

theorem execLoRegisterSnapshotRead_keeps {org : State} {addr width : Nat} {s : State} (hs : Keeps org s) :
    KeepsOut org (execLoRegisterSnapshotRead addr width s) := by
  unfold execLoRegisterSnapshotRead
  repeat' (first
    | with_reducible assumption
    | with_reducible refine readAccess_keeps ?_
    | with_reducible refine keepsOut_next ?_
    | split
    | dsimp -zeta only)

theorem execClaimHost_keeps {org : State} {res : Resource} {s : State} (hs : Keeps org s) :
    KeepsOut org (execClaimHost res s) := by
  unfold execClaimHost
  repeat' (first
    | with_reducible assumption
    | with_reducible refine hostWrite_keeps ?_
    | with_reducible refine keepsOut_next ?_
    | split
    | dsimp -zeta only)

theorem execReleaseHost_keeps {org : State} {res : Resource} {s : State} (hs : Keeps org s) :
    KeepsOut org (execReleaseHost res s) := by
  unfold execReleaseHost
  repeat' (first
    | with_reducible assumption
    | with_reducible refine hostWrite_keeps ?_
    | with_reducible refine keepsOut_next ?_
    | split
    | dsimp -zeta only)

theorem execOwnershipCntClr_keeps {org : State} {res : Resource} {claim release : Bool} {s : State} (hs : Keeps org s) :
    KeepsOut org (execOwnershipCntClr res claim release s) := by
  unfold execOwnershipCntClr
  repeat' (first
    | with_reducible assumption
    | with_reducible refine hostWrite_keeps ?_
    | with_reducible refine keepsOut_next ?_
    | split
    | dsimp -zeta only)

theorem execReturnNow_keeps {org : State} {s : State} (hs : Keeps org s) :
    KeepsOut org (execReturnNow s) := by
  unfold execReturnNow
  repeat' (first
    | with_reducible assumption
    | with_reducible refine actWrite_keeps ?_
    | with_reducible refine keepsOut_next ?_
    | split
    | dsimp -zeta only)

theorem execHandoverTest_keeps {org : State} {s : State} (hs : Keeps org s) :
    KeepsOut org (execHandoverTest s) := by
  unfold execHandoverTest
  repeat' (first
    | with_reducible assumption
    | with_reducible refine actWrite_keeps ?_
    | with_reducible refine keepsOut_next ?_
    | split
    | dsimp -zeta only)

theorem execPortEnable_keeps {org : State} {port : Port} {s : State} (hs : Keeps org s) :
    KeepsOut org (execPortEnable port s) := by
  unfold execPortEnable
  repeat' (first
    | with_reducible assumption
    | with_reducible refine bitWrite_keeps ?_
    | with_reducible refine keepsOut_next ?_
    | split
    | dsimp -zeta only)

theorem execPortDisable_keeps {org : State} {port : Port} {s : State} (hs : Keeps org s) :
    KeepsOut org (execPortDisable port s) := by
  unfold execPortDisable
  repeat' (first
    | with_reducible assumption
    | with_reducible refine bitWrite_keeps ?_
    | with_reducible refine keepsOut_next ?_
    | split
    | dsimp -zeta only)

theorem execAprResume_keeps {org : State} {port : Port} {s : State} (hs : Keeps org s) :
    KeepsOut org (execAprResume port s) := by
  unfold execAprResume
  repeat' (first
    | with_reducible assumption
    | with_reducible refine actWrite_keeps ?_
    | with_reducible refine keepsOut_next ?_
    | split
    | dsimp -zeta only)

theorem execRefCapture_keeps {org : State} {port : Port} {s : State} (hs : Keeps org s) :
    KeepsOut org (execRefCapture port s) := by
  unfold execRefCapture
  repeat' (first
    | with_reducible assumption
    | with_reducible refine actWrite_keeps ?_
    | with_reducible refine keepsOut_next ?_
    | split
    | dsimp -zeta only)

theorem execKrfCntClr_keeps {org : State} {s : State} (hs : Keeps org s) :
    KeepsOut org (execKrfCntClr s) := by
  unfold execKrfCntClr
  repeat' (first
    | with_reducible assumption
    | with_reducible refine actWrite_keeps ?_
    | with_reducible refine keepsOut_next ?_
    | split
    | dsimp -zeta only)

theorem execBaseCapture_keeps {org : State} {s : State} (hs : Keeps org s) :
    KeepsOut org (execBaseCapture s) := by
  unfold execBaseCapture
  repeat' (first
    | with_reducible assumption
    | with_reducible refine actWrite_keeps ?_
    | with_reducible refine keepsOut_next ?_
    | split
    | dsimp -zeta only)

theorem execSclCntClr_keeps {org : State} {s : State} (hs : Keeps org s) :
    KeepsOut org (execSclCntClr s) := by
  unfold execSclCntClr
  repeat' (first
    | with_reducible assumption
    | with_reducible refine actWrite_keeps ?_
    | with_reducible refine keepsOut_next ?_
    | split
    | dsimp -zeta only)

theorem execSclEnable_keeps {org : State} {on : Bool} {s : State} (hs : Keeps org s) :
    KeepsOut org (execSclEnable on s) := by
  unfold execSclEnable
  repeat' (first
    | with_reducible assumption
    | with_reducible refine bitWrite_keeps ?_
    | with_reducible refine keepsOut_next ?_
    | split
    | dsimp -zeta only)

theorem execFpnSwap_keeps {org : State} {profile : Fin 16} {value : BitVec 32} {s : State} (hs : Keeps org s) :
    KeepsOut org (execFpnSwap profile value s) := by
  unfold execFpnSwap
  repeat' (first
    | with_reducible assumption
    | with_reducible refine hostWrite_keeps ?_
    | with_reducible refine keepsOut_next ?_
    | split
    | dsimp -zeta only)

theorem execBkgCntClr_keeps {org : State} {s : State} (hs : Keeps org s) :
    KeepsOut org (execBkgCntClr s) := by
  unfold execBkgCntClr
  repeat' (first
    | with_reducible assumption
    | with_reducible refine actWrite_keeps ?_
    | with_reducible refine keepsOut_next ?_
    | split
    | dsimp -zeta only)

theorem execCruEnable_keeps {org : State} {on : Bool} {s : State} (hs : Keeps org s) :
    KeepsOut org (execCruEnable on s) := by
  unfold execCruEnable
  repeat' (first
    | with_reducible assumption
    | with_reducible refine bitWrite_keeps ?_
    | with_reducible refine keepsOut_next ?_
    | split
    | dsimp -zeta only)

theorem execCruCntClr_keeps {org : State} {s : State} (hs : Keeps org s) :
    KeepsOut org (execCruCntClr s) := by
  unfold execCruCntClr
  repeat' (first
    | with_reducible assumption
    | with_reducible refine actWrite_keeps ?_
    | with_reducible refine keepsOut_next ?_
    | split
    | dsimp -zeta only)

theorem execBankModeWrite_keeps {org : State} {bank : Fin 8} {value : BitVec 32} {s : State} (hs : Keeps org s) :
    KeepsOut org (execBankModeWrite bank value s) := by
  unfold execBankModeWrite
  repeat' (first
    | with_reducible assumption
    | with_reducible refine hostWrite_keeps ?_
    | with_reducible refine keepsOut_next ?_
    | split
    | dsimp -zeta only)

theorem execOpenClr_keeps {org : State} {bank : Fin 8} {s : State} (hs : Keeps org s) :
    KeepsOut org (execOpenClr bank s) := by
  unfold execOpenClr
  repeat' (first
    | with_reducible assumption
    | with_reducible refine actWrite_keeps ?_
    | with_reducible refine keepsOut_next ?_
    | split
    | dsimp -zeta only)

theorem execSegtest_keeps {org : State} {bank : Fin 8} {s : State} (hs : Keeps org s) :
    KeepsOut org (execSegtest bank s) := by
  unfold execSegtest
  repeat' (first
    | with_reducible assumption
    | with_reducible refine actWrite_keeps ?_
    | with_reducible refine keepsOut_next ?_
    | split
    | dsimp -zeta only)

theorem execMatrixCfgWrite_keeps {org : State} {value : BitVec 32} {s : State} (hs : Keeps org s) :
    KeepsOut org (execMatrixCfgWrite value s) := by
  unfold execMatrixCfgWrite
  repeat' (first
    | with_reducible assumption
    | with_reducible refine hostWrite_keeps ?_
    | with_reducible refine keepsOut_next ?_
    | split
    | dsimp -zeta only)

theorem execSwap_keeps {org : State} {s : State} (hs : Keeps org s) :
    KeepsOut org (execSwap s) := by
  unfold execSwap
  repeat' (first
    | with_reducible assumption
    | with_reducible refine actWrite_keeps ?_
    | with_reducible refine keepsOut_next ?_
    | split
    | dsimp -zeta only)

theorem execBlzCntClr_keeps {org : State} {s : State} (hs : Keeps org s) :
    KeepsOut org (execBlzCntClr s) := by
  unfold execBlzCntClr
  repeat' (first
    | with_reducible assumption
    | with_reducible refine actWrite_keeps ?_
    | with_reducible refine keepsOut_next ?_
    | split
    | dsimp -zeta only)

theorem execCalUrg_keeps {org : State} {unit : Fin 4} {value : BitVec 32} {s : State} (hs : Keeps org s) :
    KeepsOut org (execCalUrg unit value s) := by
  unfold execCalUrg
  repeat' (first
    | with_reducible assumption
    | with_reducible refine hostWrite_keeps ?_
    | with_reducible refine keepsOut_next ?_
    | split
    | dsimp -zeta only)

theorem execAccLoRead_keeps {org : State} {unit : Fin 4} {n : Fin 64} {s : State} (hs : Keeps org s) :
    KeepsOut org (execAccLoRead unit n s) := by
  unfold execAccLoRead
  repeat' (first
    | with_reducible assumption
    | with_reducible refine readAccess_keeps ?_
    | with_reducible refine keepsOut_next ?_
    | split
    | dsimp -zeta only)

theorem execAccLocRead_keeps {org : State} {unit : Fin 4} {n : Fin 64} {s : State} (hs : Keeps org s) :
    KeepsOut org (execAccLocRead unit n s) := by
  unfold execAccLocRead
  repeat' (first
    | with_reducible assumption
    | with_reducible refine readAccess_keeps ?_
    | with_reducible refine keepsOut_next ?_
    | split
    | dsimp -zeta only)

theorem execAccClr_keeps {org : State} {unit : Fin 4} {s : State} (hs : Keeps org s) :
    KeepsOut org (execAccClr unit s) := by
  unfold execAccClr
  repeat' (first
    | with_reducible assumption
    | with_reducible refine actWrite_keeps ?_
    | with_reducible refine keepsOut_next ?_
    | split
    | dsimp -zeta only)

theorem execRefEnWrite_keeps {org : State} {unit : Fin 4} {value : BitVec 32} {s : State} (hs : Keeps org s) :
    KeepsOut org (execRefEnWrite unit value s) := by
  unfold execRefEnWrite
  repeat' (first
    | with_reducible assumption
    | with_reducible refine hostWrite_keeps ?_
    | with_reducible refine keepsOut_next ?_
    | split
    | dsimp -zeta only)

theorem execCalCntClr_keeps {org : State} {s : State} (hs : Keeps org s) :
    KeepsOut org (execCalCntClr s) := by
  unfold execCalCntClr
  repeat' (first
    | with_reducible assumption
    | with_reducible refine actWrite_keeps ?_
    | with_reducible refine keepsOut_next ?_
    | split
    | dsimp -zeta only)

theorem execWdgUnblock_keeps {org : State} {value : BitVec 32} {s : State} (hs : Keeps org s) :
    KeepsOut org (execWdgUnblock value s) := by
  unfold execWdgUnblock
  repeat' (first
    | with_reducible assumption
    | with_reducible refine hostWrite_keeps ?_
    | with_reducible refine keepsOut_next ?_
    | split
    | dsimp -zeta only)

theorem execWdgCntClr_keeps {org : State} {s : State} (hs : Keeps org s) :
    KeepsOut org (execWdgCntClr s) := by
  unfold execWdgCntClr
  repeat' (first
    | with_reducible assumption
    | with_reducible refine actWrite_keeps ?_
    | with_reducible refine keepsOut_next ?_
    | split
    | dsimp -zeta only)

theorem execMrkHreqSet_keeps {org : State} {value : BitVec 32} {s : State} (hs : Keeps org s) :
    KeepsOut org (execMrkHreqSet value s) := by
  unfold execMrkHreqSet
  repeat' (first
    | with_reducible assumption
    | with_reducible refine hostWrite_keeps ?_
    | with_reducible refine keepsOut_next ?_
    | split
    | dsimp -zeta only)

theorem execMrkHreqClr_keeps {org : State} {value : BitVec 32} {s : State} (hs : Keeps org s) :
    KeepsOut org (execMrkHreqClr value s) := by
  unfold execMrkHreqClr
  repeat' (first
    | with_reducible assumption
    | with_reducible refine hostWrite_keeps ?_
    | with_reducible refine keepsOut_next ?_
    | split
    | dsimp -zeta only)

theorem execHreqTtlWrite_keeps {org : State} {value : BitVec 32} {s : State} (hs : Keeps org s) :
    KeepsOut org (execHreqTtlWrite value s) := by
  unfold execHreqTtlWrite
  repeat' (first
    | with_reducible assumption
    | with_reducible refine hostWrite_keeps ?_
    | with_reducible refine keepsOut_next ?_
    | split
    | dsimp -zeta only)

theorem execMrkLatchClr_keeps {org : State} {value : BitVec 32} {s : State} (hs : Keeps org s) :
    KeepsOut org (execMrkLatchClr value s) := by
  unfold execMrkLatchClr
  repeat' (first
    | with_reducible assumption
    | with_reducible refine hostWrite_keeps ?_
    | with_reducible refine keepsOut_next ?_
    | split
    | dsimp -zeta only)

theorem execMrkCntClr_keeps {org : State} {s : State} (hs : Keeps org s) :
    KeepsOut org (execMrkCntClr s) := by
  unfold execMrkCntClr
  repeat' (first
    | with_reducible assumption
    | with_reducible refine actWrite_keeps ?_
    | with_reducible refine keepsOut_next ?_
    | split
    | dsimp -zeta only)

theorem execChainEnable_keeps {org : State} {chain : Fin 4} {value : BitVec 32} {s : State} (hs : Keeps org s) :
    KeepsOut org (execChainEnable chain value s) := by
  unfold execChainEnable
  repeat' (first
    | with_reducible assumption
    | with_reducible refine hostWrite_keeps ?_
    | with_reducible refine keepsOut_next ?_
    | split
    | dsimp -zeta only)

theorem execTrace_keeps {org : State} {chain : Fin 4} {s : State} (hs : Keeps org s) :
    KeepsOut org (execTrace chain s) := by
  unfold execTrace
  repeat' (first
    | with_reducible assumption
    | with_reducible refine actWrite_keeps ?_
    | with_reducible refine keepsOut_next ?_
    | split
    | dsimp -zeta only)

theorem execFltClr_keeps {org : State} {chain : Fin 4} {s : State} (hs : Keeps org s) :
    KeepsOut org (execFltClr chain s) := by
  unfold execFltClr
  repeat' (first
    | with_reducible assumption
    | with_reducible refine actWrite_keeps ?_
    | with_reducible refine keepsOut_next ?_
    | split
    | dsimp -zeta only)

theorem execIdent_keeps {org : State} {chain : Fin 4} {head : Fin 64} {s : State} (hs : Keeps org s) :
    KeepsOut org (execIdent chain head s) := by
  unfold execIdent
  repeat' (first
    | with_reducible assumption
    | with_reducible refine actWrite_keeps ?_
    | with_reducible refine keepsOut_next ?_
    | split
    | dsimp -zeta only)

theorem execSkyCntClr_keeps {org : State} {s : State} (hs : Keeps org s) :
    KeepsOut org (execSkyCntClr s) := by
  unfold execSkyCntClr
  repeat' (first
    | with_reducible assumption
    | with_reducible refine actWrite_keeps ?_
    | with_reducible refine keepsOut_next ?_
    | split
    | dsimp -zeta only)

theorem execFieldCfgWrite_keeps {org : State} {ch : Fin 16} {value : BitVec 32} {s : State} (hs : Keeps org s) :
    KeepsOut org (execFieldCfgWrite ch value s) := by
  unfold execFieldCfgWrite
  repeat' (first
    | with_reducible assumption
    | with_reducible refine hostWrite_keeps ?_
    | with_reducible refine keepsOut_next ?_
    | split
    | dsimp -zeta only)

theorem execFioOutWrite_keeps {org : State} {value : BitVec 32} {s : State} (hs : Keeps org s) :
    KeepsOut org (execFioOutWrite value s) := by
  unfold execFioOutWrite
  repeat' (first
    | with_reducible assumption
    | with_reducible refine hostWrite_keeps ?_
    | with_reducible refine keepsOut_next ?_
    | split
    | dsimp -zeta only)

theorem execFioOutSet_keeps {org : State} {value : BitVec 32} {s : State} (hs : Keeps org s) :
    KeepsOut org (execFioOutSet value s) := by
  unfold execFioOutSet
  repeat' (first
    | with_reducible assumption
    | with_reducible refine hostWrite_keeps ?_
    | with_reducible refine keepsOut_next ?_
    | split
    | dsimp -zeta only)

theorem execFioOutClr_keeps {org : State} {value : BitVec 32} {s : State} (hs : Keeps org s) :
    KeepsOut org (execFioOutClr value s) := by
  unfold execFioOutClr
  repeat' (first
    | with_reducible assumption
    | with_reducible refine hostWrite_keeps ?_
    | with_reducible refine keepsOut_next ?_
    | split
    | dsimp -zeta only)

theorem execFioSafeClr_keeps {org : State} {value : BitVec 32} {s : State} (hs : Keeps org s) :
    KeepsOut org (execFioSafeClr value s) := by
  unfold execFioSafeClr
  repeat' (first
    | with_reducible assumption
    | with_reducible refine hostWrite_keeps ?_
    | with_reducible refine keepsOut_next ?_
    | split
    | dsimp -zeta only)

theorem execFioCntClr_keeps {org : State} {s : State} (hs : Keeps org s) :
    KeepsOut org (execFioCntClr s) := by
  unfold execFioCntClr
  repeat' (first
    | with_reducible assumption
    | with_reducible refine actWrite_keeps ?_
    | with_reducible refine keepsOut_next ?_
    | split
    | dsimp -zeta only)

theorem execRingEnable_keeps {org : State} {kind : RingKind} {ring : Fin 16} {cfg : BitVec 32} {s : State} (hs : Keeps org s) :
    KeepsOut org (execRingEnable kind ring cfg s) := by
  unfold execRingEnable
  repeat' (first
    | with_reducible assumption
    | with_reducible refine hostWrite_keeps ?_
    | with_reducible refine keepsOut_next ?_
    | split
    | dsimp -zeta only)

theorem execRingDisable_keeps {org : State} {kind : RingKind} {ring : Fin 16} {s : State} (hs : Keeps org s) :
    KeepsOut org (execRingDisable kind ring s) := by
  unfold execRingDisable
  repeat' (first
    | with_reducible assumption
    | with_reducible refine bitWrite_keeps ?_
    | with_reducible refine keepsOut_next ?_
    | split
    | dsimp -zeta only)

theorem execHifDiscard_keeps {org : State} {s : State} (hs : Keeps org s) :
    KeepsOut org (execHifDiscard s) := by
  unfold execHifDiscard
  repeat' (first
    | with_reducible assumption
    | with_reducible refine actWrite_keeps ?_
    | with_reducible refine keepsOut_next ?_
    | split
    | dsimp -zeta only)

theorem execHifCntClr_keeps {org : State} {s : State} (hs : Keeps org s) :
    KeepsOut org (execHifCntClr s) := by
  unfold execHifCntClr
  repeat' (first
    | with_reducible assumption
    | with_reducible refine actWrite_keeps ?_
    | with_reducible refine keepsOut_next ?_
    | split
    | dsimp -zeta only)

theorem execFlmCntClr_keeps {org : State} {s : State} (hs : Keeps org s) :
    KeepsOut org (execFlmCntClr s) := by
  unfold execFlmCntClr
  repeat' (first
    | with_reducible assumption
    | with_reducible refine actWrite_keeps ?_
    | with_reducible refine keepsOut_next ?_
    | split
    | dsimp -zeta only)

theorem execChpCntClr_keeps {org : State} {s : State} (hs : Keeps org s) :
    KeepsOut org (execChpCntClr s) := by
  unfold execChpCntClr
  repeat' (first
    | with_reducible assumption
    | with_reducible refine actWrite_keeps ?_
    | with_reducible refine keepsOut_next ?_
    | split
    | dsimp -zeta only)

theorem execRingCfgWrite_keeps {org : State} {value : BitVec 32} {s : State} (hs : Keeps org s) :
    KeepsOut org (execRingCfgWrite value s) := by
  unfold execRingCfgWrite
  repeat' (first
    | with_reducible assumption
    | with_reducible refine hostWrite_keeps ?_
    | with_reducible refine keepsOut_next ?_
    | split
    | dsimp -zeta only)

theorem execDckCntClr_keeps {org : State} {s : State} (hs : Keeps org s) :
    KeepsOut org (execDckCntClr s) := by
  unfold execDckCntClr
  repeat' (first
    | with_reducible assumption
    | with_reducible refine actWrite_keeps ?_
    | with_reducible refine keepsOut_next ?_
    | split
    | dsimp -zeta only)

theorem execScrubNow_keeps {org : State} {s : State} (hs : Keeps org s) :
    KeepsOut org (execScrubNow s) := by
  unfold execScrubNow
  repeat' (first
    | with_reducible assumption
    | with_reducible refine actWrite_keeps ?_
    | with_reducible refine keepsOut_next ?_
    | split
    | dsimp -zeta only)

theorem execLndPartWrite_keeps {org : State} {value : BitVec 32} {s : State} (hs : Keeps org s) :
    KeepsOut org (execLndPartWrite value s) := by
  unfold execLndPartWrite
  repeat' (first
    | with_reducible assumption
    | with_reducible refine hostWrite_keeps ?_
    | with_reducible refine keepsOut_next ?_
    | split
    | dsimp -zeta only)

theorem execLndCntClr_keeps {org : State} {s : State} (hs : Keeps org s) :
    KeepsOut org (execLndCntClr s) := by
  unfold execLndCntClr
  repeat' (first
    | with_reducible assumption
    | with_reducible refine actWrite_keeps ?_
    | with_reducible refine keepsOut_next ?_
    | split
    | dsimp -zeta only)

theorem execClkGateWrite_keeps {org : State} {value : BitVec 32} {s : State} (hs : Keeps org s) :
    KeepsOut org (execClkGateWrite value s) := by
  unfold execClkGateWrite
  repeat' (first
    | with_reducible assumption
    | with_reducible refine hostWrite_keeps ?_
    | with_reducible refine keepsOut_next ?_
    | split
    | dsimp -zeta only)

theorem execKrfOppWrite_keeps {org : State} {value : BitVec 32} {s : State} (hs : Keeps org s) :
    KeepsOut org (execKrfOppWrite value s) := by
  unfold execKrfOppWrite
  repeat' (first
    | with_reducible assumption
    | with_reducible refine hostWrite_keeps ?_
    | with_reducible refine keepsOut_next ?_
    | split
    | dsimp -zeta only)

theorem execClkCntClr_keeps {org : State} {s : State} (hs : Keeps org s) :
    KeepsOut org (execClkCntClr s) := by
  unfold execClkCntClr
  repeat' (first
    | with_reducible assumption
    | with_reducible refine actWrite_keeps ?_
    | with_reducible refine keepsOut_next ?_
    | split
    | dsimp -zeta only)

theorem execGenReset_keeps {org : State} {s : State} (hs : Keeps org s) :
    KeepsOut org (execGenReset s) := by
  unfold execGenReset
  repeat' (first
    | with_reducible assumption
    | with_reducible refine actWrite_keeps ?_
    | with_reducible refine keepsOut_next ?_
    | split
    | dsimp -zeta only)

theorem execSave_keeps {org : State} {s : State} (hs : Keeps org s) :
    KeepsOut org (execSave s) := by
  unfold execSave
  repeat' (first
    | with_reducible assumption
    | with_reducible refine actWrite_keeps ?_
    | with_reducible refine keepsOut_next ?_
    | split
    | dsimp -zeta only)

theorem execShutdown_keeps {org : State} {s : State} (hs : Keeps org s) :
    KeepsOut org (execShutdown s) := by
  unfold execShutdown
  repeat' (first
    | with_reducible assumption
    | with_reducible refine actWrite_keeps ?_
    | with_reducible refine keepsOut_next ?_
    | split
    | dsimp -zeta only)

theorem execLcReqArm_keeps {org : State} {target : Fin 8} {s : State} (hs : Keeps org s) :
    KeepsOut org (execLcReqArm target s) := by
  unfold execLcReqArm
  repeat' (first
    | with_reducible assumption
    | with_reducible refine hostWrite_keeps ?_
    | with_reducible refine keepsOut_next ?_
    | split
    | dsimp -zeta only)

theorem execLcReqConfirm_keeps {org : State} {target : Fin 8} {s : State} (hs : Keeps org s) :
    KeepsOut org (execLcReqConfirm target s) := by
  unfold execLcReqConfirm
  repeat' (first
    | with_reducible assumption
    | with_reducible refine hostWrite_keeps ?_
    | with_reducible refine keepsOut_next ?_
    | split
    | dsimp -zeta only)

theorem execSstVoid_keeps {org : State} {s : State} (hs : Keeps org s) :
    KeepsOut org (execSstVoid s) := by
  unfold execSstVoid
  repeat' (first
    | with_reducible assumption
    | with_reducible refine actWrite_keeps ?_
    | with_reducible refine keepsOut_next ?_
    | split
    | dsimp -zeta only)

end Sys2Proof.Machine
end

