-- ==== Sys2Proof/Laws/KeepsStart.lean ====
section
/-! SUPPORT. The operations of Machine/Start.lean keep what every command keeps. -/

namespace Sys2Proof.Machine

theorem restoreFail_keeps {org : State} {s : State} (hs : Keeps org s) :
    Keeps org (restoreFail s) := by
  unfold restoreFail
  repeat' (first
    | with_reducible assumption
    | with_reducible refine State.bump_keeps ?_
    | split
    | dsimp -zeta only)

theorem restoreReg_keeps {org : State} {s : State} {addr v : Nat} (hs : Keeps org s) :
    Keeps org (restoreReg s addr v) := by
  unfold restoreReg
  repeat' (first
    | with_reducible assumption
    | ((try lift_lets -underBinder); intro x; first | (with_reducible refine keeps_let (o := org) x ?_ ?_; rotate_left; intro hx; clear_value x; rotate_right; subst x) | clear_value x)
    | with_reducible refine State.set_keeps ?_
    | with_reducible refine regWrite_keeps ?_
    | with_reducible refine restoreFail_keeps ?_
    | split
    | dsimp -zeta only)

theorem restoreLoad_keeps {org s : State} {r : LoadResult} (hs : Keeps org s) (hr : KeepsLoad org r) :
    Keeps org (restoreLoad s r) := by
  unfold restoreLoad
  cases r with
  | refused st i t => exact restoreFail_keeps hr
  | loaded t => exact hr
  | later t => exact hs

theorem restoreSignalReg_keeps {org : State} {tables : List (Nat × List Byte)} {s : State} {e : Nat × Nat} (hs : Keeps org s) :
    Keeps org (restoreSignalReg tables s e) := by
  unfold restoreSignalReg
  repeat' (first
    | with_reducible assumption
    | ((try lift_lets -underBinder); intro x; first | (with_reducible refine keeps_let (o := org) x ?_ ?_; rotate_left; intro hx; clear_value x; rotate_right; subst x) | (with_reducible refine keeps_let_fst (o := org) x ?_ ?_; rotate_left; intro hx; clear_value x; rotate_right; subst x) | (with_reducible refine keeps_let_fun x ?_; subst x) | clear_value x)
    | with_reducible refine loadSequence_keeps ?_
    | with_reducible refine restoreReg_keeps ?_
    | with_reducible refine restoreLoad_keeps ?_ ?_
    | split
    | dsimp -zeta only
    | (rw [keeps_mk]; refine keepsParts_fold ?_))

theorem restored_keeps {org : State} {s : State} (hs : Keeps org s) :
    Keeps org (restored s) := by
  unfold restored
  repeat' (first
    | with_reducible assumption
    | with_reducible refine State.set_keeps ?_
    | split
    | dsimp -zeta only)

theorem restoreSignal_keeps {org : State} {s : State} (hs : Keeps org s) :
    Keeps org (restoreSignal s) := by
  unfold restoreSignal
  repeat' (first
    | with_reducible assumption
    | ((try lift_lets -underBinder); intro x; first | (with_reducible refine keeps_let (o := org) x ?_ ?_; rotate_left; intro hx; clear_value x; rotate_right; subst x) | clear_value x)
    | with_reducible refine State.setStart_keeps ?_
    | with_reducible refine restoreSignalReg_keeps ?_
    | with_reducible refine restored_keeps ?_
    | with_reducible refine State.each_keeps ?_ (fun s1 a1 h1 => ?_)
    | split
    | dsimp -zeta only
    | (rw [keeps_mk]; refine keepsParts_fold ?_))

theorem restoreEntry_keeps {org : State} {id : Nat} {s : State} {e : Nat × List Byte} (hs : Keeps org s) :
    Keeps org (restoreEntry id s e) := by
  unfold restoreEntry
  repeat' (first
    | with_reducible assumption
    | ((try lift_lets -underBinder); intro x; first | (with_reducible refine keeps_let (o := org) x ?_ ?_; rotate_left; intro hx; clear_value x; rotate_right; subst x) | (with_reducible refine keeps_let_fst (o := org) x ?_ ?_; rotate_left; intro hx; clear_value x; rotate_right; subst x) | (with_reducible refine keeps_let_fun x ?_; subst x) | (with_reducible refine keeps_let_bkg x ?_; subst x) | clear_value x)
    | with_reducible refine loadStreams_keeps ?_
    | with_reducible refine loadPorts_keeps ?_
    | with_reducible refine loadChannels_keeps ?_
    | with_reducible refine loadSets_keeps ?_
    | with_reducible refine loadZones_keeps ?_
    | with_reducible refine loadTemplates_keeps ?_
    | with_reducible refine loadArchive_keeps ?_
    | with_reducible refine restoreLoad_keeps ?_ ?_
    | unfold State.setBkg
    | split
    | dsimp -zeta only
    | (rw [keeps_mk]; refine keepsParts_fold ?_)
    | (rw [keeps_mk]; refine keepsParts_change ?_ (fun h0 => by unfold SoundParts State.Sound BkgWf at *; simp only [h0, swf_sput, and_self])))

theorem restoreTable_keeps {org : State} {s : State} {t : Nat × List (Nat × List Byte)} (hs : Keeps org s) :
    Keeps org (restoreTable s t) := by
  unfold restoreTable
  repeat' (first
    | with_reducible assumption
    | ((try lift_lets -underBinder); intro x; first | (with_reducible refine keeps_let (o := org) x ?_ ?_; rotate_left; intro hx; clear_value x; rotate_right; subst x) | (with_reducible refine keeps_let_fst (o := org) x ?_ ?_; rotate_left; intro hx; clear_value x; rotate_right; subst x) | (with_reducible refine keeps_let_fun x ?_; subst x) | clear_value x)
    | with_reducible refine loadCompensation_keeps ?_
    | with_reducible refine restoreLoad_keeps ?_ ?_
    | with_reducible refine restoreEntry_keeps ?_
    | with_reducible refine State.each_keeps ?_ (fun s1 a1 h1 => ?_)
    | with_reducible refine foldl_keeps ?_ (fun s1 a1 h1 => ?_)
    | with_reducible refine foldl_fst_keeps ?_ (fun s1 a1 h1 => ?_)
    | split
    | dsimp -zeta only)

theorem restoreSensing_keeps {org : State} {s : State} (hs : Keeps org s) :
    Keeps org (restoreSensing s) := by
  unfold restoreSensing
  repeat' (first
    | with_reducible assumption
    | ((try lift_lets -underBinder); intro x; first | (with_reducible refine keeps_let (o := org) x ?_ ?_; rotate_left; intro hx; clear_value x; rotate_right; subst x) | (with_reducible refine keeps_let_fst (o := org) x ?_ ?_; rotate_left; intro hx; clear_value x; rotate_right; subst x) | (with_reducible refine keeps_let_fun x ?_; subst x) | clear_value x)
    | with_reducible refine State.setStart_keeps ?_
    | with_reducible refine restoreReg_keeps ?_
    | with_reducible refine restored_keeps ?_
    | with_reducible refine restoreTable_keeps ?_
    | with_reducible refine State.each_keeps ?_ (fun s1 a1 h1 => ?_)
    | split
    | dsimp -zeta only
    | (rw [keeps_mk]; refine keepsParts_fold ?_))

theorem sensingEnable_keeps {org : State} {s : State} (hs : Keeps org s) :
    Keeps org (sensingEnable s) := by
  unfold sensingEnable
  repeat' (first
    | with_reducible assumption
    | ((try lift_lets -underBinder); intro x; first | (with_reducible refine keeps_let (o := org) x ?_ ?_; rotate_left; intro hx; clear_value x; rotate_right; subst x) | (with_reducible refine keeps_let_fun x ?_; subst x) | clear_value x)
    | with_reducible refine State.setStart_keeps ?_
    | with_reducible refine restoreReg_keeps ?_
    | with_reducible refine State.each_keeps ?_ (fun s1 a1 h1 => ?_)
    | split
    | dsimp -zeta only
    | (rw [keeps_mk]; refine keepsParts_fold ?_))

theorem execDomainSwitchDone_keeps {org : State} {domain : Fin 6} {s : State} (hs : Keeps org s) :
    KeepsOut org (execDomainSwitchDone domain s) := by
  unfold execDomainSwitchDone
  repeat' (first
    | with_reducible assumption
    | with_reducible refine domainDone_keeps ?_
    | with_reducible refine restoreSignal_keeps ?_
    | with_reducible refine keepsOut_next ?_
    | split
    | dsimp -zeta only)

theorem execWedgeStart_keeps {org : State} {s : State} (hs : Keeps org s) :
    KeepsOut org (execWedgeStart s) := by
  unfold execWedgeStart
  repeat' (first
    | with_reducible assumption
    | with_reducible refine wedgeStart_keeps ?_
    | with_reducible refine restoreSignal_keeps ?_
    | with_reducible refine keepsOut_next ?_
    | split
    | dsimp -zeta only)

theorem execImageActivation_keeps {org : State} {s : State} (hs : Keeps org s) :
    KeepsOut org (execImageActivation s) := by
  unfold execImageActivation
  repeat' (first
    | with_reducible assumption
    | with_reducible refine imageActivation_keeps ?_
    | with_reducible refine shutdownPending_keeps ?_
    | with_reducible refine keepsOut_next ?_
    | split
    | dsimp -zeta only)

theorem landingUp_keeps {org : State} {s : State} {retired : Nat} (hs : Keeps org s) :
    Keeps org (landingUp s retired) := by
  unfold landingUp
  repeat' (first
    | with_reducible assumption
    | ((try lift_lets -underBinder); intro x; first | (with_reducible refine keeps_let (o := org) x ?_ ?_; rotate_left; intro hx; clear_value x; rotate_right; subst x) | (with_reducible refine keeps_let_fst (o := org) x ?_ ?_; rotate_left; intro hx; clear_value x; rotate_right; subst x) | (with_reducible refine keeps_let_fun x ?_; subst x) | clear_value x)
    | with_reducible refine State.set_keeps ?_
    | with_reducible refine retireBlock_keeps ?_
    | with_reducible refine foldl_keeps ?_ (fun s1 a1 h1 => ?_)
    | with_reducible refine foldl_fst_keeps ?_ (fun s1 a1 h1 => ?_)
    | split
    | dsimp -zeta only)

theorem startDecide_keeps {org : State} {s : State} (hs : Keeps org s) :
    Keeps org (startDecide s) := by
  unfold startDecide
  repeat' (first
    | with_reducible assumption
    | ((try lift_lets -underBinder); intro x; first | (with_reducible refine keeps_let (o := org) x ?_ ?_; rotate_left; intro hx; clear_value x; rotate_right; subst x) | clear_value x)
    | with_reducible refine State.set_keeps ?_
    | with_reducible refine sstBegin_keeps ?_
    | with_reducible refine sensingEnable_keeps ?_
    | split
    | dsimp -zeta only)

theorem execLandingReady_keeps {org : State} {retired : Nat} {s : State} (hs : Keeps org s) :
    KeepsOut org (execLandingReady retired s) := by
  unfold execLandingReady
  repeat' (first
    | with_reducible assumption
    | with_reducible refine pumpAll_keeps ?_
    | with_reducible refine startRecord_keeps ?_
    | with_reducible refine restoreSensing_keeps ?_
    | with_reducible refine landingUp_keeps ?_
    | with_reducible refine startDecide_keeps ?_
    | with_reducible refine keepsOut_next ?_
    | split
    | dsimp -zeta only)

theorem execStartChecksDone_keeps {org : State} {s : State} (hs : Keeps org s) :
    KeepsOut org (execStartChecksDone s) := by
  unfold execStartChecksDone
  repeat' (first
    | with_reducible assumption
    | ((try lift_lets -underBinder); intro x; first | (with_reducible refine keeps_let (o := org) x ?_ ?_; rotate_left; intro hx; clear_value x; rotate_right; subst x) | (with_reducible refine keeps_let_sst x ?_; subst x) | clear_value x)
    | with_reducible refine State.set_keeps ?_
    | with_reducible refine State.clearAll_keeps ?_
    | with_reducible refine pumpAll_keeps ?_
    | with_reducible refine State.setSst_keeps (fun h0 => ?_) ?_
    | exact h0.records
    | with_reducible refine sstStat_keeps ?_
    | with_reducible refine finalPage_keeps ?_
    | with_reducible refine sensingEnable_keeps ?_
    | with_reducible refine keepsOut_next ?_
    | split
    | dsimp -zeta only
    | (rw [keeps_mk]; refine keepsParts_fold ?_))

end Sys2Proof.Machine
end

