-- ==== Sys2Proof/Laws/Posted.lean ====
section
/-! SUPPORT. A posted event record is among the outputs, with the number and the time at which it was posted, and what came out
before stays. -/

namespace Sys2Proof.Machine

/-- What an operation keeps stays among the outputs. -/
theorem Keeps.out_mem {o s : State} (h : Keeps o s) {x : Output} (hx : x ∈ o.out) : x ∈ s.out := h.2.2.2.2.subset hx

/-- The first of several records posted is among the outputs. -/
theorem mem_out_postAll (s : State) (q : EventReq) (rest : List EventReq) :
    Output.event (s.recordOf q) ∈ (s.postAll (q :: rest)).out := by
  unfold State.postAll
  rw [show 32 * ((q :: rest).length + 1) = 32 * (rest.length + 1) + 31 + 1 by rw [List.length_cons]; omega, postList]
  refine Keeps.out_mem (o := s.emit (.event (s.recordOf q))) ?_ (List.mem_cons_self ..)
  refine postList_keeps (archiveAll_keeps (streamAll_keeps (foldl_keeps ?_ fun s n h => evrOffer_keeps h)))
  refine ⟨fun hs => ?_, rfl, rfl, Nat.le_refl _, List.suffix_refl _⟩
  exact ⟨hs.1, hs.2.1, hs.2.2.1, hs.2.2.2.1, hs.2.2.2.2.1, hs.2.2.2.2.2.1, hs.2.2.2.2.2.2.1, hs.2.2.2.2.2.2.2.1,
    Nat.mod_lt _ (by decide), hs.2.2.2.2.2.2.2.2.2⟩

/-- A posted record is among the outputs. -/
theorem mem_out_post (s : State) (q : EventReq) : Output.event (s.recordOf q) ∈ (s.post q).out := mem_out_postAll s q []

/-- An event record posted in a state that has the number and the time of an earlier one is that earlier state's next record. -/
theorem posted_event {o s : State} {cls : Nat} {state : Bool} {payload : List Byte} (hq : s.seq = o.seq) (hn : s.now = o.now) :
    Posted o (s.event cls state payload) cls state payload := by
  have h := mem_out_post s (evReq cls state payload)
  unfold Posted State.event
  have e : o.recordOf (evReq cls state payload) = s.recordOf (evReq cls state payload) := by
    unfold State.recordOf State.tai
    rw [hq, hn]
  rw [e]
  exact h

/-- What comes after a record does not take it back. -/
theorem Posted.keep {o s t : State} {cls : Nat} {state : Bool} {payload : List Byte} (h : Posted o s cls state payload)
    (hk : Keeps s t) : Posted o t cls state payload := hk.out_mem h

end Sys2Proof.Machine
end

