-- ==== Sys2Proof/WellFormed.lean ====
section
/-! DEFINITION. Which commands are well formed: what no type of theirs says already. An ill-formed one stands for nothing that can
reach the block; its meaning is defined all the same. -/

namespace Sys2Proof

/-- An access to a memory window of a number of bytes: of 1, 2, 4 or 8 bytes, aligned to its width (R6, R290). -/
def accessOk (size addr width : Nat) : Bool :=
  [1, 2, 4, 8].contains width && addr % width == 0 && decide (addr + width ≤ size)

/-- A payload read from host memory: at most 2^24 − 1 bytes, the largest LENGTH (R299). -/
def payloadOk (bytes : List (BitVec 8)) : Bool := decide (bytes.length < 2 ^ 24)

/-- A descriptor is 64 bytes (R299). -/
def descOk64 (desc : List (BitVec 8)) : Bool := desc.length == 64

/-- The points of a slot: at most 131,072, with as many spectra where the slot is borrowed (R41, R92). -/
def SlotInput.wf (i : SlotInput) : Bool :=
  decide (i.points.length ≤ 131072) && (i.spectra.isEmpty || i.spectra.length == i.points.length)

/-- Whether a command is well formed. -/
def Instr.wf : Instr → Bool
  | .registerWrite addr width _ => accessOk 0x1000000 addr width
  | .loRegisterSnapshotRead addr width => accessOk 0x1000000 addr width
  | .ownershipCntClr _ claim release => !(claim && release)
  | .commandDoorbell offset width _ => accessOk 0x10000 offset width
  | .completionDoorbell offset width _ => accessOk 0x10000 offset width
  | .eventDoorbell offset width _ => accessOk 0x10000 offset width
  | .captureDoorbell offset width _ => accessOk 0x10000 offset width
  | .descriptorAccept _ _ desc => descOk64 desc
  | .buf _ desc => descOk64 desc
  | .tableLoadChannel _ p => payloadOk p
  | .tableLoadSet _ p => payloadOk p
  | .tableLoadCoefficientBank _ p => payloadOk p
  | .tableLoadZone _ p => payloadOk p
  | .tableLoadTemplate _ p => payloadOk p
  | .tableLoadBaseline _ p => payloadOk p
  | .tableLoadCompensation _ p => payloadOk p
  | .tableLoadCaliperSequence _ p => payloadOk p
  | .tableLoadFrameMemory _ p => payloadOk p
  | .tableLoadWedgeImage _ p => payloadOk p
  | .tableLoadMarkingTable _ p => payloadOk p
  | .tableLoadStream _ p => payloadOk p
  | .tableLoadPort _ p => payloadOk p
  | .tableLoadArchive _ p => payloadOk p
  | .slotRecordComplete _ a b => a.wf && b.wf
  | .gatedAccess _ off _ => off.toNat % 4 == 0
  | .lcReqArm target => decide (target.val ≤ 4)
  | .lcReqConfirm target => decide (target.val ≤ 4)
  | _ => true

end Sys2Proof
end

