-- ==== Sys2Proof/Tests/Slice0.lean ====
section
/-! SUPPORT. Tests: a smoke test of well-formedness, one or two small steps per command from the spec's words, and for every
statement with hypotheses a state that meets them. A theorem named `witness_…` shows hypotheses met; the value in its last clause,
where it has one, is what the cited rule gives there. -/

namespace Sys2Proof.Tests

set_option Elab.async false
open Sys2Proof.Machine

/-- A next state of which something holds. -/
def ok (o : Host.Outcome State Fault Refusal) (p : State → Bool) : Bool :=
  match o with
  | .next t => p t
  | .fault _ => false
  | .refused _ => false

/-- Some fields of a state at values. -/
def State.put (s : State) (l : List (Field × Nat)) : State := l.foldl (fun s e => s.set e.1 e.2) s

/-- The state after reset, but in OPERATIONAL with its start decided, with some fields at values. -/
def at_ (l : List (Field × Nat)) : State :=
  State.put ((State.reset.set F.GEN_LC_STAT.STATE 2).set F.SST_STAT.RUNNING 0) l

/-- Soundness of a state can be decided. -/
def soundDec (s : State) : Decidable s.Sound := by
  unfold State.Sound CoreWf DeckWf HostWf FlumeWf LandingWf BkgWf CruWf LampWf RulesWf
  infer_instance

theorem sound {s : State} (h : @decide s.Sound (soundDec s) = true) : s.Sound := @of_decide_eq_true _ (soundDec s) h

/-- Whether writes to a block take effect can be decided. -/
def answersDec (s : State) (b : Nat) : Decidable (s.answers b) := by
  unfold State.answers
  infer_instance

theorem answers {s : State} {b : Nat} (h : @decide (s.answers b) (answersDec s b) = true) : s.answers b :=
  @of_decide_eq_true _ (answersDec s b) h

/-- Whether reads of a block answer its registers can be decided. -/
def readableDec (s : State) (b : Nat) : Decidable (s.readable b) := by
  unfold State.readable
  infer_instance

theorem readable {s : State} {b : Nat} (h : @decide (s.readable b) (readableDec s b) = true) : s.readable b :=
  @of_decide_eq_true _ (readableDec s b) h

/-- A unit in OPERATIONAL with nothing else set. -/
def base : State := at_ []

theorem base_sound : base.Sound := sound (by decide +kernel)

/-- A slot of which nothing was received. -/
def noSlot : SlotInput := ⟨[], 0, 0, [], [], false⟩

/-! ### Well-formed commands -/

theorem test_wf_accepts : [Instr.registerWrite 0x20000 4 0, .loRegisterSnapshotRead 0x10010 4, .claimHost (.pin 95),
    .slotRecordComplete .a noSlot noSlot, .gatedAccess 2 8 true].all Instr.wf = true := by decide

theorem test_wf_refuses_access : [Instr.registerWrite 0x20002 4 0, .registerWrite 0x1000000 4 0, .registerWrite 0 3 0,
    .loRegisterSnapshotRead 0x10010 5, .commandDoorbell 0x10000 4 0, .completionDoorbell 1 2 0, .eventDoorbell 0 0 0,
    .captureDoorbell 0xFFFC 8 0].any Instr.wf = false := by decide

theorem test_wf_refuses_operands : [Instr.ownershipCntClr (.pin 0) true true, .descriptorAccept false 0 [], .buf 0 [0],
    .slotRecordComplete .a { noSlot with spectra := [none] } noSlot,
    .slotRecordComplete .a noSlot { noSlot with spectra := [none] },
    .gatedAccess 2 9 false, .lcReqArm 5, .lcReqConfirm 7].any Instr.wf = false := by decide

/-- No payload of 2^24 bytes or more is well formed, whichever table it is for (R299). -/
theorem test_wf_refuses_payload (n : Nat) (h : 2 ^ 24 ≤ n) :
    let p := List.replicate n (0 : BitVec 8)
    [Instr.tableLoadChannel 0 p, .tableLoadSet 0 p, .tableLoadCoefficientBank 0 p, .tableLoadZone 0 p, .tableLoadTemplate 0 p,
     .tableLoadBaseline 0 p, .tableLoadCompensation 0 p, .tableLoadCaliperSequence 0 p, .tableLoadFrameMemory 0 p,
     .tableLoadWedgeImage 0 p, .tableLoadMarkingTable 0 p, .tableLoadStream 0 p, .tableLoadPort 0 p,
     .tableLoadArchive 0 p].any Instr.wf = false := by
  have hp : payloadOk (List.replicate n (0 : BitVec 8)) = false := by
    unfold payloadOk
    rw [List.length_replicate]
    exact decide_eq_false (by omega)
  simp only [List.any_cons, List.any_nil, Instr.wf, hp, Bool.or_false]

/-! ### Steps and the queue -/

theorem test_step_takes_front : ok (step { base with pending := [.blzCntClr, .skyCntClr] }) (fun t => t.pending == [.skyCntClr]) = true := by
  decide +kernel

theorem test_idle_step_counts : ok (step base) (fun t => t.now == 1 && t.elapsed == 1 && t.regs == base.regs) = true := by decide +kernel

/-- In a hold no time passes for the timebase (R375). -/
theorem test_held_step : ok (step { base with start := { base.start with held := true } }) (fun t => t.now == 0 && t.elapsed == 1) = true := by
  decide +kernel

theorem witness_idle : base.pending = [] ∧ base.start.held = false ∧ base.read R.CLK_TB_FREQ = 0 ∧ base.tb.frac = 0 := by decide +kernel

/-! ### Count clears -/

theorem witness_cntClr : base.Sound ∧ ∀ b ∈ [1, 3, 4, 5, 6, 7, 8, 9, 10, 11, 12, 13, 14, 15, 16, 17], base.answers b :=
  ⟨base_sound, by unfold State.answers; decide +kernel⟩

theorem witness_krfFormat : base.get F.KRF_CTL.RING_FMT < 2 := by decide +kernel

theorem test_cntClr_kerf : ok (exec .krfCntClr (at_ [(F.KRF_SAT_CNT.SAT, 5), (F.KRF_Px_CLIP_CNT.CLIP 1, 7), (F.KRF_CTL.RING_FMT, 1)]))
    (fun t => t.get F.KRF_SAT_CNT.SAT == 0 && t.get (F.KRF_Px_CLIP_CNT.CLIP 1) == 0 && t.get F.KRF_CTL.RING_FMT == 1) = true := by
  decide +kernel

/-! ### Register accesses -/

theorem witness_registerWrite_plain : base.Sound ∧ base.answers (R.SST_CFG / 0x10000) ∧ R.SST_CFG ∈ plainRegs :=
  ⟨base_sound, answers (by decide +kernel), by decide +kernel⟩

theorem witness_registerWrite_checked : base.answers (R.SCL_BASE_TEMP / 0x10000) ∧ ∃ e ∈ checkedRegs, e.1 = R.SCL_BASE_TEMP :=
  ⟨answers (by decide +kernel), by unfold checkedRegs; exact ⟨_, .tail _ (.tail _ (.tail _ (.tail _ (.tail _ (.tail _ (.tail _ (.head _))))))), rfl⟩⟩

theorem witness_registerWrite_event : base.answers (R.LND_EVT / 0x10000) ∧ R.LND_EVT ∈ eventRegs :=
  ⟨answers (by decide +kernel), by decide +kernel⟩

/-- A reserved encoding leaves the whole register as it was and is counted (R7, R8): 2^14 − 1 is below the range of GIC. -/
theorem test_reserved_gic : ok (exec (.registerWrite (R.PRB_Px_GIC 1) 4 0x3FFF) base)
    (fun t => t.read (R.PRB_Px_GIC 1) == base.read (R.PRB_Px_GIC 1) && t.get F.GEN_WRERR_CNT.COUNT == 1) = true := by decide +kernel

theorem test_gic_boundaries : ok (exec (.registerWrite (R.PRB_Px_GIC 0) 4 0x4000) base)
      (fun t => t.read (R.PRB_Px_GIC 0) == 0x4000 && t.get F.GEN_WRERR_CNT.COUNT == 0) = true
    ∧ ok (exec (.registerWrite (R.PRB_Px_GIC 0) 4 0xBFFF) base) (fun t => t.read (R.PRB_Px_GIC 0) == 0xBFFF) = true
    ∧ ok (exec (.registerWrite (R.PRB_Px_GIC 0) 4 0xC000) base) (fun t => t.get F.GEN_WRERR_CNT.COUNT == 1) = true := by decide +kernel

theorem test_event_flag_clears : ok (exec (.registerWrite R.GEN_EVT 4 1) (at_ [(⟨R.GEN_EVT, 1, 0⟩, 3)]))
    (fun t => t.read R.GEN_EVT == 2) = true := by decide +kernel

theorem witness_writeWidths : base.start.held = false ∧ (1 ≠ 4 ∧ 1 ≠ 8) ∧ (2 : Nat) % 4 ≠ 0 ∧ regRow 0xFF0000 = none
    ∧ 0xFF0000 % 4 = 0 := by decide +kernel

theorem test_narrow_write : ok (exec (.registerWrite R.SST_CFG 2 1) base) (fun t => t.get F.GEN_WRERR_CNT.COUNT == 1) = true
    ∧ ok (exec (.registerWrite (R.SST_CFG + 2) 4 1) base) (fun t => t.get F.GEN_WRERR_CNT.COUNT == 1) = true := by decide +kernel

/-- GEN_WRERR_CNT saturates (R8). -/
theorem test_wrerr_saturates : ok (exec (.registerWrite 0xFF0000 4 1) (at_ [(F.GEN_WRERR_CNT.COUNT, 0xFFFFFFFF)]))
    (fun t => t.get F.GEN_WRERR_CNT.COUNT == 0xFFFFFFFF) = true := by decide +kernel

/-- A 64-bit write is two 32-bit writes, the lower address first (R6). -/
theorem test_wide_write : ok (exec (.registerWrite (R.HIF_MSIX_ADDR_LO 0) 8 0x1111111122222220) base)
    (fun t => t.read (R.HIF_MSIX_ADDR_LO 0) == 0x22222220 && t.read (R.HIF_MSIX_ADDR_HI 0) == 0x11111111) = true := by decide +kernel

/-- A unit in which Deck's ring and the archive hold one record each. -/
def oldest : State :=
  { base with now := 0x123456789AB,
              deck := { base.deck with ring := [⟨1, .a, 0x10000000002, [], [], false⟩], nextNum := 1 },
              landing := { base.landing with archive := [⟨[], 0x20000000003, false, 0⟩] } }

theorem witness_loRead : oldest.Sound ∧ oldest.readable 1 ∧ oldest.readable 2 ∧ oldest.readable 11 ∧ oldest.readable 16
    ∧ oldest.readable 17 ∧ (∃ r rest, oldest.deck.ring = r :: rest) ∧ ∃ r rest, oldest.landing.archive = r :: rest :=
  ⟨sound (by decide +kernel), readable (by decide +kernel), readable (by decide +kernel), readable (by decide +kernel),
   readable (by decide +kernel), readable (by decide +kernel), ⟨_, _, rfl⟩, ⟨_, _, rfl⟩⟩

theorem test_loRead_timebase : ok (exec (.loRegisterSnapshotRead R.CLK_TB_NOW_LO 4) oldest)
    (fun t => t.read R.CLK_TB_NOW_HI == 0x123 && t.out == [.readData R.CLK_TB_NOW_LO 0x456789AB]) = true := by decide +kernel

theorem test_loRead_deck : ok (exec (.loRegisterSnapshotRead R.DCK_RING_OLD_LO 4) oldest) (fun t => t.read R.DCK_RING_OLD_HI == 0x100) = true
    ∧ ok (exec (.loRegisterSnapshotRead R.LND_ARC_OLD_LO 4) oldest) (fun t => t.read R.LND_ARC_OLD_HI == 0x200) = true := by decide +kernel

/-! ### Ownership -/

/-- Pin 3 owned by Wedge's claimant 5, pin 4 by the host. -/
def owned : State := at_ [(ownerF (.pin 3), 5), (ownerF (.pin 4), 0xF)]

theorem witness_ownership : owned.Sound ∧ (∀ n : Fin 96, n < 6 → owned.answers (ownAddr (.pin n) / 0x10000)) ∧ owned.frozen = false
    ∧ owned.owner (.pin 3) = 5 ∧ owned.owner (.pin 4) = 0xF ∧ owned.owner (.pin 5) = 0 ∧ (false && false) = false :=
  ⟨sound (by decide +kernel), by unfold State.answers; decide +kernel, by decide +kernel⟩

theorem test_claimHost : ok (exec (.claimHost (.pin 5)) owned) (fun t => t.owner (.pin 5) == 0xF) = true
    ∧ ok (exec (.claimHost (.pin 3)) owned) (fun t => t.owner (.pin 3) == 5 && t.get (loserF (.pin 3)) == 0xF
        && t.get (conflictF (.pin 3)) == 1 && t.out.length == 1) = true := by decide +kernel

theorem test_releaseHost : ok (exec (.releaseHost (.pin 4)) owned) (fun t => t.owner (.pin 4) == 0) = true
    ∧ ok (exec (.releaseHost (.pin 3)) owned) (fun t => t.owner (.pin 3) == 5 && t.get (conflictF (.pin 3)) == 1) = true := by decide +kernel

theorem test_ownershipCntClr : ok (exec (.ownershipCntClr (.pin 3) true false) (State.put owned [(conflictF (.pin 3), 9)]))
      (fun t => t.get (conflictF (.pin 3)) == 1) = true
    ∧ ok (exec (.ownershipCntClr (.pin 3) true true) owned) (fun t => t.get F.GEN_WRERR_CNT.COUNT == 1) = true := by decide +kernel

/-! ### Clocks -/

/-- The warm oscillator and the crystal run. -/
def warm : State := at_ [(F.CLK_STAT.WARM_READY, 1), (F.CLK_STAT.XTAL_OK, 1)]

theorem witness_oscillators : base.start.held = false ∧ (at_ [(F.CLK_STAT.WARM_READY, 1)]).clk.tripped = false
    ∧ (at_ [(F.CLK_STAT.WARM_READY, 1)]).flag F.CLK_STAT.XTAL_OK = false ∧ (at_ [(F.CLK_STAT.WARM_READY, 1)]).flag F.CLK_STAT.WARM_READY = true
    ∧ warm.clk.tripped = false ∧ warm.start.held = false ∧ warm.flag F.CLK_STAT.WARM_READY = true ∧ warm.flag F.CLK_STAT.XTAL_OK = true
    ∧ base.clk.tripped = false ∧ base.flag F.CLK_STAT.WARM_READY = false := by decide +kernel

theorem test_warmReady : ok (exec .warmReady base) (fun t => t.flag F.CLK_STAT.WARM_READY && t.flag F.CLK_STAT.PLL_REF) = true := by decide +kernel

theorem test_crystalProven : ok (exec .crystalProven (at_ [(F.CLK_STAT.WARM_READY, 1)]))
    (fun t => t.flag F.CLK_STAT.XTAL_OK && !t.flag F.CLK_STAT.PLL_REF) = true := by decide +kernel

theorem test_xtalLost : ok (exec .xtalLost warm) (fun t => !t.flag F.CLK_STAT.XTAL_OK && t.flag F.CLK_STAT.PLL_REF
    && t.get F.CLK_CNT.XTAL_LOST == 1 && t.out.length == 1) = true := by decide +kernel

/-- 100 ppm is still good, more is not (R366). -/
theorem test_refinCheck : ok (exec (.refinCheck (some 100000)) base) (fun t => t.flag F.CLK_STAT.REFIN_OK) = true
    ∧ ok (exec (.refinCheck (some (-100001))) base) (fun t => !t.flag F.CLK_STAT.REFIN_OK) = true := by decide +kernel

/-- The root PLL is locked and the fabric runs on it. -/
def locked : State := State.put warm [(F.CLK_STAT.PLL_LOCK, 1), (F.CLK_Dd.STATE 3, 1), (F.CLK_Dd.STATE 0, 1), (F.CLK_Dd.STATE 1, 1)]

theorem witness_rootPll : warm.Sound ∧ locked.Sound ∧ warm.flag F.CLK_STAT.PLL_LOCK = false ∧ warm.start.held = false
    ∧ warm.get (F.CLK_Dd.STATE 3) ≠ 3 ∧ (warm.flag F.CLK_STAT.WARM_READY = true ∨ warm.flag F.CLK_STAT.XTAL_OK = true)
    ∧ locked.flag F.CLK_STAT.PLL_LOCK = true :=
  ⟨sound (by decide +kernel), sound (by decide +kernel), by decide +kernel⟩

theorem test_pllLock : ok (exec .pllLock warm) (fun t => t.flag F.CLK_STAT.PLL_LOCK && t.get (F.CLK_Dd.STATE 3) == 2) = true := by
  decide +kernel

theorem test_pllUnlock : ok (exec .pllUnlock locked) (fun t => !t.flag F.CLK_STAT.PLL_LOCK && t.get (F.CLK_Dd.STATE 0) == 0
    && t.get F.CLK_CNT.UNLOCK == 1 && t.clk.down) = true := by decide +kernel

/-- The fabric asked to leave a silent source for 1 µs; every domain in reset for 10 ms. -/
def silent : State :=
  let s := at_ [(F.CLK_Dd.STATE 3, 3), (F.CLK_STAT.WARM_READY, 1)]
  { s with elapsed := 10000000, clk := { s.clk with request := some 9999000 } }

theorem witness_forcedSwitch : silent.Sound ∧ silent.clk.request = some 9999000 ∧ 9999000 + 1000 ≤ silent.elapsed
    ∧ silent.get (F.CLK_Dd.STATE 3) = 3 ∧ silent.clk.retryAt + 10000000 ≤ silent.elapsed :=
  ⟨sound (by decide +kernel), by decide +kernel⟩

theorem test_forcedSwitch : ok (exec (.forcedSwitch 3) silent) (fun t => t.get F.CLK_CNT.FORCED == 1 && t.clk.request == none) = true := by
  decide +kernel

theorem test_startRetry : ok (exec .startRetry silent) (fun t => t.get F.CLK_CNT.RETRY == 1 && t.get (F.CLK_Dd.STATE 3) == 0) = true := by
  decide +kernel

/-- The fabric switches to WARM; the fabric switches to the root; domain 4 starts; domain 0 is the last of the sensing domains. -/
def switching (clk : ClockState) (l : List (Field × Nat)) : State := { at_ ((F.CLK_STAT.PLL_LOCK, 1) :: l) with clk := clk }

theorem witness_domainSwitch :
    let s1 := switching { base.clk with toWarm := true } [(F.CLK_Dd.STATE 3, 2)]
    let s2 := switching base.clk [(F.CLK_Dd.STATE 3, 2)]
    let s3 := switching base.clk [(F.CLK_Dd.STATE 4, 2)]
    let s4 := switching { base.clk with down := true } [(F.CLK_Dd.STATE 0, 2), (F.CLK_Dd.STATE 1, 1)]
    (s1.get (F.CLK_Dd.STATE 3) = 2 ∧ s1.clk.toWarm = true ∧ s1.clk.request = none)
    ∧ (s2.get (F.CLK_Dd.STATE 3) = 2 ∧ s2.clk.toWarm = false ∧ s2.flag F.CLK_STAT.PLL_LOCK = true
        ∧ (s2.start.signalDone = true ∨ s2.wedge.started = false))
    ∧ (s3.get (F.CLK_Dd.STATE 4) = 2 ∧ s3.flag F.CLK_STAT.PLL_LOCK = true ∧ s3.clk.oppStep ≠ 2
        ∧ (s3.start.signalDone = true ∨ s3.wedge.started = false) ∧ s3.clk.down = false)
    ∧ (s4.get (F.CLK_Dd.STATE 0) = 2 ∧ s4.flag F.CLK_STAT.PLL_LOCK = true ∧ s4.clk.oppStep ≠ 2
        ∧ (s4.start.signalDone = true ∨ s4.wedge.started = false) ∧ s4.clk.down = true ∧ s4.get (F.CLK_Dd.STATE 1) = 1) := by decide +kernel

theorem test_domainSwitch_root : ok (exec (.domainSwitchDone 3) (switching base.clk [(F.CLK_Dd.STATE 3, 2)]))
    (fun t => t.get (F.CLK_Dd.DIV 3) == 10 && t.get (F.CLK_Dd.STATE 0) == 2 && t.get (F.CLK_Dd.DIV 0) == 64) = true := by decide +kernel

theorem witness_clockGates : base.answers 1 ∧ (∃ b, b < 19 ∧ bit (base.get F.CLK_GATE.EN) b = true
      ∧ blockInUse (State.put base [(F.PRB_CTL.PA_EN, 1)]) b = true) ∧ gated (at_ [(F.CLK_GATE.EN, 0x7FFFB)]) 2 = true
    ∧ (∀ b, b < 19 → bit (base.get F.CLK_GATE.EN) b = true → bit 0x13F83 b = false → blockInUse base b = false) :=
  ⟨answers (by decide +kernel), ⟨3, by decide +kernel⟩, by decide +kernel, by decide +kernel⟩

theorem test_clkGateWrite : ok (exec (.clkGateWrite 0x10000) base) (fun t => t.get F.CLK_GATE.EN == 0x13F83) = true
    ∧ ok (exec (.clkGateWrite 0) (State.put base [(F.PRB_CTL.PA_EN, 1)])) (fun t => t.get F.CLK_GATE.EN == 0x7FFFF
        && t.get F.GEN_WRERR_CNT.COUNT == 1) = true := by decide +kernel

theorem test_gatedAccess : ok (exec (.gatedAccess 2 4 false) (at_ [(F.CLK_GATE.EN, 0x7FFFB)]))
    (fun t => t.get F.CLK_GATED.COUNT == 1 && t.get F.CLK_GATED.LAST == 2 && t.out == [.readData 0x20004 0]) = true := by decide +kernel

/-- Kerf's sequencer idle at OP0; the supply has still to reach the point, with the division there; the other way round. -/
theorem witness_operatingPoints :
    let s1 := { at_ [(F.CLK_KRF_OPP.LEGACY, 1), (F.CLK_KRF_OPP.OPP, 2), (F.CLK_KRF_OPP.BUSY, 1)] with
                clk := { base.clk with oppStep := 1, oppNext := 2, oppDiv := 2 } }
    let s2 := { at_ [(F.CLK_KRF_OPP.LEGACY, 1), (F.CLK_KRF_OPP.OPP, 2), (F.CLK_KRF_OPP.BUSY, 1)] with
                clk := { base.clk with oppStep := 2, oppNext := 2, oppSupply := 2 } }
    (base.answers 1 ∧ base.flag F.CLK_KRF_OPP.BUSY = false ∧ 2 ≠ base.get F.CLK_KRF_OPP.CUR ∧ base.clk.oppDiv = base.get F.CLK_KRF_OPP.CUR
      ∧ base.clk.oppSupply = base.get F.CLK_KRF_OPP.CUR ∧ s1.flag F.CLK_KRF_OPP.BUSY = true)
    ∧ (s1.clk.oppStep = 1 ∧ oppWanted s1 = s1.clk.oppNext ∧ s1.clk.oppDiv = s1.clk.oppNext)
    ∧ (s2.clk.oppStep = 2 ∧ oppWanted s2 = s2.clk.oppNext ∧ s2.clk.oppSupply = s2.clk.oppNext) :=
  ⟨⟨answers (by decide +kernel), by decide +kernel⟩, by decide +kernel, by decide +kernel⟩

theorem test_krfOppWrite : ok (exec (.krfOppWrite 6) base) (fun t => t.flag F.CLK_KRF_OPP.BUSY && t.get F.CLK_KRF_OPP.OPP == 2
    && t.get F.CLK_KRF_OPP.CUR == 0) = true := by decide +kernel

/-! ### Resets and the life-cycle -/

/-- A unit with something from its start on. -/
def started (x : StartState) : State := { base with start := x }

theorem witness_resets : base.wedge.commit = none ∧ base.sst.lanesOut = [] ∧ base.start.held = false ∧ base.answers 0
    ∧ base.start.resetDue = none ∧ (started { base.start with resetDue := some (2, none) }).start.resetDue = some (2, none)
    ∧ (started { base.start with resetDue := some (3, some 4) }).start.resetDue = some (3, some 4) :=
  ⟨rfl, rfl, rfl, answers (by decide +kernel), rfl, rfl, rfl⟩

/-- Out of a hold that lost no power the cause is 5, after a loss of power 0 (R377). -/
theorem test_powerGood : ok (exec (.powerGood 0) (started { base.start with held := true }))
      (fun t => t.get F.GEN_RESET_CAUSE.CAUSE == 5 && !t.start.held && t.lc == 2) = true
    ∧ ok (exec (.powerGood 7) (started { base.start with held := true }))
      (fun t => t.get F.GEN_RESET_CAUSE.CAUSE == 0 && t.start.unpowered == 7) = true := by decide +kernel

theorem test_brownOut : ok (exec .brownOut base) (fun t => t.get F.GEN_RESET_CAUSE.CAUSE == 1 && t.get F.HIF_EPOCH.EPOCH == 1) = true := by
  decide +kernel

theorem test_thermalReset : ok (exec .thermalReset base) (fun t => t.get F.GEN_RESET_CAUSE.CAUSE == 4) = true := by decide +kernel

theorem test_genReset : ok (exec .genReset base) (fun t => t.start.resetDue == some (2, none) && t.hif.items == []) = true
    ∧ ok (exec .tj120Reset (started { base.start with resetDue := some (2, none) })) (fun t => t.get F.GEN_RESET_CAUSE.CAUSE == 2) = true := by
  decide +kernel

/-- RETIRED erases the stores through its reset (R382). -/
theorem test_retired : ok (exec .tj120Reset { started { base.start with resetDue := some (3, some 4) } with
      wedge := { base.wedge with store := [⟨[1], [2]⟩] } })
    (fun t => t.lc == 4 && t.wedge.store == [] && t.get F.GEN_RESET_CAUSE.CAUSE == 3) = true := by decide +kernel

/-- A target armed, from a life-cycle state. -/
def armedAt_ (lc target : Nat) (l : List (Field × Nat)) : State :=
  at_ ([(F.GEN_LC_STAT.STATE, lc), (F.GEN_LC_STAT.ARMED, 1), (F.GEN_LC_STAT.TARGET, target)] ++ l)

theorem witness_lc_armed : base.answers 0 ∧ base.flag F.GEN_LC_STAT.ARMED = false ∧ (5 : Nat) ≤ (5 : Fin 8).val
    ∧ (let s := armedAt_ 2 3 []
       s.Sound ∧ s.answers 0 ∧ s.flag F.GEN_LC_STAT.ARMED = true ∧ s.get F.GEN_LC_STAT.TARGET = 3
        ∧ s.elapsed < s.start.armedAt + 1000000000 ∧ s.lc = 2 ∧ s.flag F.SST_STAT.RUNNING = false ∧ s.start.saving.isSome = false
        ∧ s.wedge.commit.isSome = false ∧ (2 : Nat) ≠ s.get F.GEN_LC_STAT.TARGET) :=
  ⟨answers (by decide +kernel), by decide +kernel, by decide, sound (by decide +kernel), answers (by decide +kernel), by decide +kernel⟩

theorem witness_lc_conditions :
    (let s := armedAt_ 3 2 [(F.WDG_STAT.IMG, 1)]
     s.lc = 3 ∧ s.get F.WDG_STAT.IMG = 1 ∧ s.get F.GEN_LC_STAT.TARGET = 2)
    ∧ (let s := armedAt_ 0 1 [(⟨R.WDG_KEY_HASHk 11, 31, 0⟩, 1)]
       s.lc = 0 ∧ s.read (R.WDG_KEY_HASHk 11) ≠ 0 ∧ s.start.resetDue = none)
    ∧ (armedAt_ 1 4 []).lc = 1
    ∧ (let s := { armedAt_ 2 3 [] with elapsed := 1000000000 }
       s.start.armedAt + 1000000000 ≤ s.elapsed) := by decide +kernel

theorem test_lcReqArm : ok (exec (.lcReqArm 3) base) (fun t => t.flag F.GEN_LC_STAT.ARMED && t.get F.GEN_LC_STAT.TARGET == 3) = true
    ∧ ok (exec (.lcReqArm 5) base) (fun t => t.get F.GEN_WRERR_CNT.COUNT == 1) = true := by decide +kernel

theorem test_lcReqConfirm : ok (exec (.lcReqConfirm 3) (armedAt_ 2 3 [])) (fun t => t.lc == 3 && t.get F.GEN_LC_STAT.RESULT == 1) = true
    ∧ ok (exec (.lcReqConfirm 4) (armedAt_ 2 4 [])) (fun t => t.lc == 2 && t.get F.GEN_LC_STAT.RESULT == 2) = true := by decide +kernel

theorem test_lcArmExpiry : ok (exec .lcArmExpiry { armedAt_ 2 3 [] with elapsed := 1000000000 })
      (fun t => !t.flag F.GEN_LC_STAT.ARMED && t.get F.GEN_LC_STAT.RESULT == 3) = true
    ∧ ok (exec .lcArmExpiry { armedAt_ 2 3 [] with elapsed := 999999999 }) (fun t => t.flag F.GEN_LC_STAT.ARMED) = true := by decide +kernel

/-- A save runs, of what stands now; Landing is ready. -/
def saving : State :=
  let s := at_ [(F.LND_STAT.STATE, 1)]
  { s with start := { s.start with saving := some (signalPart s, sensingPart s) } }

theorem witness_save : base.answers 0 ∧ (base.lc = 2 ∨ base.lc = 3) ∧ (armedAt_ 1 0 []).lc ≠ 2 ∧ (armedAt_ 1 0 []).lc ≠ 3
    ∧ (∃ q, saving.start.saving = some q) ∧ saving.sst.due = false ∧ saving.get F.LND_STAT.STATE = 1 :=
  ⟨answers (by decide +kernel), .inl (by decide +kernel), by decide +kernel, by decide +kernel, ⟨_, rfl⟩, by decide +kernel⟩

theorem test_save : ok (exec .save base) (fun t => t.start.saving == some (signalPart base, sensingPart base)) = true
    ∧ ok (exec .save (at_ [(F.GEN_LC_STAT.STATE, 0)])) (fun t => t.start.saving == none && t.get F.GEN_WRERR_CNT.COUNT == 1) = true := by
  decide +kernel

theorem test_saveDone : ok (exec (.saveDone true) saving) (fun t => t.start.saving == none && t.start.signal.isSome && t.flag F.GEN_EVT.SAVE_DONE) = true
    ∧ ok (exec (.saveDone false) saving) (fun t => t.start.signal == none && t.flag F.GEN_EVT.SAVE_FAIL) = true := by decide +kernel

/-! ### Starts and the self-test -/

/-- A self-test in a step, with one record. -/
def testing (r : SstRun) (l : List (Field × Nat)) (elapsed : Nat) : State :=
  let s := at_ ((F.SST_STAT.RUNNING, 1) :: l)
  { s with elapsed := elapsed, sst := { s.sst with run := some r, records := [recordHeader s 1 1], serial := 1 } }

theorem witness_shutdown : base.answers 0 ∧ base.flag F.SST_STAT.RUNNING = false ∧ base.lc ≠ 4 ∧ base.wedge.commit = none
    ∧ base.start.saving = none ∧ (testing SstRun.zero [] 0).flag F.SST_STAT.RUNNING = true ∧ saving.start.saving.isSome = true
    ∧ (at_ [(F.GEN_LC_STAT.STATE, 4)]).lc = 4 :=
  ⟨answers (by decide +kernel), by decide +kernel⟩

theorem test_shutdown : ok (exec .shutdown base) (fun t => t.flag F.SST_STAT.RUNNING && t.get F.SST_STAT.KIND == 1 && t.sst.serial == 1
      && t.get F.SST_STAT.PARTS == 1) = true
    ∧ ok (exec .shutdown saving) (fun t => t.sst.due && t.sst.run == none) = true := by decide +kernel

theorem test_shutdown_retired : ok (exec .shutdown (at_ [(F.GEN_LC_STAT.STATE, 4)])) (fun t => t.start.held && t.out == [.fieldReset]) = true := by
  decide +kernel

/-- Step 4, of four partitions and 5.0 W each: 37.0 W is the last reading that admits one before INTERLOCK. -/
def step4 : SstRun := { SstRun.zero with step := 4, todo := [1, 2, 3], parts := [0] }

theorem witness_partitions :
    (let s := testing step4 [] 0
     s.Sound ∧ s.sst.run = some step4 ∧ step4.step < 15 ∧ step4.step ≠ 7 ∧ step4.todo = 1 :: [2, 3]
      ∧ (370 + (if s.flag F.SST_STAT.INTERLOCK then 0 else 140) + 20 + sstIncrement 4 ≤ 580)
      ∧ ¬(371 + (if s.flag F.SST_STAT.INTERLOCK then 0 else 140) + 20 + sstIncrement 4 ≤ 580)
      ∧ s.sst.records ≠ [] ∧ 0 ∈ step4.parts)
    ∧ (let s := testing { step4 with parts := [] } [] 5000000000
       ({ step4 with parts := [] } : SstRun).waitAt + 5000000000 ≤ s.elapsed)
    ∧ ([0].filter (· != 0) : List Nat) = [] ∧ ([0, 1].filter (· != 0) : List Nat) ≠ [] :=
  ⟨⟨sound (by decide +kernel), by decide +kernel⟩, by decide +kernel⟩

theorem test_sstPartitionStart : ok (exec (.sstPartitionStart 370) (testing step4 [] 0)) (fun t => t.get F.SST_STAT.PARTS == 2
      && t.get F.SST_POWER.NOW == 370) = true
    ∧ ok (exec (.sstPartitionStart 371) (testing step4 [] 0)) (fun t => (t.sst.run.map (·.parts)) == some [0]) = true := by decide +kernel

theorem test_sstPowerTimeout : ok (exec (.sstPowerTimeout 400) (testing { step4 with parts := [] } [] 5000000000))
    (fun t => (t.sst.run.map (·.step)) == some 5 && t.flag F.SST_EVT.STEP_FAIL) = true := by decide +kernel

theorem test_sstPartitionComplete : ok (exec (.sstPartitionComplete 0 ⟨0, [], false, 0, 7, 9000⟩) (testing { step4 with todo := [] } [] 0))
    (fun t => t.get F.SST_STAT.STEP == 5 && (t.sst.records.head?.map fun b => le b (64 + 32 * 4 + 1) 1) == some 1) = true := by decide +kernel

/-- INTERLOCK to engage, and engaged 55 ms ago. -/
def interlocking (parts todo : List Nat) : State := testing { SstRun.zero with step := 7, parts := parts, todo := todo } [] 55000000

theorem witness_interlock : (interlocking [] [0]).Sound ∧ (interlocking [] [0]).get F.SST_POWER.NOW + 140 + 25 ≤ 580
    ∧ (interlocking [0] []).sst.records ≠ [] ∧ 0 + 55000000 ≤ (interlocking [0] []).elapsed ∧ SstRun.zero.worst ≤ 2 ∧ SstRun.zero.kind = 1
    ∧ (interlocking [] [0]).flag F.SST_STAT.INTERLOCK = false :=
  ⟨sound (by decide +kernel), by decide +kernel⟩

/-- No Caliper unit is held, so that the step after INTERLOCK has nothing to test and the one behind it begins. -/
theorem test_interlock : ok (exec .interlock (interlocking [] [0])) (fun t => t.get F.SST_STAT.PARTS == 1 && !t.flag F.SST_STAT.INTERLOCK) = true
    ∧ ok (exec .interlock (interlocking [0] [])) (fun t => t.flag F.SST_STAT.INTERLOCK && t.get F.SST_STAT.STEP == 9) = true := by decide +kernel

/-- A self-test whose last step has ended. -/
def ended (kind : Nat) : State := testing { SstRun.zero with step := 15, kind := kind } [] 2000000

theorem witness_selfTestEnds : (ended 1).Sound ∧ (∃ b, (ended 1).sst.records = [b] ∧ b.length = 608)
    ∧ (ended 2).sst.run = some { SstRun.zero with step := 15, kind := 2 }
    ∧ (let s := { base with sst := (ended 1).sst }
       s.answers 18 ∧ s.lc ≠ 4 ∧ s.flag F.SST_STAT.RUNNING = false ∧ newestShutdown s ≠ none ∧ ∀ b ∈ s.sst.records, b.length = 608)
    ∧ newestShutdown base = none :=
  ⟨sound (by decide +kernel), ⟨_, rfl, by decide +kernel⟩, rfl, ⟨answers (by decide +kernel), by decide +kernel⟩, rfl⟩

theorem test_sstFinalPage : ok (exec .sstFinalPage (ended 1)) (fun t => t.start.held && t.sst.run == none
    && (t.sst.records.head?.map fun b => le b 544 4) == some 0x5A5AC3C3) = true := by decide +kernel

theorem test_startChecksDone : ok (exec .startChecksDone (ended 2)) (fun t => !t.flag F.SST_STAT.RUNNING && t.flag F.SST_EVT.START_DONE) = true := by
  decide +kernel

theorem test_sstVoid : ok (exec .sstVoid { base with sst := (ended 1).sst }) (fun t => (newestShutdown t).map verdict == some 5
    && t.flag F.SST_EVT.VOID) = true ∧ ok (exec .sstVoid base) (fun t => !t.flag F.SST_EVT.VOID) = true := by decide +kernel

theorem witness_landingReady : base.start.held = false ∧ base.start.sensingDone = false ∧ base.start.sensing = none
    ∧ base.get F.LND_STAT.STATE = 0 := by decide +kernel

/-- Without a record the start is cold and AGE_DAYS reads 0xFF (R380, R388, R401). -/
theorem test_landingReady : ok (exec (.landingReady 0) (at_ [(F.SST_STAT.RUNNING, 1), (F.LND_SPARE.SPARES, 1)]))
    (fun t => t.get F.LND_STAT.STATE == 1 && t.get F.GEN_START.AGE_DAYS == 0xFF && t.get F.GEN_START.KIND == 2) = true := by decide +kernel

/-! ### Lasers and source duty -/

/-- The lasers locked or not, B on duty or not. -/
def lasers (a b source : Nat) (l : List (Field × Nat)) : State :=
  at_ ([(F.PRB_STAT.A_LOCK, a), (F.PRB_STAT.B_LOCK, b), (F.PRB_STAT.SOURCE, source)] ++ l)

theorem witness_laserFailures : (lasers 1 1 0 []).Sound ∧ (lasers 1 1 0 []).flag F.PRB_STAT.A_LOCK = true ∧ (lasers 1 1 0 []).returning = false
    ∧ (lasers 1 1 0 []).flag F.PRB_STAT.SOURCE = false ∧ (lasers 1 1 0 []).flag F.PRB_STAT.B_LOCK = true
    ∧ (lasers 1 0 0 []).flag F.PRB_STAT.B_LOCK = false ∧ (lasers 1 1 1 []).flag F.PRB_STAT.SOURCE = true
    ∧ (lasers 0 1 1 []).flag F.PRB_STAT.A_LOCK = false ∧ (lasers 0 1 1 []).flag F.PRB_STAT.SOURCE = true :=
  ⟨sound (by decide +kernel), by decide +kernel⟩

theorem test_laserAFailure : ok (exec .laserAFailure (lasers 1 1 0 [(portStateF 0, psSweeping)]))
      (fun t => t.flag F.PRB_STAT.SOURCE && t.get F.PRB_LASER_CNT.HANDOVERS == 1 && t.portState 0 == psSweeping) = true
    ∧ ok (exec .laserAFailure (lasers 1 0 0 [(portStateF 0, psSweeping)])) (fun t => t.portState 0 == psNoSource) = true := by decide +kernel

theorem test_laserBFailure : ok (exec .laserBFailure (lasers 1 1 1 [])) (fun t => !t.flag F.PRB_STAT.SOURCE && !t.flag F.PRB_STAT.B_LOCK) = true
    ∧ ok (exec .laserBFailure (lasers 0 1 1 [(portStateF 1, psSweeping)])) (fun t => t.portState 1 == psNoSource) = true := by decide +kernel

theorem witness_laserLocks : (lasers 0 1 1 []).flag F.PRB_STAT.A_LOCK = false ∧ (lasers 0 1 1 []).dutyLocked = true
    ∧ (lasers 1 0 0 []).flag F.PRB_STAT.B_LOCK = false ∧ (lasers 0 0 0 []).dutyLocked = false
    ∧ (lasers 0 0 1 []).flag F.PRB_STAT.SOURCE = true ∧ (lasers 0 0 1 []).flag F.PRB_STAT.B_LOCK = false := by decide +kernel

theorem test_laserLock : ok (exec (.laserLock false) (lasers 0 0 0 [(portStateF 0, psNoSource)])) (fun t => t.portState 0 == psSweeping) = true
    ∧ ok (exec .laserARelock (lasers 0 1 1 [])) (fun t => t.flag F.PRB_STAT.A_LOCK && t.flag F.PRB_STAT.SOURCE
        && t.flag F.PRB_STAT.RETURN_PENDING) = true := by decide +kernel

/-- A return that is pending, and one under way with no port to hold. -/
def pendingReturn : State :=
  { lasers 1 1 1 [(F.PRB_STAT.RETURN_PENDING, 1), (F.PRB_CTL.AUTO_RETURN, 1), (F.PRB_LASER_CFG.RETURN_HOLD, 60)] with elapsed := 60000000000 }

theorem witness_handoverTest : (lasers 1 1 0 [(F.GEN_LC_STAT.STATE, 3)]).answers 2 ∧ (lasers 1 1 0 [(F.GEN_LC_STAT.STATE, 3)]).lc = 3
    ∧ (lasers 1 1 0 []).lc ≠ 3 := ⟨answers (by decide +kernel), by decide +kernel, by decide +kernel⟩

theorem witness_return : pendingReturn.Sound ∧ pendingReturn.answers 2 ∧ pendingReturn.flag F.PRB_STAT.RETURN_PENDING = true
    ∧ pendingReturn.returning = false ∧ pendingReturn.flag F.PRB_CTL.AUTO_RETURN = true
    ∧ pendingReturn.returnAt + pendingReturn.get F.PRB_LASER_CFG.RETURN_HOLD * 1000000000 ≤ pendingReturn.elapsed
    ∧ (let s := { pendingReturn with returning := true, probe := [(0, { ProbePort.zero with held := some 0 })] }
       s.returning = true ∧ ∀ p ∈ leads s, (s.probePort p).holdDue = false ∧ ∀ h ∈ (s.probePort p).held, h + s.sweepPeriod p * 1000 ≤ s.elapsed)
    ∧ (lasers 1 1 1 []).hasSource = true :=
  ⟨sound (by decide +kernel), answers (by decide +kernel), by decide +kernel⟩

theorem test_handoverTest : ok (exec .handoverTest (lasers 1 1 0 [(F.GEN_LC_STAT.STATE, 3)])) (fun t => t.flag F.PRB_STAT.SOURCE
      && t.flag F.PRB_STAT.RETURN_PENDING) = true
    ∧ ok (exec .handoverTest (lasers 1 1 0 [])) (fun t => t.get F.GEN_WRERR_CNT.COUNT == 1) = true := by decide +kernel

theorem test_return : ok (exec .returnNow pendingReturn) (fun t => t.returning) = true
    ∧ ok (exec .returnHoldExpiry pendingReturn) (fun t => t.returning) = true
    ∧ ok (exec .returnHoldExpiry { pendingReturn with elapsed := 59999999999 }) (fun t => !t.returning) = true := by decide +kernel

theorem test_returnSwitch : ok (exec .returnSwitch { pendingReturn with returning := true })
    (fun t => !t.flag F.PRB_STAT.SOURCE && t.get F.PRB_LASER_CNT.RETURNS == 1) = true := by decide +kernel

theorem test_handoverSweepRestart : ok (exec .handoverSweepRestart (lasers 1 1 1 [(portStateF 0, psSweeping)]))
    (fun t => (t.probePort 0).running && (t.probePort 0).done == 1) = true := by decide +kernel

/-! ### Port states, sweeps and cuts -/

/-- Both lasers locked, port A in a state with something kept. -/
def portA (st : Nat) (q : ProbePort) (l : List (Field × Nat)) : State :=
  { lasers 1 1 0 ([(portStateF 0, st), (F.PRB_CTL.PA_EN, 1)] ++ l) with probe := sput (fun _ => ProbePort.zero) [] 0 q }

/-- A slot in reception. -/
def inFlight : Slot := ⟨7, 2, 1000, 0, 40, 1999, 0, 0, 20, 12, 8, 4, true, false, 12, false, false, false, false, 0, 0, []⟩

theorem witness_port : base.answers 2 ∧ base.flag F.PRB_CTL.PA_EN = false
    ∧ (let s := portA psSweeping { ProbePort.zero with slots := [inFlight], running := true } []
       s.Sound ∧ s.answers 2 ∧ s.flag F.PRB_CTL.PA_EN = true ∧ s.loopMode = false ∧ (s.probePort 0).slots ≠ []
        ∧ s.portState 0 = psSweeping ∧ (s.probePort 0).held = none ∧ (s.probePort 0).stopping = false)
    ∧ (let s := portA psApr ProbePort.zero []
       s.portState 0 ≠ psSweeping ∧ s.portState 0 ≠ psMeasuring ∧ s.answers 2 ∧ s.get (F.PRB_Px_POWER.PEAK 0) ≤ 130 ∧ s.portState 0 = psApr) :=
  ⟨answers (by decide +kernel), by decide +kernel, ⟨sound (by decide +kernel), answers (by decide +kernel), by decide +kernel⟩,
   by decide +kernel, by decide +kernel, answers (by decide +kernel), by decide +kernel⟩

theorem test_portEnable : ok (exec (.portEnable .a) base) (fun t => t.portState 0 == psStarting && t.read (R.KRF_Px_ADC_MON 0) == 0xFFFFFFFF) = true := by
  decide +kernel

/-- A port whose slots are in reception stays until they complete (R45). -/
theorem test_portDisable : ok (exec (.portDisable .a) (portA psSweeping { ProbePort.zero with slots := [inFlight], running := true } []))
      (fun t => t.portState 0 == psSweeping && (t.probePort 0).stopping) = true
    ∧ ok (exec (.portDisable .a) (portA psApr ProbePort.zero [])) (fun t => t.portState 0 == psOff) = true := by decide +kernel

theorem test_aprEntry : ok (exec (.aprEntry .a) (portA psSweeping ProbePort.zero [(F.PRB_Px_POWER.APR_MANUAL 0, 1)]))
    (fun t => t.portState 0 == psApr && t.flag (F.PRB_Px_APR_STAT.WAIT_RESUME 0) && t.get (F.PRB_Px_APR_STAT.APR_CNT 0) == 1) = true := by
  decide +kernel

theorem test_aprResume : ok (exec (.aprResume .a) (portA psApr ProbePort.zero [(F.PRB_Px_APR_STAT.WAIT_RESUME 0, 1)]))
    (fun t => !t.flag (F.PRB_Px_APR_STAT.WAIT_RESUME 0) && (t.probePort 0).resumed) = true := by decide +kernel

theorem witness_testSlots : (portA psStarting { ProbePort.zero with bad := 1, clean := 2 } []).Sound
    ∧ (portA psStarting ProbePort.zero []).hasSource = true ∧ (portA psStarting ProbePort.zero []).portState 0 = psStarting
    ∧ ProbePort.zero.bad = 0 ∧ ProbePort.zero.clean < 2
    ∧ (let s := portA psApr { ProbePort.zero with clean := 2, swept := true } []
       s.portState 0 = psApr ∧ s.hasSource = true ∧ s.flag (F.PRB_Px_POWER.APR_MANUAL 0) = false ∧ 2 ≤ (s.probePort 0).clean ∧ (s.probePort 0).swept = true)
    ∧ (portA psApr ProbePort.zero [(F.PRB_Px_POWER.APR_MANUAL 0, 1)]).flag (F.PRB_Px_POWER.APR_MANUAL 0) = true
    ∧ ProbePort.zero.resumed = false :=
  ⟨sound (by decide +kernel), by decide +kernel⟩

theorem test_testSlot : ok (exec (.testSlot .a false) (portA psStarting { ProbePort.zero with clean := 2 } [(F.PRB_Px_CFG.AUTO_END 0, 0)])) (fun t => t.portState 0 == psSweeping) = true
    ∧ ok (exec (.testSlot .a true) (portA psStarting { ProbePort.zero with bad := 1 } [])) (fun t => t.portState 0 == psApr) = true := by
  decide +kernel

theorem test_testSlot_apr : ok (exec (.testSlot .a false) (portA psApr { ProbePort.zero with clean := 2, swept := true } []))
      (fun t => t.portState 0 == psSweeping && t.out.length == 1) = true
    ∧ ok (exec (.testSlot .a true) (portA psApr { ProbePort.zero with clean := 2 } [])) (fun t => (t.probePort 0).clean == 0) = true := by
  decide +kernel

theorem witness_sweeps :
    (let s := portA psSweeping { ProbePort.zero with next := 5, holdDue := true } [(F.PRB_Px_CFG.END 0, 1999)]
     s.Sound ∧ s.loopMode = false ∧ s.portState 0 = psSweeping ∧ s.hasSource = true ∧ (s.probePort 0).stopping = false
      ∧ (s.probePort 0).held = none ∧ (s.probePort 0).running = false ∧ (s.probePort 0).holdDue = true)
    ∧ (let q := { ProbePort.zero with number := 5, running := true, done := 3 }
       q.running = true ∧ 1 ≤ q.done ∧ q.done ≤ 3) :=
  ⟨⟨sound (by decide +kernel), by decide +kernel⟩, by decide +kernel⟩

theorem test_sweepBoundary : ok (exec (.sweepBoundary .a []) (portA psSweeping { ProbePort.zero with next := 5 } [(F.PRB_Px_CFG.END 0, 1999)]))
      (fun t => (t.probePort 0).number == 5 && (t.probePort 0).next == 6 && (t.probePort 0).done == 1) = true
    ∧ ok (exec (.sweepBoundary .a []) (portA psSweeping { ProbePort.zero with next := 5, holdDue := true } []))
      (fun t => (t.probePort 0).held == some 0 && (t.probePort 0).slots == []) = true := by decide +kernel

theorem test_slotLaunch : ok (exec (.slotLaunch .a) (portA psSweeping { ProbePort.zero with number := 5, running := true, done := 3 } []))
    (fun t => (t.probePort 0).done == 4 && ((t.probePort 0).slots.map fun x => (x.sweep, x.slot)) == [(5, 3)]) = true := by decide +kernel

theorem witness_ends :
    (let s := portA psMeasuring { ProbePort.zero with measSweeps := 256 } [(F.PRB_Px_CUT_CFG.REF_END 0, 10000), (F.PRB_Px_CUT_CFG.MARGIN 0, 20),
       (F.PRB_Px_END_MEAS.VALID 0, 1)]
     s.Sound ∧ s.loopMode = false ∧ s.portState 0 = psMeasuring ∧ 256 ≤ (s.probePort 0).measSweeps ∧ s.answers 2
      ∧ s.get (F.PRB_Px_CUT_CFG.MARGIN 0) ≠ 0 ∧ s.get (F.PRB_Px_CUT_CFG.REF_END 0) ≠ 0 ∧ s.flag (F.PRB_Px_END_MEAS.VALID 0) = true)
    ∧ (portA psSweeping ProbePort.zero []).get (F.PRB_Px_CUT_CFG.REF_END 0) = 0
    ∧ (Tally.zero.eval 0x1000 (some true)).2 = .began :=
  ⟨⟨sound (by decide +kernel), by decide +kernel, by decide +kernel, by decide +kernel, answers (by decide +kernel), by decide +kernel⟩,
   by decide +kernel, by decide +kernel⟩

/-- A cut is exceeding only more than MARGIN short of REF_END (R53). -/
theorem test_sweepComplete :
    let s := portA psSweeping ProbePort.zero [(F.PRB_Px_CUT_CFG.REF_END 0, 10000), (F.PRB_Px_CUT_CFG.MARGIN 0, 20)]
    ok (exec (.sweepComplete .a ⟨some 9980, false, some 9980, [], 5⟩) s) (fun t => !t.flag (F.PRB_Px_CUT_STAT.EXCEED 0)) = true
    ∧ ok (exec (.sweepComplete .a ⟨some 9979, false, some 9979, [], 5⟩) s) (fun t => t.flag (F.PRB_Px_CUT_STAT.LASTING 0)
        && t.get (F.PRB_Px_CUT_STAT.POS 0) == 9979 && t.get (F.PRB_Px_END_MEAS.E 0) == 9979) = true := by decide +kernel

theorem test_endMeasurementDone : ok (exec (.endMeasurementDone .a (some 5000) true) (portA psMeasuring { ProbePort.zero with measSweeps := 256 } []))
      (fun t => t.portState 0 == psSweeping && t.get (F.PRB_Px_CFG.END 0) == 5200) = true
    ∧ ok (exec (.endMeasurementDone .a none false) (portA psMeasuring { ProbePort.zero with measSweeps := 256 } []))
      (fun t => t.get (F.PRB_Px_CFG.END 0) == 131071) = true := by decide +kernel

theorem test_refCapture : ok (exec (.refCapture .a) (at_ [(F.PRB_Px_END_MEAS.VALID 0, 1), (F.PRB_Px_END_MEAS.E 0, 777), (F.PRB_Px_CUT_CFG.MARGIN 0, 20)]))
    (fun t => t.get (F.PRB_Px_CUT_CFG.REF_END 0) == 777) = true := by decide +kernel

theorem witness_loopLength :
    let s := portA psMeasuring ProbePort.zero [(F.PRB_CTL.LOOP, 1), (F.PRB_LOOP_MEAS.FAILED, 1)]
    s.Sound ∧ s.loopMode = true ∧ s.get F.PRB_LOOP_CFG.LEN = 0 ∧ s.portState 0 = psMeasuring ∧ s.flag F.PRB_LOOP_MEAS.FAILED = true :=
  ⟨sound (by decide +kernel), by decide +kernel⟩

theorem test_loopLength :
    let s := portA psMeasuring ProbePort.zero [(F.PRB_CTL.LOOP, 1)]
    ok (exec (.loopLengthMeasured (some 60000)) s) (fun t => t.get F.PRB_LOOP_MEAS.LEN_USED == 60000 && t.portState 0 == psSweeping) = true
    ∧ ok (exec (.loopLengthMeasured none) s) (fun t => t.flag F.PRB_LOOP_MEAS.FAILED && t.get F.PRB_LOOP_MEAS.LEN_USED == 0) = true := by
  decide +kernel

/-! ### Records, profiles and channels -/

theorem witness_slotRecords :
    (let s := portA psSweeping { ProbePort.zero with slots := [inFlight] } [(F.KRF_STAT.OVERLOAD, 1)]
     s.Sound ∧ s.loopMode = false ∧ (s.probePort 0).slots = inFlight :: [] ∧ inFlight.skipped = false
      ∧ (s.flag F.KRF_STAT.OVERLOAD = true ∧ ({ noSlot with late := true } : SlotInput).late = true ∧ inFlight.failed = false)
      ∧ (0 : Nat) < ({ noSlot with clipped := 3 } : SlotInput).clipped ∧ inFlight.slot ≠ 3)
    ∧ ({ inFlight with skipped := true } : Slot).skipped = true :=
  ⟨⟨sound (by decide +kernel), by decide +kernel⟩, rfl⟩

theorem test_slotRecord_drop : ok (exec (.slotRecordComplete .a { noSlot with late := true, clipped := 3 } noSlot)
      (portA psSweeping { ProbePort.zero with slots := [inFlight] } [(F.KRF_STAT.OVERLOAD, 1)]))
    (fun t => t.get (F.KRF_Px_DROP_CNT.DROP 0) == 1 && t.get (F.KRF_Px_CLIP_CNT.CLIP 0) == 0 && (t.probePort 0).slots == []) = true := by
  decide +kernel

theorem test_slotRecord_clips : ok (exec (.slotRecordComplete .a { noSlot with clipped := 3 } noSlot)
      (portA psSweeping { ProbePort.zero with slots := [{ inFlight with skipped := true }] } []))
    (fun t => t.get (F.KRF_Px_CLIP_CNT.CLIP 0) == 0 && t.firstSlot) = true := by decide +kernel

/-- A set with all its borrowed sweeps recorded. -/
def fullSet : SclSet := ⟨4, 1000, 0, 0, 1, 1, 0, 0, 0, 0, [], (0, []), []⟩

/-- Port A sweeps with live temperature, or not. -/
def profiling (r : SclPort) (l : List (Field × Nat)) : State :=
  { portA psSweeping ProbePort.zero ([(F.SCL_CTL.EN, 1), (F.SCL_CFG.AVG_LOG2, 6), (F.PRB_Px_CFG.END 0, 2)] ++ l) with scaler := sput (fun _ => SclPort.zero) [] 0 r }

theorem witness_profiles :
    (let s := profiling { SclPort.zero with sets := [fullSet], owes := true } []
     s.Sound ∧ (s.sclPort 0).sets = fullSet :: [] ∧ fullSet.avg ≤ fullSet.launched ∧ fullSet.launched ≤ fullSet.recorded
      ∧ (s.sclPort 0).owes = true ∧ ((s.sclPort 0).marker = false ∧ staleCause s 0 = false))
    ∧ (let s := { profiling SclPort.zero [(staleF 0, 0)] with elapsed := 10 ^ 15 }
       s.flag (staleF 0) = false ∧ (s.sclPort 0).pubAt + 3 * tProf s 0 * 1000 ≤ s.elapsed)
    ∧ (let s := at_ [(staleF 0, 0)]
       s.answers 4 ∧ (s.lc = 2 ∨ s.lc = 3) ∧ s.flag (staleF 0) = false)
    ∧ ¬((armedAt_ 1 0 []).lc = 2 ∨ (armedAt_ 1 0 []).lc = 3)
    ∧ base.flag F.SCL_CTL.EN = false ∧ (profiling SclPort.zero []).flag F.SCL_CTL.EN = true ∧ (profiling SclPort.zero []).answers 4 :=
  ⟨⟨sound (by decide +kernel), by decide +kernel⟩, by decide +kernel, ⟨answers (by decide +kernel), by decide +kernel⟩, by decide +kernel,
   by decide +kernel, by decide +kernel, answers (by decide +kernel)⟩

theorem test_profilePublish : ok (exec (.profilePublish .a) (profiling { SclPort.zero with sets := [fullSet] } []))
    (fun t => (t.sclPort 0).profile == 1 && (t.sclPort 0).sets == [] && !t.flag (staleF 0) && t.get (F.SCL_Px_PROFILE_CNT.PROFILES 0) == 1) = true := by
  decide +kernel

theorem test_profileAgeTimeout : ok (exec (.profileAgeTimeout .a) { profiling SclPort.zero [(staleF 0, 0)] with elapsed := 10 ^ 15 })
      (fun t => t.flag (staleF 0) && t.flag (sclStaleEvt 0)) = true
    ∧ ok (exec (.profileAgeTimeout .a) (profiling { SclPort.zero with pubAt := 1 } [(staleF 0, 0)])) (fun t => !t.flag (staleF 0)) = true := by
  decide +kernel

theorem test_baseCapture : ok (exec .baseCapture (at_ [(staleF 0, 0)])) (fun t => t.flag F.SCL_STAT.CAPTURE_PENDING && (t.sclPort 0).owes) = true
    ∧ ok (exec .baseCapture (at_ [(staleF 0, 1), (staleF 1, 1)])) (fun t => t.get F.GEN_WRERR_CNT.COUNT == 1) = true := by decide +kernel

theorem test_sclEnable : ok (exec (.sclEnable true) base) (fun t => t.flag F.SCL_CTL.EN) = true
    ∧ ok (exec (.sclEnable false) (profiling SclPort.zero [(staleF 0, 0)])) (fun t => t.flag (staleF 0) && t.flag (staleF 1)) = true := by
  decide +kernel

/-- Set 0 of port A: channel 0 alone, rate 1, profile 0, enabled. -/
def setEntry0 : List Byte := leBytes 4 0 ++ leBytes 4 (2 ^ 19) ++ leBytes 4 1 ++ leBytes 4 0

/-- Set 0 runs, with inputs up to index 100. -/
def channelling : State :=
  { at_ [(F.BKG_CSn_STAT.EN 0, 1), (F.PRB_Px_CFG.END 0, 1999)] with
    bkg := { BkgState.zero with sets := [(0, setEntry0)], set := [(0, { BkgSet.zero with next := 90, warm := 2, first := true })],
                                port := [(0, { BkgPort.zero with lastIdx := 100, launches := [(90, 10 ^ 9)] })] } }

theorem witness_channels :
    let e := channelling.setEntry 0
    let i := firstOut channelling (stPort e) 0 ((channelling.bkgPort (stPort e)).lastIdx + 1) (channelling.bkgSet 0).next
    channelling.Sound ∧ setLive channelling 0 = true ∧ channelling.flag (F.BKG_CSn_STAT.EN 0) = true
    ∧ outReady channelling (stPort e) 0 (i * totalD (channelling.fset (stProfile e)) e) = true
    ∧ (outTime channelling (stPort e) i 0).isSome = true ∧ channelling.answers 5 ∧ setsOfProfile channelling 0 ≠ []
    ∧ setsOfProfile channelling 1 = [] ∧ (channelling.bkgFade 0).run = none ∧ (1 : Nat) ≠ channelling.get (F.BKG_FPn_STAT.ACTIVE 0)
    ∧ (let s := { base with bkg := { BkgState.zero with fade := [(3, ⟨some (1, 5), some (0, 2), []⟩)] } }
       s.Sound ∧ (s.bkgFade 3).run ≠ none ∧ (s.bkgFade 3).queued ≠ none) :=
  ⟨sound (by decide +kernel), by decide +kernel, by decide +kernel, by decide +kernel, by decide +kernel, answers (by decide +kernel),
   by decide +kernel, by decide +kernel, by decide +kernel, by decide +kernel, sound (by decide +kernel), by decide +kernel⟩

theorem test_channelRecordOutput : ok (exec (.channelRecordOutput 0) channelling)
    (fun t => (t.bkgSet 0).next == 91 && (t.bkgSet 0).warm == 1 && !(t.bkgSet 0).first && (t.bkgSet 0).outs.length == 1) = true := by decide +kernel

theorem test_fpnSwap : ok (exec (.fpnSwap 0 1) channelling) (fun t => (t.bkgFade 0).run == some (1, 1) && t.flag (F.BKG_FPn_STAT.FADING 0)) = true
    ∧ ok (exec (.fpnSwap 1 0) channelling) (fun t => t.get (F.BKG_FPn_CNT.NULL 1) == 1 && t.flag F.BKG_EVT.NULL_SWAP) = true := by decide +kernel

/-! ### Zones and tracks -/

/-- Zone 0: channel 0 of port A, with its vibration detector and, where asked, its temperature detectors. -/
def zoneEntry0 (temp : Bool) : List Byte :=
  leBytes 4 (2 ^ 18 + 2 ^ 19 + if temp then 2 ^ 20 + 2 ^ 21 else 0) ++ leBytes 4 1 ++ List.replicate 24 0

/-- Template 0: one frame a second, windows of 16 outputs, band 0. -/
def template0 : List Byte := [1, 4, 1, 0] ++ List.replicate 60 0

/-- Set 0 as Bucking has it, one channel of it enabled, and outputs that end with frame 1. -/
def framed (outs : List BkgOut) (temp : Bool) : State :=
  { at_ [(F.CRU_CTL.EN, 1), (F.PRB_Px_CFG.END 0, 1999), (staleF 0, 1)] with
    bkg := { BkgState.zero with sets := [(0, leBytes 4 0 ++ leBytes 4 (2 ^ 19 + 1) ++ leBytes 4 1 ++ leBytes 4 0)],
                                chans := [(0, leBytes 4 (2 ^ 26) ++ leBytes 4 0)],
                                set := [(0, { BkgSet.zero with next := 90, outs := outs })] },
    cru := { CruState.zero with zones := [(0, zoneEntry0 temp)], tpls := [(0, template0)] } }

/-- Sixteen outputs, newest first, the last at the end of frame 1, each with the same word. -/
def outs16 (w : Nat) : List BkgOut := (List.range 16).map fun i => ⟨16 - i, 10 ^ 9 - 10000 * i, [w]⟩

/-- A frame whose evaluation can be made, one whose channel is a gap, and one whose window is not full. -/
theorem witness_zones :
    (let s := framed (outs16 4) false
     s.Sound ∧ s.flag F.CRU_CTL.EN = true ∧ zEn (s.zoneEntry 0) = true ∧ zoneSet s 0 = some 0
      ∧ (frameDue s 0).map (fun f => (f.full, f.empty, (frameEnergies s 0 0 f.window).usable.length)) = some (true, 0, 1)
      ∧ zVib (s.zoneEntry 0) = true ∧ zoneShed s 0 = false ∧ zCount (s.zoneEntry 0) ≤ 2 * 1)
    ∧ (let s := framed (outs16 6) false
       (frameDue s 0).map (fun f => (f.full, f.empty, (frameEnergies s 0 0 f.window).usable.length)) = some (true, 0, 0)
        ∧ ¬zCount (s.zoneEntry 0) ≤ 2 * 0)
    ∧ (frameDue (framed [⟨1, 10 ^ 9, [4]⟩] false) 0).map (fun f => f.full) = some false
    ∧ (let s := framed [] true
       s.flag (staleF 0) = true ∧ zonesOfPort s 0 = [0])
    ∧ { CruState.zero with reload := [5] }.reload.contains (5 : Nat) = true ∧ base.answers 6 ∧ base.flag F.CRU_CTL.EN = false
    ∧ (framed [] false).answers 6 :=
  ⟨⟨sound (by decide +kernel), by decide +kernel, by decide +kernel, by decide +kernel⟩, by decide +kernel, by decide +kernel,
   by decide +kernel, by decide +kernel, answers (by decide +kernel), by decide +kernel, answers (by decide +kernel)⟩

theorem test_zoneFrame_missed : ok (exec (.zoneFrameEvaluation 0) (framed (outs16 6) false))
      (fun t => (t.cruZone 0).frame == 1 && (t.cruZone 0).blind == 1 && t.get F.CRU_MISS_CNT.MISSED == 1) = true
    ∧ ok (exec (.zoneFrameEvaluation 0) (framed [⟨1, 10 ^ 9, [4]⟩] false))
      (fun t => (t.cruZone 0).frame == 1 && t.get F.CRU_MISS_CNT.MISSED == 0) = true := by decide +kernel

theorem test_staleTemperature : ok (exec (.staleTemperatureEvaluation .a) (framed [] true))
    (fun t => t.get F.CRU_MISS_CNT.MISSED == 2 && (t.cruZone 0).tlev.missed == 1 && (t.cruZone 0).trate.missed == 1) = true := by decide +kernel

theorem test_zoneReload : ok (exec (.zoneReloadEffect 5) { base with cru := { CruState.zero with reload := [5], zoneLoaded := [(5, zoneEntry0 false)] } })
    (fun t => t.zoneEntry 5 == zoneEntry0 false && t.cru.reload == []) = true := by decide +kernel

theorem test_cruEnable : ok (exec (.cruEnable true) base) (fun t => t.flag F.CRU_CTL.EN) = true
    ∧ ok (exec (.cruEnable false) (framed [] false)) (fun t => !t.flag F.CRU_CTL.EN && t.cru.tracks == []) = true := by decide +kernel

/-- One detection where no track is. -/
def detected : State :=
  { at_ [(F.CRU_CTL.EN, 1), (F.CRU_CTL.TRK_EN, 1), (F.CRU_TRK_CONF.CONF_UP, 10), (F.CRU_TRK_CONF.CONF_ON, 60)] with
    cru := { CruState.zero with found := [⟨10 ^ 9, 160, 0, 50⟩], serial := 7 } }

theorem witness_tracker : detected.Sound ∧ detected.flag F.CRU_CTL.EN = true ∧ detected.flag F.CRU_CTL.TRK_EN = true
    ∧ detected.cru.tracks = [] ∧ detected.cru.frames = [] ∧ (∃ d, detected.cru.found = [d])
    ∧ ({ detected with cru := { detected.cru with found := [] } } : State).cru.found = [] :=
  ⟨sound (by decide +kernel), by decide +kernel, by decide +kernel, rfl, rfl, ⟨_, rfl⟩, rfl⟩

theorem test_trackerTick : ok (exec .trackerTick detected)
    (fun t => t.cru.serial == 8 && (t.cru.tracks.map fun k => (k.slot, k.serial, k.conf, k.confirmed)) == [(0, 7, 10, false)]
      && t.get F.CRU_TRK_STAT.ACTIVE == 1) = true := by decide +kernel

/-! ### Banks, strings, pulses and the matrix -/

/-- In MAINTENANCE, where the outputs may be set up (R158). -/
def maint (l : List (Field × Nat)) : State := at_ ((F.GEN_LC_STAT.STATE, 3) :: l)

theorem witness_bankModes :
    (maint []).Sound ∧ (maint []).answers 7 ∧ (maint []).frozen = false ∧ (maint []).cfgOpen = true
    ∧ (maint []).get (F.BLZ_Bb_CFG.MODE 2) = 0 ∧ (∀ r ∈ bankPins 2, claimable (maint []) (modeCode 1) r = true)
    ∧ ¬(∀ r ∈ bankPins 2, claimable (maint [(ownerF (.pin 30), 0xF)]) (modeCode 1) r = true) ∧ base.cfgOpen = false
    ∧ (maint [(F.BLZ_Bb_CFG.MODE 2, 1)]).get (F.BLZ_Bb_CFG.MODE 2) = 1 :=
  ⟨sound (by decide +kernel), answers (by decide +kernel), by decide +kernel⟩

theorem test_bankMode_claims : ok (exec (.bankModeWrite 2 1) (maint [])) (fun t => t.bankMode 2 == 1 && t.owner (.pin 24) == cString
      && t.owner (.pin 35) == cString) = true
    ∧ ok (exec (.bankModeWrite 2 1) (maint [(ownerF (.pin 30), 0xF)])) (fun t => t.bankMode 2 == 0 && t.flag (F.BLZ_Bb_STAT.CONFLICT 2)
      && t.get (conflictF (.pin 30)) == 1) = true := by decide +kernel

/-- A write from one mode to another is ignored and counted (R157). -/
theorem test_bankMode_refused : ok (exec (.bankModeWrite 2 2) (maint [(F.BLZ_Bb_CFG.MODE 2, 1)])) (fun t => t.get F.GEN_WRERR_CNT.COUNT == 1) = true
    ∧ ok (exec (.bankModeWrite 2 1) base) (fun t => t.get F.GEN_WRERR_CNT.COUNT == 1) = true := by decide +kernel

/-- Bank 0 in STRING mode with segments 0 to 3 used and all to be shed, its sink conducting. -/
def string (q : BankSt) (l : List (Field × Nat)) : State :=
  let s := at_ ([(F.BLZ_Bb_CFG.MODE 0, 1), (F.BLZ_Bb_STAT.MODE_ST 0, 1), (F.BLZ_Bb_TRK.SEL 0, 0xF), (F.BLZ_Bb_CFG.SHED_MASK 0, 0xF)] ++ l)
  { s with elapsed := 60000000000,
           lamp := { LampState.zero with obj := [(11, { LampObj.zero with conducting := true, pulseEval := true })],
                                         bank := sput (fun _ => BankSt.zero) [] 0 q } }

theorem witness_strings :
    (let s := string BankSt.zero [(F.BLZ_Bb_STAT.STRING_OPEN 0, 1), (F.BLZ_Bb_CFG.SEGTEST_AUTO 0, 1)]
     s.Sound ∧ s.flag (F.BLZ_Bb_STAT.STRING_OPEN 0) = true ∧ (s.bankSt 0).search = none ∧ (s.bankSt 0).retry = false
      ∧ (s.bankSt 0).searchedAt + 100000000 ≤ s.elapsed ∧ s.answers 7 ∧ s.openSegs 0 = 0 ∧ s.bankMode 0 = 1 ∧ (s.bankSt 0).test = none
      ∧ s.flag (F.BLZ_Bb_CFG.SEGTEST_AUTO 0) = true ∧ (s.bankSt 0).autoAt + 60000000000 ≤ s.elapsed ∧ spareSegs s 0 ≠ [])
    ∧ base.bankMode 0 ≠ 1
    ∧ (let s := string BankSt.zero []
       (s.lampObj (12 * 0 + 11)).conducting = true ∧ (s.lampObj (12 * 0 + 11)).pulseEval = true
        ∧ s.flag (F.BLZ_Bb_STAT.STRING_OPEN 0) = false ∧ (s.bankSt 0).restored = none ∧ nextShed s 0 = some 3 ∧ nextRestore s 0 = none)
    ∧ (let s := string { BankSt.zero with okRun := 7 } [(F.BLZ_Bb_TRK.TRK_BYP 0, 8)]
       s.Sound ∧ nextRestore s 0 = some 3 ∧ 2 * segVf s 0 3 + 32 ≤ 255 ∧ (s.bankSt 0).okRun = 7)
    ∧ nextShed (string BankSt.zero [(F.BLZ_Bb_TRK.TRK_BYP 0, 7)]) 0 = none
    ∧ (string { BankSt.zero with search := some [0, 1] } []).Sound ∧ (string { BankSt.zero with retry := true } []).Sound :=
  ⟨⟨sound (by decide +kernel), by decide +kernel, by decide +kernel, by decide +kernel, by decide +kernel, answers (by decide +kernel),
    by decide +kernel⟩, by decide +kernel, by decide +kernel, ⟨sound (by decide +kernel), by decide +kernel⟩, by decide +kernel,
   sound (by decide +kernel), sound (by decide +kernel)⟩

/-- Less than 1.2 V sheds the highest segment that may be shed (R164). -/
theorem test_headroom_sheds : ok (exec (.headroomSample 0 (some 23) []) (string BankSt.zero [])) (fun t => t.shed 0 == 8) = true
    ∧ ok (exec (.headroomSample 0 (some 24) []) (string BankSt.zero [])) (fun t => t.shed 0 == 0) = true := by decide +kernel

theorem test_headroom_search : ok (exec (.headroomSample 0 (some 40) []) (string { BankSt.zero with search := some [0, 1] } []))
      (fun t => t.openSegs 0 == 1 && t.flag F.BLZ_EVT.SEG_OPEN && (t.bankSt 0).search == none) = true
    ∧ ok (exec (.headroomSample 0 none []) (string { BankSt.zero with search := some [0] } []))
      (fun t => t.flag (F.BLZ_Bb_STAT.STRING_OPEN 0)) = true := by decide +kernel

theorem test_openSearchRetry : ok (exec (.openSearchRetry 0) (string BankSt.zero [(F.BLZ_Bb_STAT.STRING_OPEN 0, 1)])) (fun t => (t.bankSt 0).retry) = true
    ∧ ok (exec (.openSearchRetry 0) { string BankSt.zero [(F.BLZ_Bb_STAT.STRING_OPEN 0, 1)] with elapsed := 99999999 })
      (fun t => !(t.bankSt 0).retry) = true := by decide +kernel

theorem test_openClr : ok (exec (.openClr 0) (string BankSt.zero [(F.BLZ_Bb_STAT.OPEN_MASK 0, 5)])) (fun t => t.openSegs 0 == 0) = true := by
  decide +kernel

theorem test_segtest : ok (exec (.segtest 0) (string BankSt.zero [])) (fun t => ((t.bankSt 0).test.map fun q => q.todo) == some [0, 1, 2, 3]) = true
    ∧ ok (exec (.segtestAutoDue 0) (string BankSt.zero [(F.BLZ_Bb_CFG.SEGTEST_AUTO 0, 1)]))
      (fun t => (t.bankSt 0).test.isSome && (t.bankSt 0).autoAt == 60000000000) = true := by decide +kernel

/-- Pin 14 of a SIMPLE bank, its object as given. -/
def simplePin (o : LampObj) : State :=
  let s := at_ [(F.BLZ_Bb_CFG.MODE 1, 2), (F.BLZ_Bb_STAT.MODE_ST 1, 2), (ownerF (.pin 14), cSimple), (F.BLZ_Bb_PINk.CMD 1 2, 4095),
    (F.BLZ_Bb_PINk.ISET 1 2, 10), (F.CLK_Dd.STATE 4, 1)]
  { s with lamp := { LampState.zero with obj := sput (fun _ => LampObj.zero) [] 14 o } }

/-- Enabled at full command, and at a command of 244 ns, whose proof pulse is due. -/
def fullPin : LampObj := { LampObj.zero with en := true, cmd := 4095, iset := 10 }
def proofPin : LampObj := { LampObj.zero with en := true, cmd := 1, iset := 10, proofDue := true, through := true }

theorem witness_pulses :
    (simplePin fullPin).Sound ∧ (pinDrive (simplePin fullPin) 14).isSome = true ∧ fullPin.ont ≠ 0 ∧ fullPin.next < pulsesOf fullPin.ont
    ∧ fullPin.en = true ∧ ¬(fullPin.latched = true ∨ objTsd (simplePin fullPin) 14 = true ∨ fullPin.iset = 0)
    ∧ (simplePin fullPin).owner (objRes 14) ≠ cString ∧ lasts fullPin.ont 3000 = true
    ∧ proofPin.ont ≠ 0 ∧ proofPin.next < pulsesOf proofPin.ont ∧ lasts proofPin.ont 3000 = false ∧ proofPin.proofDue = true
    ∧ proofPin.through = true ∧ proofScheduler (simplePin proofPin) = true
    ∧ ((simplePin { fullPin with conducting := true, pulseEval := true }).lampObj 14).conducting = true
    ∧ pixelLasts 255 65535 3000 = true ∧ ([(7, 255)].find? fun e => e.1 == 7) = some (7, 255)
    ∧ bit (base.get F.BLZ_STAT.TSD) 3 = false ∧ bit ((at_ [(F.BLZ_STAT.TSD, 8)]).get F.BLZ_STAT.TSD) 3 = true :=
  ⟨sound (by decide +kernel), by decide +kernel⟩

theorem test_pwmPeriodBoundary : ok (exec .pwmPeriodBoundary (simplePin LampObj.zero))
    (fun t => (t.lampObj 14).cmd == 4095 && (t.lampObj 14).iset == 10 && !(t.lampObj 14).en) = true := by decide +kernel

theorem test_subPulseStart : ok (exec (.subPulseStart 14) (simplePin fullPin)) (fun t => (t.lampObj 14).conducting && (t.lampObj 14).next == 1) = true
    ∧ ok (exec (.subPulseStart 14) (simplePin proofPin)) (fun t => (t.lampObj 14).proofNow && !(t.lampObj 14).proofDue) = true := by decide +kernel

theorem test_subPulseEnd : ok (exec (.subPulseEnd (.pin 14 true)) (simplePin { fullPin with conducting := true, pulseEval := true }))
      (fun t => (t.lampObj 14).proof == 2 && !(t.lampObj 14).conducting) = true
    ∧ ok (exec (.subPulseEnd (.pin 14 false)) (simplePin { proofPin with conducting := true, pulseEval := true, proofNow := true }))
      (fun t => (t.lampObj 14).proof == 3 && (t.lampObj 14).missing == 1) = true := by decide +kernel

theorem test_thermal : ok (exec (.thermalShutdown 1 170) (simplePin { fullPin with conducting := true }))
      (fun t => t.get F.BLZ_STAT.TSD == 2 && !(t.lampObj 14).conducting && (t.lampObj 14).proof == 3) = true
    ∧ ok (exec (.thermalResume 1 120) { at_ [(F.BLZ_STAT.TSD, 2)] with elapsed := 10 ^ 9 }) (fun t => t.get F.BLZ_STAT.TSD == 0) = true := by
  decide +kernel

/-- Bank 0 in MATRIX mode; one row switch, one bank, column current code 20. -/
def mxValue : BitVec 32 := 0x82800
def mxBank (l : List (Field × Nat)) : State := maint ([(F.BLZ_Bb_CFG.MODE 0, 3), (F.BLZ_Bb_STAT.MODE_ST 0, 3)] ++ l)

/-- The matrix on, as given. -/
def mxOn (m : MatrixSt) (elapsed : Nat) (l : List (Field × Nat)) : State :=
  { mxBank ((F.BLZ_MX_CFG.EN, 1) :: l) with elapsed := elapsed, lamp := { LampState.zero with matrix := m } }

theorem witness_matrix :
    (mxBank []).Sound ∧ (mxBank []).answers 7 ∧ (mxBank []).frozen = false ∧ (mxBank []).cfgOpen = true ∧ matrixReserved (mxBank []) mxValue.toNat = false
    ∧ mxValue.getLsbD 19 = true ∧ (∀ r ∈ matrixClaims mxValue.toNat, claimable (mxBank []) cMatrix r = true)
    ∧ ¬(∀ r ∈ matrixClaims mxValue.toNat, claimable (mxBank [(ownerF (.rowSwitch 0), 0xF)]) cMatrix r = true)
    ∧ (mxOn { MatrixSt.zero with next := 3 } 0 []).Sound ∧ (mxOn { MatrixSt.zero with next := 3 } 0 []).flag F.BLZ_MX_CFG.EN = true
    ∧ ({ MatrixSt.zero with next := 3 } : MatrixSt).next < 16 ∧ MatrixSt.zero.cut = false ∧ MatrixSt.zero.next = 16
    ∧ (mxOn MatrixSt.zero 0 [(F.BLZ_MX_STAT.ARMED, 1)]).flag F.BLZ_MX_STAT.ARMED = true
    ∧ (mxOn MatrixSt.zero 0 []).flag F.BLZ_MX_STAT.ARMED = false ∧ base.flag F.BLZ_MX_CFG.EN ≠ true
    ∧ (let s := mxOn { MatrixSt.zero with msyncAt := some 0, next := 3 } 1500000 [(F.BLZ_MX_CFG.MSYNC_EN, 1), (F.BLZ_MX_CFG.MSYNC_ALIGN, 1)]
       s.flag F.BLZ_MX_CFG.MSYNC_EN = true ∧ decide (s.elapsed < 0 + 1500000) = false ∧ s.flag F.BLZ_MX_CFG.MSYNC_ALIGN = true
        ∧ 2000 < s.elapsed - s.lamp.matrix.frameAt ∧ ¬(1598000 ≤ s.elapsed - s.lamp.matrix.frameAt) ∧ s.lamp.matrix.next ≠ 0)
    ∧ decide (1499999 < 0 + 1500000) = true :=
  ⟨sound (by decide +kernel), answers (by decide +kernel), by decide +kernel, by decide +kernel, by decide +kernel, by decide +kernel,
   by decide +kernel, by decide +kernel, sound (by decide +kernel), by decide +kernel⟩

theorem test_matrixCfg : ok (exec (.matrixCfgWrite mxValue) (mxBank [])) (fun t => t.flag F.BLZ_STAT.MX_ACTIVE && t.owner (.rowSwitch 0) == cMatrix) = true
    ∧ ok (exec (.matrixCfgWrite mxValue) (mxBank [(ownerF (.rowSwitch 0), 0xF)])) (fun t => t.flag F.BLZ_MX_STAT.CONFLICT
      && t.owner (.rowSwitch 0) == 0xF) = true := by decide +kernel

theorem test_rowSlotStart : ok (exec .rowSlotStart (mxOn { MatrixSt.zero with next := 3 } 0 [])) (fun t => t.get F.BLZ_MX_STAT.ROW == 3
    && t.lamp.matrix.next == 4) = true := by decide +kernel

theorem test_frameBoundary : ok (exec .frameBoundary (mxOn { MatrixSt.zero with back := [(5, 9)] } 0 [(F.BLZ_MX_STAT.ARMED, 1)]))
    (fun t => t.lamp.matrix.front == [(5, 9)] && t.lamp.matrix.back == [(5, 9)] && t.get F.BLZ_MX_CNT.SWAPS == 1
      && t.flag F.BLZ_MX_STAT.FRONT) = true := by decide +kernel

theorem test_swap : ok (exec .swap (mxOn MatrixSt.zero 0 [])) (fun t => t.flag F.BLZ_MX_STAT.ARMED) = true
    ∧ ok (exec .swap base) (fun t => t.get F.GEN_WRERR_CNT.COUNT == 1) = true := by decide +kernel

theorem test_msyncEdge :
    let l := [(F.BLZ_MX_CFG.MSYNC_EN, 1), (F.BLZ_MX_CFG.MSYNC_ALIGN, 1)]
    ok (exec .msyncEdge (mxOn { MatrixSt.zero with msyncAt := some 0, next := 3 } 1500000 l)) (fun t => t.lamp.matrix.cut
      && t.get F.BLZ_MX_CNT2.ALIGN == 1) = true
    ∧ ok (exec .msyncEdge (mxOn { MatrixSt.zero with msyncAt := some 0, next := 3 } 1499999 l)) (fun t => !t.lamp.matrix.cut
      && t.get F.BLZ_MX_CNT2.MSYNC_IGN == 1) = true := by decide +kernel

/-! ### Lamp supervision and Caliper -/

/-- Pins 14 and 15 of a SIMPLE bank, pin 14's object as given. -/
def watched (o : LampObj) (elapsed : Nat) : State :=
  { State.put (simplePin o) [(ownerF (.pin 15), cSimple)] with elapsed := elapsed }

theorem witness_supervision :
    (watched fullPin 0).Sound ∧ tripObject (watched fullPin 0) (.object 14) = some 14 ∧ fullPin.latched = false
    ∧ (Tally.eval Tally.zero 0x1000 (some true) true).2 = .began
    ∧ (let o := { fullPin with latched := true }
       o.latched = true ∧ o.resume = false ∧ o.en = true ∧ o.tripAt + 100000000 ≤ (watched o 100000000).elapsed)
    ∧ supervised (watched LampObj.zero 0) 14 = true ∧ LampObj.zero.conducting = false ∧ LampObj.zero.en = false
    ∧ ¬((watched LampObj.zero 0).owner (objRes 14) = cMatrix)
    ∧ (let s := watched proofPin 12000000
       inProof s 14 = true ∧ 12000000 ≤ (s.lampObj 14).blindAcc + (s.elapsed - (s.lampObj 14).blindFrom))
    ∧ (at_ [(F.CAL_STAT.LSUP_LOW, 1)]).flag F.CAL_STAT.LSUP_LOW = true ∧ base.flag F.CAL_STAT.LSUP_LOW = false
    ∧ supervised (watched LampObj.zero 0) 15 = true ∧ ((watched LampObj.zero 0).lampObj 15).conducting = false :=
  ⟨sound (by decide +kernel), by decide +kernel⟩

theorem test_overcurrentTrip : ok (exec (.overcurrentTrip (.object 14)) (watched { fullPin with conducting := true } 5))
    (fun t => (t.lampObj 14).latched && (t.lampObj 14).proof == 3 && (t.lampObj 14).tripAt == 5 && !(t.lampObj 14).conducting) = true := by
  decide +kernel

theorem test_ocRetry : ok (exec (.ocRetry 14 false) (watched { fullPin with latched := true } 100000000)) (fun t => (t.lampObj 14).resume) = true
    ∧ ok (exec (.ocRetry 14 false) (watched { fullPin with latched := true } 99999999)) (fun t => !(t.lampObj 14).resume) = true := by
  decide +kernel

theorem test_litUncmd : ok (exec (.litUncmd 14 false true) (watched LampObj.zero 0)) (fun t => (t.lampObj 14).offc && (t.lampObj 14).offTrip) = true
    ∧ ok (exec (.litUncmd 14 false true) (watched fullPin 0)) (fun t => !(t.lampObj 14).offc) = true := by decide +kernel

theorem test_proofTimeout : ok (exec (.proofTimeout 14) (watched proofPin 12000000)) (fun t => (t.lampObj 14).proof == 3) = true
    ∧ ok (exec (.proofTimeout 14) (watched proofPin 11999999)) (fun t => (t.lampObj 14).proof == 0) = true := by decide +kernel

theorem test_lsupMonitor : ok (exec (.lsupMonitorReading 1000 true false) base) (fun t => t.flag F.CAL_STAT.LSUP_LOW && t.get F.CAL_LSUP.VAL == 1000
      && t.out.length == 1) = true
    ∧ ok (exec (.lsupMonitorReading 1000 false false) (at_ [(F.CAL_STAT.LSUP_LOW, 1)])) (fun t => t.flag F.CAL_STAT.LSUP_LOW) = true := by
  decide +kernel

theorem test_adjacentPin : ok (exec (.adjacentPinTest 14 none) { watched LampObj.zero 10000000000 with
        lamp := { LampState.zero with adj := [(14, ⟨Tally.zero, some 0⟩)] } }) (fun t => t.flag (adjStale 14)) = true
    ∧ ok (exec (.adjacentPinTest 14 (some true)) (State.put (watched LampObj.zero 0) [(F.CAL_TALLY1.ADJ, 0x1000)]))
      (fun t => (t.adjPair 14).tally.lasting && t.flag F.CAL_EVT.ADJ_SHORT) = true := by decide +kernel

/-- One sequence of one entry: input 0 into accumulator 3, two words. -/
def calTable : List Byte := [0, 1] ++ List.replicate 14 0 ++ [0, 3, 1, 0, 0, 0, 8, 0] ++ List.replicate 1016 0

/-- Unit 1 with that table, its buffer ready. -/
def calibrating (x : CalUnit) (l : List (Field × Nat)) : State :=
  { at_ ([(F.CAL_Un_CTL.REF_EN 1, 1), (F.CAL_Un_STAT.REF_READY 1, 1), (F.CLK_Dd.STATE 4, 1), (ownerF (.modulator 2), cSequence)] ++ l) with
    elapsed := 2000000, cal := sput (fun _ => CalUnit.zero) [] 1 { x with table := calTable } }

theorem witness_caliper :
    (let s := calibrating CalUnit.zero []
     s.Sound ∧ calRun s 1 .seq0 = some ⟨2, 3, 0, 0⟩ ∧ ((s.calUnit 1).partAt (srcNum .seq0)).count + 2 = 2
      ∧ ctSpan (s.calUnit 1).table 0 = some (0, 0) ∧ ((s.calUnit 1).partAt (srcNum .seq0)).count + 1 + 1 ≤ 2
      ∧ s.answers 8 ∧ s.readable 8 ∧ s.flag (F.CAL_Un_URG_STAT.BUSY 1) = false ∧ s.flag (F.CAL_Un_STAT.REF_READY 1) = true
      ∧ s.owner (modRes (2 * 1 + 1)) ≠ cSelfTest ∧ iowOk ((5 : BitVec 32).toNat % 128) (s.get (F.CAL_Un_URG_CFG.IOW 1)) = true
      ∧ s.flag (F.CAL_Un_CTL.REF_EN 1) = true ∧ (s.calUnit 1).refAt + 2000000 ≤ s.elapsed ∧ unitClaimed s 1 = false
      ∧ (s.calUnit 1).wq = [] ∧ s.get (F.CAL_Un_STAT.URG 1) = 0)
    ∧ (let s := calibrating { CalUnit.zero with host := some 5 } [(F.CAL_Un_STAT.URG 1, 2)]
       s.Sound ∧ s.get (F.CAL_Un_STAT.URG 1) = 2 ∧ calRun s 1 .urgent = some ⟨1, 0, 0xFF, 5⟩)
    ∧ (let s := calibrating { CalUnit.zero with wq := [⟨30, 10, 100⟩] } [(F.CAL_Un_STAT.URG 1, 1)]
       s.Sound ∧ s.get (F.CAL_Un_STAT.URG 1) = 1 ∧ calRun s 1 .urgent = some ⟨40, 0, 0xFF, 30⟩)
    ∧ unitClaimed (at_ [(ownerF (.pin 24), cWedge)]) 1 = true ∧ base.flag (F.CAL_Un_URG_STAT.BUSY 1) = false
    ∧ base.flag (F.CAL_Un_STAT.REF_READY 1) = false :=
  ⟨⟨sound (by decide +kernel), by decide +kernel, by decide +kernel, by decide +kernel, by decide +kernel, answers (by decide +kernel),
    readable (by decide +kernel), by decide +kernel⟩, ⟨sound (by decide +kernel), by decide +kernel⟩, ⟨sound (by decide +kernel), by decide +kernel⟩,
   by decide +kernel⟩

theorem test_caliperEntry : ok (exec (.caliperEntryComplete 1 .seq0 [5, 0xFFFFFE]) (calibrating CalUnit.zero []))
    (fun t => (t.calUnit 1).accAt 3 == ⟨3, 2, -2, 5, false, false⟩ && (t.calUnit 1).partAt 0 == Acc.zero) = true := by decide +kernel

theorem test_caliperOverRange : ok (exec (.caliperOverRange 1 .seq0 [] true) (calibrating CalUnit.zero []))
    (fun t => ((t.calUnit 1).partAt 0).sum == 0x7FFFFF && t.get (F.CAL_Un_CNT.OVRWORDS 1) == 1 && t.flag F.CAL_EVT.OVR) = true := by
  decide +kernel

theorem test_calUrg : ok (exec (.calUrg 1 5) (calibrating CalUnit.zero [])) (fun t => t.get (F.CAL_Un_STAT.URG 1) == 2 && (t.calUnit 1).host.isSome) = true
    ∧ ok (exec (.calUrg 1 5) base) (fun t => t.get (F.CAL_Un_URG_STAT.RESULT 1) == 2 && t.get F.GEN_WRERR_CNT.COUNT == 1) = true := by
  decide +kernel

/-- A sum of −2 reads with its sign in the 48 bits (R206, R207). -/
theorem test_accLoRead :
    let s := calibrating { CalUnit.zero with acc := [(3, ⟨-2, 1, -2, -2, false, false⟩)] } []
    ok (exec (.accLoRead 1 3) s) (fun t => t.out == [.readData (R.CAL_Un_ACCn_LO 1 3) 0xFFFFFFFE] && (t.calUnit 1).accAt 3 == ⟨-2, 1, -2, -2, false, false⟩) = true
    ∧ ok (exec (.accLocRead 1 3) s) (fun t => (t.calUnit 1).accAt 3 == Acc.zero) = true := by decide +kernel

theorem test_accClr : ok (exec (.accClr 1) (calibrating { CalUnit.zero with acc := [(3, ⟨9, 1, 9, 9, false, false⟩)] } []))
    (fun t => (t.calUnit 1).acc == []) = true := by decide +kernel

theorem test_refEn : ok (exec (.refEnWrite 1 0) (calibrating CalUnit.zero [(ownerF (.pin 24), cWedge)])) (fun t => t.flag (F.CAL_Un_CTL.REF_EN 1)
      && t.get F.GEN_WRERR_CNT.COUNT == 1) = true
    ∧ ok (exec (.refEnWrite 1 0) (calibrating CalUnit.zero [])) (fun t => !t.flag (F.CAL_Un_STAT.REF_READY 1)) = true := by decide +kernel

theorem test_refReady : ok (exec (.refReady 1) (calibrating CalUnit.zero [(F.CAL_Un_STAT.REF_READY 1, 0)])) (fun t => t.flag (F.CAL_Un_STAT.REF_READY 1)) = true
    ∧ ok (exec (.refReady 1) { calibrating CalUnit.zero [(F.CAL_Un_STAT.REF_READY 1, 0)] with elapsed := 1999999 })
      (fun t => !t.flag (F.CAL_Un_STAT.REF_READY 1)) = true := by decide +kernel

/-! ### Wedge -/

/-- An image of one group of two aspects with pin 0 in both, the second flashing; RETRY 5 minutes, START_WAIT 5 s. -/
def image1 : Image :=
  { serial := 3, build := 1, startWait := 5, tally := [0x1087, 0x1087, 0x1043, 0x1087, 0x1087],
    groups := [(0, [5, 0, 5, 0, 0, 0, 0, 0])],
    aspects := [(0, [0, 0, 1, 128] ++ List.replicate 12 0), (1, [0, 0, 1, 128, 0, 0, 0, 1] ++ List.replicate 8 0)],
    channels := [[0, 0, 0xFF, 0x0F, 10, 0, 0, 0]], graphs := [(1, 2 ^ 15), (8, 2 ^ 15 + 100)], conflict := [],
    flash := [(0, 0), (100, 50)], pages := [] }

/-- Wedge runs that image, its group as given. -/
def wedged (w : WGroup) (elapsed : Nat) (l : List (Field × Nat)) : State :=
  { at_ ([(F.WDG_STAT.IMG, 1)] ++ l) with
    elapsed := elapsed, wedge := { WedgeState.zero with image := some image1, started := true, group := sput (fun _ => WGroup.zero) [] 0 w } }

/-- Aspect 0 granted at time 0. -/
def shown0 : WGroup := { WGroup.zero with cur := some 0 }

theorem witness_lanes : base.Sound ∧ lanesOn base = [0, 1, 2] ∧ lanesOn (at_ [(laneF 2, 1)]) = [0, 1] ∧ (at_ [(laneF 2, 1)]).get (laneF 2) ≠ 2
    ∧ (lanesOn base).contains 1 = true ∧ (lanesOn base).length = 3 ∧ (lanesOn (at_ [(laneF 2, 1)])).length < 3 ∧ base.get F.WDG_STAT.VOTE ≠ 2
    ∧ (let s := { at_ [(laneF 1, 1)] with elapsed := 1000000000 }
       s.get (laneF 1) = 1 ∧ (s.laneSt 1).times.headD 0 + 1000000000 ≤ s.elapsed)
    ∧ (let w := { shown0 with open_ := true }
       let s := wedged w 10 []
       let e := groupLit s image1 0
       s.Sound ∧ lanesOn s = [0, 1, 2] ∧ s.get F.WDG_STAT.VOTE ≠ 2 ∧ s.wedge.arrived = false ∧ image1.live = [0]
        ∧ (s.wgroup 0).cur = some 0 ∧ s.wedge.group ≠ [] ∧ (s.wgroup 0).flashOn = true ∧ image1.flashOf 0 0 = 0
        ∧ e = (1, 0) ∧ classOf 0 1 0 ≠ 3 ∧ (s.wgroup 0).grantAt < s.elapsed) :=
  ⟨base_sound, by decide +kernel, by decide +kernel, by decide +kernel, by decide +kernel, by decide +kernel, by decide +kernel, by decide +kernel,
   by decide +kernel, sound (by decide +kernel), by decide +kernel⟩

theorem test_wedgeStep_isolates : ok (exec (.wedgeStep ⟨1, 2, 1, none, []⟩) base)
    (fun t => t.get (laneF 1) == 1 && t.get F.WDG_CNT.ISOLATIONS == 1 && t.get F.WDG_STAT.VOTE == 1) = true := by decide +kernel

theorem test_wedgeStep_none : ok (exec (.wedgeStep ⟨1, 2, 3, none, []⟩) base)
    (fun t => t.get F.WDG_STAT.VOTE == 2 && t.flag F.WDG_EVT.NONE && t.get F.WDG_CNT.ISOLATIONS == 0) = true := by decide +kernel

theorem test_laneStall : ok (exec (.laneStallTimeout 1) base) (fun t => t.get (laneF 1) == 1 && t.get F.WDG_STAT.VOTE == 1) = true
    ∧ ok (exec (.laneRejoinAttempt 1) { at_ [(laneF 1, 1)] with elapsed := 1000000000 }) (fun t => t.get (laneF 1) == 2) = true := by
  decide +kernel

theorem witness_wedgeTimers :
    (wedged shown0 500000000 []).Sound ∧ shown0.cur ≠ none ∧ shown0.grantAt + (5 : BitVec 8).toNat * 100000000 ≤ 500000000
    ∧ (let w := { shown0 with cur := some 1 }
       w.cur = some 1 ∧ image1.flashOf 0 1 ≠ 0 ∧ w.phaseAt + (image1.pattern (image1.flashOf 0 1)).2 * 10000000 ≤ 500000000)
    ∧ ([(1, 0)].any fun e : Nat × Nat => e.1 == 1 && decide (e.2 + 1000000 ≤ 1000000)) = true
    ∧ shown0.open_ = false ∧ shown0.fb = false ∧ shown0.flashOn = true ∧ shown0.awaiting = [] ∧ 40000000 ≤ shown0.onAcc + (40000000 - shown0.onFrom)
    ∧ image1.retry 0 ≠ 0 ∧ 0 + image1.retry 0 * 60000000000 ≤ 300000000000 ∧ (0x200 : BitVec 32).toNat % 256 = 0 ∧ (0x200 : BitVec 32).getLsbD (8 + 1) = true
    ∧ (wedged shown0 0 []).answers 9
    ∧ (let s := { wedged shown0 100000000 [(F.WDG_STAT.PRESENTING, 1)] with wedge := { (wedged shown0 0 []).wedge with presAt := some 0 } }
       s.Sound ∧ s.wedge.presAt = some 0 ∧ s.flag F.WDG_STAT.PRESENTING = true ∧ 0 + 100000000 ≤ s.elapsed ∧ s.get F.WDG_STAT.VOTE ≠ 2
        ∧ s.wedge.group ≠ [] ∧ s.wedge.arrived = false)
    ∧ (let s := wedged shown0 5000000000 [(F.WDG_STAT.START_WAIT, 1)]
       s.flag F.WDG_STAT.START_WAIT = true ∧ s.wedge.started = true ∧ s.wedge.startLost = false
        ∧ s.wedge.waitAt + image1.startWait * 1000000000 ≤ s.elapsed) :=
  ⟨sound (by decide +kernel), by decide +kernel, by decide +kernel, by decide +kernel, by decide +kernel, by decide +kernel, by decide +kernel,
   by decide +kernel, by decide +kernel, by decide +kernel, by decide +kernel, by decide +kernel, by decide +kernel, by decide +kernel,
   answers (by decide +kernel), ⟨sound (by decide +kernel), by decide +kernel⟩, by decide +kernel⟩

theorem test_dwellExpiry : ok (exec (.dwellExpiry 0 5) (wedged shown0 500000000 [])) (fun t => (t.wgroup 0).dwelt == 5) = true
    ∧ ok (exec (.dwellExpiry 0 5) (wedged shown0 499999999 [])) (fun t => (t.wgroup 0).dwelt == 0) = true := by decide +kernel

/-- Pattern 1 is on for 0.5 s of its second (R221). -/
theorem test_flashEdge : ok (exec (.flashEdge 0) (wedged { shown0 with cur := some 1 } 500000000 [])) (fun t => !(t.wgroup 0).flashOn
      && (t.wgroup 0).phaseAt == 500000000) = true
    ∧ ok (exec (.flashEdge 0) (wedged { shown0 with cur := some 1 } 499999999 [])) (fun t => (t.wgroup 0).flashOn) = true := by decide +kernel

theorem test_occupancyRelease : ok (exec (.occupancyRelease 0 1) (wedged { shown0 with left := [(1, 0)] } 1000000 [])) (fun t => (t.wgroup 0).left == []) = true := by
  decide +kernel

theorem test_classificationStart : ok (exec (.classificationStart 0) (wedged shown0 40000000 [])) (fun t => (t.wgroup 0).open_) = true
    ∧ ok (exec (.classificationStart 0) (wedged shown0 39999999 [])) (fun t => !(t.wgroup 0).open_) = true := by decide +kernel

theorem test_blockRetry : ok (exec (.blockRetryExpiry 0 1) (wedged { shown0 with blocked := [(1, 0)] } 300000000000 []))
      (fun t => !(t.wgroup 0).blocked.any fun e => e.2 == 0) = true
    ∧ ok (exec (.wdgUnblock 0x200) (wedged { shown0 with blocked := [(1, 0)] } 0 [])) (fun t => (t.wgroup 0).blocked == []) = true := by
  decide +kernel

theorem test_presentationTimeout : ok (exec .presentationTimeout { wedged shown0 100000000 [(F.WDG_STAT.PRESENTING, 1)] with
        wedge := { (wedged shown0 0 []).wedge with presAt := some 0 } }) (fun t => !t.flag F.WDG_STAT.PRESENTING && t.flag F.WDG_EVT.FAILSAFE
      && (t.wgroup 0).causes == [0]) = true
    ∧ ok (exec .startWaitTimeout (wedged shown0 5000000000 [(F.WDG_STAT.START_WAIT, 1)])) (fun t => t.wedge.startLost && (t.wgroup 0).causes == [1]) = true := by
  decide +kernel

/-- A copy stored with its own digest is the one loaded (R226). -/
theorem load_own_copy (b : List Byte) (h : b ≠ []) : (repairStore [storeCopy b, storeCopy b]).1 = some (0, b) := by
  have e : b.isEmpty = false := by
    cases b with
    | nil => exact absurd rfl h
    | cons _ _ => rfl
  have v : (storeCopy b).valid = true := by simp [StoreCopy.valid, storeCopy, e]
  simp [repairStore, loadCopy, copyAt, v]
  simp [storeCopy]

theorem witness_wedgeStarts : base.wedge.started = false ∧ base.get F.WDG_STAT.VOTE ≠ 2 ∧ (repairStore base.wedge.store).1 = none
    ∧ (∃ k b, (repairStore [storeCopy [1], storeCopy [1]]).1 = some (k, b))
    ∧ (let s := wedged shown0 0 [(F.WDG_STAT.VOTE, 2)]
       s.wedge.started = true ∧ s.get F.WDG_STAT.VOTE = 2 ∧ (lastHour s.elapsed s.wedge.nones).length ≤ 1)
    ∧ (∃ b, ({ WedgeState.zero with commit := some [1] } : WedgeState).commit = some b) :=
  ⟨by decide +kernel, by decide +kernel, by decide +kernel, ⟨0, [1], load_own_copy [1] (by decide)⟩, by decide +kernel, ⟨[1], rfl⟩⟩

theorem test_wedgeStart : ok (exec .wedgeStart base) (fun t => t.wedge.started && t.get F.WDG_STAT.IMG == 0) = true
    ∧ ok (exec .wedgeStart (State.put (wedged shown0 0 []) [(F.WDG_STAT.VOTE, 2), (laneF 1, 3), (laneF 2, 1)]))
      (fun t => t.get (laneF 1) == 3 && t.get (laneF 2) == 0) = true := by decide +kernel

theorem test_imageActivation : ok (exec .imageActivation { base with wedge := { WedgeState.zero with commit := some [1], started := true } })
    (fun t => t.wedge.commit == none && t.wedge.store.length == 2 && t.get F.WDG_STAT.IMG == 1 && t.flag F.WDG_EVT.COMMIT) = true := by
  decide +kernel

/-! ### The marking table -/

/-- One rule: host request bit 5 asks group 0 for aspect 1 with PRIO 3. -/
def ruleHreq5 : List Byte := [0x83, 0, 0x31, 0, 0, 0, 0, 0, 5, 0, 0, 0, 0, 0, 0, 0]

/-- That rule in force over the image, with fields and a marking state. -/
def marked (m : MarkState) (elapsed : Nat) (l : List (Field × Nat)) : State :=
  { wedged shown0 elapsed l with mark := { m with rules := [ruleHreq5] } }

theorem witness_marking :
    (let s := marked MarkState.zero 0 [(hreqF 5, 1)]
     s.Sound ∧ s.mark.rules[0]? = some ruleHreq5 ∧ bit (le ruleHreq5 0 1) 7 = true ∧ inertRule s ruleHreq5 = false ∧ (rulePass s 0 ruleHreq5).2 = true
      ∧ le ruleHreq5 1 1 = 0 ∧ s.mark.next = none ∧ (∀ i : Fin 256, hreqDue s i = false) ∧ trigger s ruleHreq5 = true ∧ s.answers 10)
    ∧ trigger (marked MarkState.zero 0 []) ruleHreq5 = false ∧ MarkState.zero.clearAll = false ∧ MarkState.zero.clear.contains 0 = false
    ∧ base.wedge.image = none ∧ (∃ b, ({ MarkState.zero with next := some [1] } : MarkState).next = some b) ∧ (5 : Fin 256).val = (5 : BitVec 32).toNat % 256
    ∧ (let s := marked MarkState.zero 1000000000 [(hreqF 5, 1), (F.MRK_CFG.HREQ_TTL, 1)]
       hreqDue s 5 = true ∧ s.mark.ttlAt < sget (fun _ => 0) s.mark.hreqAt 5 + s.get F.MRK_CFG.HREQ_TTL * 1000000000) :=
  ⟨⟨sound (by decide +kernel), by decide +kernel, by decide +kernel, by decide +kernel, by decide +kernel, by decide +kernel, by decide +kernel,
    by decide +kernel, by decide +kernel, answers (by decide +kernel)⟩, by decide +kernel, by decide +kernel, by decide +kernel, by decide +kernel,
   ⟨_, rfl⟩, by decide +kernel, by decide +kernel⟩

theorem test_markingPass : ok (exec .markingPass (marked MarkState.zero 0 [(hreqF 5, 1)])) (fun t => (t.wgroup 0).winner == some (1, 3, 0)
      && t.flag F.WDG_STAT.PRESENTING && t.get F.MRK_PASS_CNT.PASSES == 1) = true
    ∧ ok (exec .markingPass (marked MarkState.zero 0 [])) (fun t => (t.wgroup 0).winner == none) = true := by decide +kernel

theorem test_mrkHreq : ok (exec (.mrkHreqSet 5) (marked MarkState.zero 7 [])) (fun t => t.flag (hreqF 5) && t.mark.hreqAt == [(5, 7)]) = true
    ∧ ok (exec (.mrkHreqClr 5) (marked MarkState.zero 7 [(hreqF 5, 1)])) (fun t => !t.flag (hreqF 5)) = true := by decide +kernel

theorem test_hreqExpired : ok (exec (.hreqExpired 5) (marked MarkState.zero 1000000000 [(hreqF 5, 1), (F.MRK_CFG.HREQ_TTL, 1)]))
      (fun t => !t.flag (hreqF 5) && t.flag F.MRK_EVT.HREQ_EXP) = true
    ∧ ok (exec (.hreqExpired 5) (marked MarkState.zero 999999999 [(hreqF 5, 1), (F.MRK_CFG.HREQ_TTL, 1)])) (fun t => t.flag (hreqF 5)) = true := by
  decide +kernel

theorem test_hreqTtl : ok (exec (.hreqTtlWrite 9) (marked MarkState.zero 4 [])) (fun t => t.get F.MRK_CFG.HREQ_TTL == 9 && t.mark.ttlAt == 4) = true
    ∧ ok (exec (.mrkLatchClr 0x2000) base) (fun t => t.mark.clearAll) = true := by decide +kernel

/-! ### Skyline -/

/-- Chain 1 of two heads in a state, its record as given. -/
def sky1 (st : Nat) (x : SkyChain) (elapsed : Nat) (l : List (Field × Nat)) : State :=
  { maint ([(F.SKY_Cc_CFG.EN 1, 1), (F.SKY_Cc_CFG.NHEADS_M1 1, 1), (F.SKY_Cc_STAT.STATE 1, st)] ++ l) with
    elapsed := elapsed, sky := sput (fun _ => SkyChain.zero) [] 1 x }

/-- An exchange in progress with both heads. -/
def inExchange : SkyChain := { SkyChain.zero with open_ := true, heads := 2 }

/-- A status with SHARE_OK, the echo of exchange 0 and its CRC. -/
def goodStatus : Nat := withCrc (2 ^ 16 + 3 * 2 ^ 17)

theorem witness_exchanges :
    (sky1 2 inExchange 0 []).Sound ∧ inExchange.open_ = true ∧ inExchange.line = none ∧ 0 ≤ returnDeadline inExchange
    ∧ (2 * 32) % 32 = 0 ∧ 33 % 32 ≠ 0 ∧ (∃ w, frameResult ((wordCells goodStatus).map some) 1 0 0 = .inl w)
    ∧ (∃ k, frameResult [] 0 0 0 = .inr k) ∧ inExchange.closing = false ∧ inExchange.recording = false
    ∧ (let x := { inExchange with trace := some 2, recording := true }
       (sky1 2 x 0 []).Sound ∧ x.trace = some (2 : Fin 16).val ∧ x.recording = true)
    ∧ ({ inExchange with closing := true } : SkyChain).closing = true :=
  ⟨sound (by decide +kernel), by decide +kernel, by decide +kernel, by decide +kernel, by decide +kernel, by decide +kernel,
   ⟨goodStatus, by decide +kernel⟩, ⟨2, by decide +kernel⟩, by decide +kernel, by decide +kernel, ⟨sound (by decide +kernel), by decide +kernel⟩, rfl⟩

theorem test_exchangeStart : ok (exec (.exchangeStart 1 false) (sky1 2 SkyChain.zero 0 [])) (fun t => (t.chain 1).open_ && (t.chain 1).heads == 2
      && t.get (F.SKY_Cc_EXCH.EXCH 1) == 1 && t.out.length == 1) = true
    ∧ ok (exec (.exchangeStart 1 true) (sky1 2 SkyChain.zero 0 [])) (fun t => t.get (F.SKY_Cc_ERR2.LINE 1) == 1 && t.out == []
      && (t.chain 1).line == some 1) = true := by decide +kernel

theorem test_lineShort : ok (exec (.lineShort 1) (sky1 2 inExchange 40 [])) (fun t => (t.chain 1).line == some 0 && (t.chain 1).cutAt == some 40
    && t.get (F.SKY_Cc_ERR2.LINE 1) == 1) = true := by decide +kernel

/-- The first head answers, the second is missing for a short frame. -/
theorem test_returnFrameEnd : ok (exec (.returnFrameEnd 1 ((wordCells goodStatus).map some) []) (sky1 2 inExchange 0 []))
      (fun t => !((t.chain 1).headAt 0).missing && ((t.chain 1).headAt 1).missing && t.get (F.SKY_Cc_STAT.SEEN 1) == 1 && !(t.chain 1).open_) = true
    ∧ ok (exec (.returnFrameEnd 1 (List.replicate 33 (some true)) []) (sky1 2 inExchange 0 []))
      (fun t => t.get (F.SKY_Cc_ERR.FRAMING 1) == 1 && ((t.chain 1).headAt 0).missing) = true := by decide +kernel

theorem test_returnFrameDeadline : ok (exec (.returnFrameDeadline 1 []) (sky1 2 inExchange (returnDeadline inExchange) []))
      (fun t => t.get (F.SKY_Cc_ERR2.LATE 1) == 1 && ((t.chain 1).headAt 1).missing) = true
    ∧ ok (exec (.returnFrameDeadline 1 []) (sky1 2 inExchange (returnDeadline inExchange - 1) [])) (fun t => (t.chain 1).open_) = true := by
  decide +kernel

theorem test_chainResultTimeout : ok (exec (.chainResultTimeout 1) (sky1 2 SkyChain.zero (2 * chainPeriod 2 + 5000000) [])) (fun t => (t.chain 1).dark) = true
    ∧ ok (exec (.chainResultTimeout 1) (sky1 2 SkyChain.zero (2 * chainPeriod 2 + 4999999) [])) (fun t => !(t.chain 1).dark) = true := by
  decide +kernel

theorem witness_chainControl :
    (sky1 2 SkyChain.zero 0 []).Sound ∧ (sky1 2 SkyChain.zero 0 []).answers 11 ∧ base.cfgOpen = false ∧ (sky1 2 SkyChain.zero 0 []).cfgOpen = true
    ∧ (sky1 2 SkyChain.zero 0 []).flag (F.SKY_Cc_CFG.EN 1) = true ∧ (5 : BitVec 32).getLsbD 0 = true ∧ (2 : BitVec 32).getLsbD 0 = false
    ∧ bits ((sky1 2 SkyChain.zero 0 []).read (R.SKY_Cc_CFG 1)).toNat 7 1 ≠ bits (5 : BitVec 32).toNat 7 1
    ∧ bits ((sky1 2 SkyChain.zero 0 []).read (R.SKY_Cc_CFG 1)).toNat 7 1 = bits (3 : BitVec 32).toNat 7 1
    ∧ (maint []).flag (F.SKY_Cc_CFG.EN 1) = false ∧ inExchange.open_ = true ∧ SkyChain.zero.open_ = false
    ∧ (maint []).frozen = false ∧ (maint []).get (F.SKY_Cc_CFG.TRACE_WB 1) = (0 : Fin 16).val ∧ (maint []).flag (F.SKY_Cc_STAT.TRACE_BUSY 1) = false
    ∧ (maint []).owner (.buffer 0) = 0 ∧ (maint [(ownerF (.buffer 0), 0xF)]).owner (.buffer 0) = 0xF
    ∧ (∃ h at_, ({ SkyChain.zero with ident := some (3, 7) } : SkyChain).ident = some (h, at_)) :=
  ⟨sound (by decide +kernel), answers (by decide +kernel), by decide +kernel, by decide +kernel, by decide +kernel, by decide +kernel,
   by decide +kernel, by decide +kernel, by decide +kernel, by decide +kernel, by decide +kernel, by decide +kernel, by decide +kernel,
   by decide +kernel, by decide +kernel, by decide +kernel, by decide +kernel, ⟨3, 7, rfl⟩⟩

theorem test_chainEnable : ok (exec (.chainEnable 1 3) (maint [])) (fun t => t.chainState 1 == 1) = true
    ∧ ok (exec (.chainEnable 1 5) (sky1 2 SkyChain.zero 0 [])) (fun t => t.get F.GEN_WRERR_CNT.COUNT == 1) = true := by decide +kernel

theorem test_chainDisable : ok (exec (.chainEnable 1 2) (sky1 2 inExchange 0 [])) (fun t => t.chainState 1 == 2 && (t.chain 1).closing) = true
    ∧ ok (exec (.chainEnable 1 2) (sky1 2 SkyChain.zero 0 [])) (fun t => t.chainState 1 == 0) = true := by decide +kernel

theorem test_trace : ok (exec (.trace 1) (maint [])) (fun t => t.owner (.buffer 0) == cSkyline && (t.chain 1).trace == some 0) = true
    ∧ ok (exec (.trace 1) (maint [(ownerF (.buffer 0), 0xF)])) (fun t => t.flag (F.SKY_Cc_STAT.CONFLICT 1) && t.owner (.buffer 0) == 0xF) = true := by
  decide +kernel

theorem test_fltClr_ident : ok (exec (.fltClr 1) base) (fun t => (t.chain 1).fltClr) = true
    ∧ ok (exec (.ident 1 33) base) (fun t => (t.chain 1).ident == some (33, 0)) = true := by decide +kernel

theorem test_identExpiry : ok (exec (.identExpiry 1) (sky1 2 { SkyChain.zero with ident := some (3, 7) } 3000000007 [])) (fun t => (t.chain 1).ident == none) = true
    ∧ ok (exec (.identExpiry 1) (sky1 2 { SkyChain.zero with ident := some (3, 7) } 3000000006 [])) (fun t => (t.chain 1).ident == some (3, 7)) = true := by
  decide +kernel

/-! ### Field I/O -/

/-- Channel 4 in a mode, its record as given, the field supply up. -/
def field4 (mode : Nat) (x : FioChan) (elapsed : Nat) (l : List (Field × Nat)) : State :=
  { maint ([(F.FIO_IOn_CFG.MODE 4, mode), (F.FIO_IOn_STAT.STALE 4, 0), (F.FIO_STAT.FSUP_LOW, 0), (F.FIO_IOn_CFG.SILENCE 4, 5)] ++ l) with
    elapsed := elapsed, fio := sput (fun _ => FioChan.zero) [] 4 x }

/-- An input with the timer 3 as its debounce; the same with a SILENCE of 0, which is reserved. -/
def inputCfg : BitVec 32 := 0x28000 + 0x40 + 0x300 + 1

theorem witness_fieldChannels :
    (field4 0 FioChan.zero 0 []).Sound ∧ (field4 0 FioChan.zero 0 []).answers 12 ∧ base.cfgOpen = false ∧ (maint []).cfgOpen = true
    ∧ bits inputCfg.toNat 1 0 = 1 ∧ bits inputCfg.toNat 7 6 = 1 ∧ bits inputCfg.toNat 24 15 = 5 ∧ bits inputCfg.toNat 11 8 = 3
    ∧ (field4 0 FioChan.zero 0 []).owner (.field 4) = 0 ∧ (field4 0 FioChan.zero 0 []).owner (.timer 3) = 0
    ∧ (∀ m : Fin 16, m ≠ 4 → fioTimer (field4 0 FioChan.zero 0 []) m ≠ some 3)
    ∧ (field4 0 FioChan.zero 0 [(ownerF (.field 4), 0xF)]).owner (.field 4) = 0xF ∧ cField ≠ 0xF ∧ bits (1 : BitVec 32).toNat 24 15 = 0 :=
  ⟨sound (by decide +kernel), answers (by decide +kernel), by decide +kernel⟩

theorem test_fieldCfg : ok (exec (.fieldCfgWrite 4 inputCfg) (field4 0 FioChan.zero 0 [])) (fun t => t.owner (.field 4) == cField && t.owner (.timer 3) == cField) = true
    ∧ ok (exec (.fieldCfgWrite 4 1) (field4 0 FioChan.zero 0 [])) (fun t => t.get F.GEN_WRERR_CNT.COUNT == 1) = true := by decide +kernel

theorem test_fieldCfg_refused : ok (exec (.fieldCfgWrite 4 inputCfg) (field4 0 FioChan.zero 0 [(ownerF (.field 4), 0xF)]))
    (fun t => t.flag (F.FIO_IOn_STAT.CONFLICT 4) && t.get (F.FIO_IOn_CFG.MODE 4) == 0) = true := by decide +kernel

theorem test_fioInput : ok (exec (.fioInput 4 true 99) (field4 1 FioChan.zero 0 [(F.FIO_IOn_CFG.EVT_EN 4, 1)]))
      (fun t => t.flag (fioBit R.FIO_IN 0 4) && t.get (F.FIO_IOn_CNT.EDGES 4) == 1 && t.out.length == 1) = true
    ∧ ok (exec (.fioInput 4 true 99) (field4 1 FioChan.zero 0 [(F.FIO_IOn_STAT.STALE 4, 1)])) (fun t => !(t.fioChan 4).level) = true := by decide +kernel

theorem test_fioOut : ok (exec (.fioOutSet 0x10) (field4 2 FioChan.zero 0 [])) (fun t => t.get F.FIO_OUT.OUT == 0x10 && t.flag (fioBit R.FIO_RB 16 4)) = true
    ∧ ok (exec (.fioOutWrite 0x30) (field4 2 FioChan.zero 0 [])) (fun t => t.get F.FIO_OUT.OUT == 0x10) = true
    ∧ ok (exec (.fioOutClr 0x10) (field4 2 FioChan.zero 0 [(F.FIO_OUT.OUT, 0x10)])) (fun t => t.get F.FIO_OUT.OUT == 0) = true := by decide +kernel

theorem test_pulsePhase :
    let l := [(F.FIO_IOn_CFG.OSRC 4, 1), (F.FIO_OUT.OUT, 0x10), (F.FIO_IOn_PULSE.ON_MS 4, 3)]
    ok (exec (.pulsePhaseExpiry 4) (field4 2 { FioChan.zero with phase := true } 3000000 l)) (fun t => !(t.fioChan 4).phase && (t.fioChan 4).phaseAt == 3000000) = true
    ∧ ok (exec (.pulsePhaseExpiry 4) (field4 2 { FioChan.zero with phase := true } 2999999 l)) (fun t => (t.fioChan 4).phase) = true := by decide +kernel

theorem test_overtemp : ok (exec (.outputOvertemp 4) (field4 2 FioChan.zero 5 [(F.FIO_OUT.OUT, 0x10)])) (fun t => (t.fioChan 4).hot
      && !t.flag (fioBit R.FIO_RB 16 4)) = true
    ∧ ok (exec (.outputOvertempRecover 4) (field4 2 { FioChan.zero with hot := true } 100000000 [(F.FIO_OUT.OUT, 0x10)])) (fun t => !(t.fioChan 4).hot
      && t.flag (fioBit R.FIO_RB 16 4)) = true := by decide +kernel

theorem test_outputDiag : ok (exec .outputDiagEvaluation (field4 2 { FioChan.zero with heldSince := 1 } 0 []))
    (fun t => (t.fioChan 4).heldSince == 0 && (sget (fun _ => Tally.zero) (t.fioChan 4).tally 0).hist == 1) = true := by decide +kernel

theorem test_couplerFrame : ok (exec (.couplerFrame 4 .toField) (field4 2 { FioChan.zero with reset := true } 9 [])) (fun t => !(t.fioChan 4).reset
      && (t.fioChan 4).outAt == 9) = true
    ∧ ok (exec (.couplerFrame 4 (.fromField true none true false false)) (field4 2 FioChan.zero 9 [(F.FIO_IOn_STAT.STALE 4, 1)]))
      (fun t => !t.flag (F.FIO_IOn_STAT.STALE 4) && t.flag (F.FIO_IOn_STAT.OVL 4) && t.out.length == 1) = true := by decide +kernel

theorem test_channelStale : ok (exec (.channelStale 4) (field4 1 FioChan.zero 1000000 [])) (fun t => t.flag (F.FIO_IOn_STAT.STALE 4)) = true
    ∧ ok (exec (.channelStale 4) (field4 1 FioChan.zero 999999 [])) (fun t => !t.flag (F.FIO_IOn_STAT.STALE 4)) = true := by decide +kernel

theorem test_silence : ok (exec (.silenceTimeout 4) (field4 2 FioChan.zero 5000000 [])) (fun t => t.flag (F.FIO_IOn_STAT.SAFE 4)
      && t.get (F.FIO_IOn_CNT.SILENCES 4) == 1) = true
    ∧ ok (exec (.silenceTimeout 4) (field4 2 FioChan.zero 4999999 [])) (fun t => !t.flag (F.FIO_IOn_STAT.SAFE 4)) = true := by decide +kernel

theorem test_fioSafeClr : ok (exec (.fioSafeClr 0x10) (field4 2 { FioChan.zero with resumed := true } 0 [(F.FIO_IOn_STAT.SAFE 4, 1)]))
      (fun t => !t.flag (F.FIO_IOn_STAT.SAFE 4)) = true
    ∧ ok (exec (.fioSafeClr 0x10) (field4 2 FioChan.zero 0 [(F.FIO_IOn_STAT.SAFE 4, 1)])) (fun t => t.flag (F.FIO_IOn_STAT.SAFE 4)) = true := by decide +kernel

theorem test_vmainLoss : ok (exec .vmainLoss (field4 2 FioChan.zero 0 [(F.FIO_OUT.OUT, 0x10)])) (fun t => (t.fioChan 4).reset && t.out == [.fieldReset]
    && !t.flag (fioBit R.FIO_RB 16 4)) = true := by decide +kernel

theorem test_fsup : ok (exec (.fsupLow 179) (field4 2 FioChan.zero 0 [])) (fun t => t.flag F.FIO_STAT.FSUP_LOW && t.out.length == 1) = true
    ∧ ok (exec (.fsupLow 180) (field4 2 FioChan.zero 0 [])) (fun t => !t.flag F.FIO_STAT.FSUP_LOW) = true
    ∧ ok (exec (.fsupHandover 192) (field4 2 FioChan.zero 0 [(F.FIO_STAT.FSUP_LOW, 1)])) (fun t => !t.flag F.FIO_STAT.FSUP_LOW
      && t.get F.FIO_STAT.SRC == 1) = true := by decide +kernel

end Sys2Proof.Tests
end

section
/-! PROOFS. Steps of an empty queue, and the registers after reset (O2, O6). -/

namespace Sys2Proof.Machine

/-! ### One nanosecond (R383) -/

/-- A nanosecond changes the timebase, its fraction and the model's clock only. -/
theorem tick_eq (s : State) :
    ∃ now frac, tick s = { s with now := now, elapsed := s.elapsed + 1, tb := { s.tb with frac := frac } } := by
  unfold tick
  split
  · exact ⟨s.now, s.tb.frac, rfl⟩
  · exact ⟨_, _, rfl⟩

theorem step_of_no_command {s : State} (h : s.pending = []) : step s = .next (tick s) := by
  rw [step, h]

theorem tick_held {s : State} (h : s.start.held = true) : tick s = { s with elapsed := s.elapsed + 1 } := by
  rw [tick, if_pos h]

/-- With no frequency correction and no fraction left the timebase counts exactly one nanosecond. -/
theorem tick_uncorrected {s : State} (h : s.start.held = false) (hf : s.read R.CLK_TB_FREQ = 0) (h0 : s.tb.frac = 0) :
    tick s = { s with now := s.now + 1, elapsed := s.elapsed + 1 } := by
  have hp : s.get F.CLK_TB_FREQ.PPB = 0 := by
    show bits (s.read R.CLK_TB_FREQ).toNat _ _ = 0
    rw [hf]; rfl
  have hn : (1000000000 + sgn 32 0 + ((0 : Nat) : Int)).toNat = 1000000000 := by decide
  simp only [tick, hp, h0, hn, h, Bool.false_eq_true, if_false]
  have e : ({ s.tb with frac := 1000000000 % 1000000000 } : TimebaseState) = s.tb := by
    rw [Nat.mod_self, ← h0]
  rw [e]; rfl

/-- Settles O2: a step of an empty queue is `tick`, by its two cases, held in reset or counting. -/
theorem emptyQueueStepIsANanosecond : Obligations.EmptyQueueStepIsANanosecond := by
  unfold Obligations.EmptyQueueStepIsANanosecond
  intro s hq
  rw [step_of_no_command hq]
  refine ⟨?_, fun h => congrArg _ (tick_held h), fun h hf h0 => congrArg _ (tick_uncorrected h hf h0)⟩
  obtain ⟨now, frac, h⟩ := tick_eq s
  exact ⟨now, frac, congrArg _ h⟩

/-! ### The registers after reset -/

theorem reset_read (a : Nat) : State.reset.read a = resetVal a := rfl

theorem resetVal_none {a : Nat} (h : regRow a = none) : resetVal a = 0 := by rw [resetVal, h]

theorem resetVal_ownAddr (r : Resource) : resetVal (ownAddr r) = 0 := by
  cases r with
  | pin n => revert n; decide +kernel
  | rowSwitch n => revert n; decide +kernel
  | msync => decide +kernel
  | modulator k => revert k; decide +kernel
  | field n => revert n; decide +kernel
  | timer n => revert n; decide +kernel
  | buffer n => revert n; decide +kernel
  | context n => revert n; decide +kernel

theorem reset_ringEn (k : RingKind) (n : Fin 16) : State.reset.flag (ringEn k n) = false := by
  cases k <;> (revert n; decide +kernel)

/-- Settles O6: the register file is empty after reset, so that every register reads the value of its table. -/
theorem resetRegisterValues : Obligations.ResetRegisterValues := by
  unfold Obligations.ResetRegisterValues
  refine ⟨reset_read, fun a => resetVal_none, resetVal_ownAddr, reset_ringEn, ?_, ?_, fun p => ?_, ?_, ?_⟩
  · decide +kernel
  · decide +kernel
  · cases p <;> decide +kernel
  · decide +kernel
  · decide +kernel

end Sys2Proof.Machine
end

section
/-! PROOFS. BAR0 writes of registers without behaviour of their own: plain fields, reserved encodings and event flags (O8). -/

namespace Sys2Proof.Machine

/-! ### Differing in some registers only -/

theorem OnlyRegs.refl (l : List Nat) (s : State) : OnlyRegs l s s := ⟨rfl, fun _ _ => rfl⟩

theorem OnlyRegs.write {l : List Nat} {o s : State} {a : Nat} {w : Word} (h : OnlyRegs l o s) (ha : a ∈ l) :
    OnlyRegs l o (s.write a w) :=
  ⟨h.1, fun b hb => (State.read_write_ne s w fun e => hb (by rwa [e])).trans (h.2 b hb)⟩

theorem OnlyRegs.set {l : List Nat} {o s : State} {f : Field} {v : Nat} (h : OnlyRegs l o s) (hf : f.addr ∈ l) :
    OnlyRegs l o (s.set f v) := h.write hf

/-- What `wrErr` does is what an ignored write does (R8). -/
theorem ignored_wrErr {s : State} (h : s.wf = true) : Ignored s s.wrErr :=
  ⟨State.get_bump_same h rfl, (OnlyRegs.refl _ s).set (List.mem_singleton.mpr rfl)⟩

theorem storeReg_onlyRegs (s : State) (addr v : Nat) : OnlyRegs [addr] s (storeReg s addr v) := by
  unfold storeReg
  split
  · exact OnlyRegs.refl _ s
  · exact (OnlyRegs.refl _ s).write (List.mem_singleton.mpr rfl)

/-- A field of a register not listed reads as before. -/
theorem OnlyRegs.get {l : List Nat} {s t : State} (h : OnlyRegs l s t) {f : Field} (hf : f.addr ∉ l) : t.get f = s.get f := by
  rw [State.get, State.get, h.2 _ hf]

/-- A write that leaves the count of ignored writes as it was is not counted. -/
theorem countOnce_of_get_eq {s t : State} (h : t.get F.GEN_WRERR_CNT.COUNT = s.get F.GEN_WRERR_CNT.COUNT) : countOnce s t = t :=
  countOnce_of_le (by omega)

/-! ### What a write hands on -/

theorem ofNat_writable (v : Nat) (r : RegRow) :
    BitVec.ofNat 32 (v % 2 ^ 32 &&& writableMask r) = BitVec.ofNat 32 v &&& (r.rw ||| r.w1c ||| r.wo ||| r.rwl) := by
  rw [BitVec.ofNat_and, writableMask, BitVec.ofNat_toNat, BitVec.setWidth_eq]
  congr 1
  exact BitVec.eq_of_toNat_eq (by simp)

/-- Bits of a number under a mask that has them all. -/
theorem bits_and_ones {v m hi lo : Nat} (hm : bits m hi lo = 2 ^ (hi - lo + 1) - 1) : bits (v &&& m) hi lo = bits v hi lo := by
  apply Nat.eq_of_testBit_eq
  intro i
  have h := congrArg (fun n => n.testBit i) hm
  simp only [testBit_bits, Nat.testBit_two_pow_sub_one] at h ⊢
  rw [Nat.testBit_and]
  by_cases hi' : i < hi - lo + 1
  · simp only [hi', decide_true, Bool.true_and] at h ⊢
    rw [h, Bool.and_true]
  · simp [hi']

theorem sgn_and_ones {v m : Nat} (hm : bits m 15 0 = 2 ^ 16 - 1) : sgn 16 (v &&& m) = sgn 16 v := by
  have h := bits_and_ones (v := v) hm
  simp only [bits, Nat.pow_zero, Nat.div_one] at h
  simp only [sgn]
  rw [h]

/-! ### Registers that take writes in every state -/

/-- A register at a word address that takes writes in every life-cycle state (R4, R158), other than the count of ignored writes. -/
structure OpenReg (addr : Nat) (r : RegRow) : Prop where
  row : regRow addr = some r
  word : addr % 4 = 0
  config : configReg addr = false
  rwl : r.rwl = 0
  other : addr ≠ R.GEN_WRERR_CNT

/-- The check of that. -/
def isOpenReg (addr : Nat) : Bool :=
  addr % 4 == 0 && !configReg addr && addr != R.GEN_WRERR_CNT && (regRow addr).any (·.rwl == 0)

theorem exists_openReg {addr : Nat} (h : isOpenReg addr = true) : ∃ r, OpenReg addr r := by
  unfold isOpenReg at h
  simp only [Bool.and_eq_true, beq_iff_eq, Bool.not_eq_true', bne_iff_ne, Option.any_eq_true] at h
  obtain ⟨⟨⟨hw, hc⟩, ho⟩, r, hr, hl⟩ := h
  exact ⟨r, hr, hw, hc, hl, ho⟩

/-- The registers with behaviour of their own, or with reserved encodings, that stand alone. -/
def actingRegs : List Nat :=
  [R.GEN_LC_REQ, R.GEN_CTL, R.CLK_CTL, R.CLK_GATE, R.CLK_KRF_OPP, R.CLK_TB_CFG, R.CLK_TB_SEC, R.PRB_CTL, R.PRB_LASER_CFG,
   R.PRB_LOOP_CFG, R.KRF_CTL, R.SCL_CTL, R.SCL_CFG, R.SCL_BASE_TEMP, R.SCL_COMP_CFG, R.BKG_CTL, R.CRU_CTL, R.CRU_TRK_CFG,
   R.CRU_TRK_CONF, R.BLZ_CTL, R.BLZ_MX_CFG, R.BLZ_MX_CTL, R.CAL_CTL, R.WDG_CTL, R.WDG_UNBLOCK, R.MRK_CTL, R.MRK_CFG,
   R.MRK_HREQ_SET, R.MRK_HREQ_CLR, R.MRK_LATCH_CLR, R.SKY_CTL, R.SKY_TALLY, R.FIO_CTL, R.FIO_OUT, R.FIO_OUT_SET, R.FIO_OUT_CLR,
   R.FIO_SAFE_CLR, R.FIO_TALLY0, R.FIO_TALLY1, R.HIF_CTL, R.FLM_CTL, R.CHP_CTL, R.DCK_CTL, R.DCK_RING_CFG, R.DCK_PART, R.LND_CTL,
   R.LND_PART, R.SST_CTL]

/-- The families of such registers, with the number of registers in each. -/
def actingFamilies : List ((Nat → Nat) × Nat) :=
  [(R.PRB_Px_CFG, 2), (R.PRB_Px_POWER, 2), (R.PRB_Px_GIC, 2), (R.PRB_Px_CUT_CFG, 2), (R.PRB_Px_CUT_TALLY, 2), (R.KRF_Px_CFG, 2),
   (R.BKG_FPn_CFG, 16), (R.BKG_FPn_SWAP, 16), (R.BLZ_Bb_CFG, 8), (R.BLZ_Bb_CTL, 8),
   (fun n => R.BLZ_Bb_PINk (n / 12) (n % 12), 96), (R.CAL_Un_CTL, 4), (R.CAL_Un_URG_CFG, 4), (R.CAL_Un_URG, 4), (R.SKY_Cc_CFG, 4),
   (R.SKY_Cc_CTL, 4), (R.FIO_IOn_CFG, 16), (R.FIO_IOn_DEB, 16), (R.FIO_IOn_PULSE, 16), (R.HIF_MSIX_CTL, 32), (R.FLM_Pp_CFG, 2)]

/-- Registers of which a write does no more than the plain effect of R4: no ownership or ring register, and none of those above. -/
def storesOnly (addr : Nat) : Bool :=
  (ownAt addr).isNone && (ringAt addr).isNone && actingRegs.all (addr != ·)
    && actingFamilies.all (fun f => (instanceAt f.1 f.2 addr).isNone)
    && !(List.range 8).any fun b => addr == R.BLZ_Bb_SEGVF0 b || addr == R.BLZ_Bb_SEGVF1 b || addr == R.BLZ_Bb_SEGVF2 b

/-- A write of such a register is its plain effect, block by block. -/
theorem regWrite_storesOnly {s : State} {addr v : Nat} (h : storesOnly addr = true) :
    regWrite s addr v = storeReg s addr v := by
  simp only [storesOnly, actingRegs, actingFamilies, List.all_cons, List.all_nil, Bool.and_eq_true, bne_iff_ne, ne_eq,
    Option.isNone_iff_eq_none, Bool.not_eq_true'] at h
  obtain ⟨⟨⟨⟨hown, hring⟩, hreg⟩, hfam⟩, hvf⟩ := h
  rw [regWrite, hown]
  dsimp only
  split
  · simp only [genWrite, hreg, if_false]
  · simp only [clkWrite, hreg, if_false]
  · simp only [prbWrite, hreg, hfam, if_false]
  · simp only [krfWrite, hreg, hfam, if_false]
  · simp only [sclWrite, hreg, if_false]
  · simp only [bkgWrite, hreg, hfam, if_false]
  · simp only [cruWrite, hreg, if_false]
  · simp only [blzWrite, hreg, hfam, hvf, if_false, Bool.false_and, Bool.false_eq_true]
  · simp only [calWrite, hreg, hfam, if_false]
  · simp only [wdgWrite, hreg, if_false]
  · simp only [mrkWrite, hreg, if_false]
  · simp only [skyWrite, hreg, hfam, if_false]
  · simp only [fioWrite, hreg, hfam, if_false]
  · simp only [hifWrite, hreg, hring, hfam, if_false]
  · simp only [flmWrite, hreg, hfam, if_false]
  · simp only [hreg, if_false]
  · simp only [dckWrite, hreg, if_false]
  · simp only [lndWrite, hreg, if_false]
  · simp only [hreg, if_false]

/-! ### Writes of registers without behaviour of their own -/

/-- An accepted write of such a register, before its ignored writes are counted once. -/
theorem hostWrite_open {s : State} {addr : Nat} {r : RegRow} (h : OpenReg addr r) (ha : s.answers (addr / 0x10000)) (v : Nat) :
    hostWrite s addr 4 v = countOnce s (regWrite s addr (v % 2 ^ 32 &&& writableMask r)) :=
  hostWrite_four h.row h.word ha (by simp [stateAdmits, h.rwl, h.config])

/-- A plain effect is not counted. -/
theorem countOnce_storeReg {s : State} {addr : Nat} {r : RegRow} (h : OpenReg addr r) (v : Nat) :
    countOnce s (storeReg s addr v) = storeReg s addr v :=
  countOnce_of_get_eq ((storeReg_onlyRegs s addr v).get fun hm => h.other (List.mem_singleton.mp hm).symm)

/-- A plain effect on a register without W1C bits stores the RW bits (R4, R5). -/
theorem stored_storeReg {s : State} {addr : Nat} {r : RegRow} (hw : s.wf = true) (h : OpenReg addr r) (hc : r.w1c = 0) (v : Nat) :
    Stored addr v s (storeReg s addr (v % 2 ^ 32 &&& writableMask r)) := by
  refine ⟨?_, storeReg_onlyRegs s addr _⟩
  rw [storeReg_read hw h.row, ofNat_writable, rwMask, h.row, h.rwl, hc, BitVec.ofNat_toNat, BitVec.setWidth_eq]
  ext i hi
  simp only [BitVec.getElem_or, BitVec.getElem_and, BitVec.getElem_not, BitVec.ofNat_eq_ofNat, BitVec.getElem_zero]
  cases r.rw[i] <;> simp

/-- A plain effect on a register without RW bits clears the W1C bits written 1 (R4). -/
theorem storeReg_w1c {s : State} {addr : Nat} {r : RegRow} (hw : s.wf = true) (h : OpenReg addr r) (hrw : r.rw = 0) (v : Nat) :
    (storeReg s addr (v % 2 ^ 32 &&& writableMask r)).read addr = s.read addr &&& ~~~(BitVec.ofNat 32 v &&& r.w1c) := by
  rw [storeReg_read hw h.row, ofNat_writable, h.rwl, hrw]
  ext i hi
  simp only [BitVec.getElem_or, BitVec.getElem_and, BitVec.getElem_not, BitVec.ofNat_eq_ofNat, BitVec.getElem_zero]
  cases r.w1c[i] <;> cases (s.read addr)[i] <;> simp

theorem plainRegs_ok : ∀ a ∈ plainRegs, isOpenReg a = true ∧ storesOnly a = true ∧ (regRow a).map (·.w1c) = some 0 := by
  decide +kernel

theorem eventRegs_ok : ∀ a ∈ eventRegs, isOpenReg a = true ∧ storesOnly a = true ∧ (regRow a).map (·.rw) = some 0 := by
  decide +kernel

theorem registerWrite_plain {s : State} {addr : Nat} (hs : s.Sound) (ha : s.answers (addr / 0x10000)) (hm : addr ∈ plainRegs)
    (v : BitVec 64) : Gives (.registerWrite addr 4 v) s (Stored addr v.toNat s) := by
  obtain ⟨ho, hp, hc⟩ := plainRegs_ok addr hm
  obtain ⟨r, hr⟩ := exists_openReg ho
  rw [hr.row, Option.map_some, Option.some_inj] at hc
  refine ⟨_, rfl, ?_⟩
  rw [hostWrite_open hr ha, regWrite_storesOnly hp, countOnce_storeReg hr]
  exact stored_storeReg hs.wf hr hc _

theorem registerWrite_event {s : State} {addr : Nat} (hs : s.Sound) (ha : s.answers (addr / 0x10000)) (hm : addr ∈ eventRegs)
    (v : BitVec 64) : Gives (.registerWrite addr 4 v) s fun t =>
      t.read addr = s.read addr &&& ~~~(v.setWidth 32 &&& ((regRow addr).map (·.w1c)).getD 0) ∧ OnlyRegs [addr] s t := by
  obtain ⟨ho, hp, hrw⟩ := eventRegs_ok addr hm
  obtain ⟨r, hr⟩ := exists_openReg ho
  rw [hr.row, Option.map_some, Option.some_inj] at hrw
  refine ⟨_, rfl, ?_⟩
  rw [hostWrite_open hr ha, regWrite_storesOnly hp, countOnce_storeReg hr]
  refine ⟨?_, storeReg_onlyRegs s addr _⟩
  rw [storeReg_w1c hs.wf hr hrw, hr.row, BitVec.ofNat_toNat]
  rfl

/-! ### Registers with reserved encodings -/

theorem regWrite_laserCfg (s : State) (v : Nat) :
    regWrite s R.PRB_LASER_CFG v = if bits v 7 0 = 0 then s.wrErr else storeReg s R.PRB_LASER_CFG v := rfl

theorem regWrite_loopCfg (s : State) (v : Nat) :
    regWrite s R.PRB_LOOP_CFG v = if 10 < bits v 24 21 then s.wrErr else storeReg s R.PRB_LOOP_CFG v := rfl

theorem regWrite_gic (s : State) (p : Fin 2) (v : Nat) : regWrite s (R.PRB_Px_GIC p) v
    = if 0x4000 ≤ bits v 15 0 ∧ bits v 15 0 ≤ 0xBFFF then storeReg s (R.PRB_Px_GIC p) v else s.wrErr := by
  match p with
  | 0 => rfl
  | 1 => rfl

theorem regWrite_kerfCfg (s : State) (p : Fin 2) (v : Nat) : regWrite s (R.KRF_Px_CFG p) v
    = if 2 ≤ bits v 6 0 ∧ bits v 6 0 ≤ 64 ∧ 1 ≤ bits v 19 16 ∧ bits v 19 16 ≤ 12 then storeReg s (R.KRF_Px_CFG p) v
      else s.wrErr := by
  match p with
  | 0 => rfl
  | 1 => rfl

theorem regWrite_sclCfg (s : State) (v : Nat) : regWrite s R.SCL_CFG v
    = if 6 ≤ bits v 7 4 ∧ bits v 7 4 ≤ 14 then storeReg s R.SCL_CFG v else s.wrErr := rfl

theorem regWrite_baseTemp (s : State) (v : Nat) : regWrite s R.SCL_BASE_TEMP v
    = if -4000 ≤ sgn 16 v ∧ sgn 16 v ≤ 30000 then storeReg s R.SCL_BASE_TEMP v else s.wrErr := rfl

theorem regWrite_compCfg (s : State) (v : Nat) : regWrite s R.SCL_COMP_CFG v
    = if 100 ≤ bits v 9 0 ∧ bits v 9 0 ≤ 1000 then storeReg s R.SCL_COMP_CFG v else s.wrErr := rfl

theorem regWrite_trkCfg (s : State) (v : Nat) :
    regWrite s R.CRU_TRK_CFG v = if bits v 27 16 = 0 then s.wrErr else storeReg s R.CRU_TRK_CFG v := rfl

theorem regWrite_trkConf (s : State) (v : Nat) : regWrite s R.CRU_TRK_CONF v
    = if bits v 7 0 = 0 ∨ bits v 23 16 = 0 then s.wrErr else storeReg s R.CRU_TRK_CONF v := rfl

theorem regWrite_urgCfg (s : State) (u : Fin 4) (v : Nat) : regWrite s (R.CAL_Un_URG_CFG u) v
    = if bits v 15 13 = 7 then s.wrErr else storeReg s (R.CAL_Un_URG_CFG u) v := by
  match u with
  | 0 => rfl
  | 1 => rfl
  | 2 => rfl
  | 3 => rfl

/-- A field of `hi − lo + 1` bits is below that power of two. -/
theorem bits_lt (v hi lo : Nat) : bits v hi lo < 2 ^ (hi - lo + 1) := Nat.mod_lt _ (Nat.two_pow_pos _)

/-- A choice by what is refused is the choice by what is accepted. -/
theorem ite_refused {p : Prop} [Decidable p] {q : Bool} {s t : State} (h : p ↔ q = false) :
    (if p then s else t) = if q then t else s := by
  cases q with
  | false => rw [if_pos (h.mpr rfl), if_neg Bool.false_ne_true]
  | true => rw [if_neg fun hp => absurd (h.mp hp) (by decide), if_pos rfl]

/-- A choice by what is accepted, as a condition and as its check. -/
theorem ite_accepted {p : Prop} [Decidable p] {q : Bool} {s t : State} (h : p ↔ q = true) :
    (if p then s else t) = if q then s else t := by
  by_cases hp : p
  · rw [if_pos hp, if_pos (h.mp hp)]
  · rw [if_neg hp, if_neg fun hq => hp (h.mpr hq)]

/-- A write of a register with reserved encodings has its plain effect, or is refused (R7). -/
theorem regWrite_checked : ∀ e ∈ checkedRegs, ∀ (s : State) (v : Nat),
    regWrite s e.1 v = if e.2 v then storeReg s e.1 v else s.wrErr := by
  have urg (s : State) (u : Fin 4) (v : Nat) : regWrite s (R.CAL_Un_URG_CFG u) v
      = if decide (bits v 15 13 ≤ 6) then storeReg s (R.CAL_Un_URG_CFG u) v else s.wrErr := by
    have h8 : bits v 15 13 < 8 := bits_lt v 15 13
    exact (regWrite_urgCfg s u v).trans (ite_refused (by rw [decide_eq_false_iff_not]; omega))
  simp only [checkedRegs, List.forall_mem_cons, List.not_mem_nil, false_imp_iff, implies_true, and_true]
  refine ⟨fun s v => ?_, fun s v => ?_, fun s v => ?_, fun s v => ?_, fun s v => ?_, fun s v => ?_, fun s v => ?_, fun s v => ?_,
    fun s v => ?_, fun s v => ?_, fun s v => ?_, fun s => urg s 0, fun s => urg s 1, fun s => urg s 2, fun s => urg s 3⟩
  · exact (regWrite_laserCfg s v).trans (ite_refused (by rw [decide_eq_false_iff_not]; omega))
  · exact (regWrite_loopCfg s v).trans (ite_refused (by rw [decide_eq_false_iff_not]; omega))
  · exact (regWrite_gic s 0 v).trans (ite_accepted (by simp only [Bool.and_eq_true, decide_eq_true_eq]))
  · exact (regWrite_gic s 1 v).trans (ite_accepted (by simp only [Bool.and_eq_true, decide_eq_true_eq]))
  · exact (regWrite_kerfCfg s 0 v).trans (ite_accepted (by simp only [Bool.and_eq_true, decide_eq_true_eq, and_assoc]))
  · exact (regWrite_kerfCfg s 1 v).trans (ite_accepted (by simp only [Bool.and_eq_true, decide_eq_true_eq, and_assoc]))
  · exact (regWrite_sclCfg s v).trans (ite_accepted (by simp only [Bool.and_eq_true, decide_eq_true_eq]))
  · exact (regWrite_baseTemp s v).trans (ite_accepted (by simp only [Bool.and_eq_true, decide_eq_true_eq]))
  · exact (regWrite_compCfg s v).trans (ite_accepted (by simp only [Bool.and_eq_true, decide_eq_true_eq]))
  · exact (regWrite_trkCfg s v).trans (ite_refused (by rw [decide_eq_false_iff_not]; omega))
  · exact (regWrite_trkConf s v).trans (ite_refused (by
      rw [Bool.and_eq_false_iff, decide_eq_false_iff_not, decide_eq_false_iff_not]; omega))

/-- The bits of the register at an address that a write can change or act on. -/
def writableAt (addr : Nat) : Nat := ((regRow addr).map writableMask).getD 0

/-- What is reserved does not depend on bits that a write cannot change. -/
theorem checked_writable : ∀ e ∈ checkedRegs, ∀ n, e.2 (n &&& writableAt e.1) = e.2 n := by
  simp only [checkedRegs, List.forall_mem_cons, List.not_mem_nil, false_imp_iff, implies_true, and_true]
  refine ⟨fun n => ?_, fun n => ?_, fun n => ?_, fun n => ?_, fun n => ?_, fun n => ?_, fun n => ?_, fun n => ?_,
    fun n => ?_, fun n => ?_, fun n => ?_, fun n => ?_, fun n => ?_, fun n => ?_, fun n => ?_⟩
  -- KRF_Px_CFG and CRU_TRK_CONF check two fields, SCL_BASE_TEMP a signed one, every other register one field.
  case refine_5 | refine_6 | refine_11 => rw [bits_and_ones (by decide +kernel), bits_and_ones (by decide +kernel)]
  case refine_8 => rw [sgn_and_ones (by decide +kernel)]
  all_goals rw [bits_and_ones (by decide +kernel)]

theorem checkedRegs_ok : ∀ e ∈ checkedRegs, isOpenReg e.1 = true ∧ (regRow e.1).map (·.w1c) = some 0 := by decide +kernel

theorem registerWrite_checked {s : State} (hs : s.Sound) {e : Nat × (Nat → Bool)} (ha : s.answers (e.1 / 0x10000))
    (hm : e ∈ checkedRegs) (v : BitVec 64) : Gives (.registerWrite e.1 4 v) s fun t =>
      if e.2 (v.toNat % 2 ^ 32) then Stored e.1 v.toNat s t else Ignored s t := by
  obtain ⟨ho, hc⟩ := checkedRegs_ok e hm
  obtain ⟨r, hr⟩ := exists_openReg ho
  rw [hr.row, Option.map_some, Option.some_inj] at hc
  have hv : writableAt e.1 = writableMask r := by rw [writableAt, hr.row]; rfl
  refine ⟨_, rfl, ?_⟩
  rw [hostWrite_open hr ha, regWrite_checked e hm, ← hv, checked_writable e hm, hv]
  split
  · rw [countOnce_storeReg hr]
    exact stored_storeReg hs.wf hr hc _
  · rw [countOnce_wrErr hs.wf]
    exact ignored_wrErr hs.wf

/-- Settles O8, by the three kinds of registers: plain ones, those with reserved encodings, and event flags. -/
theorem registerWriteSetsFields : Obligations.RegisterWriteSetsFields := by
  unfold Obligations.RegisterWriteSetsFields
  intro s addr v hs ha
  refine ⟨fun hm => registerWrite_plain hs ha hm v, fun e he hea => ?_, fun hm => registerWrite_event hs ha hm v⟩
  subst hea
  exact registerWrite_checked hs ha he v

end Sys2Proof.Machine
end

section
/-! PROOFS. Reads of low words, which snapshot the rest of a value (O10). -/

namespace Sys2Proof.Machine

/-! ### Reads -/

/-- A word read of a block that answers is the register's own answer. -/
theorem readAccess_four {s : State} {addr : Nat} (h : s.readable (addr / 0x10000)) (hr : (regRow addr).isSome = true)
    (ha : addr % 4 = 0) :
    readAccess s addr 4 = (regRead s addr).1.emit (.readData addr ((regRead s addr).2 % 2 ^ 32)) := by
  obtain ⟨h1, h2, h3⟩ := h
  have hb : addr / 4 * 4 = addr := Nat.div_mul_cancel (Nat.dvd_of_mod_eq_zero ha)
  have hn : (regRow addr).isNone = false := by rw [← Option.not_isSome, hr]; rfl
  simp [readAccess, hb, readWord, h1, h2, h3, hn, ha]

/-- What a read of a low word does: the rest stands in the _HI register, and nothing else changes (R6). -/
def Snapshots (lo hi low : Nat) (rest : Word) (s t : State) : Prop :=
  t.read hi = rest ∧ t.out = .readData lo low :: s.out ∧ { t with regs := s.regs, out := s.out } = s
    ∧ ∀ a, a ≠ hi → t.read a = s.read a

/-- A register whose answer is its low word, with the rest written to the _HI register, snapshots the rest. -/
theorem snapshots_of_regRead {s : State} {lo hi low w : Nat} (h : s.readable (lo / 0x10000)) (hr : (regRow lo).isSome = true)
    (ha : lo % 4 = 0) (hl : low < 2 ^ 32) (hg : regRead s lo = (s.write hi (BitVec.ofNat 32 w), low)) :
    Gives (.loRegisterSnapshotRead lo 4) s (Snapshots lo hi low (BitVec.ofNat 32 w) s) := by
  refine ⟨_, rfl, ?_⟩
  rw [readAccess_four h hr ha, hg, Nat.mod_eq_of_lt hl]
  exact ⟨State.read_write_same hi _, rfl, rfl, fun a hne => State.read_write_ne s _ hne⟩

theorem regRead_now (s : State) :
    regRead s R.CLK_TB_NOW_LO = (s.write R.CLK_TB_NOW_HI (BitVec.ofNat 32 (s.tai / 2 ^ 32)), s.tai % 2 ^ 32) := rfl

theorem regRead_sweep (s : State) (p : Port) : regRead s (R.PRB_Px_SWEEP_LO p.num)
    = (s.write (R.PRB_Px_SWEEP_HI p.num) (BitVec.ofNat 32 ((s.probePort p.num).number / 2 ^ 32)),
        (s.read (R.PRB_Px_SWEEP_LO p.num)).toNat) := by
  cases p <;> rfl

theorem regRead_miss (s : State) (c : Fin 4) : regRead s (R.SKY_Cc_MISS_LO c)
    = (s.write (R.SKY_Cc_MISS_HI c) (BitVec.ofNat 32 (missMask s c / 2 ^ 32)), (s.read (R.SKY_Cc_MISS_LO c)).toNat) := by
  match c with
  | 0 => rfl
  | 1 => rfl
  | 2 => rfl
  | 3 => rfl

theorem regRead_ringOld {s : State} {r : RingRec} {rest : List RingRec} (h : s.deck.ring = r :: rest) : regRead s R.DCK_RING_OLD_LO
    = (s.write R.DCK_RING_OLD_HI (BitVec.ofNat 32 (r.launch / 2 ^ 32)), (s.read R.DCK_RING_OLD_LO).toNat) := by
  have e : regRead s R.DCK_RING_OLD_LO = (s.write R.DCK_RING_OLD_HI (BitVec.ofNat 32 (match s.deck.ring.head? with
      | some r => r.launch / 2 ^ 32
      | none => 0)), (s.read R.DCK_RING_OLD_LO).toNat) := rfl
  rw [e, h]; rfl

theorem regRead_archiveOld {s : State} {r : LndRec} {rest : List LndRec} (h : s.landing.archive = r :: rest) :
    regRead s R.LND_ARC_OLD_LO
      = (s.write R.LND_ARC_OLD_HI (BitVec.ofNat 32 (r.time / 2 ^ 32)), (s.read R.LND_ARC_OLD_LO).toNat) := by
  have e : regRead s R.LND_ARC_OLD_LO = (s.write R.LND_ARC_OLD_HI (BitVec.ofNat 32 (match s.landing.archive.head? with
      | some r => r.time / 2 ^ 32
      | none => 0)), (s.read R.LND_ARC_OLD_LO).toNat) := rfl
  rw [e, h]; rfl

/-! ### Masks built bit by bit -/

/-- Setting one bit is replacing a field of width 1. -/
theorem putBit_eq (m h : Nat) (b : Bool) : putBit m h b = m - m / 2 ^ h % 2 ^ 1 * 2 ^ h + b2n b % 2 ^ 1 * 2 ^ h := by
  have hle : m / 2 ^ h % 2 = 1 → 2 ^ h ≤ m := fun h1 => by
    refine Nat.le_of_not_lt fun hlt => ?_
    rw [Nat.div_eq_of_lt hlt] at h1
    exact absurd h1 (by decide)
  rcases Nat.mod_two_eq_zero_or_one (m / 2 ^ h) with h0 | h0
  · cases b <;> simp [putBit, bit, b2n, h0]
  · have := hle h0
    cases b <;> simp [putBit, bit, b2n, h0, this]

theorem testBit_putBit (m h i : Nat) (b : Bool) : (putBit m h b).testBit i = if i = h then b else m.testBit i := by
  rw [putBit_eq, testBit_replace]
  by_cases hi : i = h
  · subst hi
    cases b <;> simp [b2n]
  · have hn : ¬ (h ≤ i ∧ i < h + 1) := by omega
    rw [if_neg hn, if_neg hi]

/-- A mask built from bit 0 up has the bits put into it. -/
theorem testBit_foldl_putBit (f : Nat → Bool) (n i : Nat) :
    ((List.range n).foldl (fun m h => putBit m h (f h)) 0).testBit i = (decide (i < n) && f i) := by
  induction n with
  | zero => simp
  | succ n ih =>
    rw [List.range_succ, List.foldl_append, List.foldl_cons, List.foldl_nil, testBit_putBit, ih]
    by_cases hi : i = n
    · simp [hi]
    · have : i < n + 1 ↔ i < n := by omega
      simp [hi, this]

/-- Bit h of the snapshot of the missing heads is head 32 + h. -/
theorem missing_of_snapshot (s : State) (c : Nat) (h : Fin 32) :
    (BitVec.ofNat 32 (missMask s c / 2 ^ 32)).getLsbD h = ((s.chain c).headAt (32 + h)).missing := by
  have h64 : 32 + h.val < 64 := by omega
  rw [BitVec.getLsbD_ofNat, Nat.testBit_div_two_pow, missMask, Nat.add_comm, testBit_foldl_putBit]
  simp [h64]

/-- Settles O10: each low word's read is the register's answer with its _HI register written. -/
theorem loReadSnapshotsTheRest : Obligations.LoReadSnapshotsTheRest := by
  unfold Obligations.LoReadSnapshotsTheRest
  intro s _
  refine ⟨fun hr => ?_, fun p hr => ?_, fun c hr => ?_, fun r rest hr hd => ?_, fun r rest hr hl => ?_⟩
  · have e : BitVec.ofNat 32 (s.tai / 2 ^ 32) = s.now.extractLsb' 32 32 := by
      rw [BitVec.extractLsb', Nat.shiftRight_eq_div_pow]; rfl
    rw [← e]
    exact snapshots_of_regRead hr (by decide) rfl (Nat.mod_lt _ (by decide)) (regRead_now s)
  · have hb : R.PRB_Px_SWEEP_LO p.num / 0x10000 = 2 := by cases p <;> rfl
    exact snapshots_of_regRead (hb ▸ hr) (by cases p <;> decide) (by cases p <;> rfl) (BitVec.isLt _) (regRead_sweep s p)
  · have hb : R.SKY_Cc_MISS_LO c / 0x10000 = 11 := by revert c; decide
    obtain ⟨t, ht, hi, hrest⟩ := snapshots_of_regRead (hb ▸ hr) (by revert c; decide) (by revert c; decide) (BitVec.isLt _)
      (regRead_miss s c)
    refine ⟨t, ht, fun h => ?_, hrest⟩
    rw [hi, missing_of_snapshot]
  · exact snapshots_of_regRead hr (by decide) rfl (BitVec.isLt _) (regRead_ringOld hd)
  · exact snapshots_of_regRead hr (by decide) rfl (BitVec.isLt _) (regRead_archiveOld hl)

end Sys2Proof.Machine
end

section
/-! PROOFS. A state in which disabling a chain changes a register of Wedge (O49). -/

namespace Sys2Proof.Machine

/-- A group granted aspect 1 whose enable waits to be carried by chain 1 (R263). -/
def waitingGroup : WGroup := { WGroup.zero with cur := some 1, awaiting := [1] }

/-- An image with no entries. -/
def emptyImage : Image := ⟨0, 0, 0, [], [], [], [], [], [], [], []⟩

/-- After reset, in FACTORY, but with chain 1 enabled and no exchange in progress, and with a group that waits for the chain while
its register WDG_G0 still reads 0. -/
def waitedChain : State :=
  { State.reset.set (F.SKY_Cc_CFG.EN 1) 1 with
    wedge := { WedgeState.zero with image := some emptyImage, group := [(0, waitingGroup)] } }

theorem waitedChain_sound : waitedChain.Sound := by
  unfold State.Sound CoreWf DeckWf HostWf FlumeWf LandingWf BkgWf CruWf LampWf RulesWf
  decide +kernel

theorem waitedChain_answers : waitedChain.answers 11 := by
  unfold State.answers
  decide +kernel

/-- Disabling the chain ends the group's wait, which brings its register up to date: CUR 1 and CUR_VALID (R247). -/
theorem waitedChain_disable :
    (hostWrite waitedChain (R.SKY_Cc_CFG 1) 4 0).read (R.WDG_Gg 0) = 9 ∧ waitedChain.read (R.WDG_Gg 0) = 0 := by
  decide +kernel

/-- Refutes O49: disabling a chain with no exchange in progress ends the wait of the groups whose enable it was to carry, and the
model then writes their WDG_Gg registers, which the clause for EN = 0 does not list. `State.Sound` does not say that WDG_Gg already
shows its group's record, and in the sound state `waitedChain`, where it does not, WDG_G0 goes from 0 to 9. -/
theorem not_chainControl : ¬ Obligations.ChainControl := by
  unfold Obligations.ChainControl
  intro h
  obtain ⟨hcfg, -⟩ := h waitedChain waitedChain_sound 1
  obtain ⟨-, -, -, -, hoff⟩ := hcfg waitedChain_answers 0
  obtain ⟨t, ht, -, -, ⟨-, honly⟩, -⟩ := hoff (by decide +kernel) (by decide +kernel) (by decide)
  have e : t = hostWrite waitedChain (R.SKY_Cc_CFG 1) 4 0 := (Host.Outcome.next.inj ht).symm
  have hg : t.read (R.WDG_Gg 0) = waitedChain.read (R.WDG_Gg 0) := honly (R.WDG_Gg 0) (by decide)
  rw [e, waitedChain_disable.1, waitedChain_disable.2] at hg
  exact absurd hg (by decide)

end Sys2Proof.Machine
end

section
/-! PROOFS. Count clears: CNT_CLR of every block (O7). -/

namespace Sys2Proof.Machine

/-! ### Actions over a list -/

/-- What every action leaves as it was, a list of them leaves. -/
theorem State.each_frame {α β : Type} {f : State → α → State} {p : State → β} (hf : ∀ s a, p (f s a) = p s) (l : List α)
    (s : State) : p (s.each l f) = p s := by
  induction l generalizing s with
  | nil => rfl
  | cons a l ih => exact (ih (f s a)).trans (hf s a)

/-- The state with the record of a key replaced by what a function makes of it. -/
def State.update {α : Type} (get : State → Nat → α) (set : State → Nat → α → State) (g : α → α) (s : State)
    (k : Nat) : State := set s k (g (get s k))

/-- Updates of the listed keys of a table, one after another, update the record of every key, where the update does nothing to a
record updated before or not listed. -/
theorem State.get_each_update {α : Type} {get : State → Nat → α} {set : State → Nat → α → State} {g : α → α}
    (same : ∀ {s k v}, get (set s k v) k = v) (ne : ∀ {s k v i}, i ≠ k → get (set s k v) i = get s i)
    (idem : ∀ x, g (g x) = g x) {l : List Nat} {s : State} {i : Nat} (hi : i ∉ l → g (get s i) = get s i) :
    get (s.each l (State.update get set g)) i = g (get s i) := by
  induction l generalizing s with
  | nil => exact (hi List.not_mem_nil).symm
  | cons k l ih =>
    by_cases hk : i = k
    · subst hk
      have e : get (State.update get set g s i) i = g (get s i) := same
      exact (ih fun _ => by rw [e, idem]).trans (by rw [e, idem])
    · have e : get (State.update get set g s k) i = get s i := ne hk
      exact (ih fun hl => by rw [e, hi (by simp [hk, hl])]).trans (by rw [e])

/-- A key that a map does not list has its default. -/
theorem sget_not_listed {α : Type} {d : Nat → α} {m : List (Nat × α)} {k : Nat} (h : k ∉ m.map (·.1)) : sget d m k = d k := by
  induction m with
  | nil => rfl
  | cons e m ih =>
    obtain ⟨j, w⟩ := e
    rw [List.map_cons, List.mem_cons, not_or] at h
    rw [sget, if_neg h.1, ih h.2]

/-! ### Fields set to zero -/

theorem setBits_zero (w : Word) (f : Field) : setBits w f 0 = w &&& ~~~f.mask := by
  rw [setBits_eq, Nat.zero_mod, Nat.zero_mul]
  exact BitVec.or_zero

theorem read_set_zero (s : State) (f : Field) (a : Nat) :
    (s.set f 0).read a = s.read a &&& ~~~(if f.addr = a then f.mask else 0) := by
  by_cases ha : f.addr = a
  · subst ha
    rw [if_pos rfl, State.set, State.read_write_same, setBits_zero]
  · rw [if_neg ha, State.read_set_ne s f 0 (Ne.symm ha)]
    exact BitVec.and_allOnes.symm

/-- Fields set to zero one after another are at zero, and no other bit changes. -/
theorem cleared_clearAll (l : List Field) (s : State) : Cleared l s (s.clearAll l) := by
  induction l generalizing s with
  | nil =>
    intro a
    rw [maskAt]
    exact BitVec.and_allOnes.symm
  | cons f l ih =>
    intro a
    rw [State.clearAll, List.foldl_cons, ← State.clearAll, ih, read_set_zero, BitVec.and_assoc, maskAt, BitVec.not_or]

/-- Actions that leave the registers as they were leave fields cleared. -/
theorem Cleared.each {α : Type} {fs : List Field} {s t : State} {f : State → α → State} (h : Cleared fs s t)
    (hf : ∀ s a, (f s a).regs = s.regs) (l : List α) : Cleared fs s (t.each l f) := by
  intro a
  rw [← h a, State.read, State.each_frame (p := State.regs) hf, State.read]

/-- What setting a field leaves as it was, setting fields to zero leaves. -/
theorem clearAll_frame {β : Type} {p : State → β} (hp : ∀ s f, p (State.set s f 0) = p s) (l : List Field) (s : State) :
    p (s.clearAll l) = p s := State.each_frame hp l s

/-- Clears for each entry of a list are one clear of them all. -/
theorem each_clearAll {α : Type} (l : List α) (g : α → List Field) (s : State) :
    (s.each l fun s i => s.clearAll (g i)) = s.clearAll (l.flatMap g) := by
  unfold State.each State.clearAll
  rw [List.foldl_flatMap]

/-- What neither setting a field nor an action changes, a clear with actions after it leaves. -/
theorem clearAll_each_frame {α β : Type} {p : State → β} {f : State → α → State} (hp : ∀ s g, p (State.set s g 0) = p s)
    (hf : ∀ s a, p (f s a) = p s) {fs : List Field} {l : List α} {s : State} : p ((s.clearAll fs).each l f) = p s :=
  (State.each_frame hf l _).trans (clearAll_frame hp fs s)

/-- A clear with updates of the listed records of a table after it updates the record of every key. -/
theorem get_clearAll_each {α : Type} {get : State → Nat → α} {set : State → Nat → α → State} {g : α → α}
    (same : ∀ {s k v}, get (set s k v) k = v) (ne : ∀ {s k v i}, i ≠ k → get (set s k v) i = get s i)
    (idem : ∀ x, g (g x) = g x) (hset : ∀ s f, get (State.set s f 0) = get s) {fs : List Field} {l : List Nat} {s : State} {i : Nat}
    (hi : i ∉ l → g (get s i) = get s i) : get ((s.clearAll fs).each l (State.update get set g)) i = g (get s i) := by
  have e : get (s.clearAll fs) = get s := clearAll_frame hset fs s
  rw [State.get_each_update same ne idem (by rwa [e]), e]

/-! ### A write that acts through some bits of a register -/

/-- What a write that acts through some bits of a register and leaves the rest hands on. -/
def actValue (s : State) (addr act : Nat) : Nat := (((s.read addr).toNat &&& rwMask addr) ||| act) % 2 ^ 32 &&& writableAt addr

/-- The check that a bit of a register takes a write and is not held. -/
def isActBit (addr i : Nat) : Bool := decide (i < 32) && !(rwMask addr).testBit i && (writableAt addr).testBit i

/-- A bit that is not held is handed on as the write has it. -/
theorem bit_actValue {s : State} {addr act i : Nat} (h : isActBit addr i = true) : bit (actValue s addr act) i = act.testBit i := by
  simp only [isActBit, Bool.and_eq_true, decide_eq_true_eq, Bool.not_eq_true'] at h
  obtain ⟨⟨hi, hm⟩, hw⟩ := h
  rw [actValue, bit_act, hm, hw]
  simp [hi]

/-- The check that a register holds a field through which a write does not act. -/
def isKeptField (f : Field) (act : Nat) : Bool :=
  (List.range f.width).all fun i => decide (f.lo + i < 32) && !act.testBit (f.lo + i) && (rwMask f.addr).testBit (f.lo + i)
    && (writableAt f.addr).testBit (f.lo + i)

/-- A field that the register holds is handed on as it reads. -/
theorem bits_actValue {s : State} {f : Field} {act : Nat} (h : isKeptField f act = true) :
    bits (actValue s f.addr act) f.hi f.lo = s.get f := by
  simp only [isKeptField, List.all_eq_true, List.mem_range, Bool.and_eq_true, decide_eq_true_eq, Bool.not_eq_true'] at h
  rw [State.get]
  apply Nat.eq_of_testBit_eq
  intro i
  rw [testBit_bits, testBit_bits]
  by_cases hi : i < f.width
  · obtain ⟨⟨⟨h32, ha⟩, hm⟩, hw⟩ := h i hi
    rw [← bit_eq_testBit (actValue s f.addr act), actValue, bit_act, ha, hm, hw]
    simp [h32]
  · have : ¬ i < f.hi - f.lo + 1 := hi
    simp [this]

/-- A flag that the register holds is handed on as it reads. -/
theorem bit_actValue_flag {s : State} {addr act i : Nat} (h : isKeptField ⟨addr, i, i⟩ act = true) :
    bit (actValue s addr act) i = s.flag ⟨addr, i, i⟩ := by
  rw [State.flag, ← bits_actValue h, bit, bits, Nat.sub_self, Nat.zero_add, Nat.pow_one]

/-- The check that a register takes writes in every state and has no W1C bit, and that a write acts through none of its RW bits. -/
def isActReg (addr act : Nat) : Bool :=
  isOpenReg addr && (regRow addr).any fun r => r.w1c == 0 && act &&& r.rw.toNat == 0

/-- A write that acts through bits that a register does not hold stores nothing new. -/
theorem storeReg_actValue {s : State} {addr act : Nat} (hs : s.wf = true) (h : isActReg addr act = true) :
    storeReg s addr (actValue s addr act) = s := by
  simp only [isActReg, Bool.and_eq_true, Option.any_eq_true, beq_iff_eq] at h
  obtain ⟨ho, r, hr, hc, hm⟩ := h
  obtain ⟨r', hr'⟩ := exists_openReg ho
  obtain rfl : r' = r := Option.some_inj.mp (hr'.row.symm.trans hr)
  rw [actValue, rwMask, writableAt, hr]
  exact storeReg_act hs hr hr'.rwl hc hm

/-- A write that leaves GEN_WRERR_CNT as it was is no more than the register's own effect (R8). -/
theorem actWrite_uncounted {s t : State} {addr act : Nat} (h : isActReg addr act = true) (ha : s.answers (addr / 0x10000))
    (hw : regWrite s addr (actValue s addr act) = t) (hc : t.read R.GEN_WRERR_CNT = s.read R.GEN_WRERR_CNT) :
    actWrite s addr act = t := by
  simp only [isActReg, Bool.and_eq_true] at h
  obtain ⟨r, hr⟩ := exists_openReg h.1
  have hv : writableAt addr = writableMask r := by rw [writableAt, hr.row]; rfl
  rw [actWrite, hostWrite_open hr ha, ← hv, ← actValue, hw]
  refine countOnce_of_get_eq ?_
  rw [State.get, State.get]
  exact congrArg (fun w : Word => bits w.toNat _ _) hc

/-! ### A block's count clear -/

/-- The CTL register of a block, its first. -/
def ctlReg (b : Nat) : Nat := 0x10000 * b

/-- The bit CNT_CLR of a block's CTL register. -/
def clrBit (b : Nat) : Nat :=
  match b with
  | 3 | 4 => 2
  | 6 => 3
  | _ => 0

/-- The blocks whose CTL register has CNT_CLR. -/
def clrBlocks : List Nat := [1, 3, 4, 5, 6, 7, 8, 9, 10, 11, 12, 13, 14, 15, 16, 17]

/-- Each CTL register takes CNT_CLR and does not hold it, and no count that it clears lies in GEN_WRERR_CNT. -/
theorem clrBlocks_ok : ∀ b ∈ clrBlocks, isActReg (ctlReg b) (2 ^ clrBit b) = true ∧ isActBit (ctlReg b) (clrBit b) = true
    ∧ maskAt (countFields b) R.GEN_WRERR_CNT = 0 := by decide +kernel

/-- What a write of CNT_CLR hands on. -/
def clrValue (s : State) (b : Nat) : Nat := actValue s (ctlReg b) (2 ^ clrBit b)

theorem bit_clrValue {s : State} {b : Nat} (hb : b ∈ clrBlocks) : bit (clrValue s b) (clrBit b) = true := by
  obtain ⟨-, hbit, -⟩ := clrBlocks_ok b hb
  rw [clrValue, bit_actValue hbit, Nat.testBit_two_pow_self]

/-- No other bit acts. -/
theorem bit_clrValue_ne {s : State} {b i : Nat} (hi : clrBit b ≠ i) (h : isActBit (ctlReg b) i = true) :
    bit (clrValue s b) i = false := by
  rw [clrValue, bit_actValue h, Nat.testBit_two_pow_of_ne hi]

/-- The plain effect of a write of CNT_CLR changes nothing. -/
theorem storeReg_clr {s : State} {b : Nat} (hs : s.wf = true) (hb : b ∈ clrBlocks) :
    storeReg s (ctlReg b) (clrValue s b) = s := storeReg_actValue hs (clrBlocks_ok b hb).1

/-- The register's effect is the clear, where a write does nothing else. -/
theorem regWrite_clr {s t : State} {b : Nat} (hb : b ∈ clrBlocks)
    (e : ∀ v, regWrite s (ctlReg b) v = if bit v (clrBit b) then t else s) :
    regWrite s (ctlReg b) (clrValue s b) = t := by
  rw [e, bit_clrValue hb, if_pos rfl]

/-- The register's effect is the clear, where a write does nothing else but store its RW bits. -/
theorem regWrite_store_clr {s : State} {f : State → State} {b : Nat} (hs : s.wf = true) (hb : b ∈ clrBlocks)
    (e : ∀ v, regWrite s (ctlReg b) v = if bit v (clrBit b) then f (storeReg s (ctlReg b) v) else storeReg s (ctlReg b) v) :
    regWrite s (ctlReg b) (clrValue s b) = f s := by
  rw [e, bit_clrValue hb, if_pos rfl, storeReg_clr hs hb]

/-- A write of CNT_CLR gives what it comes down to, a state with the block's counts cleared. -/
theorem gives_cleared {c : Instr} {s t : State} {b : Nat} {P : State → Prop} (hb : b ∈ clrBlocks)
    (he : exec c s = .next (actWrite s (ctlReg b) (2 ^ clrBit b))) (ha : s.answers b)
    (hw : regWrite s (ctlReg b) (clrValue s b) = t) (hc : Cleared (countFields b) s t) (hp : P t) :
    Gives c s fun t => Cleared (countFields b) s t ∧ P t := by
  obtain ⟨hreg, -, hmask⟩ := clrBlocks_ok b hb
  have hblock : ctlReg b / 0x10000 = b := Nat.mul_div_cancel_left b (by decide)
  have hg : t.read R.GEN_WRERR_CNT = s.read R.GEN_WRERR_CNT := by
    rw [hc, hmask]
    exact BitVec.and_allOnes
  rw [← actWrite_uncounted hreg (hblock.symm ▸ ha) hw hg] at hc hp
  exact ⟨_, he, hc, hp⟩

/-- `t` is `s` with a block's count fields at zero and nothing else changed. -/
def OnlyCleared (b : Nat) (s t : State) : Prop := Cleared (countFields b) s t ∧ { t with regs := s.regs } = s

/-- A write of CNT_CLR that comes down to clearing the block's count fields changes nothing else. -/
theorem gives_clearAll {c : Instr} {s : State} {b : Nat} (hb : b ∈ clrBlocks)
    (he : exec c s = .next (actWrite s (ctlReg b) (2 ^ clrBit b))) (ha : s.answers b)
    (hw : regWrite s (ctlReg b) (clrValue s b) = s.clearAll (countFields b)) :
    Gives c s (OnlyCleared b s) :=
  gives_cleared hb he ha hw (cleared_clearAll _ s)
    (clearAll_frame (p := fun t => ({ t with regs := s.regs } : State)) (fun _ _ => rfl) _ s)

/-! ### Blocks whose counts are registers -/

section Registers

variable {s : State}

theorem clkCntClr_gives (ha : s.answers 1) : Gives .clkCntClr s (OnlyCleared 1 s) :=
  gives_clearAll (by decide) rfl ha (regWrite_clr (by decide) fun _ => rfl)

/-- KRF_CTL keeps its format, which is none that R85 reserves. -/
theorem regWrite_kerfClr (hs : s.wf = true) (hf : s.get F.KRF_CTL.RING_FMT < 2) :
    regWrite s (ctlReg 3) (clrValue s 3) = krfCntClr s := by
  have e (v : Nat) : regWrite s (ctlReg 3) v = if 2 ≤ bits v 1 0 then s.wrErr
      else if bit v (clrBit 3) then krfCntClr (storeReg s (ctlReg 3) v) else storeReg s (ctlReg 3) v := rfl
  have hfmt : bits (clrValue s 3) 1 0 = s.get F.KRF_CTL.RING_FMT := bits_actValue (f := F.KRF_CTL.RING_FMT) (by decide)
  rw [e, hfmt, if_neg (by omega), bit_clrValue (by decide), if_pos rfl, storeReg_clr hs (by decide)]

theorem krfCntClr_gives (hs : s.wf = true) (ha : s.answers 3) (hf : s.get F.KRF_CTL.RING_FMT < 2) :
    Gives .krfCntClr s (OnlyCleared 3 s) :=
  gives_clearAll (by decide) rfl ha (regWrite_kerfClr hs hf)

/-- SCL_CTL keeps EN, and no baseline capture is asked for. -/
theorem regWrite_scalerClr (hs : s.wf = true) : regWrite s (ctlReg 4) (clrValue s 4) = sclCntClr s := by
  have e (v : Nat) : regWrite s (ctlReg 4) v =
      (let t := storeReg s (ctlReg 4) v
       let t := if bit v 0 == s.flag F.SCL_CTL.EN then t else staleCheck t
       let t := if bit v 1 then baseCapture t else t
       if bit v (clrBit 4) then sclCntClr t else t) := rfl
  have hen : bit (clrValue s 4) 0 = s.flag F.SCL_CTL.EN := bit_actValue_flag (by decide)
  have hcap : bit (clrValue s 4) 1 = false := bit_clrValue_ne (by decide) (by decide)
  simp [e, hen, hcap, bit_clrValue (show 4 ∈ clrBlocks by decide), storeReg_clr hs (show 4 ∈ clrBlocks by decide)]

theorem sclCntClr_gives (hs : s.wf = true) (ha : s.answers 4) : Gives .sclCntClr s (OnlyCleared 4 s) :=
  gives_clearAll (by decide) rfl ha (regWrite_scalerClr hs)

theorem blzCntClr_gives (ha : s.answers 7) : Gives .blzCntClr s (OnlyCleared 7 s) :=
  gives_clearAll (by decide) rfl ha (regWrite_clr (by decide) fun _ => rfl)

theorem wdgCntClr_gives (hs : s.wf = true) (ha : s.answers 9) : Gives .wdgCntClr s (OnlyCleared 9 s) :=
  gives_clearAll (by decide) rfl ha (regWrite_store_clr (f := wdgCntClr) hs (by decide) fun _ => rfl)

theorem mrkCntClr_gives (hs : s.wf = true) (ha : s.answers 10) : Gives .mrkCntClr s (OnlyCleared 10 s) :=
  gives_clearAll (by decide) rfl ha (regWrite_store_clr (f := mrkCntClr) hs (by decide) fun _ => rfl)

/-- Nothing is discarded. -/
theorem regWrite_hostClr (hs : s.wf = true) : regWrite s (ctlReg 13) (clrValue s 13) = hifCntClr s := by
  have e (v : Nat) : regWrite s (ctlReg 13) v =
      (let t := storeReg s (ctlReg 13) v
       let t := if bit v 7 then discardAll t else t
       if bit v (clrBit 13) then hifCntClr t else t) := rfl
  have hdisc : bit (clrValue s 13) 7 = false := bit_clrValue_ne (by decide) (by decide)
  simp [e, hdisc, bit_clrValue (show 13 ∈ clrBlocks by decide), storeReg_clr hs (show 13 ∈ clrBlocks by decide)]

theorem hifCntClr_gives (hs : s.wf = true) (ha : s.answers 13) : Gives .hifCntClr s (OnlyCleared 13 s) :=
  gives_clearAll (by decide) rfl ha (regWrite_hostClr hs)

theorem flmCntClr_gives (ha : s.answers 14) : Gives .flmCntClr s (OnlyCleared 14 s) :=
  gives_clearAll (by decide) rfl ha (regWrite_clr (by decide) fun _ => rfl)

theorem chpCntClr_gives (ha : s.answers 15) : Gives .chpCntClr s (OnlyCleared 15 s) :=
  gives_clearAll (by decide) rfl ha (regWrite_clr (by decide) fun _ => rfl)

theorem dckCntClr_gives (ha : s.answers 16) : Gives .dckCntClr s (OnlyCleared 16 s) :=
  gives_clearAll (by decide) rfl ha (regWrite_clr (by decide) fun _ => rfl)

/-- No scrub is asked for. -/
theorem regWrite_landingClr : regWrite s (ctlReg 17) (clrValue s 17) = lndCntClr s := by
  have e (v : Nat) : regWrite s (ctlReg 17) v =
      (let t := if bit v (clrBit 17) then lndCntClr s else s
       if bit v 1 then scrubNow t else t) := rfl
  have hscrub : bit (clrValue s 17) 1 = false := bit_clrValue_ne (by decide) (by decide)
  simp [e, hscrub, bit_clrValue (show 17 ∈ clrBlocks by decide)]

theorem lndCntClr_gives (ha : s.answers 17) : Gives .lndCntClr s (OnlyCleared 17 s) :=
  gives_clearAll (by decide) rfl ha regWrite_landingClr

end Registers

/-! ### Blocks with counts in records (R124, R154, R211, R270, R289) -/

section Records

variable {s : State}

/-- A channel's record with its counts at zero. -/
def BkgChan.cleared (x : BkgChan) : BkgChan := { x with fill := 0, dfill := 0, gap := 0 }

/-- The counts of a channel's record cleared. -/
def clearChan : State → Nat → State := State.update State.bkgChan State.setChan BkgChan.cleared

theorem bkgCntClr_eq : bkgCntClr s = (s.clearAll (countFields 5)).each (s.bkg.chan.map (·.1)) clearChan := by
  have hbkg : (s.clearAll (countFields 5)).bkg = s.bkg := clearAll_frame (p := State.bkg) (fun _ _ => rfl) _ s
  rw [← hbkg]
  rfl

theorem bkgCntClr_cleared : Cleared (countFields 5) s (bkgCntClr s) := by
  rw [bkgCntClr_eq]
  exact (cleared_clearAll _ s).each (f := clearChan) (fun _ _ => rfl) _

theorem bkgCntClr_frame {β : Type} {p : State → β} (hp : ∀ s f, p (State.set s f 0) = p s)
    (hc : ∀ s c, p (clearChan s c) = p s) : p (bkgCntClr s) = p s := by
  rw [bkgCntClr_eq, clearAll_each_frame hp hc]

theorem bkgChan_bkgCntClr (c : Nat) : (bkgCntClr s).bkgChan c = (s.bkgChan c).cleared := by
  rw [bkgCntClr_eq]
  exact get_clearAll_each (get := State.bkgChan) (set := State.setChan) (g := BkgChan.cleared) sget_sput_same sget_sput_ne
    (fun _ => rfl) (fun _ _ => rfl) fun h => by rw [State.bkgChan, sget_not_listed h]; rfl

theorem bkgCntClr_gives (ha : s.answers 5) : Gives .bkgCntClr s fun t =>
    Cleared (countFields 5) s t ∧ { t with regs := s.regs, bkg := s.bkg } = s ∧ { t.bkg with chan := s.bkg.chan } = s.bkg
      ∧ ∀ c, t.bkgChan c = { s.bkgChan c with fill := 0, dfill := 0, gap := 0 } :=
  gives_cleared (by decide) rfl ha (regWrite_clr (by decide) fun _ => rfl) bkgCntClr_cleared
    ⟨bkgCntClr_frame (p := fun t => ({ t with regs := s.regs, bkg := s.bkg } : State)) (fun _ _ => rfl) fun _ _ => rfl,
      bkgCntClr_frame (p := fun t => { t.bkg with chan := s.bkg.chan }) (fun _ _ => rfl) fun _ _ => rfl, bkgChan_bkgCntClr⟩

/-- A zone's record with the counts of its tallies at zero. -/
def CruZone.cleared (x : CruZone) : CruZone :=
  { x with vib := x.vib.clearCounts, tlev := x.tlev.clearCounts, trate := x.trate.clearCounts }

/-- The counts of a zone's tallies cleared. -/
def clearZone : State → Nat → State := State.update State.cruZone State.setZone CruZone.cleared

theorem cruCntClr_eq : cruCntClr s = (s.clearAll (countFields 6)).each (s.cru.zone.map (·.1)) clearZone := rfl

theorem cruCntClr_cleared : Cleared (countFields 6) s (cruCntClr s) := by
  rw [cruCntClr_eq]
  exact (cleared_clearAll _ s).each (f := clearZone) (fun _ _ => rfl) _

theorem cruCntClr_frame {β : Type} {p : State → β} (hp : ∀ s f, p (State.set s f 0) = p s)
    (hz : ∀ s z, p (clearZone s z) = p s) : p (cruCntClr s) = p s := by
  rw [cruCntClr_eq, clearAll_each_frame hp hz]

theorem cruZone_cruCntClr (z : Nat) : (cruCntClr s).cruZone z = (s.cruZone z).cleared := by
  rw [cruCntClr_eq]
  exact get_clearAll_each (get := State.cruZone) (set := State.setZone) (g := CruZone.cleared) sget_sput_same sget_sput_ne
    (fun _ => rfl) (fun _ _ => rfl) fun h => by rw [State.cruZone, sget_not_listed h]; rfl

/-- CRU_CTL keeps EN. -/
theorem regWrite_cruiserClr (hs : s.wf = true) : regWrite s (ctlReg 6) (clrValue s 6) = cruCntClr s := by
  have e (v : Nat) : regWrite s (ctlReg 6) v =
      (let t := storeReg s (ctlReg 6) v
       let t := if bit v 0 == s.flag F.CRU_CTL.EN then t else cruEnable t (bit v 0)
       if bit v (clrBit 6) then cruCntClr t else t) := rfl
  have hen : bit (clrValue s 6) 0 = s.flag F.CRU_CTL.EN := bit_actValue_flag (by decide)
  simp [e, hen, bit_clrValue (show 6 ∈ clrBlocks by decide), storeReg_clr hs (show 6 ∈ clrBlocks by decide)]

theorem cruCntClr_gives (hs : s.wf = true) (ha : s.answers 6) : Gives .cruCntClr s fun t =>
    Cleared (countFields 6) s t ∧ { t with regs := s.regs, cru := s.cru } = s ∧ { t.cru with zone := s.cru.zone } = s.cru
      ∧ ∀ z, t.cruZone z = { s.cruZone z with vib := (s.cruZone z).vib.clearCounts, tlev := (s.cruZone z).tlev.clearCounts,
                                              trate := (s.cruZone z).trate.clearCounts } :=
  gives_cleared (by decide) rfl ha (regWrite_cruiserClr hs)
    cruCntClr_cleared
    ⟨cruCntClr_frame (p := fun t => ({ t with regs := s.regs, cru := s.cru } : State)) (fun _ _ => rfl) fun _ _ => rfl,
      cruCntClr_frame (p := fun t => { t.cru with zone := s.cru.zone }) (fun _ _ => rfl) fun _ _ => rfl, cruZone_cruCntClr⟩

/-- A chain's record with the counts of its heads at zero. -/
def SkyChain.cleared (x : SkyChain) : SkyChain := { x with head := x.head.map fun e => (e.1, e.2.cleared) }

/-- The counts of a chain's heads cleared. -/
def clearChain : State → Nat → State := State.update State.chain State.setChain SkyChain.cleared

theorem skyCntClr_eq : skyCntClr s = (s.clearAll (countFields 11)).each [0, 1, 2, 3] clearChain := by
  rw [skyCntClr, each_clearAll]
  rfl

theorem skyCntClr_cleared : Cleared (countFields 11) s (skyCntClr s) := by
  rw [skyCntClr_eq]
  exact (cleared_clearAll _ s).each (f := clearChain) (fun _ _ => rfl) _

theorem skyCntClr_frame {β : Type} {p : State → β} (hp : ∀ s f, p (State.set s f 0) = p s)
    (hc : ∀ s c, p (clearChain s c) = p s) : p (skyCntClr s) = p s := by
  rw [skyCntClr_eq, clearAll_each_frame hp hc]

theorem SkyChain.cleared_cleared (x : SkyChain) : x.cleared.cleared = x.cleared := by
  rw [SkyChain.cleared, SkyChain.cleared, List.map_map]
  rfl

theorem chain_skyCntClr (c : Fin 4) : (skyCntClr s).chain c = (s.chain c).cleared := by
  rw [skyCntClr_eq]
  exact get_clearAll_each (get := State.chain) (set := State.setChain) (g := SkyChain.cleared) sget_sput_same sget_sput_ne
    SkyChain.cleared_cleared (fun _ _ => rfl) fun h => absurd (by revert c; decide) h

/-- The heads of a cleared record hold no counts, and all else of it stays. -/
theorem SkyChain.cleared_spec (x : SkyChain) : { x.cleared with head := x.head } = x
    ∧ ∀ e ∈ x.cleared.head, e.2.tally.transient = 0 ∧ e.2.tally.missed = 0 ∧ e.2.since = 0 :=
  ⟨rfl, List.forall_mem_map.mpr fun _ _ => ⟨rfl, rfl, rfl⟩⟩

theorem skyCntClr_gives (ha : s.answers 11) : Gives .skyCntClr s fun t =>
    Cleared (countFields 11) s t ∧ { t with regs := s.regs, sky := s.sky } = s
      ∧ ∀ c : Fin 4, { t.chain c with head := (s.chain c).head } = s.chain c
        ∧ ∀ e ∈ (t.chain c).head, e.2.tally.transient = 0 ∧ e.2.tally.missed = 0 ∧ e.2.since = 0 :=
  gives_cleared (by decide) rfl ha (regWrite_clr (by decide) fun _ => rfl) skyCntClr_cleared
    ⟨skyCntClr_frame (p := fun t => ({ t with regs := s.regs, sky := s.sky } : State)) (fun _ _ => rfl) fun _ _ => rfl,
      fun c => by rw [chain_skyCntClr]; exact SkyChain.cleared_spec _⟩

/-- A field channel's record with the counts of its tallies at zero. -/
def FioChan.cleared (x : FioChan) : FioChan := { x with tally := x.tally.map fun e => (e.1, e.2.clearCounts) }

/-- The counts of a field channel's tallies cleared. -/
def clearFio : State → Nat → State := State.update State.fioChan State.setFio FioChan.cleared

theorem fioCntClr_eq : fioCntClr s = (s.clearAll (countFields 12)).each (s.fio.map (·.1)) clearFio := by
  have hclr : (s.each fioChannels fun s n => s.clearAll [F.FIO_IOn_CNT.EDGES n, F.FIO_IOn_CNT.SILENCES n])
      = s.clearAll (countFields 12) := each_clearAll _ _ s
  have hfio : (s.clearAll (countFields 12)).fio = s.fio := clearAll_frame (p := State.fio) (fun _ _ => rfl) _ s
  unfold fioCntClr
  simp only [hclr, hfio]
  rfl

theorem fioCntClr_cleared : Cleared (countFields 12) s (fioCntClr s) := by
  rw [fioCntClr_eq]
  exact (cleared_clearAll _ s).each (f := clearFio) (fun _ _ => rfl) _

theorem fioCntClr_frame {β : Type} {p : State → β} (hp : ∀ s f, p (State.set s f 0) = p s)
    (hn : ∀ s n, p (clearFio s n) = p s) : p (fioCntClr s) = p s := by
  rw [fioCntClr_eq, clearAll_each_frame hp hn]

theorem FioChan.cleared_cleared (x : FioChan) : x.cleared.cleared = x.cleared := by
  rw [FioChan.cleared, FioChan.cleared, List.map_map]
  rfl

theorem fioChan_fioCntClr (n : Nat) : (fioCntClr s).fioChan n = (s.fioChan n).cleared := by
  rw [fioCntClr_eq]
  exact get_clearAll_each (get := State.fioChan) (set := State.setFio) (g := FioChan.cleared) sget_sput_same sget_sput_ne
    FioChan.cleared_cleared (fun _ _ => rfl) fun h => by rw [State.fioChan, sget_not_listed h]; rfl

/-- The tallies of a cleared record hold no counts, and all else of it stays. -/
theorem FioChan.cleared_spec (x : FioChan) : { x.cleared with tally := x.tally } = x
    ∧ ∀ e ∈ x.cleared.tally, e.2.transient = 0 ∧ e.2.missed = 0 :=
  ⟨rfl, List.forall_mem_map.mpr fun _ _ => ⟨rfl, rfl⟩⟩

theorem fioCntClr_gives (ha : s.answers 12) : Gives .fioCntClr s fun t =>
    Cleared (countFields 12) s t ∧ { t with regs := s.regs, fio := s.fio } = s
      ∧ ∀ n, { t.fioChan n with tally := (s.fioChan n).tally } = s.fioChan n
        ∧ ∀ e ∈ (t.fioChan n).tally, e.2.transient = 0 ∧ e.2.missed = 0 :=
  gives_cleared (by decide) rfl ha (regWrite_clr (by decide) fun _ => rfl) fioCntClr_cleared
    ⟨fioCntClr_frame (p := fun t => ({ t with regs := s.regs, fio := s.fio } : State)) (fun _ _ => rfl) fun _ _ => rfl,
      fun n => by rw [fioChan_fioCntClr]; exact FioChan.cleared_spec _⟩

/-- An object's record with the counts of its tallies at zero. -/
def LampObj.cleared (x : LampObj) : LampObj :=
  { x with oc := x.oc.clearCounts, off := x.off.clearCounts, lowcur := x.lowcur.clearCounts }

/-- A pin pair's record with the counts of its tally at zero. -/
def AdjPair.cleared (x : AdjPair) : AdjPair := { x with tally := x.tally.clearCounts }

/-- A bank's record with the counts of its nodes at zero. -/
def BankSt.cleared (x : BankSt) : BankSt := { x with node := x.node.map fun e => (e.1, e.2.clearCounts) }

/-- The counts of every object's record cleared. -/
def clearObjs (s : State) : State := s.each (s.lamp.obj.map (·.1)) (State.update State.lampObj State.setObj LampObj.cleared)

/-- The counts of every pin pair's record cleared. -/
def clearPairs (s : State) : State := s.each (s.lamp.adj.map (·.1)) (State.update State.adjPair State.setAdj AdjPair.cleared)

/-- The counts of every bank's record cleared. -/
def clearNodes (s : State) : State := s.each (s.lamp.bank.map (·.1)) (State.update State.bankSt State.setBankSt BankSt.cleared)

theorem calCntClr_eq : calCntClr s = clearNodes (clearPairs (clearObjs (s.clearAll (countFields 8)))) := rfl

theorem clearObjs_frame {β : Type} {p : State → β} (h : ∀ s n r, p (State.setObj s n r) = p s) : p (clearObjs s) = p s :=
  State.each_frame (fun s n => h s n _) _ s

theorem clearPairs_frame {β : Type} {p : State → β} (h : ∀ s n r, p (State.setAdj s n r) = p s) : p (clearPairs s) = p s :=
  State.each_frame (fun s n => h s n _) _ s

theorem clearNodes_frame {β : Type} {p : State → β} (h : ∀ s b r, p (State.setBankSt s b r) = p s) : p (clearNodes s) = p s :=
  State.each_frame (fun s b => h s b _) _ s

theorem calCntClr_lamp_frame {β : Type} {p : State → β} (h : ∀ s l, p { s with lamp := l } = p s) :
    p (calCntClr s) = p (s.clearAll (countFields 8)) :=
  (clearNodes_frame fun s _ _ => h s _).trans <| (clearPairs_frame fun s _ _ => h s _).trans (clearObjs_frame fun s _ _ => h s _)

theorem lampObj_clearObjs (n : Nat) : (clearObjs s).lampObj n = (s.lampObj n).cleared :=
  State.get_each_update (get := State.lampObj) (set := State.setObj) (g := LampObj.cleared) sget_sput_same sget_sput_ne
    (fun _ => rfl) fun h => by rw [State.lampObj, sget_not_listed h]; rfl

theorem adjPair_clearPairs (n : Nat) : (clearPairs s).adjPair n = (s.adjPair n).cleared :=
  State.get_each_update (get := State.adjPair) (set := State.setAdj) (g := AdjPair.cleared) sget_sput_same sget_sput_ne
    (fun _ => rfl) fun h => by rw [State.adjPair, sget_not_listed h]; rfl

theorem lampObj_calCntClr (n : Nat) : (calCntClr s).lampObj n = (s.lampObj n).cleared := by
  rw [calCntClr_eq, clearNodes_frame (p := fun t => t.lampObj n) fun _ _ _ => rfl,
    clearPairs_frame (p := fun t => t.lampObj n) fun _ _ _ => rfl, lampObj_clearObjs,
    clearAll_frame (p := fun t => t.lampObj n) fun _ _ => rfl]

theorem adjPair_calCntClr (n : Nat) : (calCntClr s).adjPair n = (s.adjPair n).cleared := by
  rw [calCntClr_eq, clearNodes_frame (p := fun t => t.adjPair n) fun _ _ _ => rfl, adjPair_clearPairs,
    clearObjs_frame (p := fun t => t.adjPair n) fun _ _ _ => rfl, clearAll_frame (p := fun t => t.adjPair n) fun _ _ => rfl]

theorem calCntClr_cleared : Cleared (countFields 8) s (calCntClr s) := fun a =>
  (calCntClr_lamp_frame (p := fun t => t.read a) fun _ _ => rfl).trans (cleared_clearAll _ s a)

/-- Outside the registers only the records of lamps change. -/
theorem calCntClr_frame {β : Type} {p : State → β} (hp : ∀ s f, p (State.set s f 0) = p s)
    (hl : ∀ s l, p { s with lamp := l } = p s) : p (calCntClr s) = p s :=
  (calCntClr_lamp_frame hl).trans (clearAll_frame hp _ s)

theorem calCntClr_gives (ha : s.answers 8) : Gives .calCntClr s fun t =>
    Cleared (countFields 8) s t ∧ { t with regs := s.regs, lamp := s.lamp } = s
      ∧ (∀ n, t.lampObj n = { s.lampObj n with oc := (s.lampObj n).oc.clearCounts, off := (s.lampObj n).off.clearCounts,
                                               lowcur := (s.lampObj n).lowcur.clearCounts })
      ∧ (∀ n, t.adjPair n = { s.adjPair n with tally := (s.adjPair n).tally.clearCounts }) :=
  gives_cleared (by decide) rfl ha (regWrite_clr (by decide) fun _ => rfl) calCntClr_cleared
    ⟨calCntClr_frame (p := fun t => ({ t with regs := s.regs, lamp := s.lamp } : State)) (fun _ _ => rfl) fun _ _ => rfl,
      lampObj_calCntClr, adjPair_calCntClr⟩

end Records

/-- Settles O7, block by block: the write comes down to the block's clear function, which sets the block's count fields to zero and
updates the records that hold counts. -/
theorem countClears : Obligations.CountClears := by
  unfold Obligations.CountClears
  intro s hs
  exact ⟨clkCntClr_gives, krfCntClr_gives hs.wf, sclCntClr_gives hs.wf, bkgCntClr_gives, cruCntClr_gives hs.wf, blzCntClr_gives,
    calCntClr_gives, wdgCntClr_gives hs.wf, mrkCntClr_gives hs.wf, skyCntClr_gives, fioCntClr_gives, hifCntClr_gives hs.wf,
    flmCntClr_gives, chpCntClr_gives, dckCntClr_gives, lndCntClr_gives⟩

end Sys2Proof.Machine
end

section
/-! PROOFS. A state in which a refused TABLE_LOAD writes its completion to another entry than O54 names (O54). -/

namespace Sys2Proof.Machine

/-- A stream-table entry, enabled and compressed through context 0, that R324 does not refuse. -/
def chipStream : List Byte := [0x09, 0, 0, 0, 0, 0, 1, 0] ++ leBytes 56 0

/-- A TABLE_LOAD of one stream-table entry from stream 0 on, started on command ring 0, that names completion ring 16. -/
def strayLoad : Item :=
  ⟨false, 0, 0, 16, [0x02, 0, 0, 0] ++ leBytes 12 0 ++ [64, 0, 0, 0, 0x20] ++ leBytes 43 0, true, false, CapRun.zero⟩

/-- After reset, but with event ring 0 enabled, of two entries and for OWNERSHIP records, with bus mastering on, with context 0
owned by the host, and with the stray TABLE_LOAD on its ring. -/
def strayRing : State :=
  { ((((State.reset.set (ringEn .evr 0) 1).set (ringSizeLog .evr 0) 1).set (F.HIF_EVRn_CFG2.MASK 0) 0x20).set F.HIF_STAT.BME 1).set
      (ownerF (.context 0)) cHost with hif := { State.reset.hif with items := [strayLoad] } }

theorem strayRing_sound : strayRing.Sound := by
  unfold State.Sound CoreWf DeckWf HostWf FlumeWf LandingWf BkgWf CruWf LampWf RulesWf
  decide +kernel

/-- The unit after the refused load. -/
def strayAfter : State := tableRun strayRing 0 0x20 chipStream loadStreams

/-- The completion with which the load is refused. -/
def strayCompletion : Completion := strayLoad.completion { Outcome.just stConflict with info0 := 0 } false

/-- Entry 0 of the ring was free, and the load's completion is not what was written there: the record of the refused claim was. -/
theorem strayRing_refuses : takesEntry strayRing 16 ∧ Output.hostWrite 0 strayCompletion.bytes ∉ strayAfter.out := by
  unfold takesEntry
  decide +kernel

/-- Refutes O54: `State.Sound` lets an item name any completion ring, also one beyond the sixteen of R294. The registers of completion
ring 16 are those of event ring 0. In the sound state `strayRing` a TABLE_LOAD of a stream that claims the host's context is refused;
the OWNERSHIP record of the refusal (R21) takes entry 0 of that ring, and the completion, which `Completed` states at entry 0, is
written to entry 1. -/
theorem not_tableLoads : ¬ Obligations.TableLoads := by
  unfold Obligations.TableLoads
  intro h
  obtain ⟨-, h⟩ := h strayRing strayRing_sound 0 chipStream
  obtain ⟨-, -, -, -, -, -, -, -, -, -, -, hstream, -⟩ := h strayLoad (by decide +kernel)
  obtain ⟨t, ht, -, hconflict, -⟩ := hstream (by decide +kernel) (by decide +kernel)
  have e : t = strayAfter := (Host.Outcome.next.inj ht).symm
  have howned : ∀ k : Fin 4, k.val = seCtx chipStream →
      ¬(strayRing.owner (.context k) = 0 ∨ strayRing.owner (.context k) = cFlume) := by decide +kernel
  obtain ⟨⟨-, hwritten, -⟩, -⟩ := hconflict (by decide +kernel) (by decide +kernel) fun hfree =>
    howned 0 (by decide) (hfree chipStream (by decide +kernel) (by decide) (by decide) 0 (by decide))
  rw [e] at hwritten
  exact strayRing_refuses.2 (hwritten strayRing_refuses.1)

end Sys2Proof.Machine
end

section
/-! PROOFS. Fields in any register file, and what records do downstream of Scaler (O34). -/

namespace Sys2Proof.Machine

/-! ### Fields, whatever the form of the register file -/

/-- A state with a canonical register file that reads the same at one address. -/
def State.solo (s : State) (a : Nat) : State := State.reset.write a (s.read a)

theorem State.solo_wf (s : State) (a : Nat) : (s.solo a).wf = true := State.wf_write (by decide) _ _

theorem State.read_set_solo (s : State) (f : Field) (v : Nat) :
    (s.set f v).read f.addr = ((s.solo f.addr).set f v).read f.addr := by
  rw [State.set, State.set, State.read_write_same, State.read_write_same, State.solo, State.read_write_same]

/-- A field just set reads what fits of its value. -/
theorem State.get_set_self (s : State) {f : Field} (hf : f.ok = true) (v : Nat) : (s.set f v).get f = v % 2 ^ f.width := by
  rw [State.get, State.read_set_solo, ← State.get, State.get_set_same (s.solo_wf _) hf]

/-- The check that two fields share no bit and each lies in its register. -/
def Field.clear (g f : Field) : Bool := g.apart f && g.ok && f.ok

/-- Setting a field leaves every field apart from it as it was. -/
theorem State.get_set_clear (s : State) {f g : Field} (v : Nat) (h : g.clear f = true) : (s.set f v).get g = s.get g := by
  simp only [Field.clear, Field.apart, Bool.and_eq_true, Bool.or_eq_true, decide_eq_true_eq, bne_iff_ne] at h
  obtain ⟨⟨hd, hg⟩, hf⟩ := h
  by_cases ha : g.addr = f.addr
  · have hlo : f.lo ≤ f.hi := by
      simp only [Field.ok, Bool.and_eq_true, decide_eq_true_eq] at hf
      exact hf.1.1
    have hsolo : (s.solo f.addr).get g = s.get g := by
      rw [State.get, State.get, ha, State.solo, State.read_write_same]
    rw [← hsolo, ← State.get_set_apart (s.solo_wf _) hg v (hd.resolve_right (not_not_intro ha)) hlo, State.get, State.get, ha,
      State.read_set_solo]
  · exact State.get_set_ne s v ha

/-! ### What comes after Scaler -/

/-- `t` came from `s` by what records do downstream of Scaler: of the registers below those of the host interface only Cruiser's
changed, and of the rest only outputs, posted records, the host interface, Flume's queues, Landing and Cruiser. -/
def Passed (s t : State) : Prop :=
  (∀ a, a < 0xD0000 → a / 0x10000 ≠ 6 → t.read a = s.read a)
    ∧ { t with regs := s.regs, out := s.out, seq := s.seq, presented := s.presented, hif := s.hif, flume := s.flume,
               landing := s.landing, cru := s.cru } = s

theorem Passed.refl (s : State) : Passed s s := ⟨fun _ _ _ => rfl, rfl⟩

theorem Passed.trans {r s t : State} (h : Passed r s) (g : Passed s t) : Passed r t := by
  refine ⟨fun a h1 h2 => (g.1 a h1 h2).trans (h.1 a h1 h2), ?_⟩
  have e := congrArg (fun x : State => { x with regs := r.regs, out := r.out, seq := r.seq, presented := r.presented, hif := r.hif,
                                                flume := r.flume, landing := r.landing, cru := r.cru }) g.2
  exact e.trans h.2

/-- What changes neither Scaler nor Cruiser passes. -/
theorem Down.passed {s t : State} (h : Down false s t) : Passed s t := by
  obtain ⟨hread, hup, hkept⟩ := h
  obtain ⟨hscl, -, hbuf⟩ := hkept rfl
  refine ⟨fun a ha _ => hread a ⟨ha, nofun⟩, Eq.trans ?_ hup⟩
  rw [State.upstream, ← hscl, ← hbuf]

/-- What passes, the description of Scaler's effects leaves open. -/
theorem Passed.down {s t : State} (h : Passed s t) : Down true s t := by
  refine ⟨fun a ha => h.1 a ha.1 (ha.2 rfl).2, ?_, nofun⟩
  have e := congrArg (fun x : State => { x with scaler := s.scaler, profileBuf := s.profileBuf }) h.2
  exact e

theorem Passed.get {s t : State} (h : Passed s t) {f : Field} (hf : f.addr < 0xD0000 ∧ f.addr / 0x10000 ≠ 6) : t.get f = s.get f := by
  rw [State.get, State.get, h.1 _ hf.1 hf.2]

theorem Passed.scaler {s t : State} (h : Passed s t) : t.scaler = s.scaler :=
  (congrArg (fun x : State => x.scaler) h.2 :)
theorem Passed.baseline {s t : State} (h : Passed s t) : t.baseline = s.baseline :=
  (congrArg (fun x : State => x.baseline) h.2 :)

theorem Passed.sclPort {s t : State} (h : Passed s t) (p : Nat) : t.sclPort p = s.sclPort p := by
  rw [State.sclPort, State.sclPort, h.scaler]

theorem passed_set {s : State} {f : Field} {v : Nat} (hf : f.addr / 0x10000 = 6) : Passed s (s.set f v) :=
  ⟨fun _ _ h => State.read_set_ne s f v fun e => h (e ▸ hf), rfl⟩

theorem passed_setZone {s : State} {z : Nat} {r : CruZone} : Passed s (s.setZone z r) := ⟨fun _ _ _ => rfl, rfl⟩

theorem passed_edgeEvt {s : State} {f : Field} {e : TallyEdge} (hf : f.addr / 0x10000 = 6) : Passed s (edgeEvt s f e) := by
  cases e
  · exact Passed.refl s
  · exact passed_set hf
  · exact Passed.refl s

theorem passed_publish {s : State} {src idx : Nat} {bytes : List Byte} {index time : Nat} {always : Bool} :
    Passed s (publish s src idx bytes index time always) := (down_publish (Down.refl false s)).passed

theorem passed_tempEnter {s : State} {z : Nat} {time : Option Nat} {lev rate : Verdict} :
    Passed s (tempEnter s z time lev rate).1 :=
  ((passed_setZone.trans (passed_set (by decide))).trans (passed_edgeEvt (by decide))).trans (passed_edgeEvt (by decide))

theorem passed_tempZone {s : State} {z : Nat} {hist : List (List Byte)} : Passed s (tempZone s z hist).1 :=
  passed_setZone.trans passed_tempEnter

theorem passed_zonesEach {s : State} {l : List Nat} {f : State → Nat → State × List EventReq}
    (hf : ∀ s z, Passed s (f s z).1) : Passed s (zonesEach s l f).1 := by
  have key (a : State × List EventReq) : Passed a.1 (l.foldl (fun a z => ((f a.1 z).1, a.2 ++ endsFirst (f a.1 z).2)) a).1 := by
    induction l generalizing a with
    | nil => exact Passed.refl _
    | cons z l ih => exact (hf a.1 z).trans (ih _)
  exact key (s, [])

theorem passed_cruStat {s : State} : Passed s (cruStat s) := (passed_set (by decide)).trans (passed_set (by decide))

theorem passed_postCru {s : State} {l : List EventReq} : Passed s (postCru s l) :=
  (passed_set (f := F.CRU_REC_CNT.RECORDS) (by decide)).trans (down_postAll (Down.refl false _)).passed

theorem passed_profs {s : State} {l : List (Nat × List (List Byte))} : Passed s { s with cru := { s.cru with profs := l } } :=
  ⟨fun _ _ _ => rfl, rfl⟩

theorem passed_cruProfile {s : State} {p : Nat} {prof : List Byte} : Passed s (cruProfile s p prof) := by
  unfold cruProfile
  dsimp only
  split
  · exact passed_profs
  · exact passed_profs.trans ((passed_zonesEach fun s z => passed_tempZone).trans (passed_cruStat.trans passed_postCru))

theorem passed_cruMarker {s : State} {p : Nat} : Passed s (cruMarker s p) := by
  unfold cruMarker cruStaleEval
  dsimp only
  split
  · exact passed_profs
  · exact passed_profs.trans ((passed_zonesEach fun s z => passed_tempEnter).trans (passed_cruStat.trans passed_postCru))

end Sys2Proof.Machine
end

section
/-! PROOFS. Staleness, the capture and Scaler's enable (O34). -/

namespace Sys2Proof.Machine

/-! ### Flags -/

/-- A flag just set reads what it was set to. -/
theorem State.flag_setFlag (s : State) {f : Field} (hf : (f.ok && f.hi == f.lo) = true) (b : Bool) : (s.setFlag f b).flag f = b := by
  simp only [Bool.and_eq_true, beq_iff_eq] at hf
  have hw : f.width = 1 := by rw [Field.width, hf.2, Nat.sub_self]
  rw [State.flag, State.setFlag, State.get_set_self s hf.1, hw]
  cases b <;> rfl

theorem State.flag_set_one (s : State) {f : Field} (hf : (f.ok && f.hi == f.lo) = true) : (s.set f 1).flag f = true :=
  s.flag_setFlag hf true

theorem State.flag_set_zero (s : State) {f : Field} (hf : (f.ok && f.hi == f.lo) = true) : (s.set f 0).flag f = false :=
  s.flag_setFlag hf false

/-- Setting a field leaves every flag apart from it as it was. -/
theorem State.flag_set_clear (s : State) {f g : Field} (v : Nat) (h : g.clear f = true) : (s.set f v).flag g = s.flag g := by
  rw [State.flag, State.flag, s.get_set_clear v h]

theorem Passed.flag {s t : State} (h : Passed s t) {f : Field} (hf : f.addr < 0xD0000 ∧ f.addr / 0x10000 ≠ 6) : t.flag f = s.flag f := by
  rw [State.flag, State.flag, h.get hf]

theorem State.sclPort_setScl (s : State) (p : Nat) (q : SclPort) : (s.setScl p q).sclPort p = q := sget_sput_same

theorem State.sclPort_setScl_ne (s : State) {p i : Nat} (q : SclPort) (h : i ≠ p) : (s.setScl p q).sclPort i = s.sclPort i :=
  sget_sput_ne h

/-! ### What Scaler's effects leave as it was -/

theorem Probes.refl (s : State) : Probes [] s s := ⟨rfl, fun a _ _ _ => FieldsAt.refl s a⟩

/-- Setting one more field, apart from those listed, outside Scaler and Cruiser. -/
theorem Probes.set {l : List (Field × Nat)} {o s : State} (h : Probes l o s) (hs : s.wf = true) {f : Field} {v : Nat}
    (hf : f.lo ≤ f.hi) (hd : allApart l f = true) : Probes ((f, v) :: l) o (s.set f v) :=
  ⟨h.1, fun a h1 h2 h3 => (h.2 a h1 h2 h3).set hs hf hd⟩

/-- What Scaler's effects change adds nothing to the fields listed. -/
theorem Probes.down {l : List (Field × Nat)} {o s t : State} (h : Probes l o s) (hd : Down true s t) : Probes l o t := by
  obtain ⟨hread, hup, -⟩ := hd
  refine ⟨?_, fun a h1 h2 h3 => ?_⟩
  · have e : t.upstream o = (t.upstream s).upstream o := rfl
    rw [e, hup]
    exact h.1
  · rw [FieldsAt, hread a ⟨h1, fun _ => ⟨h2, h3⟩⟩]
    exact h.2 a h1 h2 h3

/-- A change that `Down` describes goes on beside another baseline. -/
theorem Down.baseline {s t : State} (h : Down true s t) (b : List (Nat × List Byte)) :
    Down true { s with baseline := b } { t with baseline := b } :=
  ⟨h.1, congrArg (fun x : State => { x with baseline := b }) h.2.1, nofun⟩

/-! ### The onset of staleness (R101) -/

/-- The sets of a port that are complete. -/
def doneSets (s : State) (p : Nat) : List SclSet := (s.sclPort p).sets.filter fun t => !t.open_ && decide (t.endsAt ≤ s.elapsed)

/-- The sets of a port that are not complete are discarded, counted and flagged. -/
def onsetDropped (s : State) (p : Nat) : State :=
  let u := s.setScl p { s.sclPort p with sets := doneSets s p, marker := !(doneSets s p).isEmpty }
  if (doneSets s p).length < (s.sclPort p).sets.length then (u.bump F.SCL_ABORT_CNT.ABORT).set F.SCL_EVT.ABORT 1 else u

/-- STALE and its flag are set, and no set is in progress. -/
def onsetFlagged (s : State) (p : Nat) : State :=
  (((s.set (staleF p) 1).set (sclStaleEvt p) 1).set (F.SCL_Px_PERIOD.T_PROF p) 0).setFlag (sclActiveF p) false

/-- A state with the profile buffer of a port set. -/
def State.keepProfile (s : State) (p : Nat) (bytes : List Byte) : State :=
  { s with profileBuf := sput (fun _ => []) s.profileBuf p bytes }

theorem State.keepProfile_get (s : State) (p : Nat) (bytes : List Byte) (f : Field) : (s.keepProfile p bytes).get f = s.get f := rfl

/-- The onset but for the marker. -/
def onsetMarked (s : State) (p : Nat) : State :=
  let u := onsetFlagged (onsetDropped s p) p
  u.keepProfile p (markStale (sget (fun _ => ([] : List Byte)) u.profileBuf p))

theorem staleOnset_eq (s : State) (p : Nat) :
    staleOnset s p = if (doneSets s p).isEmpty then publishMarker (onsetMarked s p) p else onsetMarked s p := by
  unfold staleOnset onsetMarked State.keepProfile onsetFlagged onsetDropped doneSets
  simp only [decide_eq_true_eq]

/-- Publishing a marker passes, once the marker no longer waits. -/
theorem passed_publishMarker (s : State) (p : Nat) :
    Passed (s.setScl p { s.sclPort p with marker := false }) (publishMarker s p) := passed_publish.trans passed_cruMarker

theorem publishMarker_get (s : State) (p : Nat) {f : Field} (hf : f.addr < 0xD0000 ∧ f.addr / 0x10000 ≠ 6) :
    (publishMarker s p).get f = s.get f := (passed_publishMarker s p).get hf

theorem publishMarker_sclPort (s : State) (p : Nat) : (publishMarker s p).sclPort p = { s.sclPort p with marker := false } := by
  rw [(passed_publishMarker s p).sclPort, State.sclPort_setScl]

theorem onsetMarked_get (s : State) (p : Nat) {f : Field} : (onsetMarked s p).get f = (onsetFlagged (onsetDropped s p) p).get f :=
  State.keepProfile_get _ _ _ f

/-- The onset's registers are those before the marker. -/
theorem staleOnset_get (s : State) (p : Nat) {f : Field} (hf : f.addr < 0xD0000 ∧ f.addr / 0x10000 ≠ 6) :
    (staleOnset s p).get f = (onsetFlagged (onsetDropped s p) p).get f := by
  rw [staleOnset_eq]
  split
  · exact (publishMarker_get _ _ hf).trans (onsetMarked_get s p)
  · exact onsetMarked_get s p

theorem onsetDropped_get (s : State) (p : Nat) {f : Field} (h1 : f.clear F.SCL_ABORT_CNT.ABORT = true)
    (h2 : f.clear F.SCL_EVT.ABORT = true) : (onsetDropped s p).get f = s.get f := by
  unfold onsetDropped
  dsimp only
  split
  · rw [State.get_set_clear _ _ h2]
    exact State.get_set_clear _ _ h1
  · rfl

theorem onsetFlagged_get (s : State) (p : Nat) {f : Field} (h1 : f.clear (staleF p) = true) (h2 : f.clear (sclStaleEvt p) = true)
    (h3 : f.clear (F.SCL_Px_PERIOD.T_PROF p) = true) (h4 : f.clear (sclActiveF p) = true) : (onsetFlagged s p).get f = s.get f := by
  rw [onsetFlagged, State.setFlag, State.get_set_clear _ _ h4, State.get_set_clear _ _ h3, State.get_set_clear _ _ h2,
    State.get_set_clear _ _ h1]

/-- The check that the onset of a port leaves a field as it was. -/
def onsetSpares (p : Nat) (f : Field) : Bool :=
  [F.SCL_ABORT_CNT.ABORT, F.SCL_EVT.ABORT, staleF p, sclStaleEvt p, F.SCL_Px_PERIOD.T_PROF p, sclActiveF p].all (f.clear ·)
    && decide (f.addr < 0xD0000 ∧ f.addr / 0x10000 ≠ 6)

theorem staleOnset_spares (s : State) (p : Nat) {f : Field} (h : onsetSpares p f = true) : (staleOnset s p).get f = s.get f := by
  simp only [onsetSpares, List.all_cons, List.all_nil, Bool.and_true, Bool.and_eq_true, decide_eq_true_eq] at h
  obtain ⟨⟨hcnt, hevt, hstale, hsevt, hper, hact⟩, haddr⟩ := h
  rw [staleOnset_get s p haddr, onsetFlagged_get _ p hstale hsevt hper hact, onsetDropped_get s p hcnt hevt]

theorem onsetFlagged_flags (s : State) (p : Port) :
    (onsetFlagged s p.num).flag (staleF p.num) = true ∧ (onsetFlagged s p.num).flag (sclStaleEvt p.num) = true
      ∧ (onsetFlagged s p.num).flag (sclActiveF p.num) = false ∧ (onsetFlagged s p.num).get (F.SCL_Px_PERIOD.T_PROF p.num) = 0 := by
  refine ⟨?_, ?_, State.flag_setFlag _ (by cases p <;> decide) false, ?_⟩
  · rw [onsetFlagged, State.setFlag, State.flag_set_clear _ _ (by cases p <;> decide), State.flag_set_clear _ _ (by cases p <;> decide),
      State.flag_set_clear _ _ (by cases p <;> decide), State.flag_set_one _ (by cases p <;> decide)]
  · rw [onsetFlagged, State.setFlag, State.flag_set_clear _ _ (by cases p <;> decide), State.flag_set_clear _ _ (by cases p <;> decide),
      State.flag_set_one _ (by cases p <;> decide)]
  · rw [onsetFlagged, State.setFlag, State.get_set_clear _ _ (by cases p <;> decide), State.get_set_self _ (by cases p <;> decide),
      Nat.zero_mod]

theorem staleOnset_flag (s : State) (p : Nat) {f : Field} (hf : f.addr < 0xD0000 ∧ f.addr / 0x10000 ≠ 6) :
    (staleOnset s p).flag f = (onsetFlagged (onsetDropped s p) p).flag f := by
  rw [State.flag, State.flag, staleOnset_get s p hf]

/-- STALE, its flag, ACTIVE and T_PROF of a port after the onset. -/
theorem staleOnset_flags (s : State) (p : Port) :
    (staleOnset s p.num).flag (staleF p.num) = true ∧ (staleOnset s p.num).flag (sclStaleEvt p.num) = true
      ∧ (staleOnset s p.num).flag (sclActiveF p.num) = false ∧ (staleOnset s p.num).get (F.SCL_Px_PERIOD.T_PROF p.num) = 0 := by
  rw [staleOnset_flag _ _ (by cases p <;> decide), staleOnset_flag _ _ (by cases p <;> decide),
    staleOnset_flag _ _ (by cases p <;> decide), staleOnset_get _ _ (by cases p <;> decide)]
  exact onsetFlagged_flags _ p

/-- Only complete sets outlive the onset. -/
theorem staleOnset_sets (s : State) (p : Nat) : ((staleOnset s p).sclPort p).sets = doneSets s p := by
  have hmark : (onsetMarked s p).sclPort p = { s.sclPort p with sets := doneSets s p, marker := !(doneSets s p).isEmpty } := by
    have hdrop : (onsetMarked s p).sclPort p = (onsetDropped s p).sclPort p := rfl
    rw [hdrop, onsetDropped]
    dsimp only
    split
    · exact State.sclPort_setScl s p _
    · exact State.sclPort_setScl s p _
  rw [staleOnset_eq]
  split
  · rw [publishMarker_sclPort, hmark]
  · rw [hmark]

theorem doneSets_closed {s : State} {p : Nat} {x : SclSet} (hx : x ∈ doneSets s p) : x.open_ = false := by
  simp only [doneSets, List.mem_filter, Bool.and_eq_true, Bool.not_eq_true'] at hx
  obtain ⟨-, hclosed, -⟩ := hx
  exact hclosed

theorem port_lt (p : Port) : p.num < 2 := by cases p <;> decide

theorem profileAgeTimeout_gives {s : State} {p : Port} (hstale : s.flag (staleF p.num) = false)
    (hage : (s.sclPort p.num).pubAt + 3 * tProf s p.num * 1000 ≤ s.elapsed) : Gives (.profileAgeTimeout p) s fun t =>
      t.flag (staleF p.num) = true ∧ t.flag (sclStaleEvt p.num) = true ∧ t.flag (sclActiveF p.num) = false
        ∧ t.get (F.SCL_Px_PERIOD.T_PROF p.num) = 0 ∧ (∀ x ∈ (t.sclPort p.num).sets, x.open_ = false) ∧ Probes [] s t := by
  have he : exec (.profileAgeTimeout p) s = .next (if !s.flag (staleF p.num)
      && decide ((s.sclPort p.num).pubAt + 3 * tProf s p.num * 1000 ≤ s.elapsed) then staleOnset s p.num else s) := rfl
  refine ⟨staleOnset s p.num, by rw [he]; simp [hstale, hage], ?_⟩
  obtain ⟨h1, h2, h3, h4⟩ := staleOnset_flags s p
  refine ⟨h1, h2, h3, h4, fun x hx => ?_, (Probes.refl s).down (down_staleOnset rfl (port_lt p) (Down.refl true s))⟩
  rw [staleOnset_sets] at hx
  exact doneSets_closed hx

/-! ### The two ports looked at (R101) -/

/-- The check that looking at both ports leaves a field as it was. -/
def checkSpares (f : Field) : Bool := onsetSpares 0 f && onsetSpares 1 f && f.clear F.PRB_STAT.TEMP_STALE

theorem staleCheckPort_spares (s : State) (p : Nat) {f : Field} (h : onsetSpares p f = true) :
    (staleCheckPort s p).get f = s.get f := by
  unfold staleCheckPort
  split
  · exact staleOnset_spares s p h
  · rfl

/-- TEMP_STALE, set while port B's laser gives no temperature. -/
def tempStaled (s : State) : State :=
  if s.flag F.PRB_STAT.SOURCE || !s.flag F.PRB_STAT.B_LOCK then s.set F.PRB_STAT.TEMP_STALE 1 else s

theorem staleCheck_eq (s : State) : staleCheck s = staleCheckPort (staleCheckPort (tempStaled s) 0) 1 := rfl

theorem tempStaled_get (s : State) {f : Field} (h : f.clear F.PRB_STAT.TEMP_STALE = true) : (tempStaled s).get f = s.get f := by
  unfold tempStaled
  split
  · exact State.get_set_clear _ _ h
  · rfl

theorem staleCheck_spares (s : State) {f : Field} (h : checkSpares f = true) : (staleCheck s).get f = s.get f := by
  simp only [checkSpares, Bool.and_eq_true] at h
  obtain ⟨⟨h0, h1⟩, ht⟩ := h
  rw [staleCheck_eq, staleCheckPort_spares _ 1 h1, staleCheckPort_spares _ 0 h0, tempStaled_get s ht]

theorem staleCheck_down (s : State) : Down true (tempStaled s) (staleCheck s) :=
  down_staleCheckPort rfl (by decide) (down_staleCheckPort rfl (by decide) (Down.refl true _))

/-- Whether TEMP_STALE is set. -/
def tempStaleNow (s : State) : List (Field × Nat) :=
  if s.flag F.PRB_STAT.SOURCE = true ∨ s.flag F.PRB_STAT.B_LOCK = false then [(F.PRB_STAT.TEMP_STALE, 1)] else []

theorem staleCheck_probes {o s : State} (hs : s.wf = true) (h : Probes [] o s) : Probes (tempStaleNow s) o (staleCheck s) := by
  refine Probes.down ?_ (staleCheck_down s)
  unfold tempStaled tempStaleNow
  by_cases hc : s.flag F.PRB_STAT.SOURCE = true ∨ s.flag F.PRB_STAT.B_LOCK = false
  · rw [if_pos hc, if_pos (by simpa using hc)]
    exact h.set hs (by decide) rfl
  · rw [if_neg hc, if_neg (by simpa using hc)]
    exact h

/-- While Scaler is disabled both ports are stale. -/
theorem staleCheckPort_disabled {s : State} {p : Port} (h : s.flag F.SCL_CTL.EN = false) :
    (staleCheckPort s p.num).flag (staleF p.num) = true := by
  have hcause : staleCause s p.num = true := by simp [staleCause, h]
  unfold staleCheckPort
  cases hstale : s.flag (staleF p.num)
  · rw [if_pos (by simp [hcause])]
    exact (staleOnset_flags s p).1
  · split
    · exact (staleOnset_flags s p).1
    · exact hstale

theorem flag_of_get {s t : State} {f : Field} (h : t.get f = s.get f) : t.flag f = s.flag f := by
  rw [State.flag, State.flag, h]

theorem staleCheck_disabled {s : State} (h : s.flag F.SCL_CTL.EN = false) (p : Port) : (staleCheck s).flag (staleF p.num) = true := by
  have h0 : (tempStaled s).flag F.SCL_CTL.EN = false := (flag_of_get (tempStaled_get s (by decide))).trans h
  have h1 : (staleCheckPort (tempStaled s) 0).flag F.SCL_CTL.EN = false :=
    (flag_of_get (staleCheckPort_spares _ 0 (by decide))).trans h0
  rw [staleCheck_eq]
  cases p
  · exact (flag_of_get (staleCheckPort_spares _ 1 (by decide))).trans (staleCheckPort_disabled (p := .a) h0)
  · exact staleCheckPort_disabled (p := .b) h1

/-! ### Writes of SCL_CTL (R86, R94, R103) -/

/-- A write of SCL_CTL, by the bits that act. -/
theorem regWrite_sclCtl (s : State) (v : Nat) : regWrite s R.SCL_CTL v =
    (let t := storeReg s R.SCL_CTL v
     let t := if bit v 0 == s.flag F.SCL_CTL.EN then t else staleCheck t
     let t := if bit v 1 then baseCapture t else t
     if bit v 2 then sclCntClr t else t) := rfl

/-- A write of BASE_CAPTURE comes down to the capture. -/
theorem actWrite_capture {s : State} (hs : s.wf = true) (ha : s.answers 4) :
    actWrite s R.SCL_CTL 2 = countOnce s (baseCapture s) := by
  have hreg : isActReg R.SCL_CTL 2 = true := by decide
  have hen : bit (actValue s R.SCL_CTL 2) 0 = s.flag F.SCL_CTL.EN := bit_actValue_flag (by decide)
  have hcap : bit (actValue s R.SCL_CTL 2) 1 = true := bit_actValue (by decide)
  have hclr : bit (actValue s R.SCL_CTL 2) 2 = false := bit_actValue (by decide)
  have hw : regWrite s R.SCL_CTL (actValue s R.SCL_CTL 2) = baseCapture s := by
    rw [regWrite_sclCtl, storeReg_actValue hs hreg]
    simp [hen, hcap, hclr]
  simp only [isActReg, Bool.and_eq_true] at hreg
  obtain ⟨r, hr⟩ := exists_openReg hreg.1
  have hv : writableAt R.SCL_CTL = writableMask r := by rw [writableAt, hr.row]; rfl
  rw [actWrite, hostWrite_open hr ha, ← hv, ← actValue, hw]

/-- The condition of R94 for a capture. -/
def captureOk (s : State) : Prop := (s.lc = 2 ∨ s.lc = 3) ∧ (s.flag (staleF 0) = false ∨ s.flag (staleF 1) = false)

/-- Every port that is not stale owes a profile to the capture. -/
def portsOwe (s : State) : State :=
  let t := s.setScl 0 { s.sclPort 0 with owes := !s.flag (staleF 0) }
  t.setScl 1 { t.sclPort 1 with owes := !s.flag (staleF 1) }

theorem captureOk_iff {s : State} :
    ((s.lc == 2 || s.lc == 3) && (!s.flag (staleF 0) || !s.flag (staleF 1))) = true ↔ captureOk s := by
  simp [captureOk]

theorem baseCapture_of_ok {s : State} (h : captureOk s) : baseCapture s = (portsOwe s).set F.SCL_STAT.CAPTURE_PENDING 1 := by
  unfold baseCapture
  dsimp only
  rw [captureOk_iff.mpr h]
  rfl

theorem baseCapture_of_not_ok {s : State} (h : ¬captureOk s) : baseCapture s = s.wrErr := by
  unfold baseCapture
  dsimp only
  rw [Bool.eq_false_iff.mpr (mt captureOk_iff.mp h)]
  rfl

theorem portsOwe_sclPort (s : State) (p : Port) :
    (portsOwe s).sclPort p.num = { s.sclPort p.num with owes := !s.flag (staleF p.num) } := by
  cases p
  · exact (State.sclPort_setScl_ne _ _ (by decide)).trans (State.sclPort_setScl s 0 _)
  · refine (State.sclPort_setScl _ 1 _).trans ?_
    rw [State.sclPort_setScl_ne s _ (by decide)]
    rfl

theorem State.set_with_scaler (s : State) (c : List (Nat × SclPort)) (f : Field) (v : Nat) :
    { ({ s with scaler := c } : State).set f v with scaler := s.scaler } = s.set f v := rfl

/-- What the ports owe is Scaler's alone. -/
theorem portsOwe_set (s : State) (f : Field) (v : Nat) : { (portsOwe s).set f v with scaler := s.scaler } = s.set f v :=
  s.set_with_scaler (portsOwe s).scaler f v

theorem baseCapture_gives {s : State} (hs : s.wf = true) (ha : s.answers 4) (h : captureOk s) : Gives .baseCapture s fun t =>
    Sets [(F.SCL_STAT.CAPTURE_PENDING, 1)] s { t with scaler := s.scaler }
      ∧ ∀ p : Port, t.sclPort p.num = { s.sclPort p.num with owes := !s.flag (staleF p.num) } := by
  have hget : (baseCapture s).get F.GEN_WRERR_CNT.COUNT = s.get F.GEN_WRERR_CNT.COUNT := by
    rw [baseCapture_of_ok h, State.get_set_clear _ _ (by decide)]
    rfl
  have he : exec .baseCapture s = .next ((portsOwe s).set F.SCL_STAT.CAPTURE_PENDING 1) := by
    rw [← baseCapture_of_ok h, ← countOnce_of_get_eq hget, ← actWrite_capture hs ha]
    rfl
  refine ⟨_, he, ?_, portsOwe_sclPort s⟩
  rw [portsOwe_set]
  exact (Sets.refl s).set hs (by decide) rfl

theorem baseCapture_ignored {s : State} (hs : s.wf = true) (ha : s.answers 4) (h : ¬captureOk s) :
    Gives .baseCapture s (Ignored s) := by
  have he : exec .baseCapture s = .next s.wrErr := by
    rw [← countOnce_wrErr hs, ← baseCapture_of_not_ok h, ← actWrite_capture hs ha]
    rfl
  exact ⟨_, he, ignored_wrErr hs⟩

/-! ### SCL_CTL.EN written (R86, R101) -/

/-- A flag is its bit of the register. -/
theorem State.flag_eq_bit (s : State) (a i : Nat) : s.flag ⟨a, i, i⟩ = (s.read a).getLsbD i := by
  rw [State.flag, State.get, ← BitVec.testBit_toNat, ← bit_eq_testBit, bit, bits, Nat.sub_self, Nat.zero_add, Nat.pow_one]

/-- A flag that a register holds reads what a plain write hands on (R4). -/
theorem storeReg_flag {s : State} {addr i v : Nat} {r : RegRow} (hs : s.wf = true) (hr : regRow addr = some r)
    (hi : r.rw.getLsbD i = true) (hc : r.w1c = 0) : (storeReg s addr v).flag ⟨addr, i, i⟩ = bit v i := by
  have h32 : i < 32 := BitVec.lt_of_getLsbD hi
  rw [State.flag_eq_bit, storeReg_read hs hr, hc, bit_eq_testBit]
  rw [BitVec.getLsbD_eq_getElem h32] at hi
  have hv : (BitVec.ofNat 32 v)[i] = v.testBit i := by
    rw [← BitVec.getLsbD_eq_getElem, BitVec.getLsbD_ofNat, decide_eq_true h32, Bool.true_and]
  simp [hi, h32, hv]

/-- What a write of SCL_CTL.EN hands on. -/
def enableValue (s : State) (on : Bool) : Nat :=
  putBit ((s.read R.SCL_CTL).toNat &&& rwMask R.SCL_CTL) 0 on % 2 ^ 32 &&& writableAt R.SCL_CTL

theorem bit_enableValue (s : State) (on : Bool) (i : Nat) : bit (enableValue s on) i
    = ((decide (i < 32) && if i = 0 then on else (s.read R.SCL_CTL).toNat.testBit i && (rwMask R.SCL_CTL).testBit i)
      && (writableAt R.SCL_CTL).testBit i) := by
  rw [enableValue, bit_eq_testBit, Nat.testBit_and, Nat.testBit_mod_two_pow, testBit_putBit, Nat.testBit_and]

/-- SCL_CTL with EN written. -/
def enabled (s : State) (on : Bool) : State := storeReg s R.SCL_CTL (enableValue s on)

theorem enabled_onlyRegs (s : State) (on : Bool) : OnlyRegs [R.SCL_CTL] s (enabled s on) := storeReg_onlyRegs s _ _

theorem enabled_flag {s : State} (hs : s.wf = true) (on : Bool) : (enabled s on).flag F.SCL_CTL.EN = on := by
  obtain ⟨r, hr, hrw, hc⟩ : ∃ r, regRow R.SCL_CTL = some r ∧ r.rw.getLsbD 0 = true ∧ r.w1c = 0 := ⟨_, rfl, by decide, rfl⟩
  have hbit : bit (enableValue s on) 0 = on := by
    rw [bit_enableValue, show (writableAt R.SCL_CTL).testBit 0 = true by decide]
    simp
  exact (storeReg_flag (i := 0) hs hr hrw hc).trans hbit

/-- A write that changes EN has the ports looked at again and does nothing else. -/
theorem exec_sclEnable {s : State} {on : Bool} (ha : s.answers 4) (hen : s.flag F.SCL_CTL.EN = !on) :
    exec (.sclEnable on) s = .next (staleCheck (enabled s on)) := by
  obtain ⟨r, hr⟩ := exists_openReg (show isOpenReg R.SCL_CTL = true by decide)
  have hv : writableAt R.SCL_CTL = writableMask r := by rw [writableAt, hr.row]; rfl
  have h0 : bit (enableValue s on) 0 = on := by
    rw [bit_enableValue, show (writableAt R.SCL_CTL).testBit 0 = true by decide]
    simp
  have h1 : bit (enableValue s on) 1 = false := by
    rw [bit_enableValue, show (rwMask R.SCL_CTL).testBit 1 = false by decide]
    simp
  have h2 : bit (enableValue s on) 2 = false := by
    rw [bit_enableValue, show (rwMask R.SCL_CTL).testBit 2 = false by decide]
    simp
  have hw : regWrite s R.SCL_CTL (enableValue s on) = staleCheck (enabled s on) := by
    rw [regWrite_sclCtl]
    simp [h0, h1, h2, hen, enabled]
  have hcnt : (staleCheck (enabled s on)).get F.GEN_WRERR_CNT.COUNT = s.get F.GEN_WRERR_CNT.COUNT :=
    (staleCheck_spares _ (by decide)).trans ((enabled_onlyRegs s on).get (by decide))
  have he : exec (.sclEnable on) s = .next (hostWrite s R.SCL_CTL 4 (putBit ((s.read R.SCL_CTL).toNat &&& rwMask R.SCL_CTL) 0 on)) := rfl
  rw [he, hostWrite_open hr ha, ← hv, ← enableValue, hw, countOnce_of_get_eq hcnt]

theorem enabled_down (s : State) (on : Bool) : Down true s (enabled s on) := by
  unfold enabled storeReg
  split
  · exact Down.refl true s
  · exact (Down.refl true s).write (Or.inr ⟨rfl, Or.inl rfl⟩)

theorem sclEnable_gives {s : State} {on : Bool} (hs : s.wf = true) (ha : s.answers 4) (hen : s.flag F.SCL_CTL.EN = !on) :
    Gives (.sclEnable on) s fun t => t.flag F.SCL_CTL.EN = on ∧ (on = false → ∀ p : Port, t.flag (staleF p.num) = true)
      ∧ Probes (tempStaleNow s) s t := by
  have hflag := enabled_flag hs on
  have hnow : tempStaleNow (enabled s on) = tempStaleNow s := by
    rw [tempStaleNow, tempStaleNow, flag_of_get ((enabled_onlyRegs s on).get (by decide)),
      flag_of_get ((enabled_onlyRegs s on).get (by decide))]
  refine ⟨_, exec_sclEnable ha hen, (flag_of_get (staleCheck_spares _ (by decide))).trans hflag,
    fun hoff => staleCheck_disabled (hflag.trans hoff), ?_⟩
  rw [← hnow]
  exact staleCheck_probes (storeReg_wf hs) ((Probes.refl s).down (enabled_down s on))

end Sys2Proof.Machine
end

section
/-! PROOFS. The profile of a complete set, stage by stage (O34). -/

namespace Sys2Proof.Machine

/-! ### The stages of a profile (R92 to R99) -/

/-- A set leaves a port. -/
def dropSet (s : State) (p id : Nat) : State := s.setScl p { s.sclPort p with sets := (s.sclPort p).sets.filter (·.id != id) }

/-- The set of a profile leaves its port, and port B in loop mode. -/
def profileDropped (s : State) (p id : Nat) : State :=
  let u := dropSet s p id
  if s.loopMode then dropSet u 1 id else u

/-- The set is gone, and the profile's number, count, flag and clock have gone on. -/
def profileCounted (s : State) (p id oob : Nat) : State :=
  let u := profileDropped s p id
  let u := u.setScl p { u.sclPort p with profile := (s.sclPort p).profile + 1, pubAt := u.elapsed }
  ((u.bump (F.SCL_Px_PROFILE_CNT.PROFILES p)).set (sclProfileEvt p) 1).set (F.SCL_Px_OOB.COUNT p) oob

/-- The record is kept, and a live one ends staleness. -/
def profileShown (s : State) (p : Nat) (bytes : List Byte) (late : Bool) : State :=
  let u := s.keepProfile p (if late then markStale bytes else bytes)
  let u := if late then u else u.set (staleF p) 0
  if !late && !u.flag F.PRB_STAT.SOURCE && u.flag F.PRB_STAT.B_LOCK then u.set F.PRB_STAT.TEMP_STALE 0 else u

/-- A live profile of a port that owes one gives the baseline. -/
def profileCaptured (s : State) (p : Nat) (pts : List ProfPoint) (late : Bool) : State :=
  if (s.sclPort p).owes && !late then captureBaseline s p pts else s

/-- T_PROF and ACTIVE follow, and a marker that waited is published. -/
def profileEnded (s : State) (p : Nat) : State :=
  if ((sclStat s p).sclPort p).marker then publishMarker (sclStat s p) p else sclStat s p

/-- Whether a port's profile comes too late to be live (R101). -/
def profileLate (s : State) (p : Nat) : Bool := (s.sclPort p).marker || staleCause s p

theorem publishProfile_eq (s : State) (p : Nat) (x : SclSet) : ∃ oob bytes pts,
    publishProfile s p x =
      (let u := profileCounted s p x.id oob
       let v := profileCaptured (profileShown u p bytes (profileLate u p)) p pts (profileLate u p)
       profileEnded (cruProfile (publish v 1 p bytes (s.sclPort p).profile x.tLast false) p bytes) p) := ⟨_, _, _, rfl⟩

/-! ### What each stage does -/

section Counted

variable {s : State} {p : Port} {id oob : Nat}

theorem profileDropped_sclPort (hloop : s.loopMode = true → p = .a) : (profileDropped s p.num id).sclPort p.num
    = { s.sclPort p.num with sets := (s.sclPort p.num).sets.filter (·.id != id) } := by
  have hdrop : (dropSet s p.num id).sclPort p.num
      = { s.sclPort p.num with sets := (s.sclPort p.num).sets.filter (·.id != id) } := State.sclPort_setScl s _ _
  unfold profileDropped
  dsimp only
  split
  · next hl =>
    obtain rfl := hloop hl
    exact (State.sclPort_setScl_ne _ _ (by decide)).trans hdrop
  · exact hdrop

theorem profileDropped_regs : (profileDropped s p.num id).regs = s.regs := by
  unfold profileDropped
  dsimp only
  split <;> rfl

theorem profileDropped_elapsed : (profileDropped s p.num id).elapsed = s.elapsed := by
  unfold profileDropped
  dsimp only
  split <;> rfl

theorem profileDropped_baseline : (profileDropped s p.num id).baseline = s.baseline := by
  unfold profileDropped
  dsimp only
  split <;> rfl

theorem profileDropped_read (a : Nat) : (profileDropped s p.num id).read a = s.read a := by
  rw [State.read, profileDropped_regs, State.read]

theorem profileDropped_down : Down true s (profileDropped s p.num id) := by
  have h : Down true s (dropSet s p.num id) := down_setScl rfl (Down.refl true s)
  unfold profileDropped
  dsimp only
  split
  · exact down_setScl rfl h
  · exact h

theorem profileCounted_sclPort (hloop : s.loopMode = true → p = .a) : (profileCounted s p.num id oob).sclPort p.num
    = { s.sclPort p.num with sets := (s.sclPort p.num).sets.filter (·.id != id), profile := (s.sclPort p.num).profile + 1,
                             pubAt := s.elapsed } := by
  refine (State.sclPort_setScl _ _ _).trans ?_
  rw [profileDropped_sclPort hloop, profileDropped_elapsed]

theorem profileCounted_baseline : (profileCounted s p.num id oob).baseline = s.baseline := profileDropped_baseline

theorem profileCounted_read {a : Nat} (h : a ∉ [R.SCL_Px_PROFILE_CNT p.num, R.SCL_EVT, R.SCL_Px_OOB p.num]) :
    (profileCounted s p.num id oob).read a = s.read a := by
  simp only [List.mem_cons, List.not_mem_nil, or_false, not_or] at h
  obtain ⟨hcnt, hevt, hoob⟩ := h
  have hevt' : a ≠ (sclProfileEvt p.num).addr := by cases p <;> exact hevt
  unfold profileCounted
  dsimp only
  rw [State.read_set_ne _ _ _ hoob, State.read_set_ne _ _ _ hevt', State.bump, State.count, State.read_set_ne _ _ _ hcnt]
  exact profileDropped_read a

theorem profileCounted_down : Down true s (profileCounted s p.num id oob) := by
  have hcnt : Off true (F.SCL_Px_PROFILE_CNT.PROFILES p.num).addr := Or.inr ⟨rfl, by cases p <;> decide⟩
  have hevt : Off true (sclProfileEvt p.num).addr := Or.inr ⟨rfl, by cases p <;> decide⟩
  have hoob : Off true (F.SCL_Px_OOB.COUNT p.num).addr := Or.inr ⟨rfl, by cases p <;> decide⟩
  unfold profileCounted
  dsimp only
  exact (((down_setScl rfl profileDropped_down).bump hcnt).set hevt).set hoob

theorem profileCounted_count (hs : s.wf = true) : (profileCounted s p.num id oob).get (F.SCL_Px_PROFILE_CNT.PROFILES p.num)
    = min 0xFFFFFFFF (s.get (F.SCL_Px_PROFILE_CNT.PROFILES p.num) + 1) := by
  have hget (f : Field) (q : SclPort) : ((profileDropped s p.num id).setScl p.num q).get f = s.get f :=
    congrArg (fun w : Word => bits w.toNat f.hi f.lo) (profileDropped_read f.addr)
  have hwf (q : SclPort) : ((profileDropped s p.num id).setScl p.num q).wf = true :=
    (congrArg (swf resetVal) profileDropped_regs).trans hs
  unfold profileCounted
  dsimp only
  rw [State.get_set_clear _ _ (by cases p <;> decide), State.get_set_clear _ _ (by cases p <;> decide),
    State.get_bump_same (hwf _) (by cases p <;> decide), hget]
  rfl

theorem profileCounted_flag : (profileCounted s p.num id oob).flag (sclProfileEvt p.num) = true := by
  unfold profileCounted
  dsimp only
  rw [State.flag_set_clear _ _ (by cases p <;> decide), State.flag_set_one _ (by cases p <;> decide)]

theorem profileCounted_wf (hs : s.wf = true) : (profileCounted s p.num id oob).wf = true := by
  have hwf (q : SclPort) : ((profileDropped s p.num id).setScl p.num q).wf = true :=
    (congrArg (swf resetVal) profileDropped_regs).trans hs
  exact State.wf_set (State.wf_set (State.wf_bump (hwf _) _) _ _) _ _

end Counted

/-- Whether a port is stale for a cause other than age is a matter of three registers. -/
theorem staleCause_congr {s t : State} {p : Nat} (h : ∀ a ∈ [R.PRB_STAT, R.PRB_CTL, R.SCL_CTL], t.read a = s.read a) :
    staleCause t p = staleCause s p := by
  have hflag {f : Field} (hf : f.addr ∈ [R.PRB_STAT, R.PRB_CTL, R.SCL_CTL]) : t.flag f = s.flag f :=
    flag_of_get (by rw [State.get, State.get, h _ hf])
  have hport (q : Nat) : t.portState q = s.portState q := by
    have hq : (portStateF q).addr = R.PRB_STAT := by unfold portStateF; split <;> rfl
    rw [State.portState, State.portState, State.get, State.get, h _ (by rw [hq]; decide)]
  have hloop : t.loopMode = s.loopMode := hflag (by decide)
  have hsweep : t.sweeping p = s.sweeping p := by rw [State.sweeping, State.sweeping, hloop, hport, hport, hport]
  rw [staleCause, staleCause, hloop, hsweep, hflag (by decide), hflag (by decide), hflag (by decide)]

theorem profileLate_counted {s : State} {p : Port} {id oob : Nat} (hloop : s.loopMode = true → p = .a) :
    profileLate (profileCounted s p.num id oob) p.num = profileLate s p.num := by
  have hoff : ∀ a ∈ [R.PRB_STAT, R.PRB_CTL, R.SCL_CTL], a ∉ [R.SCL_Px_PROFILE_CNT p.num, R.SCL_EVT, R.SCL_Px_OOB p.num] := by
    cases p <;> decide
  rw [profileLate, profileLate, profileCounted_sclPort hloop, staleCause_congr fun a ha => profileCounted_read (hoff a ha)]

section Shown

variable {s : State} {p : Port} {bytes : List Byte}

/-- TEMP_STALE, cleared while port B's laser gives temperatures. -/
def tempLive (s : State) : State :=
  if !s.flag F.PRB_STAT.SOURCE && s.flag F.PRB_STAT.B_LOCK then s.set F.PRB_STAT.TEMP_STALE 0 else s

theorem profileShown_live :
    profileShown s p.num bytes false = tempLive ((s.keepProfile p.num bytes).set (staleF p.num) 0) := rfl

theorem tempLive_eq (h : s.flag F.PRB_STAT.SOURCE = false ∧ s.flag F.PRB_STAT.B_LOCK = true) :
    tempLive s = s.set F.PRB_STAT.TEMP_STALE 0 := by
  rw [tempLive, h.1, h.2]
  rfl

theorem tempLive_get {f : Field} (h : f.clear F.PRB_STAT.TEMP_STALE = true) : (tempLive s).get f = s.get f := by
  unfold tempLive
  split
  · exact State.get_set_clear _ _ h
  · rfl

theorem tempLive_scaler : (tempLive s).scaler = s.scaler := by
  unfold tempLive
  split <;> rfl

theorem tempLive_baseline : (tempLive s).baseline = s.baseline := by
  unfold tempLive
  split <;> rfl

theorem profileShown_sclPort (late : Bool) (q : Nat) : (profileShown s p.num bytes late).sclPort q = s.sclPort q := by
  cases late
  · rw [profileShown_live, State.sclPort, tempLive_scaler]
    rfl
  · rfl

theorem profileShown_baseline (late : Bool) : (profileShown s p.num bytes late).baseline = s.baseline := by
  cases late
  · rw [profileShown_live, tempLive_baseline]
    rfl
  · rfl

theorem profileShown_get (late : Bool) {f : Field} (h1 : f.clear (staleF p.num) = true) (h2 : f.clear F.PRB_STAT.TEMP_STALE = true) :
    (profileShown s p.num bytes late).get f = s.get f := by
  cases late
  · rw [profileShown_live, tempLive_get h2, State.get_set_clear _ _ h1]
    rfl
  · rfl

/-- A live profile ends staleness; a late one leaves it. -/
theorem profileShown_stale (late : Bool) :
    (profileShown s p.num bytes late).flag (staleF p.num) = if late then s.flag (staleF p.num) else false := by
  cases late
  · rw [profileShown_live, flag_of_get (tempLive_get (by cases p <;> decide)), State.flag_set_zero _ (by cases p <;> decide)]
    rfl
  · rfl

end Shown

section Captured

variable {s : State} {p : Port} {pts : List ProfPoint}

/-- A capture's registers once no port owes a profile. -/
def captureOver (s : State) : State :=
  ((s.set F.SCL_STAT.CAPTURE_PENDING 0).set F.SCL_EVT.BASE_DONE 1).set F.SCL_STAT.BASE_VALID 1

/-- A capture changes the baseline and what the port owes, and then perhaps the capture's registers. -/
theorem captureBaseline_cases (s : State) (p : Nat) (pts : List ProfPoint) : ∃ b,
    let u := { s with baseline := b }.setScl p { s.sclPort p with owes := false }
    captureBaseline s p pts = u ∨ captureBaseline s p pts = captureOver u := by
  obtain ⟨b, e⟩ : ∃ b, captureBaseline s p pts =
      (let u := { s with baseline := b }.setScl p { s.sclPort p with owes := false }
       if (u.sclPort 0).owes || (u.sclPort 1).owes then u else captureOver u) := ⟨_, rfl⟩
  refine ⟨b, ?_⟩
  rw [e]
  dsimp only
  split
  · exact Or.inl rfl
  · exact Or.inr rfl

/-- The check that a capture leaves a field as it was. -/
def captureSpares (f : Field) : Bool :=
  f.clear F.SCL_STAT.CAPTURE_PENDING && f.clear F.SCL_EVT.BASE_DONE && f.clear F.SCL_STAT.BASE_VALID

theorem captureOver_get {f : Field} (h : captureSpares f = true) : (captureOver s).get f = s.get f := by
  simp only [captureSpares, Bool.and_eq_true] at h
  obtain ⟨⟨hpend, hdone⟩, hvalid⟩ := h
  rw [captureOver, State.get_set_clear _ _ hvalid, State.get_set_clear _ _ hdone, State.get_set_clear _ _ hpend]

theorem captureOver_sclPort (q : Nat) : (captureOver s).sclPort q = s.sclPort q := rfl

theorem captureBaseline_get {f : Field} (h : captureSpares f = true) : (captureBaseline s p.num pts).get f = s.get f := by
  obtain ⟨b, e | e⟩ := captureBaseline_cases s p.num pts
  · rw [e]
    rfl
  · rw [e, captureOver_get h]
    rfl

theorem captureBaseline_sclPort : (captureBaseline s p.num pts).sclPort p.num = { s.sclPort p.num with owes := false } := by
  obtain ⟨b, e | e⟩ := captureBaseline_cases s p.num pts
  · rw [e]
    exact State.sclPort_setScl _ _ _
  · rw [e, captureOver_sclPort]
    exact State.sclPort_setScl _ _ _

theorem captureOver_down {o : State} (h : Down true o s) : Down true o (captureOver s) :=
  ((h.set (Or.inr ⟨rfl, by decide⟩)).set (Or.inr ⟨rfl, by decide⟩)).set (Or.inr ⟨rfl, by decide⟩)

theorem captureBaseline_down : Down true s { captureBaseline s p.num pts with baseline := s.baseline } := by
  have hu (b : List (Nat × List Byte)) :
      Down true { s with baseline := b } ({ s with baseline := b }.setScl p.num { s.sclPort p.num with owes := false }) :=
    down_setScl rfl (Down.refl true _)
  obtain ⟨b, e | e⟩ := captureBaseline_cases s p.num pts
  · rw [e]
    exact (hu b).baseline s.baseline
  · rw [e]
    exact (captureOver_down (hu b)).baseline s.baseline

theorem profileCaptured_get (late : Bool) {f : Field} (h : captureSpares f = true) :
    (profileCaptured s p.num pts late).get f = s.get f := by
  unfold profileCaptured
  split
  · exact captureBaseline_get h
  · rfl

theorem SclPort.with_owes {r : SclPort} {b : Bool} (h : r.owes = b) : { r with owes := b } = r := by
  subst h
  rfl

theorem SclPort.with_marker {r : SclPort} {b : Bool} (h : r.marker = b) : { r with marker := b } = r := by
  subst h
  rfl

theorem profileCaptured_same {late : Bool} (h : (s.sclPort p.num).owes = false ∨ late = true) :
    profileCaptured s p.num pts late = s := by
  unfold profileCaptured
  rcases h with h | h <;> simp [h]

/-- A live profile is what the port owed; any other leaves it owing. -/
theorem profileCaptured_sclPort (late : Bool) : (profileCaptured s p.num pts late).sclPort p.num
    = { s.sclPort p.num with owes := (s.sclPort p.num).owes && late } := by
  by_cases h : (s.sclPort p.num).owes = false ∨ late = true
  · rw [profileCaptured_same h, SclPort.with_owes (by rcases h with h | h <;> simp [h])]
  · simp only [not_or, Bool.not_eq_false, Bool.not_eq_true] at h
    rw [profileCaptured, h.1, h.2]
    exact captureBaseline_sclPort

theorem profileCaptured_down (late : Bool) : Down true s { profileCaptured s p.num pts late with baseline := s.baseline } := by
  unfold profileCaptured
  split
  · exact captureBaseline_down
  · exact Down.refl true s

end Captured

section Ended

variable {s : State} {p : Port}

theorem sclStat_sclPort (q : Nat) : (sclStat s p.num).sclPort q = s.sclPort q := by
  unfold sclStat
  split <;> rfl

theorem sclStat_baseline : (sclStat s p.num).baseline = s.baseline := by
  unfold sclStat
  split <;> rfl

theorem sclStat_get {f : Field} (h1 : f.clear (sclActiveF p.num) = true) (h2 : f.clear (F.SCL_Px_PERIOD.T_PROF p.num) = true) :
    (sclStat s p.num).get f = s.get f := by
  unfold sclStat
  split <;> rw [State.get_set_clear _ _ h2, State.setFlag, State.get_set_clear _ _ h1]

theorem sclStat_down : Down true s (sclStat s p.num) := by
  unfold sclStat
  split <;> exact ((Down.refl true s).setFlag (Or.inr ⟨rfl, by cases p <;> decide⟩)).set (Or.inr ⟨rfl, by cases p <;> decide⟩)

theorem profileEnded_sclPort : (profileEnded s p.num).sclPort p.num = { s.sclPort p.num with marker := false } := by
  unfold profileEnded
  rw [sclStat_sclPort]
  cases hm : (s.sclPort p.num).marker
  · rw [if_neg (by decide), sclStat_sclPort, SclPort.with_marker hm]
  · rw [if_pos rfl, publishMarker_sclPort, sclStat_sclPort]

theorem profileEnded_baseline : (profileEnded s p.num).baseline = s.baseline := by
  unfold profileEnded
  split
  · exact (passed_publishMarker _ _).baseline.trans sclStat_baseline
  · exact sclStat_baseline

/-- The check that the end of a profile leaves a field as it was. -/
def endSpares (p : Nat) (f : Field) : Bool :=
  f.clear (sclActiveF p) && f.clear (F.SCL_Px_PERIOD.T_PROF p) && decide (f.addr < 0xD0000 ∧ f.addr / 0x10000 ≠ 6)

theorem profileEnded_get {f : Field} (h : endSpares p.num f = true) : (profileEnded s p.num).get f = s.get f := by
  simp only [endSpares, Bool.and_eq_true, decide_eq_true_eq] at h
  obtain ⟨⟨hact, hper⟩, haddr⟩ := h
  unfold profileEnded
  split
  · rw [publishMarker_get _ _ haddr, sclStat_get hact hper]
  · exact sclStat_get hact hper

theorem profileEnded_down : Down true s (profileEnded s p.num) := by
  unfold profileEnded
  split
  · exact down_publishMarker rfl sclStat_down
  · exact sclStat_down

end Ended

/-! ### Profiles -/

/-- A port whose profile of set `id` has its record: a marker that waited still waits. -/
def SclPort.published (r : SclPort) (id now : Nat) (late : Bool) : SclPort :=
  { r with sets := r.sets.filter (·.id != id), profile := r.profile + 1, pubAt := now, owes := r.owes && late }

section Publish

variable {s : State} {p : Port} {x : SclSet}

/-- The check that the stages after the count leave a field as it was. -/
def laterSpares (p : Nat) (f : Field) : Bool :=
  f.clear (staleF p) && f.clear F.PRB_STAT.TEMP_STALE && captureSpares f && endSpares p f

/-- The state before a profile's record goes on its way. -/
def profileSent (s : State) (p : Nat) (id oob : Nat) (bytes : List Byte) (pts : List ProfPoint) : State :=
  profileCaptured (profileShown (profileCounted s p id oob) p bytes (profileLate s p)) p pts (profileLate s p)

/-- A profile is the stages before its record goes on its way, what passes, and the end. -/
theorem publishProfile_stages (hloop : s.loopMode = true → p = .a) : ∃ oob bytes pts u,
    publishProfile s p.num x = profileEnded u p.num ∧ Passed (profileSent s p.num x.id oob bytes pts) u := by
  obtain ⟨oob, bytes, pts, e⟩ := publishProfile_eq s p.num x
  dsimp only at e
  rw [profileLate_counted hloop] at e
  exact ⟨oob, bytes, pts, _, e, passed_publish.trans passed_cruProfile⟩

variable {oob : Nat} {bytes : List Byte} {pts : List ProfPoint}

theorem profileSent_sclPort (hloop : s.loopMode = true → p = .a) : (profileSent s p.num x.id oob bytes pts).sclPort p.num
    = (s.sclPort p.num).published x.id s.elapsed (profileLate s p.num) := by
  rw [profileSent, profileCaptured_sclPort, profileShown_sclPort, profileCounted_sclPort hloop]
  rfl

theorem profileSent_get {f : Field} (h : laterSpares p.num f = true) :
    (profileSent s p.num x.id oob bytes pts).get f = (profileCounted s p.num x.id oob).get f := by
  simp only [laterSpares, Bool.and_eq_true] at h
  obtain ⟨⟨⟨hstale, htemp⟩, hcap⟩, -⟩ := h
  rw [profileSent, profileCaptured_get _ hcap, profileShown_get _ hstale htemp]

theorem profileSent_stale : (profileSent s p.num x.id oob bytes pts).flag (staleF p.num)
    = if profileLate s p.num then s.flag (staleF p.num) else false := by
  have hcounted : (profileCounted s p.num x.id oob).flag (staleF p.num) = s.flag (staleF p.num) :=
    flag_of_get (by rw [State.get, State.get, profileCounted_read (by cases p <;> decide)])
  rw [profileSent, flag_of_get (profileCaptured_get _ (by cases p <;> decide)), profileShown_stale, hcounted]

theorem profileSent_baseline (h : (s.sclPort p.num).owes = false ∨ profileLate s p.num = true)
    (hloop : s.loopMode = true → p = .a) : (profileSent s p.num x.id oob bytes pts).baseline = s.baseline := by
  have howes : ((profileShown (profileCounted s p.num x.id oob) p.num bytes (profileLate s p.num)).sclPort p.num).owes
      = (s.sclPort p.num).owes := by rw [profileShown_sclPort, profileCounted_sclPort hloop]
  rw [profileSent, profileCaptured_same (by rwa [howes]), profileShown_baseline, profileCounted_baseline]

/-- What a live profile says of TEMP_STALE. -/
def tempFresh (late : Bool) : List (Field × Nat) := if late then [] else [(F.PRB_STAT.TEMP_STALE, 0)]

theorem keepProfile_down {s : State} {p : Nat} {bytes : List Byte} : Down true s (s.keepProfile p bytes) :=
  down_buf rfl (Down.refl true s)

theorem keepProfile_wf {s : State} {p : Nat} {bytes : List Byte} (hs : s.wf = true) : (s.keepProfile p bytes).wf = true := hs

/-- A port that is not late has a locked laser B that is not the source. -/
theorem live_lasers (h : profileLate s p.num = false) : s.flag F.PRB_STAT.SOURCE = false ∧ s.flag F.PRB_STAT.B_LOCK = true := by
  simp only [profileLate, staleCause, Bool.or_eq_false_iff, Bool.not_eq_false'] at h
  obtain ⟨-, ⟨⟨⟨hsrc, hlock⟩, -⟩, -⟩, -⟩ := h
  exact ⟨hsrc, hlock⟩

theorem profileShown_probes (hs : s.wf = true) :
    Probes (tempFresh (profileLate s p.num)) s (profileShown (profileCounted s p.num x.id oob) p.num bytes (profileLate s p.num)) := by
  have hbefore : Probes [] s (profileCounted s p.num x.id oob) := (Probes.refl s).down profileCounted_down
  cases hl : profileLate s p.num
  · have hflag {f : Field} (h : f.addr = R.PRB_STAT) (hc : f.clear (staleF p.num) = true) (b : List Byte) :
        (((profileCounted s p.num x.id oob).keepProfile p.num b).set (staleF p.num) 0).flag f = s.flag f := by
      rw [State.flag_set_clear _ _ hc]
      exact flag_of_get (by rw [State.get, State.get, h, ← profileCounted_read (s := s) (id := x.id) (oob := oob) (p := p)
        (by cases p <;> decide)]; rfl)
    obtain ⟨hsrc, hlock⟩ := live_lasers hl
    rw [profileShown_live, tempLive_eq ⟨(hflag rfl (by cases p <;> decide) _).trans hsrc, (hflag rfl (by cases p <;> decide) _).trans hlock⟩]
    have hstale : Down true (profileCounted s p.num x.id oob)
        (((profileCounted s p.num x.id oob).keepProfile p.num bytes).set (staleF p.num) 0) :=
      keepProfile_down.set (Or.inr ⟨rfl, by cases p <;> decide⟩)
    have hwf := State.wf_set (keepProfile_wf (p := p.num) (bytes := bytes) (profileCounted_wf (p := p) (id := x.id) (oob := oob) hs))
      (staleF p.num) 0
    show Probes [(F.PRB_STAT.TEMP_STALE, 0)] s _
    exact (hbefore.down hstale).set hwf (by decide) rfl
  · exact hbefore.down keepProfile_down

theorem profileSent_probes (hs : s.wf = true) : Probes (tempFresh (profileLate s p.num)) s
    { profileSent s p.num x.id oob bytes pts with baseline := s.baseline } := by
  have hbase : (profileShown (profileCounted s p.num x.id oob) p.num bytes (profileLate s p.num)).baseline = s.baseline := by
    rw [profileShown_baseline, profileCounted_baseline]
  rw [← hbase]
  exact (profileShown_probes hs).down (profileCaptured_down _)

end Publish

theorem exec_profilePublish {s : State} {p : Port} {x : SclSet} {rest : List SclSet} (hloop : s.loopMode = true → p = .a)
    (hx : (s.sclPort p.num).sets = x :: rest) (havg : x.avg ≤ x.launched) (hrec : x.launched ≤ x.recorded) :
    exec (.profilePublish p) s = .next (publishProfile s p.num x) := by
  have hport : (s.loopMode && p.num == 1) = false := by
    cases hl : s.loopMode
    · rfl
    · rw [hloop hl]
      rfl
  have hfull : (x.open_ || decide (x.recorded < x.launched)) = false := by
    simp only [SclSet.open_, Bool.or_eq_false_iff, decide_eq_false_iff_not]
    omega
  have e : exec (.profilePublish p) s = .next (if s.loopMode && p.num == 1 then s
      else match (s.sclPort p.num).sets.head? with
        | none => s
        | some t => if t.open_ || decide (t.recorded < t.launched) then s else publishProfile s p.num t) := rfl
  rw [e, hport, hx]
  dsimp only [List.head?_cons]
  rw [hfull]
  rfl

theorem profilePublish_gives {s : State} {p : Port} {x : SclSet} {rest : List SclSet} (hs : s.wf = true)
    (hloop : s.loopMode = true → p = .a) (hx : (s.sclPort p.num).sets = x :: rest) (havg : x.avg ≤ x.launched)
    (hrec : x.launched ≤ x.recorded) : Gives (.profilePublish p) s fun t =>
      t.sclPort p.num = { (s.sclPort p.num).published x.id s.elapsed (profileLate s p.num) with marker := false }
        ∧ t.get (F.SCL_Px_PROFILE_CNT.PROFILES p.num) = min 0xFFFFFFFF (s.get (F.SCL_Px_PROFILE_CNT.PROFILES p.num) + 1)
        ∧ t.flag (sclProfileEvt p.num) = true
        ∧ t.flag (staleF p.num) = (if profileLate s p.num then s.flag (staleF p.num) else false)
        ∧ ((s.sclPort p.num).owes = false ∨ profileLate s p.num = true → t.baseline = s.baseline)
        ∧ Probes (tempFresh (profileLate s p.num)) s { t with baseline := s.baseline } := by
  obtain ⟨oob, bytes, pts, u, e, hu⟩ := publishProfile_stages (x := x) hloop
  refine ⟨_, exec_profilePublish hloop hx havg hrec, ?_⟩
  rw [e]
  refine ⟨?_, ?_, ?_, ?_, fun h => ?_, ?_⟩
  · rw [profileEnded_sclPort, hu.sclPort, profileSent_sclPort hloop]
  · rw [profileEnded_get (by cases p <;> decide), hu.get (by cases p <;> decide), profileSent_get (by cases p <;> decide),
      profileCounted_count hs]
  · rw [flag_of_get (profileEnded_get (by cases p <;> decide)), hu.flag (by cases p <;> decide),
      flag_of_get (profileSent_get (by cases p <;> decide)), profileCounted_flag]
  · rw [flag_of_get (profileEnded_get (by cases p <;> decide)), hu.flag (by cases p <;> decide), profileSent_stale]
  · rw [profileEnded_baseline, hu.baseline, profileSent_baseline h hloop]
  · exact ((profileSent_probes hs).down (hu.down.baseline s.baseline)).down (profileEnded_down.baseline s.baseline)

theorem profileLate_eq_false_iff {s : State} {p : Nat} : ((s.sclPort p).marker = false ∧ staleCause s p = false) ↔ profileLate s p = false := by
  rw [profileLate, Bool.or_eq_false_iff]

/-- Settles O34: clause 1 by the stages of a profile, the ageing, the capture and the enable each by the lemma of its command. -/
theorem profiles : Obligations.Profiles := by
  unfold Obligations.Profiles
  intro s hs
  refine ⟨fun p hloop x rest hx havg hrec => ?_, fun p h1 h2 => profileAgeTimeout_gives h1 h2,
    fun ha h => baseCapture_gives hs.wf ha h, fun ha h => baseCapture_ignored hs.wf ha h, fun ha => ⟨fun h => ?_, fun h => ?_⟩⟩
  · obtain ⟨t, ht, hport, hcnt, hevt, hstale, hbase, hprobes⟩ := profilePublish_gives hs.wf hloop hx havg hrec
    dsimp only
    simp only [profileLate_eq_false_iff, Bool.not_eq_false]
    refine ⟨t, ht, ?_⟩
    dsimp only
    rw [hport]
    refine ⟨rfl, rfl, rfl, rfl, hcnt, hevt, ?_, fun h => ⟨hbase h, ?_⟩, fun _ hlive => ?_, ?_⟩
    · rw [hstale]
      cases profileLate s p.num <;> rfl
    · rcases h with h | h <;> simp [SclPort.published, h]
    · simp [SclPort.published, hlive]
    · cases hl : profileLate s p.num <;> simpa [tempFresh, hl] using hprobes
  · obtain ⟨t, ht, hen, -, hprobes⟩ := sclEnable_gives (on := true) hs.wf ha h
    exact ⟨t, ht, hen, hprobes⟩
  · obtain ⟨t, ht, hen, hstale, hprobes⟩ := sclEnable_gives (on := false) hs.wf ha h
    exact ⟨t, ht, hen, hstale rfl, hprobes⟩

end Sys2Proof.Machine
end
